-- ==== Sys2Proof/Word.lean ====
section
/-!
DEFINITION. The words of the TQ-5120 and the index ranges of its resources.
Registers are 32 bits (R10), sample time is 64 bits in the counters (R51) and 48 bits in threads, queues and
tokens (R52).  The index types give the ranges of R37's table of global numbers.
-/
namespace Sys2Proof

abbrev Byte := BitVec 8
abbrev Word := BitVec 32
abbrev Word64 := BitVec 64
/-- A 48-bit sample time (R52). -/
abbrev T48 := BitVec 48

/-- H0 or H1 (R21). -/
abbrev Half := Fin 2
/-- HP0 to HP3. -/
abbrev Port := Fin 4
/-- T0 to T511. -/
abbrev ThrIx := Fin 512
/-- L0 to L31. -/
abbrev LaneIx := Fin 32
/-- A run number (R83). -/
abbrev RunIx := Fin 64
/-- MC0 to MC511. -/
abbrev ChIx := Fin 512
/-- F0 to F127. -/
abbrev FluxIx := Fin 128
/-- FG0 to FG15. -/
abbrev GroupIx := Fin 16
/-- WM0 to WM191. -/
abbrev MonIx := Fin 192
/-- CAP0 to CAP3. -/
abbrev CapIx := Fin 4
/-- IN0 to IN15. -/
abbrev InIx := Fin 16
/-- SB0 to SB63 (R94). -/
abbrev BarIx := Fin 64
/-- MARK0 to MARK15, and TRIG_IN0 to TRIG_IN15. -/
abbrev MarkIx := Fin 16
/-- A DAC of one half in the DRV block's numbering: 0–15 drive, 16–23 probe (R203). -/
abbrev DacIx := Fin 24
/-- A slot of one half in the DRV block's numbering: 0–255 drive slots, 256–511 probe tones. -/
abbrev SlotIx := Fin 512
/-- A ring ID (R39). -/
abbrev RingIx := Fin 1048576
/-- A command tag (R39). -/
abbrev TagIx := Fin 8192

end Sys2Proof
end

