-- ==== Sys2Proof/Syntax.lean ====
section
/-!
DEFINITION. The commands and events of the TQ-5120, one constructor of `Instr` for every row of
spec/opcode_table.json, in the table's order.  A row that the spec's text calls an instruction of a thread or of a
lane names the thread or lane that issues: the word itself is fetched from the half's memory (R118, R363), so the
operands add only what the memory's SEC-DED check reported.  A host command names its ring: its descriptor is the next of those that
the part has fetched, and what it reads of host memory comes by DMA_READ_COMPLETION.
-/
namespace Sys2Proof

/-- What the SEC-DED check of one on-die memory read reported (R40). -/
inductive Ecc where
  | ok | corrected | uncorrectable
deriving DecidableEq, Repr

/-- What the checks of a pulse's waveform reads reported (R201, R309): how many words with a single-bit error were corrected, and, where
a word had an uncorrectable error, the envelope sample of the pulse that the first such word holds. -/
structure WaveCheck where
  corrected : Nat := 0
  bad : Option Nat := none
deriving DecidableEq, Repr

/-- No error. -/
def WaveCheck.ok : WaveCheck := {}

/-- What the checks of a window's kernel reads reported (R223): how many words with a single-bit error were corrected, and the words
with an uncorrectable error by their number in the kernel memory (32 bytes each). -/
structure KernelCheck where
  corrected : Nat := 0
  bad : List Nat := []
deriving DecidableEq, Repr

/-- No error. -/
def KernelCheck.ok : KernelCheck := {}

/-- What the checks of the words that one action reads reported (R386, R445): how many had a single-bit error, which was corrected, and,
where one had an uncorrectable error, the first such (its number among them; of a READ_STATE the offset of its first byte). -/
structure Reads where
  corrected : Nat := 0
  bad : Option Nat := none
deriving DecidableEq, Repr

/-- No error. -/
def Reads.ok : Reads := {}

/-- The four kinds of timed queue (R54). -/
inductive QKind where
  | slot | tone | chan | flux
deriving DecidableEq, Repr

/-- A timed queue by its kind and global resource number (R29). -/
structure QId where
  kind : QKind
  idx : Fin 512
deriving DecidableEq, Repr

/-- A subscriber of tokens (R251): subscription `s` of a thread, input `n` of a decision table, a pattern group
(88 per half, H1's from 88). -/
inductive Subscriber where
  | thread (t : ThrIx) (s : Fin 8)
  | table (d : Fin 128) (n : Fin 8)
  | group (g : Fin 176)
deriving DecidableEq, Repr

/-- Bytes that a read of host memory returned, lowest address first. -/
abbrev HostRead := List Byte

/-- What host software sets in a port's configuration space (R426, R459, R479): max payload size 128, 256 or 512 bytes, max read request
size 128 to 4,096 bytes, MSI-X enable and function mask, D0 or D3hot, an address-association block of an IDE stream. -/
inductive PortSetting where
  | maxPayload (n : Fin 3)
  | maxRead (n : Fin 6)
  | msixEnable (on : Bool)
  | msixMask (on : Bool)
  | power (d3hot : Bool)
  | association (stream block : Fin 2) (valid : Bool) (base limit : BitVec 64)
deriving DecidableEq, Repr

/-- What a host write addresses (R41, R426): BAR0 with a size in bytes, an aligned word of BAR2, a setting of the configuration space. -/
inductive Target where
  | bar0 (addr : BitVec 24) (size : Nat)
  | bar2 (addr : BitVec 16)
  | config (x : PortSetting)
deriving DecidableEq, Repr

/-- The IDE stream that a host request arrives in, if any (R479, R480). -/
abbrev Via := Option (Fin 2)

/-- The outcome of SELFTEST (R487): all its parts passed, or the first cause of FAILED (R499). -/
inductive SelfTest where
  | passed | pllFailed | memoryFailed | dieLinkFailed | fuseFailed
deriving DecidableEq, Repr

/-- What the check of a staged image and of the fuses finds beside its bytes (R498): an uncorrectable error in the staged copy, a
fuse read-back that differs. -/
structure VerifyReport where
  stagedEcc : Bool := false
  fuseDiffers : Bool := false
deriving DecidableEq, Repr

/-- What a calibration routine finds before it measures: the input's power in dBFS (R396), or an open load (R397). -/
structure CalObservation where
  power : Int := -100
  loadOpen : Bool := false
deriving DecidableEq, Repr

/-- What a calibration routine finds (R396, R399): the input's power at its end in dBFS; the elements selected (`cells2`: the
odd core's comparators); the cells outside nominal and the worst error of a selected one in 0.01 %; the worst comparator
offset in µV; gain and offset trims (`gain2`, `ofs2`: the odd core's); the tap; the residual skew in fs and the gain mismatch
in units of 0.001 %. -/
structure CalResult where
  power : Int := -100
  cells : BitVec 67 := 0x7FFFFFFFFFFFFFFF
  cells2 : BitVec 67 := 0
  outside : Nat := 0
  cellErr : Nat := 0
  compOfs : Nat := 0
  gain : BitVec 16 := 16384
  ofs : BitVec 16 := 0
  gain2 : BitVec 16 := 16384
  ofs2 : BitVec 16 := 0
  tap : Nat := 64
  skew : Nat := 0
  mismatch : Nat := 0
deriving DecidableEq, Repr

/-- An estimate of background tracking (R404): new targets for the tap and the four trims, and the residual skew in fs and the
gain mismatch in units of 0.001 % that it leaves. -/
structure BgEstimate where
  tap : Nat
  gain : BitVec 16
  ofs : BitVec 16
  gain2 : BitVec 16
  ofs2 : BitVec 16
  skew : Nat := 0
  mismatch : Nat := 0
deriving DecidableEq, Repr

/-- A die-link training attempt (R554): whether every step succeeded, and of each of the 8 receive lanes the eye margins of presets 0 to 15 in units of 2 mV and its skew in UI. -/
structure TrainingResult where
  ok : Bool
  eyes : List (List (BitVec 8)) := []
  skews : List (BitVec 6) := []
deriving DecidableEq, Repr

/-- A reading of a half's 16 droop sensors in mV (R607): their mean over the preceding 1.024 ms and the lowest. -/
structure GovReading where
  mean : BitVec 16
  low : BitVec 16
deriving DecidableEq, Repr

/-- What a row boundary brings to the model from outside: which half's boundary it is (none: both halves', which
coincide while the counters are aligned), and the 32 codes of every input that is powered, for the row that ends. -/
structure RowInput where
  only : Option Half := none
  adc : List (InIx × List (BitVec 12)) := []
deriving DecidableEq, Repr

/-- A command or event: one constructor per row of the opcode table, with the rule its row cites. -/
inductive Instr where
  /-- R10: A host write to a register that has no row of its own sets its value as the access code allows, or is
  ignored and counted (reserved, foreign, refused). -/
  | registerWrite (p : Port) (target : Target) (via : Via) (v : Word)
  /-- R73: A read of an RS *_LO register captures the whole 64-bit value, returns the low word and stores the high
  word in the port's shadow. -/
  | snapshotRead (p : Port) (bar2 : Bool) (addr : BitVec 24) (size : Nat) (via : Via)
  /-- R75: A write to the high register of a writable pair commits it together with that port's staged low value as
  one 64-bit write. -/
  | pairCommitWrite (p : Port) (addr : BitVec 24) (v : Word)
  /-- R238: A read of LAST_XI captures X_I, X_Q and the token of the last window, returning X_I and shadowing the
  rest per port. -/
  | lastXiRead (p : Port) (c : ChIx)
  /-- R605: A rail rises above its rising threshold and becomes valid; pins of that rail leave their unpowered
  states. -/
  | railValid (h : Half) (rail : Fin 9)
  /-- R606: A rail stays below its falling threshold for 1 µs; a non-flux rail sends the part to COLD, a flux rail
  causes FLUX_RAIL_LOSS. -/
  | railInvalid (h : Half) (rail : Fin 9)
  /-- R52: RESET_N held low for 1 µs resets everything but rail state, mutes RF outputs, steps flux outputs to zero
  and restarts the counter. -/
  | pinReset
  /-- R488: SELFTEST begins at the latest of all rails valid, RESET_N high and REFCLK present. -/
  | selftestStart
  /-- R487: SELFTEST completes fuse sense, PLL lock, memory repair, die-link training and counter alignment, and
  the part enters AWAIT_IMAGE. -/
  | selftestEnd (res : SelfTest)
  /-- R491: A write of 1 to BOOT_CTL.GO checks the boot ring and length and queues the port's image at the arbiter,
  or refuses it. -/
  | go (p : Port) (ring : List Byte)
  /-- R494: A write of 1 to BOOT_CTL.ABORT refuses a QUEUED or LOADING image with code 0x16 and removes it from the
  queue. -/
  | bootAbort (p : Port)
  /-- R492: The GO at the head of the arbiter's queue moves to LOADING and the part enters VERIFY to read the
  image. -/
  | verifyStart
  /-- R498: The image has been read and checked; it is refused with a code, or it passes and the part enters START.
  -/
  | verifyEnd (res : VerifyReport)
  /-- R487: Management firmware reports started and the part enters READY, notifying on MSI-X vector 0. -/
  | fwStarted
  /-- R498: Management firmware did not report started within 10 ms and the image is refused with 0x18 after re-
  zeroisation. -/
  | fwStartTimeout
  /-- R444: Management firmware starts the next image section and sets its bit in BOOT_STATE.SECT. -/
  | sectionStart
  /-- R501: A write of 1 to BOOT_RECAST through PD in quiet mode with all flux disabled sends the part to COLD
  keeping PLLs and counter. -/
  | recast (p : Port)
  /-- R66: A write of 1 to SYNC_CTL.ARM arms both halves for the next SYNC_IN edge if the part is idle, else sets
  REFUSED. -/
  | syncArm (p : Port) (h : Half)
  /-- R67: A write of 0 to SYNC_CTL.ARM disarms the part at once. -/
  | syncDisarm (p : Port) (h : Half)
  /-- R64: While armed, SYNC_IN sampled high after low at a REFCLK edge marks the sync edge. -/
  | syncEdge (off : Fin 4)
  /-- R65: 1,600 samples after the sync edge both halves place a row boundary, load SYNC_LOAD, clear ARM, set DONE
  and store SYNC_PREV. -/
  | syncInstant
  /-- R70: No REFCLK edge for 100 ns raises REF_LOSS and clears the clock status bits; the counter free-runs. -/
  | refLoss
  /-- R70: A half's PLL loses lock with REFCLK present and PLL_UNLOCK is raised. -/
  | pllUnlock (h : Half)
  /-- R71: The reference returns and the PLL relocks; H1's counter is reloaded from H0's and ALIGNED returns to 1.  Where `locked` is
  false, REFCLK edges have returned and the half's PLL has not locked yet. -/
  | pllRelock (h : Half) (locked : Bool)
  /-- R77: A write of 1 to CLK_STATUS.TIME_VALID through PD sets TIME_VALID. -/
  | timeValidSet (p : Port) (h : Half)
  /-- R53: At every sample time that is a multiple of 2^20, H0 sends its counter value in a PERIODIC time-align
  flit. -/
  | halfAlignSend
  /-- R62: At a command's arrival boundary the sample domain takes it from its timed queue. -/
  | queueRelease (q : QId)
  /-- R29: A released command acts at its stamped sample at the ball: pulse, window, oscillator change, flux level
  or strobe, carried SIGNAL or MARK. -/
  | timedCommandApply (q : QId) (w : WaveCheck)
  /-- R153: PW rows after a pulse change, the marker returns low unless a later change cancelled it. -/
  | markerPulseEnd (m : MarkIx)
  /-- R119: Thread instruction that does nothing. -/
  | tNop (t : ThrIx) (e : Ecc)
  /-- R88: Thread instruction ending the thread's shot. -/
  | tEnd (t : ThrIx) (e : Ecc)
  /-- R91: Thread instruction ending the shot and making it the run's final shot. -/
  | tHalt (t : ThrIx) (e : Ecc)
  /-- R139: Thread instruction adding a duration to now. -/
  | tWait (t : ThrIx) (e : Ecc)
  /-- R140: Thread instruction setting now from a selected base plus an immediate. -/
  | tWaituntil (t : ThrIx) (e : Ecc)
  /-- R141: Thread instruction arriving at a barrier and stalling until all participants arrive. -/
  | tSync (t : ThrIx) (e : Ecc)
  /-- R129: Thread instruction playing a segment-table entry once on a slot or tone, or starting pattern play. -/
  | tPlay (t : ThrIx) (e : Ecc) (se : Ecc)
  /-- R131: Thread instruction playing the next samples of the attached stream. -/
  | tPlays (t : ThrIx) (e : Ecc)
  /-- R132: Thread instruction pushing a probe and an integration window on a channel. -/
  | tMeas (t : ThrIx) (e : Ecc) (se : Ecc)
  /-- R133: Thread instruction pushing a flux pulse, level, strobe or level-and-strobe command. -/
  | tFlux (t : ThrIx) (e : Ecc) (se : Ecc)
  /-- R137: Thread instruction loading a 48-bit frequency word at a stamp. -/
  | tSetf (t : ThrIx) (e : Ecc)
  /-- R137: Thread instruction adding a phase to the phase offset at a stamp. -/
  | tAddph (t : ThrIx) (e : Ecc)
  /-- R137: Thread instruction replacing the phase offset at a stamp. -/
  | tSetph (t : ThrIx) (e : Ecc)
  /-- R137: Thread instruction resetting phase reference and offset at a stamp. -/
  | tRstph (t : ThrIx) (e : Ecc)
  /-- R142: Thread instruction waiting for a decision token, or taking its default at once if past its default row.
  -/
  | tWaittk (t : ThrIx) (e : Ecc)
  /-- R147: Thread instruction branching on masked token bits. -/
  | tBtk (t : ThrIx) (e : Ecc)
  /-- R149: Thread instruction waiting for an event-channel firing with lead and timeout. -/
  | tWaitev (t : ThrIx) (e : Ecc)
  /-- R151: Thread instruction branching on whether a channel fired within a window of rows. -/
  | tBev (t : ThrIx) (e : Ecc)
  /-- R152: Thread instruction firing an event channel at once or as a timed command in a carrier queue. -/
  | tSignal (t : ThrIx) (e : Ecc)
  /-- R153: Thread instruction pushing a marker change carried in a carrier queue. -/
  | tMark (t : ThrIx) (e : Ecc)
  /-- R157: Thread instruction opening a hardware loop level or skipping to EXIT on count 0. -/
  | tLoop (t : ThrIx) (e : Ecc)
  /-- R158: Thread instruction decrementing the loop counter and repeating or leaving the level. -/
  | tEndl (t : ThrIx) (e : Ecc)
  /-- R160: Thread instruction branching unconditionally. -/
  | tBr (t : ThrIx) (e : Ecc)
  /-- R162: Thread instruction branching on a flag condition. -/
  | tBcc (t : ThrIx) (e : Ecc)
  /-- R160: Thread instruction branching and saving the return address. -/
  | tCall (t : ThrIx) (e : Ecc)
  /-- R160: Thread instruction returning to the link address. -/
  | tRet (t : ThrIx) (e : Ecc)
  /-- R163: Thread instruction loading an immediate into a register. -/
  | tLdi (t : ThrIx) (e : Ecc)
  /-- R166: Thread instruction copying a selected source to a selected destination. -/
  | tMov (t : ThrIx) (e : Ecc)
  /-- R163: Thread instruction adding and setting flags. -/
  | tAdd (t : ThrIx) (e : Ecc)
  /-- R163: Thread instruction subtracting and setting flags. -/
  | tSub (t : ThrIx) (e : Ecc)
  /-- R163: Thread instruction bitwise AND. -/
  | tAnd (t : ThrIx) (e : Ecc)
  /-- R163: Thread instruction bitwise OR. -/
  | tOr (t : ThrIx) (e : Ecc)
  /-- R163: Thread instruction bitwise XOR. -/
  | tXor (t : ThrIx) (e : Ecc)
  /-- R164: Thread instruction shifting left. -/
  | tShl (t : ThrIx) (e : Ecc)
  /-- R164: Thread instruction shifting right, logical or arithmetic. -/
  | tShr (t : ThrIx) (e : Ecc)
  /-- R163: Thread instruction setting flags from a subtraction. -/
  | tCmp (t : ThrIx) (e : Ecc)
  /-- R167: Thread instruction appending a thread record to the run's record ring. -/
  | tRec (t : ThrIx) (e : Ecc)
  /-- R168: Thread instruction attaching or detaching a stream ring to a resource. -/
  | tStrm (t : ThrIx) (e : Ecc)
  /-- R61: A thread stalled on a full queue resumes its push when the queue gains room. -/
  | queueRoomResume (t : ThrIx)
  /-- R93: A thread stalled at the run-ahead limit resumes when the counter has advanced far enough. -/
  | runAheadResume (t : ThrIx)
  /-- R268: The counter enters a wait's default row with no satisfying token; the thread takes the default token
  and DTGT. -/
  | waittkDefault (t : ThrIx)
  /-- R149: A firing of the awaited channel registers at a waiting thread, which sets Z = 0 and now with LEAD. -/
  | waitevFiring (t : ThrIx)
  /-- R150: The WAITEV timeout row arrives with no firing; the thread sets Z = 1 and continues. -/
  | waitevTimeout (t : ThrIx)
  /-- R95: Every participant has arrived at a barrier and all resume with the largest now. -/
  | barrierComplete (b : BarIx)
  /-- R89: Every thread has ended the shot and the next shot starts at S with all threads' now set. -/
  | shotStart (r : RunIx)
  /-- R168: The stream ring context is resident and its first fetch issued; the STRM-stalled thread resumes. -/
  | strmReady (t : ThrIx)
  /-- R629: The counter reaches T0 and the run passes from ARMED to RUNNING, recording network time at T0. -/
  | runT0 (r : RunIx)
  /-- R112: The final shot has ended and the last command is taken from its queue; pattern play ends and the run is
  COMMITTED. -/
  | runCommit (r : RunIx)
  /-- R115: All records are written and the run's completion is posted with its highest-priority status; the run is
  FREE. -/
  | runComplete (r : RunIx)
  /-- R457: Once every effect of a shot has passed the ball, the shot record is written with its flags. -/
  | shotRecordWrite (r : RunIx)
  /-- R102: A pattern segment ends; the player continues with the next play, a jump target, or ends pattern play.
  -/
  | patternSegmentEnd (q : QId) (e : Ecc) (w : WaveCheck)
  /-- R104: An event or compare jump request registers in the sample domain and is accepted, deferred or dropped.
  -/
  | patternJumpRequest (q : QId) (compare : Bool)
  /-- R108: A streamed envelope sample's arrival boundary is reached and it is taken from staging or found missing.
  -/
  | streamDeadline (q : QId)
  /-- R227: A window's result is discriminated and the token presented 31 rows after window end, with record,
  average and DSP delivery. -/
  | windowComplete (c : ChIx) (k : KernelCheck)
  /-- R232: An input row with an over-range sample sets OVR, counts OVR_ROWS and raises IN_OVR. -/
  | overRangeRow (i : InIx)
  /-- R251: A token reaches a subscriber: a thread inbox or wait, a decision-table input, or a pattern group. -/
  | tokenDelivery (sub : Subscriber) (e : Ecc)
  /-- R197: Setting DAC_CTL.EN powers the converter. -/
  | dacEnable (p : Port) (h : Half) (k : DacIx) (v : Word)
  /-- R197: The converter reports READY and the mute switch may open. -/
  | dacReady (h : Half) (k : DacIx)
  /-- R197: READY still 0 50 µs after EN raises DAC_NOT_READY. -/
  | dacNotReady (h : Half) (k : DacIx)
  /-- R198: Clearing DAC_CTL.EN disables the DAC and slots, closes the switch and powers down. -/
  | dacDisable (p : Port) (h : Half) (k : DacIx) (v : Word)
  /-- R189: A write changing DAC_CTL.MODE takes effect only while EN is 0. -/
  | dacModeWrite (p : Port) (h : Half) (k : DacIx) (v : Word)
  /-- R192: A write of DAC_CTL.MUTE sets or clears the HOST mute cause. -/
  | hostMute (p : Port) (h : Half) (k : DacIx) (v : Word)
  /-- R193: A write of 1 to DAC_STATUS.EV_MUTE clears the EVENT mute cause. -/
  | evMuteClear (p : Port) (h : Half) (k : DacIx) (v : Word)
  /-- R207: The switch sense does not report closed within 4 rows of a closing cause. -/
  | muteStuck (h : Half) (k : DacIx)
  /-- R200: A write of SLOT_CTL.MUTE mutes or unmutes a slot from the next row boundary. -/
  | slotMute (p : Port) (h : Half) (i : SlotIx) (v : Word)
  /-- R206: A write of 1 to SLOT_CTL.RSTPH resets the slot's phase at the next row boundary unless the slot is in a
  run. -/
  | slotRstph (p : Port) (h : Half) (i : SlotIx) (v : Word)
  /-- R185: A write to DAC_SCALE registers at a row boundary and applies 28 rows later. -/
  | dacScaleWrite (p : Port) (h : Half) (k : DacIx) (v : Word)
  /-- R240: Setting IN_CTL.EN powers the input's core pair. -/
  | inEnable (p : Port) (i : InIx) (v : Word)
  /-- R240: The core pair reports READY. -/
  | adcReady (i : InIx)
  /-- R240: READY still 0 50 µs after EN raises ADC_NOT_READY. -/
  | adcNotReady (i : InIx)
  /-- R241: Clearing IN_CTL.EN disables the input's channels, closes windows and swatches, and powers the cores
  down. -/
  | inDisable (p : Port) (i : InIx) (v : Word)
  /-- R235: A write of 1 to CH_CTL.AVG_CLR clears the averaging accumulators of an unassigned channel. -/
  | avgClr (p : Port) (c : ChIx) (v : Word)
  /-- R245: A write of 1 to CH_CTL.RSTPH resets the channel oscillator's phase at the next row boundary. -/
  | chRstph (p : Port) (c : ChIx) (v : Word)
  /-- R305: Setting FLX_CTL.EN powers the flux datapath. -/
  | fluxEnable (p : Port) (f : FluxIx) (v : Word)
  /-- R305: The flux datapath reports READY. -/
  | fluxReady (f : FluxIx)
  /-- R305: READY still 0 50 µs after EN raises FLUX_NOT_READY. -/
  | fluxNotReady (f : FluxIx)
  /-- R306: Clearing FLX_CTL.EN discards commands, steps the output to zero and powers down. -/
  | fluxDisable (p : Port) (f : FluxIx) (v : Word)
  /-- R293: A write changing FLX_CTL.RANGE with EN held at 1 starts a range change with RAMP_DOWN. -/
  | rangeChangeStart (p : Port) (f : FluxIx) (v : Word)
  /-- R291: A ramp of the part reaches its target code, ending RAMP_DOWN, RAMP_UP or the park ramp. -/
  | fluxRampEnd (f : FluxIx)
  /-- R294: The 1,250-row WAIT of a range change expires and RAMP_UP starts. -/
  | rangeWaitEnd (f : FluxIx)
  /-- R307: An accepted write to FLX_LEVEL acts as a MODE 1 command 20 rows after it registers. -/
  | flxLevelWrite (p : Port) (f : FluxIx) (v : Word)
  /-- R308: A write changing FLX_CTL.MODE switches between pulse and bias mode when accepted. -/
  | fluxModeWrite (p : Port) (f : FluxIx) (v : Word)
  /-- R286: A write of 1 to FG_STROBE.STROBE strobes the group 20 rows after it registers. -/
  | fgStrobe (p : Port) (g : GroupIx) (v : Word)
  /-- R302: A flux compliance detector asserts, setting COMPLY and raising FLUX_COMPLY; `openLoad`: because the load is open, not
  because its resistance is too high (R301, R303). -/
  | complyAssert (f : FluxIx) (openLoad : Bool)
  /-- R301: A flux compliance detector deasserts. -/
  | complyDeassert (f : FluxIx)
  /-- R317: A monitor's comparator burst ends and its state moves by outside or inside tick, possibly tripping. -/
  | monTick (m : MonIx) (v : BitVec 16)
  /-- R317: A write of 1 to MON_STATUS.CLR returns a monitor to INSIDE. -/
  | monClr (p : Port) (m : MonIx) (v : Word)
  /-- R336: A write of 1 to MON_CFG.LOCK freezes the monitor's settings until cast-on. -/
  | monLock (p : Port) (m : MonIx) (v : Word)
  /-- R323: Clearing MON_CFG.EN returns the monitor to INSIDE and ends blanking. -/
  | monDisable (p : Port) (m : MonIx) (v : Word)
  /-- R326: A write of MON_CFG.TEST selects a self-test connection, accepted only while the watched resource is
  disabled. -/
  | monTestWrite (p : Port) (m : MonIx) (v : Word)
  /-- R324: A BLANK firing or marker edge registers at the monitor and starts or restarts its blanking timer. -/
  | blankStart (m : MonIx)
  /-- R324: A monitor's blanking timer expires. -/
  | blankEnd (m : MonIx)
  /-- R329: A write of 1 to AUX_START.START begins an auxiliary scan, or is ignored while one runs. -/
  | auxStart (p : Port) (h : Half) (v : Word)
  /-- R329: The 1,250-row power-up wait of a scan ends and conversions begin. -/
  | auxPowerupEnd (h : Half)
  /-- R329: A conversion of one masked input ends and its result is written; after the last the scan ends. -/
  | auxConversion (h : Half) (microvolt : Int)
  /-- R331: The periodic timer of AUX_PERIOD starts a scan or counts a skip. -/
  | auxPeriodicStart (h : Half)
  /-- R340: Command opening a swatch on a capture engine. -/
  | swatchStart (r : RingIx)
  /-- R341: Row k_s is reached; the engine writes its START mark and begins streaming. -/
  | swatchStreamStart (e : CapIx)
  /-- R349: A stream sample with triggers not suppressed closes a record with a trigger mark and starts hold-off.
  -/
  | triggerMark (e : CapIx)
  /-- R355: A swatch data entry is written when full or 1 µs after its first item. -/
  | dataEntryWrite (e : CapIx)
  /-- R357: With 1 KiB free again after a full buffer, the engine writes a GAP mark and resumes delivery. -/
  | gapMark (e : CapIx)
  /-- R358: Command closing a swatch with an END mark. -/
  | swatchStop (r : RingIx)
  /-- R366: A write of 1 to LANE_CTL.START starts a DSP job at LANE_ENTRY if the lane is IDLE and enabled. -/
  | laneStart (p : Port) (l : LaneIx) (v : Word)
  /-- R370: A write of 1 to LANE_CTL.ABORT ends the running job without DSP_DONE. -/
  | laneAbort (p : Port) (l : LaneIx) (v : Word)
  /-- R371: Clearing LANE_CTL.EN refuses new starts and discards the result queue. -/
  | laneDisable (p : Port) (l : LaneIx) (v : Word)
  /-- R385: A write of 1 to LANE_STATUS.FAULT returns a faulted lane to IDLE. -/
  | laneFaultClear (p : Port) (l : LaneIx) (v : Word)
  /-- R373: A result arrives at a lane stalled on a blocking POP, which takes it. -/
  | lanePopResume (l : LaneIx)
  /-- R377: Lane instruction that does nothing. -/
  | lNop (l : LaneIx) (e : Ecc)
  /-- R368: Lane instruction ending the job and firing DSP_DONE. -/
  | lHalt (l : LaneIx) (e : Ecc)
  /-- R377: Lane instruction loading a sign-extended immediate. -/
  | lLdi (l : LaneIx) (e : Ecc)
  /-- R377: Lane instruction loading the upper half of a register. -/
  | lLdih (l : LaneIx) (e : Ecc)
  /-- R378: Lane instruction loading a word through a pointer with optional post-modify. -/
  | lLd (l : LaneIx) (e : Ecc) (de : Reads)
  /-- R378: Lane instruction storing a word through a pointer with optional post-modify. -/
  | lSt (l : LaneIx) (e : Ecc)
  /-- R378: Lane instruction setting a pointer or offset register. -/
  | lSetp (l : LaneIx) (e : Ecc)
  /-- R377: Lane instruction adding registers. -/
  | lAdd (l : LaneIx) (e : Ecc)
  /-- R377: Lane instruction subtracting registers. -/
  | lSub (l : LaneIx) (e : Ecc)
  /-- R377: Lane instruction bitwise AND. -/
  | lAnd (l : LaneIx) (e : Ecc)
  /-- R377: Lane instruction bitwise OR. -/
  | lOr (l : LaneIx) (e : Ecc)
  /-- R377: Lane instruction bitwise XOR. -/
  | lXor (l : LaneIx) (e : Ecc)
  /-- R377: Lane instruction adding a sign-extended immediate. -/
  | lAddi (l : LaneIx) (e : Ecc)
  /-- R377: Lane instruction shifting left by an immediate. -/
  | lShli (l : LaneIx) (e : Ecc)
  /-- R379: Lane instruction shifting right logically by an immediate. -/
  | lShri (l : LaneIx) (e : Ecc)
  /-- R379: Lane instruction shifting right arithmetically with rounding. -/
  | lShra (l : LaneIx) (e : Ecc)
  /-- R377: Lane instruction setting flags from register subtraction. -/
  | lCmp (l : LaneIx) (e : Ecc)
  /-- R377: Lane instruction setting flags from subtraction of an immediate. -/
  | lCmpi (l : LaneIx) (e : Ecc)
  /-- R377: Lane instruction multiplying two 16-bit values. -/
  | lMul (l : LaneIx) (e : Ecc)
  /-- R380: Lane instruction multiply-accumulating registers into an accumulator. -/
  | lMacr (l : LaneIx) (e : Ecc)
  /-- R380: Lane instruction complex multiply-accumulating from memory. -/
  | lCmac (l : LaneIx) (e : Ecc) (de : Reads)
  /-- R379: Lane instruction narrowing an accumulator with rounding and saturation. -/
  | lRnd (l : LaneIx) (e : Ecc)
  /-- R377: Lane instruction clearing selected accumulators. -/
  | lClra (l : LaneIx) (e : Ecc)
  /-- R383: Lane instruction searching memory for the largest value. -/
  | lMaxs (l : LaneIx) (e : Ecc) (de : Reads)
  /-- R383: Lane instruction searching memory for the smallest value. -/
  | lMins (l : LaneIx) (e : Ecc) (de : Reads)
  /-- R381: Lane instruction opening a zero-overhead block repeat. -/
  | lRep (l : LaneIx) (e : Ecc)
  /-- R377: Lane instruction branching unconditionally. -/
  | lBr (l : LaneIx) (e : Ecc)
  /-- R377: Lane instruction branching on a condition. -/
  | lBcc (l : LaneIx) (e : Ecc)
  /-- R384: Lane instruction calling a subroutine. -/
  | lCall (l : LaneIx) (e : Ecc)
  /-- R384: Lane instruction returning from a subroutine. -/
  | lRet (l : LaneIx) (e : Ecc)
  /-- R373: Lane instruction taking the oldest result from the result queue, stalling or not. -/
  | lPop (l : LaneIx) (e : Ecc)
  /-- R374: Lane instruction sending a token through a DSP-mode decision table. -/
  | lTok (l : LaneIx) (e : Ecc)
  /-- R375: Lane instruction appending a DSP record to a run's record ring. -/
  | lRec (l : LaneIx) (e : Ecc)
  /-- R376: Lane instruction firing an event channel. -/
  | lSig (l : LaneIx) (e : Ecc)
  /-- R394: A CAL_RUN reaches the head of its half's sequencer, is checked again and its routine starts. -/
  | calRoutineStart (h : Half) (obs : CalObservation)
  /-- R400: A routine ends; its result is gated, applied or discarded, the CAL_RUN completes and CAL_DONE fires. -/
  | calRoutineEnd (h : Half) (res : CalResult)
  /-- R401: At a 1,024-row interval boundary one calibration step moves a field toward its target. -/
  | calStep (h : Half)
  /-- R404: Background tracking has gathered 2^24 usable samples and sets new targets or rejects the estimate. -/
  | bgEstimate (i : InIx) (est : BgEstimate)
  /-- R347: An edge at a TRIG_IN ball is time-stamped and fires its producer and capture PIN trigger. -/
  | trigInEdge (i : MarkIx) (rising : Bool) (off : Fin 512)
  /-- R412: A write to EC_FIRE fires an owned USER channel. -/
  | ecFire (p : Port) (h : Half) (v : Word)
  /-- R416: A firing registers at a task input, which acts or, if busy, counts a dropped stitch. -/
  | taskInputRegistration (h : Half) (u : Fin 448)
  /-- R421: A write of 1 to TASK_SEL.CLR releases a latched TRIP input. -/
  | taskSelClr (p : Port) (h : Half) (u : Fin 448) (v : Word)
  /-- R427: A PCIe FLR disables the port's rings without draining and resets its registers. -/
  | functionLevelReset (p : Port)
  /-- R428: A host port's link goes down; its rings keep state and traffic waits. -/
  | portLink (p : Port)
  /-- R623: PERSTp_N low holds the port's link down and resets its configuration space. -/
  | perst (p : Port) (low : Bool)
  /-- R431: A RING_OP ENABLE fetches and checks a ring context and enables the ring or puts it in ERROR. -/
  | ringEnable (p : Port) (h : Half) (r : RingIx)
  /-- R433: A RING_OP DISABLE stops or drains a ring by its kind. -/
  | ringDisable (p : Port) (h : Half) (r : RingIx)
  /-- R433: A DRAINING command ring's last accepted command completes and the ring is DISABLED. -/
  | ringDrainEnd (r : RingIx)
  /-- R436: At its poll interval a port reads the summary line, clears flags and reads changed doorbells. -/
  | doorbellPoll (p : Port)
  /-- R437: A write to KICK makes the port poll within 1 µs and resets its interval. -/
  | kick (p : Port) (h : Half) (i : Fin 2)
  /-- R443: Command that does nothing. -/
  | cmdNop (r : RingIx)
  /-- R440: Command holding its ring until every earlier command completes. -/
  | fence (r : RingIx)
  /-- R440: Every earlier command of the ring has completed and the FENCE completes. -/
  | fenceComplete (r : RingIx)
  /-- R445: Command loading waveform memory from host memory. -/
  | loadWave (r : RingIx)
  /-- R445: Command loading thread program or DSP lane memory. -/
  | loadProg (r : RingIx)
  /-- R445: Command loading integration-kernel memory. -/
  | loadKernel (r : RingIx)
  /-- R630: Command loading a decision table image whole. -/
  | loadTable (r : RingIx)
  /-- R101: Command loading segment-table entries of a group. -/
  | loadSegtab (r : RingIx)
  /-- R448: Command starting a run immediately, at a network time or on an event. -/
  | startRun (r : RingIx)
  /-- R113: Command stopping an active run, discarding its queued work. -/
  | stopRun (r : RingIx)
  /-- R447: Command attaching a stream ring to a resource, optionally prefilling. -/
  | strmAttach (r : RingIx)
  /-- R394: Command queuing a calibration routine on a target. -/
  | calRun (r : RingIx)
  /-- R406: Command writing a half's calibration blob to host memory. -/
  | calRead (r : RingIx)
  /-- R407: Command restoring a calibration blob after checks. -/
  | calWrite (r : RingIx)
  /-- R510: Command compressing host data into skeins. -/
  | compress (r : RingIx)
  /-- R515: Command decoding a skein stream into host memory. -/
  | decompress (r : RingIx)
  /-- R446: Command applying a list of register writes in order. -/
  | cfgBatch (r : RingIx)
  /-- R445: Command copying on-die memory or a BAR0 range to host memory. -/
  | readState (r : RingIx) (de : Reads)
  /-- R544: Command arming an NT_TRIG or an auxiliary scan at a network time. -/
  | timeArm (r : RingIx)
  /-- R541: Command stepping the network-time counter by an offset. -/
  | timeStep (r : RingIx)
  /-- R450: A command's work ends and its completion entry is written with phase, or waits for ring room. -/
  | commandCompletion (tag : TagIx)
  /-- R452: MOD_TIME µs after the first unit since the last message, an MSI-X message is sent. -/
  | irqModerationTimeout (r : RingIx)
  /-- R454: A buffered record is written to its record ring, padded or preceded by a LOSS record as needed. -/
  | recordWrite (r : RingIx)
  /-- R460: A port grants a DMA request by class priority and age after its region check. -/
  | dmaGrant (p : Port) (cls : Fin 4)
  /-- R469: DOE Discovery data object answered by the mailbox. -/
  | doeDiscovery (p : Port) (msg : List Byte)
  /-- R469: SPDM request for supported versions. -/
  | getVersion (p : Port) (msg : List Byte)
  /-- R469: SPDM request for capabilities. -/
  | getCapabilities (p : Port) (msg : List Byte)
  /-- R469: SPDM request negotiating algorithms. -/
  | negotiateAlgorithms (p : Port) (msg : List Byte)
  /-- R469: SPDM request for certificate digests. -/
  | getDigests (p : Port) (msg : List Byte)
  /-- R468: SPDM request for the slot 0 certificate chain. -/
  | getCertificate (p : Port) (msg : List Byte)
  /-- R469: SPDM request for a signed challenge response. -/
  | challenge (p : Port) (msg : List Byte)
  /-- R471: SPDM request for measurement blocks, optionally signed. -/
  | getMeasurements (p : Port) (msg : List Byte)
  /-- R469: SPDM request opening a secured session. -/
  | keyExchange (p : Port) (msg : List Byte)
  /-- R469: SPDM request completing session establishment. -/
  | finish (p : Port) (msg : List Byte)
  /-- R469: SPDM session heartbeat. -/
  | heartbeat (p : Port) (msg : List Byte)
  /-- R469: SPDM session key update. -/
  | keyUpdate (p : Port) (msg : List Byte)
  /-- R469: SPDM request ending a session. -/
  | endSession (p : Port) (msg : List Byte)
  /-- R469: An SPDM request outside the subset or version receives an ERROR response. -/
  | unsupportedSpdmRequest (p : Port) (msg : List Byte)
  /-- R479: IDE_KM query over a secured session. -/
  | query (p : Port) (msg : List Byte)
  /-- R479: IDE_KM programming of a stream key. -/
  | keyProg (p : Port) (msg : List Byte)
  /-- R479: IDE_KM activation of a key set, making a stream Secure. -/
  | kSetGo (p : Port) (msg : List Byte)
  /-- R481: IDE_KM stop of a key set, taking a stream out of Secure. -/
  | kSetStop (p : Port) (msg : List Byte)
  /-- R481: An IDE integrity failure takes a stream out of Secure and raises IDE_FAIL. -/
  | ideStreamFail (p : Port) (stream : Fin 2)
  /-- R476: A write to RGN_CTL enables, disables or changes a region subject to its checks. -/
  | rgnCtlWrite (p : Port) (h : Half) (k : Fin 5) (r : Fin 256) (v : Word)
  /-- R517: The compression engine finishes a skein and takes the next waiting one by user class. -/
  | skeinDone (h : Half) (body : List Byte) (e : Ecc)
  /-- R519: SKEIN_FLUSH µs after its first record, an open record skein closes. -/
  | skeinFlushTimeout (r : RingIx)
  /-- R523: Clearing CMP_CTL.EN lets started work finish and refuses new jobs. -/
  | cmpDisable (p : Port) (h : Half) (v : Word)
  /-- R528: A PTP Sync message received on the active port is time-stamped for the offset. -/
  | ptpSync (port : Fin 2) (frame : List Byte) (off : Fin 32)
  /-- R528: A PTP Follow_Up message received carries the precise Sync origin time. -/
  | followUp (port : Fin 2) (frame : List Byte)
  /-- R527: At the granted interval the slave sends a Delay_Req on the active port. -/
  | delayReq (off : Fin 32)
  /-- R538: A PTP Delay_Resp completes an offset measurement, stepping, correcting rate or detecting a master jump.
  -/
  | delayResp (port : Fin 2) (frame : List Byte)
  /-- R527: A PTP Announce message feeds the best-master selection. -/
  | announce (port : Fin 2) (frame : List Byte)
  /-- R529: A frame received on one NT port is forwarded to the other, with transparent-clock correction. -/
  | frameForward (port : Fin 2) (frame : List Byte) (residence : Nat) (full : Bool)
  /-- R537: No Sync accepted for three Announce intervals, or no master selected; the servo moves to holdover or
  listening. -/
  | masterLost
  /-- R540: A host write to NT_RATE in host-servo mode sets RATE. -/
  | ntRateWrite (p : Port) (h : Half) (v : Word)
  /-- R542: A write to NT_CTL changes slave enable, port, transport, forwarding or servo settings. -/
  | ntCtlWrite (p : Port) (h : Half) (v : Word)
  /-- R543: The row armed at a network time is reached and NT_TRIG fires or the auxiliary scan starts. -/
  | ntArmFire (h : Half) (a : Fin 5)
  /-- R544: A write of 1 to TRIG_STATE.DISARM disarms a TIME_ARM. -/
  | trigDisarm (p : Port) (h : Half) (a : Fin 5) (v : Word)
  /-- R536: At its effective row boundary a step or RATE change applies to both halves' network-time counters. -/
  | ntStepApply (h : Half)
  /-- R548: A network-time port's link goes down. -/
  | ntPortLink (port : Fin 2)
  /-- R558: An IDLE flit is received on the die link. -/
  | idle (h : Half) (flit : BitVec 272)
  /-- R561: An LCTL flit acknowledges, returns credits or NAKs, triggering a replay. -/
  | lctl (h : Half) (flit : BitVec 272)
  /-- R566: An LCTL with REST_REQ asks the far side to enter Rest. -/
  | restReq (h : Half) (flit : BitVec 272)
  /-- R566: An LCTL with REST_ACK answers a Rest request and both sides enter Rest. -/
  | restAck (h : Half) (flit : BitVec 272)
  /-- R558: A TOKEN flit brings a decision token from the other half. -/
  | token (h : Half) (flit : BitVec 272)
  /-- R558: An EVENT flit brings event-channel firings from the other half. -/
  | event (h : Half) (flit : BitVec 272)
  /-- R32: A REG flit carries a far-half register access or its response. -/
  | reg (h : Half) (flit : BitVec 272)
  /-- R35: A DMA_HDR flit forwards a host-memory access header. -/
  | dmaHdr (h : Half) (flit : BitVec 272)
  /-- R558: A DMA_DATA flit carries forwarded host-memory data. -/
  | dmaData (h : Half) (flit : BitVec 272)
  /-- R565: A PERIODIC time-align flit is checked against H1's counter, raising HALF_ALIGN on mismatch. -/
  | periodic (h : Half) (flit : BitVec 272) (off : Fin 32)
  /-- R564: A PROBE time-align flit is answered with an ECHO after 64 samples. -/
  | probe (h : Half) (flit : BitVec 272) (off : Fin 32)
  /-- R564: An ECHO flit yields the one-way latency stored in LINK_LAT. -/
  | echo (h : Half) (flit : BitVec 272) (off : Fin 32)
  /-- R565: An NT_UPDATE flit carries a network-time step or RATE change ahead of its effective row. -/
  | ntUpdate (h : Half) (flit : BitVec 272)
  /-- R558: A MGMT flit carries a firmware message such as barrier state or a quiet-mode cause. -/
  | mgmt (h : Half) (flit : BitVec 272)
  /-- R562: No acknowledgement for 2 µs; the transmitter resends its kept flits. -/
  | replayTimeout (h : Half)
  /-- R566: No sequenced flit for REST_IDLE ns with all acknowledged; the side sends REST_REQ. -/
  | restIdleExpiry (h : Half)
  /-- R567: A side with a flit to send, or detecting the far burst, leaves Rest. -/
  | restExit (h : Half)
  /-- R569: LOS, LOL, repeated marker errors or resend failure declare a loss of the die link. -/
  | linkLoss (h : Half) (cause : Fin 8)
  /-- R554: A die-link training attempt runs detect, lock, equalise, deskew and initialise, succeeding or failing.
  -/
  | trainingAttempt (h : Half) (res : TrainingResult)
  /-- R555: 100 µs after a failed attempt following a loss, training repeats. -/
  | trainingRetry (h : Half)
  /-- R572: Training succeeds after a loss; LINK_LAT is remeasured, DLK_UP raised and the link shows ACTIVE. -/
  | linkUp (h : Half)
  /-- R568: A write of 1 to DLK_CTL.DORMANT through PD puts an idle link into Dormant. -/
  | dormantEnter (p : Port) (h : Half) (v : Word)
  /-- R568: Clearing DLK_CTL.DORMANT starts a full training. -/
  | dormantExit (p : Port) (h : Half) (v : Word)
  /-- R581: A write of 1 to SRC_FORCE.FORCE through PD makes one occurrence at the next row boundary. -/
  | srcForce (p : Port) (h : Half) (i : Fin 512) (v : Word)
  /-- R580: A write of 1 to SRC_STATUS.LATCHED clears the latch, possibly releasing FAULT_N in compatibility mode.
  -/
  | latchedClear (p : Port) (h : Half) (i : Fin 512) (v : Word)
  /-- R582: A write of 1 to FIRST_CLR clears the first-fault capture and OVERFLOW. -/
  | firstClr (p : Port) (h : Half) (v : Word)
  /-- R588: A write to FN_ACK acknowledges and releases FAULT_N in native mode. -/
  | fnAck (p : Port) (h : Half) (v : Word)
  /-- R588: The 1 µs release after an acknowledgement with pending faults ends and FAULT_N asserts again. -/
  | faultNReassert
  /-- R589: A write changing FLT_CTL.FN_MODE switches FAULT_N between native and compatibility mode. -/
  | fnModeWrite (p : Port) (h : Half) (v : Word)
  /-- R584: A reaction shadow of SHADOW µs expires. -/
  | shadowEnd (h : Half) (n : Nat)
  /-- R593: A write of 1 to QUIET_CTL.BIND_OFF through PD enters quiet mode. -/
  | bindOff (p : Port) (h : Half) (v : Word)
  /-- R594: A write of 1 to QUIET_CTL.EXIT through PD requests leaving quiet mode, granted or refused. -/
  | exit (p : Port) (h : Half) (v : Word)
  /-- R594: At the row boundary after a granted request both halves leave quiet mode unless cancelled. -/
  | quietExit
  /-- R599: Management firmware did not service its watchdog for 10 ms. -/
  | fwWatchdog (h : Half)
  /-- R607: Every 20 ns the governor forms the droop and raises its level if the computed level is higher. -/
  | govEvaluate (h : Half) (g : GovReading)
  /-- R608: After HOLD µs below the current level, the governor level falls by one. -/
  | govDescent (h : Half)
  /-- R612: A governor level held at 1 or more for over 100 µs raises SUPPLY_SAG once. -/
  | supplySag (h : Half)
  /-- R613: Every 10 µs the sensors are read; TEMP updates and thermal warnings or shutdown are raised. -/
  | thermalSample (h : Half) (temps : List (BitVec 16))
  /-- R51: At every row boundary the sample-time counter advances by 32 and the network-time counter by I, and
  register writes that registered apply. -/
  | rowBoundary (b : RowInput)
  /-- R459: A host-memory read issued by a port completes with its data, landing stream samples in staging,
  descriptors or image bytes. -/
  | dmaReadCompletion (p : Port) (id : Nat) (data : HostRead)
  /-- R428: A host port's PCIe link returns after being down or after PERSTp_N rises, and waiting completions and
  records resume. -/
  | portLinkUp (p : Port) (speed : Fin 6) (width : Fin 5)
  /-- R548: A network-time port's link comes up and NT_STATUS LINK0 or LINK1 becomes 1. -/
  | ntPortLinkUp (port : Fin 2)
  /-- R553: A 66-bit deskew marker arrives, or is missing, on a die-link lane; lanes realign, the scrambler reseeds
  and MARK_ERR counts errors. -/
  | deskewMarker (h : Half) (lane : Fin 8) (block : Option (BitVec 66)) (stuff : Fin 65536)
  /-- R561: A die-link flit with an uncorrectable check error or reserved kind is received; sequenced traffic is
  discarded and a NAK is sent. -/
  | uncorrectableFlit (h : Half) (flit : BitVec 272)
  /-- R624: An edge on the TCK input advances the IEEE 1149.1 TAP, with BYPASS, SAMPLE/PRELOAD or EXTEST acting on
  the boundary register. -/
  | tckEdge (rising : Bool) (tms : Bool) (tdi : Bool) (trst : Bool)
deriving DecidableEq, Repr

end Sys2Proof
end

