-- ==== Sys2Proof/Decode.lean ====
section
/-!
DEFINITION. The table's words.  No row of the opcode table gives bits, so no word spells a command.
-/
namespace Sys2Proof

/-- The command that a word of the opcode table spells: none, for no row gives bits. -/
def decodeTableWord (_nbits _w : Nat) : Option Instr := none

end Sys2Proof
end

