-- ==== Sys2Proof/Machine/Operands.lean ====
section
/-!
DEFINITION. Bit fields, byte order, 48-bit time arithmetic and the fixed-point narrowings (R5 to R9, R50, R55 to R58).
-/
namespace Sys2Proof.Machine

/-- Bits [hi:lo] of a word, as a number (R6). -/
def bits {w : Nat} (x : BitVec w) (hi lo : Nat) : Nat := x.toNat / 2 ^ lo % 2 ^ (hi + 1 - lo)

/-- Bit i of a word. -/
def bit {w : Nat} (x : BitVec w) (i : Nat) : Bool := x.getLsbD i

/-- The word with bit i set to b. -/
def setBit {w : Nat} (x : BitVec w) (i : Nat) (b : Bool) : BitVec w :=
  if b then x ||| BitVec.ofNat w (2 ^ i) else x &&& ~~~ BitVec.ofNat w (2 ^ i)

/-- The word with bits [hi:lo] replaced by v. -/
def setBits {w : Nat} (x : BitVec w) (hi lo v : Nat) : BitVec w :=
  let m := BitVec.ofNat w ((2 ^ (hi + 1 - lo) - 1) * 2 ^ lo)
  (x &&& ~~~ m) ||| (BitVec.ofNat w (v % 2 ^ (hi + 1 - lo) * 2 ^ lo))

/-- A word with the one bit i. -/
def bitW (b : Bool) (i : Nat) : Word := if b then BitVec.ofNat 32 (2 ^ i) else 0

/-- The n low bytes of a number, least significant first (R6). -/
def leBytes : Nat → Nat → List Byte
  | 0, _ => []
  | n + 1, v => BitVec.ofNat 8 v :: leBytes n (v / 256)

/-- The number that little-endian bytes spell (R6). -/
def ofLE : List Byte → Nat
  | [] => 0
  | b :: bs => b.toNat + 256 * ofLE bs

/-- The number that big-endian bytes spell. -/
def ofBE (bs : List Byte) : Nat := ofLE bs.reverse

/-- Bytes [off, off + n) of a list, zero beyond its end. -/
def slice (bs : List Byte) (off n : Nat) : List Byte :=
  let x := (bs.drop off).take n
  x ++ List.replicate (n - x.length) 0

/-- The little-endian field of n bytes at offset off. -/
def leField (bs : List Byte) (off n : Nat) : Nat := ofLE (slice bs off n)

/-- Bytes of a 512-bit descriptor: field of n bytes at byte off. -/
def dField (d : BitVec 512) (off n : Nat) : Nat := bits d (8 * (off + n) - 1) (8 * off)

/-- The row of a sample time (R50). -/
def rowOf (t : Nat) : Nat := t / 32

/-- A number rounded up to a multiple of g. -/
def roundUp (t g : Nat) : Nat := (t + g - 1) / g * g

/-- A 48-bit time rounded up to its queue's grain, modulo 2^48 (R55). -/
def grain48 (t : T48) (g : Nat) : T48 := BitVec.ofNat 48 (roundUp t.toNat g)

/-- The signed 48-bit difference a − b of R56. -/
def sdiff48 (a b : T48) : Int := (a - b).toInt

/-- The later of two 48-bit times (R56). -/
def max48 (a b : T48) : T48 := if sdiff48 b a > 0 then b else a

/-- The earlier of two 48-bit times (R56). -/
def min48 (a b : T48) : T48 := if sdiff48 b a < 0 then b else a

/-- The low 48 bits of an extended sample time. -/
def t48 (n : Nat) : T48 := BitVec.ofNat 48 n

/-- The 64-bit sample time that a 48-bit time extends to beside a counter (R58). -/
def ext64 (counter : Nat) (t : T48) : BitVec 64 := BitVec.ofInt 64 (Int.ofNat counter + sdiff48 t (t48 counter))

/-- The same as an integer: a time before sample 0 is negative. -/
def ext48 (counter : Nat) (t : T48) : Int := Int.ofNat counter + sdiff48 t (t48 counter)

/-- A sample time rounded up to a multiple of g. -/
def roundUpI (t : Int) (g : Nat) : Int := (t + g - 1) / g * g

/-- A number rounded half up after division by 2^n (R9). -/
def roundHalfUp (x : Int) (n : Nat) : Int := (x + 2 ^ n / 2) / 2 ^ n

/-- A number rounded half up after division by u (R9). -/
def divHalfUp (x u : Int) : Int := (2 * x + u) / (2 * u)

/-- A number clamped to the range of a signed field of w bits. -/
def clampS (w : Nat) (x : Int) : Int := max (-(2 ^ (w - 1))) (min (2 ^ (w - 1) - 1) x)

/-- Division by 2^n rounded half up, then saturation to w bits; and whether it saturated (R9). -/
def narrow (w n : Nat) (x : Int) : Int × Bool :=
  let y := roundHalfUp x n
  (clampS w y, decide (clampS w y ≠ y))

/-- A 32-bit saturating counter (the register tables: "saturate at 0xFFFF_FFFF"). -/
def satAdd (w : Word) (n : Nat) : Word := BitVec.ofNat 32 (min 0xFFFFFFFF (w.toNat + n))

end Sys2Proof.Machine
end

