-- ==== Sys2Proof/Config.lean ====
section
/-!
DEFINITION. What the spec leaves to the die or leaves open: constants with no body, so that no proof can see a value.
-/
namespace Sys2Proof

/-- The n-th free value of width w: a value that the spec says is not specified (log 2). -/
opaque Config.freeValue (w : Nat) (n : Nat) : BitVec w

/-- The unique identifier of each die, constant for the life of the die (R46; log 3). -/
opaque Config.uid : Half → BitVec 64

/-- The place, from 0 to 7 taken modulo 8, that the 50 ns window of half h's monitor oscillator in which a sample time falls has among
those that the governor opens in turn (R609; log 87). -/
opaque Config.govWindow : Nat → Nat → Nat

/-- The instruction that a content of the TAP's instruction register selects, as 0 BYPASS, 1 SAMPLE/PRELOAD, 2 EXTEST, and the
register's length (R624; log 19). -/
opaque Config.tapCode : List Bool → Nat
opaque Config.tapLength : Nat

/-- The cells of the boundary register, from TDO's end: the pin of each, by its number in MARK0–15, TRIG_IN0–15, SYNC_IN,
FAULT_N, PERST0–3 (R624; log 19). -/
opaque Config.tapCells : List (Fin 38)

/-- The SHA-384 digest of a byte string: the standard that R467 and R496 name, left uninterpreted (log 15). -/
opaque Config.sha384 : List Byte → BitVec 384

/-- The digests of the four Yafalis image-signing keys in the boot ROM (R496), and the boot ROM's own measured bytes (R471). -/
opaque Config.romKey : Fin 4 → BitVec 384
opaque Config.romBytes : List Byte

/-! ### Certificates and signatures (R467, R468) -/

/-- The length octets of DER. -/
def derLength (n : Nat) : List Byte :=
  if n < 128 then [BitVec.ofNat 8 n]
  else if n < 256 then [0x81, BitVec.ofNat 8 n]
  else [0x82, BitVec.ofNat 8 (n / 256), BitVec.ofNat 8 n]

/-- A DER element of a tag. -/
def der (tag : Byte) (content : List Byte) : List Byte := tag :: (derLength content.length ++ content)

/-- A non-negative INTEGER from its big-endian bytes. -/
def derInteger (b : List Byte) : List Byte :=
  let d := b.dropWhile (· == 0)
  der 2 (if d.isEmpty then [0] else if 128 ≤ (d.headD 0).toNat then 0 :: d else d)

/-- A UID as 16 upper-case hexadecimal digits, as a subject's serialNumber attribute (2.5.4.5, PrintableString). -/
def hexDigits (u : BitVec 64) : List Byte :=
  (List.range 16).map fun i =>
    let n := u.toNat / 16 ^ (15 - i) % 16
    BitVec.ofNat 8 (if n < 10 then 48 + n else 55 + n)
def serialNumber (u : BitVec 64) : List Byte := der 0x31 (der 0x30 (der 6 [0x55, 0x04, 0x05] ++ der 0x13 (hexDigits u)))

/-- The algorithm ECDSA with SHA-384 (1.2.840.10045.4.3.3), and that of a P-384 public key. -/
def ecdsaSha384 : List Byte := der 0x30 (der 6 [0x2A, 0x86, 0x48, 0xCE, 0x3D, 0x04, 0x03, 0x03])
def p384Key : List Byte := der 0x30 (der 6 [0x2A, 0x86, 0x48, 0xCE, 0x3D, 0x02, 0x01] ++ der 6 [0x2B, 0x81, 0x04, 0x00, 0x22])

/-- An X.509 v3 certificate of the chain (R468): serial number, names of issuer and subject, validity and extensions in DER, the P-384
public key (X ‖ Y), the signature (r ‖ s). -/
structure Certificate where
  serial : List Byte := []
  issuer : List Byte := []
  validity : List Byte := []
  subject : List Byte := []
  extensions : List Byte := []
  key : List Byte := []
  signature : List Byte := []

/-- The part of a certificate that is signed, and the certificate. -/
def Certificate.signed (c : Certificate) : List Byte :=
  der 0x30 (der 0xA0 (der 2 [2]) ++ derInteger c.serial ++ ecdsaSha384 ++ c.issuer ++ c.validity ++ c.subject ++
    der 0x30 (p384Key ++ der 3 (0 :: 4 :: c.key)) ++ c.extensions)
def Certificate.bytes (c : Certificate) : List Byte :=
  der 0x30 (c.signed ++ ecdsaSha384 ++
    der 3 (0 :: der 0x30 (derInteger (c.signature.take 48) ++ derInteger (c.signature.drop 48))))

/-- The 96 bytes r ‖ s of a signature. -/
def signatureBytes (x : BitVec 768) : List Byte := (List.range 96).map fun i => BitVec.ofNat 8 (x.toNat / 256 ^ (95 - i))

/-- The digest that an SPDM signature for a purpose over a transcript covers (log 15). -/
opaque Config.spdmDigest : String → List Byte → BitVec 384

/-- ECDSA P-384, left uninterpreted but for what R467 and R468 say of it (log 15): whether a signature over a digest verifies under a public
key; the identity key's signatures for SPDM, which also depend on a random draw; the three certificates of the chain. -/
structure Ecdsa where
  verify : List Byte → BitVec 384 → List Byte → Bool
  sign : String → List Byte → Nat → BitVec 768
  root : Certificate
  product : Certificate
  device : Certificate

/-- The root is self-signed, each other certificate is signed by the one before it, the device's names the UID of H0, and the identity
key's signatures verify under its public key (R467, R468). -/
def Ecdsa.Chained (x : Ecdsa) : Prop :=
  x.root.issuer = x.root.subject ∧ x.product.issuer = x.root.subject ∧ x.device.issuer = x.product.subject ∧
  x.verify x.root.key (Config.sha384 x.root.signed) x.root.signature = true ∧
  x.verify x.root.key (Config.sha384 x.product.signed) x.product.signature = true ∧
  x.verify x.product.key (Config.sha384 x.device.signed) x.device.signature = true ∧
  (∀ purpose m n, x.verify x.device.key (Config.spdmDigest purpose m) (signatureBytes (x.sign purpose m n)) = true) ∧
  ∃ a b, x.device.subject = der 0x30 (a ++ serialNumber (Config.uid 0) ++ b)

/-- Nothing more is known of them: the value given here only shows that such a chain exists. -/
opaque Config.ecdsa : { x : Ecdsa // x.Chained } :=
  ⟨{ verify := fun _ _ _ => true, sign := fun _ _ _ => 0, root := {}, product := {}, device := { subject := der 0x30 (serialNumber (Config.uid 0)) } },
    rfl, rfl, rfl, rfl, rfl, rfl, fun _ _ _ => rfl, [], [], by simp⟩

/-- Whether an ECDSA P-384 signature (r ‖ s) over a digest verifies under a public key (X ‖ Y), and the identity key's signature. -/
def Config.ecdsaVerify : List Byte → BitVec 384 → List Byte → Bool := Config.ecdsa.val.verify
def Config.spdmSign : String → List Byte → Nat → BitVec 768 := Config.ecdsa.val.sign

/-- What SPDM computes with session keys, left uninterpreted (R469; log 15): the responder's ephemeral public key of a draw and the secret that it shares with a
requester's; a traffic key of a secret, a transcript, a direction (true: requester's) and a generation; the verify data of a
transcript. -/
opaque Config.ecdhPublic : Nat → BitVec 768
opaque Config.ecdhShared : Nat → List Byte → List Byte
opaque Config.spdmKey : List Byte → List Byte → Bool → Nat → List Byte
opaque Config.spdmVerify : List Byte → List Byte → Bool → BitVec 384

/-- AES-256-GCM as SPDM uses it: sealing and opening with a key and a sequence number.  Nothing is known of the bytes but that a sealed
message is 16 bytes longer than what it seals and opens to it (log 15); the pair given here only shows that such functions exist. -/
opaque Config.gcm : { p : (List Byte → Nat → List Byte → List Byte) × (List Byte → Nat → List Byte → Option (List Byte)) //
    ∀ k n m, (p.1 k n m).length = m.length + 16 ∧ p.2 k n (p.1 k n m) = some m } :=
  ⟨(fun _ _ m => m ++ List.replicate 16 0, fun _ _ c => some (c.take (c.length - 16))), fun _ _ m => by simp⟩

/-- Sealing. -/
def Config.gcmSeal : List Byte → Nat → List Byte → List Byte := Config.gcm.val.1

/-- Opening: none where the tag does not verify. -/
def Config.gcmOpen : List Byte → Nat → List Byte → Option (List Byte) := Config.gcm.val.2

/-- The heartbeat period in seconds and CTExponent that the responder reports (log 15). -/
opaque Config.heartbeat : BitVec 8
opaque Config.ctExponent : BitVec 8

end Sys2Proof
end

