-- ==== Sys2Proof/Machine/Maps.lean ====
section
/-!
DEFINITION. Sparse maps in one canonical form: a list of (key, value) pairs with strictly rising keys and no entry
equal to what an unlisted key reads as.  Every indexed piece of State is one of them, so equal contents are equal data.
-/
namespace Sys2Proof.Machine

/-- A sparse map from natural numbers. -/
abbrev FMap (α : Type) := List (Nat × α)

/-- The value at key `i`; `d` where no entry has it. -/
def mget {α : Type} (d : α) : FMap α → Nat → α
  | [], _ => d
  | (k, v) :: m, i => if i = k then v else mget d m i

/-- Put an entry in its place. -/
def mput {α : Type} (i : Nat) (v : α) : FMap α → FMap α
  | [] => [(i, v)]
  | (k, w) :: m => if i < k then (i, v) :: (k, w) :: m else (k, w) :: mput i v m

/-- Write `v` at key `i`: an entry of that key leaves, and the new one goes in at its place unless `v` is the default. -/
def mset {α : Type} [DecidableEq α] (d : α) (m : FMap α) (i : Nat) (v : α) : FMap α :=
  let l := m.filter fun e => e.1 != i
  if v = d then l else mput i v l

/-- Change the value at key `i` by `f`. -/
def mmod {α : Type} [DecidableEq α] (d : α) (m : FMap α) (i : Nat) (f : α → α) : FMap α :=
  mset d m i (f (mget d m i))

/-- Change every listed value by `f`, dropping entries that become the default. -/
def mmap {α : Type} [DecidableEq α] (d : α) (f : Nat → α → α) : FMap α → FMap α
  | [] => []
  | (k, v) :: m => if f k v = d then mmap d f m else (k, f k v) :: mmap d f m

/-- Every key of the list lies above `b`, and the keys rise strictly. -/
def risingFrom {α : Type} : Nat → FMap α → Bool
  | _, [] => true
  | b, (k, _) :: m => decide (b ≤ k) && risingFrom (k + 1) m

/-- The canonical form: keys strictly rising, no entry equal to the default. -/
def mwf {α : Type} [DecidableEq α] (d : α) (m : FMap α) : Bool :=
  risingFrom 0 m && m.all fun e => decide (e.2 ≠ d)

end Sys2Proof.Machine
end

