-- ==== Sys2Proof/Machine/Regs.lean ====
section
/-!
DEFINITION. The register map of the TQ-5120: one constructor of `Reg` for every register row of the spec's register
tables, named as the manual names it (with its block in front where two blocks use one name), and for each its
address, its access masks, its reset value and who may see it.  Bases are R41's table, access codes R10's, reset
values the register tables' (R12).
-/
namespace Sys2Proof.Machine

/-- A register of the register tables. -/
inductive Reg where
  | DEV_ID | REV | HALF | CAPS0 | CAPS1 | UID_LO | UID_HI | VIEW | ST_LO | ST_HI | CLK_STATUS | SYNC_CTL
  | SYNC_STATUS | SYNC_LOAD_LO | SYNC_LOAD_HI | SYNC_PREV_LO | SYNC_PREV_HI | LATE_COUNT | LATE_FIRST_Q
  | LATE_FIRST_T_LO | LATE_FIRST_T_HI | STALL_COUNT | RUN_AHEAD | START_LEAD | JUMP_DROPPED
  | UNDERRUN_SAMPLES | DISCARD_COUNT | THR_STATE | THR_PC | THR_NOW_LO | THR_NOW_HI | RUN_STATE | RUN_SHOT_LO
  | RUN_SHOT_HI | RUN_T0_LO | RUN_T0_HI | PAT_STATUS | PAT_SUB | DRV_SAT_SUM | DRV_MUTE_SUM
  | DRV_IGNORED_WRITES | DRV_ECC_CORRECTED | DAC_CTL | DAC_STATUS | DAC_SCALE | SAT_ROWS | SLOT_CTL
  | SLOT_AMP | DRV_FREQ_SET_LO | DRV_FREQ_SET_HI | DRV_FREQ_CUR_LO | DRV_FREQ_CUR_HI | DRV_PHASE_OFS
  | DRV_TREF_LO | DRV_TREF_HI | SLOT_STATUS | RDO_OVR_SUM | RDO_IGNORED_WRITES | RDO_ECC_CORRECTED
  | XSAT_COUNT | IN_CTL | IN_STATUS | OVR_ROWS | OVR_FIRST_LO | OVR_FIRST_HI | CH_CTL | CH_STATUS
  | RDO_FREQ_SET_LO | RDO_FREQ_SET_HI | RDO_FREQ_CUR_LO | RDO_FREQ_CUR_HI | RDO_PHASE_OFS | RDO_TREF_LO
  | RDO_TREF_HI | LAST_XI | LAST_XQ | LAST_TOKEN | AVG_SUMI_LO | AVG_SUMI_HI | AVG_SUMQ_LO | AVG_SUMQ_HI
  | AVG_COUNT | AVG_S0 | AVG_S1 | AVG_S2 | AVG_S3 | AVG_OVR | AVG_XSAT | KS_CFG | KS_KADDR | KS_MAP | KS_AB0
  | KS_C0 | KS_AB1 | KS_C1 | KS_AB2 | KS_C2 | ASAP_MARGIN | TK_LATE_COUNT | TK_DEFAULT_COUNT
  | TK_OVERFLOW_COUNT | DT_DISCARD_COUNT | DN_IGNORED | DT_ECC_CORRECTED | THR_SUB | DT_CFG | DT_STATUS
  | DT_FIRES | DT_IN | DT_LUT | COMPLY_SUM0 | COMPLY_SUM1 | FLX_IGNORED_WRITES | FLX_ECC_CORRECTED
  | FG_STROBE | FG_COUNT | FLX_CTL | FLX_STATUS | FLX_LEVEL | FLX_PENDING | FLX_SLEW | FLX_PARK
  | FLX_RANGE_TGT | COMPLY_COUNT | TRIP_SUM0 | TRIP_SUM1 | TRIP_SUM2 | MON_IGNORED_WRITES | MON_CFG | MON_TH
  | MON_HYST | MON_BLANK | MON_STATUS | TRIP_COUNT | TRIP_T_LO | TRIP_T_HI | AUX_MASK | AUX_START
  | AUX_PERIOD | AUX_STATUS | AUX_BIAS | AUX_SKIPPED | AUX_IGNORED | SCAN_COUNT | SCAN_T_LO | SCAN_T_HI
  | AUX_RESULT | CAP_IGNORED_WRITES | CAP_CTL | CAP_TRIG | CAP_LEVEL | CAP_HOLDOFF | CAP_LEAD | TRIG_MASK_LO
  | TRIG_MASK_HI | CAP_STATUS | CAP_INDEX_LO | CAP_INDEX_HI | LOST_COUNT | MARK_COUNT | REC_SEL
  | DSP_IGNORED_WRITES | DSP_ECC_CORRECTED | LANE_CTL | DSP_LANE_STATUS | LANE_ENTRY | LANE_PC | FAULT_PC
  | Q_LEVEL | QDROP | REC_DROP | DSP_JOBS | CYCLES_LO | CYCLES_HI | CAL_STATUS | CAL_QUIET_TH
  | CAL_IMPLAUSIBLE_COUNT | BG_REJECT | BG_CTL | BG_STATUS | CAL_VALID_DAC | CAL_VALID_IN | CAL_VALID_FLX0
  | CAL_VALID_FLX1 | CAL_VALID1_FLX0 | CAL_VALID1_FLX1 | CORE_TRIM | IN_TAP | FLX_TRIM | EVR_IGNORED_WRITES
  | LOOP_COUNT | EC_FIRE | EG_CTL | EC_CFG | EC_FIRES | EC_DROPS | TASK_SEL | TASK_DROP | HQ_STATUS
  | ARB_AGE_LIMIT | TAGS_FREE | TAG_QUOTA | CTX_BASE_LO | CTX_BASE_HI | RID_BASE | RID_COUNT | TAGS_USED
  | PORT_CTL | PORT_STATUS | DB_BASE_LO | DB_BASE_HI | POLL_MIN | POLL_MAX | KICK | RING_OP | RING_OP_STATUS
  | OUTSTANDING_READS | DENIED_COUNT | RECORD_LOST | COMPL_LOST | PART_STATUS | CAST_ON_ID_LO | CAST_ON_ID_HI
  | MANIFEST_SEQ | PORT_PART | FOREIGN_WRITES | IDE_STATUS | IDE_FAIL_COUNT | RGN_TOTAL_LO | RGN_TOTAL_HI
  | RGN_IGNORED | RGN_BASE_LO | RGN_BASE_HI | RGN_SIZE_LO | RGN_SIZE_HI | RGN_CTL | PT_WINDOW | BOOT_RING_LO
  | BOOT_RING_HI | BOOT_RING_COUNT | BOOT_LEN | BOOT_CTL | BOOT_STATUS | BOOT_READ | BOOT_STATE | BOOT_RECAST
  | BOOT_IGNORED | CMP_CTL | CMP_STATUS | SKEIN_FLUSH | CMP_JOBS | RAW_SKEINS | VERIFY_FAIL | DECODE_FAIL
  | CMP_ECC_CORRECTED | BYTES_IN_LO | BYTES_IN_HI | BYTES_OUT_LO | BYTES_OUT_HI | NT_CTL | NT_STATUS
  | NT_SEC_LO | NT_SEC_HI | NT_NS | NT_FRAC | NT_ST_LO | NT_ST_HI | NT_RATE | STEP_TH | LOCK_TH | OFFSET
  | MPD | ASYM0 | ASYM1 | NT_MAC_LO | NT_MAC_HI | NT_IP | FWD_FRAMES | FWD_DROPS | TC_CORRECTED | NT_IGNORED
  | TRIG_STATE | TRIG_ST_LO | TRIG_ST_HI | RUN_NT_SEC_LO | RUN_NT_SEC_HI | RUN_NT_NS | RUN_NT_FRAC
  | MARK_ST_LO | MARK_ST_HI | MARK_NT_SEC_LO | MARK_NT_SEC_HI | MARK_NT_NS | MARK_NT_FRAC | DLK_CTL
  | DLK_STATUS | REST_IDLE | LINK_LAT | CORR_COUNT | UNCORR_COUNT | REPLAY_COUNT | LOSS_COUNT | TRAIN_COUNT
  | REST_COUNT | FAR_WR_DISCARD | XH_DISCARD | DLK_IGNORED | DLK_LANE_STATUS | LANE_ERR | FLT_STATUS
  | FLT_CTL | FN_ACK | SHADOW | FIRST_ID | FIRST_T_LO | FIRST_T_HI | FIRST_CLR | SECONDARY_COUNT
  | FLT_IGNORED | QUIET_CTL | QUIET_STATUS | QUIET_T_LO | QUIET_T_HI | FLT_PSUM | SRC_CFG | SRC_STATUS
  | SRC_FORCE | SRC_COUNT | PWR_STATUS | TEMP | TEMP_MAX | TEMP_WARN | GOV_CTL | GOV_STATUS | VCORE_REF
  | GOV_ENTRIES | GOV_ROWS_LO | GOV_ROWS_HI | SAG_COUNT | SENSOR_TEMP
deriving DecidableEq, Repr

/-- Who reads and writes a register (the visibility rules R44, R77, R116, R205, R244, R275, R310, R328, R335, R361, R388,
R409, R424, R463, R485, R500, R525, R547, R573, R596, R626).  `all`: every port (a row may show only owned bits).
`pd`: ports bound to PD.  `pdWrite`: read by every port, written through ports bound to PD.  The others: ports of the
partition that owns the resource the indices select. -/
inductive Vis where
  | all | chan | coreTrim | dac | engine | event | fgroup | flux | input | kset | lane | marker | monitor | part | pd | pdWrite | port | queue | run | slot | table | task | thread
deriving DecidableEq, Repr

/-- One row of a register table.  The address of element (i, j) on half h is
`base + off + i * stepI + j * stepJ + 0x400000 * h` (R13).  `rw`, `w1c`, `w1s` and `wo` are the bits of those access
codes (R10); every other bit is read-only or reserved.  `mirror`: the two halves hold one value. -/
structure RegDef where
  num : Nat
  off : Nat
  stepI : Nat
  cntI : Nat
  stepJ : Nat
  cntJ : Nat
  rw : Word
  w1c : Word
  w1s : Word
  wo : Word
  reset : Word
  vis : Vis
  mirror : Bool
deriving DecidableEq, Repr

/-- The register tables. -/
def Reg.info : Reg → RegDef
  | .DEV_ID => ⟨0, 0x0, 0, 1, 0, 1, 0x0, 0x0, 0x0, 0x0, 0x59435120, .all, false⟩
  | .REV => ⟨1, 0x4, 0, 1, 0, 1, 0x0, 0x0, 0x0, 0x0, 0x4101, .all, false⟩
  | .HALF => ⟨2, 0x8, 0, 1, 0, 1, 0x0, 0x0, 0x0, 0x0, 0x2, .all, false⟩
  | .CAPS0 => ⟨3, 0xC, 0, 1, 0, 1, 0x0, 0x0, 0x0, 0x0, 0x10080840, .all, false⟩
  | .CAPS1 => ⟨4, 0x10, 0, 1, 0, 1, 0x0, 0x0, 0x0, 0x0, 0x8100201, .all, false⟩
  | .UID_LO => ⟨5, 0x14, 0, 1, 0, 1, 0x0, 0x0, 0x0, 0x0, 0x0, .all, false⟩
  | .UID_HI => ⟨6, 0x18, 0, 1, 0, 1, 0x0, 0x0, 0x0, 0x0, 0x0, .all, false⟩
  | .VIEW => ⟨7, 0x1C, 0, 1, 0, 1, 0x0, 0x0, 0x0, 0x0, 0x0, .all, false⟩
  | .ST_LO => ⟨8, 0x60000, 0, 1, 0, 1, 0x0, 0x0, 0x0, 0x0, 0x0, .pdWrite, false⟩
  | .ST_HI => ⟨9, 0x60004, 0, 1, 0, 1, 0x0, 0x0, 0x0, 0x0, 0x0, .pdWrite, false⟩
  | .CLK_STATUS => ⟨10, 0x60010, 0, 1, 0, 1, 0x0, 0x0, 0x8, 0x0, 0xF, .pdWrite, false⟩
  | .SYNC_CTL => ⟨11, 0x60020, 0, 1, 0, 1, 0x1, 0x0, 0x0, 0x0, 0x0, .pd, true⟩
  | .SYNC_STATUS => ⟨12, 0x60024, 0, 1, 0, 1, 0x0, 0x6, 0x0, 0x0, 0x0, .pd, true⟩
  | .SYNC_LOAD_LO => ⟨13, 0x60028, 0, 1, 0, 1, 0xFFFFFFFF, 0x0, 0x0, 0x0, 0x0, .pd, true⟩
  | .SYNC_LOAD_HI => ⟨14, 0x6002C, 0, 1, 0, 1, 0xFFFFFFFF, 0x0, 0x0, 0x0, 0x0, .pd, true⟩
  | .SYNC_PREV_LO => ⟨15, 0x60030, 0, 1, 0, 1, 0x0, 0x0, 0x0, 0x0, 0x0, .pd, true⟩
  | .SYNC_PREV_HI => ⟨16, 0x60034, 0, 1, 0, 1, 0x0, 0x0, 0x0, 0x0, 0x0, .pd, true⟩
  | .LATE_COUNT => ⟨17, 0x60040, 0, 1, 0, 1, 0xFFFFFFFF, 0x0, 0x0, 0x0, 0x0, .pd, false⟩
  | .LATE_FIRST_Q => ⟨18, 0x60044, 0, 1, 0, 1, 0x0, 0x0, 0x0, 0x0, 0x0, .pd, false⟩
  | .LATE_FIRST_T_LO => ⟨19, 0x60048, 0, 1, 0, 1, 0x0, 0x0, 0x0, 0x0, 0x0, .pd, false⟩
  | .LATE_FIRST_T_HI => ⟨20, 0x6004C, 0, 1, 0, 1, 0x0, 0x0, 0x0, 0x0, 0x0, .pd, false⟩
  | .STALL_COUNT => ⟨21, 0x60050, 0, 1, 0, 1, 0xFFFFFFFF, 0x0, 0x0, 0x0, 0x0, .pd, false⟩
  | .RUN_AHEAD => ⟨22, 0x80000, 0, 1, 0, 1, 0xFFFF, 0x0, 0x0, 0x0, 0xFFFF, .pdWrite, false⟩
  | .START_LEAD => ⟨23, 0x80004, 0, 1, 0, 1, 0xFFFF, 0x0, 0x0, 0x0, 0x400, .pdWrite, false⟩
  | .JUMP_DROPPED => ⟨24, 0x80010, 0, 1, 0, 1, 0xFFFFFFFF, 0x0, 0x0, 0x0, 0x0, .pd, false⟩
  | .UNDERRUN_SAMPLES => ⟨25, 0x80014, 0, 1, 0, 1, 0xFFFFFFFF, 0x0, 0x0, 0x0, 0x0, .pd, false⟩
  | .DISCARD_COUNT => ⟨26, 0x80018, 0, 1, 0, 1, 0xFFFFFFFF, 0x0, 0x0, 0x0, 0x0, .pd, false⟩
  | .THR_STATE => ⟨27, 0x81000, 16, 256, 0, 1, 0x0, 0x0, 0x0, 0x0, 0x0, .thread, false⟩
  | .THR_PC => ⟨28, 0x81004, 16, 256, 0, 1, 0x0, 0x0, 0x0, 0x0, 0x0, .thread, false⟩
  | .THR_NOW_LO => ⟨29, 0x81008, 16, 256, 0, 1, 0x0, 0x0, 0x0, 0x0, 0x0, .thread, false⟩
  | .THR_NOW_HI => ⟨30, 0x8100C, 16, 256, 0, 1, 0x0, 0x0, 0x0, 0x0, 0x0, .thread, false⟩
  | .RUN_STATE => ⟨31, 0x82000, 32, 64, 0, 1, 0x0, 0x0, 0x0, 0x0, 0x0, .run, false⟩
  | .RUN_SHOT_LO => ⟨32, 0x82008, 32, 64, 0, 1, 0x0, 0x0, 0x0, 0x0, 0x0, .run, false⟩
  | .RUN_SHOT_HI => ⟨33, 0x8200C, 32, 64, 0, 1, 0x0, 0x0, 0x0, 0x0, 0x0, .run, false⟩
  | .RUN_T0_LO => ⟨34, 0x82010, 32, 64, 0, 1, 0x0, 0x0, 0x0, 0x0, 0x0, .run, false⟩
  | .RUN_T0_HI => ⟨35, 0x82014, 32, 64, 0, 1, 0x0, 0x0, 0x0, 0x0, 0x0, .run, false⟩
  | .PAT_STATUS => ⟨36, 0x83000, 8, 576, 0, 1, 0x0, 0x20000000, 0x0, 0x0, 0x0, .queue, false⟩
  | .PAT_SUB => ⟨37, 0x83004, 8, 576, 0, 1, 0xC00001FF, 0x0, 0x0, 0x0, 0x0, .queue, false⟩
  | .DRV_SAT_SUM => ⟨38, 0x100000, 0, 1, 0, 1, 0x0, 0x0, 0x0, 0x0, 0x0, .all, false⟩
  | .DRV_MUTE_SUM => ⟨39, 0x100004, 0, 1, 0, 1, 0x0, 0x0, 0x0, 0x0, 0xFFFFFF, .all, false⟩
  | .DRV_IGNORED_WRITES => ⟨40, 0x100008, 0, 1, 0, 1, 0xFFFFFFFF, 0x0, 0x0, 0x0, 0x0, .pd, false⟩
  | .DRV_ECC_CORRECTED => ⟨41, 0x10000C, 0, 1, 0, 1, 0xFFFFFFFF, 0x0, 0x0, 0x0, 0x0, .pd, false⟩
  | .DAC_CTL => ⟨42, 0x101000, 64, 24, 0, 1, 0x7, 0x0, 0x0, 0x0, 0x0, .dac, false⟩
  | .DAC_STATUS => ⟨43, 0x101004, 64, 24, 0, 1, 0x0, 0xF, 0x0, 0x0, 0x6000, .dac, false⟩
  | .DAC_SCALE => ⟨44, 0x101008, 64, 24, 0, 1, 0xFFFF, 0x0, 0x0, 0x0, 0x8000, .dac, false⟩
  | .SAT_ROWS => ⟨45, 0x10100C, 64, 24, 0, 1, 0xFFFFFFFF, 0x0, 0x0, 0x0, 0x0, .dac, false⟩
  | .SLOT_CTL => ⟨46, 0x110000, 64, 512, 0, 1, 0x1, 0x0, 0x0, 0x2, 0x0, .slot, false⟩
  | .SLOT_AMP => ⟨47, 0x110004, 64, 512, 0, 1, 0x3FFFF, 0x0, 0x0, 0x0, 0x1FFFF, .slot, false⟩
  | .DRV_FREQ_SET_LO => ⟨48, 0x110008, 64, 512, 0, 1, 0xFFFFFFFF, 0x0, 0x0, 0x0, 0x0, .slot, false⟩
  | .DRV_FREQ_SET_HI => ⟨49, 0x11000C, 64, 512, 0, 1, 0xFFFF, 0x0, 0x0, 0x0, 0x0, .slot, false⟩
  | .DRV_FREQ_CUR_LO => ⟨50, 0x110010, 64, 512, 0, 1, 0x0, 0x0, 0x0, 0x0, 0x0, .slot, false⟩
  | .DRV_FREQ_CUR_HI => ⟨51, 0x110014, 64, 512, 0, 1, 0x0, 0x0, 0x0, 0x0, 0x0, .slot, false⟩
  | .DRV_PHASE_OFS => ⟨52, 0x110018, 64, 512, 0, 1, 0xFFFFFFFF, 0x0, 0x0, 0x0, 0x0, .slot, false⟩
  | .DRV_TREF_LO => ⟨53, 0x11001C, 64, 512, 0, 1, 0x0, 0x0, 0x0, 0x0, 0x0, .slot, false⟩
  | .DRV_TREF_HI => ⟨54, 0x110020, 64, 512, 0, 1, 0x0, 0x0, 0x0, 0x0, 0x0, .slot, false⟩
  | .SLOT_STATUS => ⟨55, 0x110024, 64, 512, 0, 1, 0x0, 0x1, 0x0, 0x0, 0x0, .slot, false⟩
  | .RDO_OVR_SUM => ⟨56, 0x140000, 0, 1, 0, 1, 0x0, 0x0, 0x0, 0x0, 0x0, .all, false⟩
  | .RDO_IGNORED_WRITES => ⟨57, 0x140004, 0, 1, 0, 1, 0xFFFFFFFF, 0x0, 0x0, 0x0, 0x0, .pd, false⟩
  | .RDO_ECC_CORRECTED => ⟨58, 0x140008, 0, 1, 0, 1, 0xFFFFFFFF, 0x0, 0x0, 0x0, 0x0, .pd, false⟩
  | .XSAT_COUNT => ⟨59, 0x14000C, 0, 1, 0, 1, 0xFFFFFFFF, 0x0, 0x0, 0x0, 0x0, .pd, false⟩
  | .IN_CTL => ⟨60, 0x141000, 64, 8, 0, 1, 0x1, 0x0, 0x0, 0x0, 0x0, .input, false⟩
  | .IN_STATUS => ⟨61, 0x141004, 64, 8, 0, 1, 0x0, 0x1, 0x0, 0x0, 0x0, .input, false⟩
  | .OVR_ROWS => ⟨62, 0x141008, 64, 8, 0, 1, 0xFFFFFFFF, 0x0, 0x0, 0x0, 0x0, .input, false⟩
  | .OVR_FIRST_LO => ⟨63, 0x14100C, 64, 8, 0, 1, 0x0, 0x0, 0x0, 0x0, 0x0, .input, false⟩
  | .OVR_FIRST_HI => ⟨64, 0x141010, 64, 8, 0, 1, 0x0, 0x0, 0x0, 0x0, 0x0, .input, false⟩
  | .CH_CTL => ⟨65, 0x150000, 128, 256, 0, 1, 0xF83, 0x0, 0x0, 0xC, 0x0, .chan, false⟩
  | .CH_STATUS => ⟨66, 0x150004, 128, 256, 0, 1, 0x0, 0xF, 0x0, 0x0, 0x0, .chan, false⟩
  | .RDO_FREQ_SET_LO => ⟨67, 0x150008, 128, 256, 0, 1, 0xFFFFFFFF, 0x0, 0x0, 0x0, 0x0, .chan, false⟩
  | .RDO_FREQ_SET_HI => ⟨68, 0x15000C, 128, 256, 0, 1, 0xFFFF, 0x0, 0x0, 0x0, 0x0, .chan, false⟩
  | .RDO_FREQ_CUR_LO => ⟨69, 0x150010, 128, 256, 0, 1, 0x0, 0x0, 0x0, 0x0, 0x0, .chan, false⟩
  | .RDO_FREQ_CUR_HI => ⟨70, 0x150014, 128, 256, 0, 1, 0x0, 0x0, 0x0, 0x0, 0x0, .chan, false⟩
  | .RDO_PHASE_OFS => ⟨71, 0x150018, 128, 256, 0, 1, 0xFFFFFFFF, 0x0, 0x0, 0x0, 0x0, .chan, false⟩
  | .RDO_TREF_LO => ⟨72, 0x15001C, 128, 256, 0, 1, 0x0, 0x0, 0x0, 0x0, 0x0, .chan, false⟩
  | .RDO_TREF_HI => ⟨73, 0x150020, 128, 256, 0, 1, 0x0, 0x0, 0x0, 0x0, 0x0, .chan, false⟩
  | .LAST_XI => ⟨74, 0x150024, 128, 256, 0, 1, 0x0, 0x0, 0x0, 0x0, 0x0, .chan, false⟩
  | .LAST_XQ => ⟨75, 0x150028, 128, 256, 0, 1, 0x0, 0x0, 0x0, 0x0, 0x0, .chan, false⟩
  | .LAST_TOKEN => ⟨76, 0x15002C, 128, 256, 0, 1, 0x0, 0x0, 0x0, 0x0, 0x0, .chan, false⟩
  | .AVG_SUMI_LO => ⟨77, 0x150030, 128, 256, 0, 1, 0x0, 0x0, 0x0, 0x0, 0x0, .chan, false⟩
  | .AVG_SUMI_HI => ⟨78, 0x150034, 128, 256, 0, 1, 0x0, 0x0, 0x0, 0x0, 0x0, .chan, false⟩
  | .AVG_SUMQ_LO => ⟨79, 0x150038, 128, 256, 0, 1, 0x0, 0x0, 0x0, 0x0, 0x0, .chan, false⟩
  | .AVG_SUMQ_HI => ⟨80, 0x15003C, 128, 256, 0, 1, 0x0, 0x0, 0x0, 0x0, 0x0, .chan, false⟩
  | .AVG_COUNT => ⟨81, 0x150040, 128, 256, 0, 1, 0x0, 0x0, 0x0, 0x0, 0x0, .chan, false⟩
  | .AVG_S0 => ⟨82, 0x150044, 128, 256, 0, 1, 0x0, 0x0, 0x0, 0x0, 0x0, .chan, false⟩
  | .AVG_S1 => ⟨83, 0x150048, 128, 256, 0, 1, 0x0, 0x0, 0x0, 0x0, 0x0, .chan, false⟩
  | .AVG_S2 => ⟨84, 0x15004C, 128, 256, 0, 1, 0x0, 0x0, 0x0, 0x0, 0x0, .chan, false⟩
  | .AVG_S3 => ⟨85, 0x150050, 128, 256, 0, 1, 0x0, 0x0, 0x0, 0x0, 0x0, .chan, false⟩
  | .AVG_OVR => ⟨86, 0x150054, 128, 256, 0, 1, 0x0, 0x0, 0x0, 0x0, 0x0, .chan, false⟩
  | .AVG_XSAT => ⟨87, 0x150058, 128, 256, 0, 1, 0x0, 0x0, 0x0, 0x0, 0x0, .chan, false⟩
  | .KS_CFG => ⟨88, 0x160000, 64, 1024, 0, 1, 0xF01F000F, 0x0, 0x0, 0x0, 0x80100000, .kset, false⟩
  | .KS_KADDR => ⟨89, 0x160004, 64, 1024, 0, 1, 0xFFFFF, 0x0, 0x0, 0x0, 0x0, .kset, false⟩
  | .KS_MAP => ⟨90, 0x160008, 64, 1024, 0, 1, 0xFFFF, 0x0, 0x0, 0x0, 0xE4E4, .kset, false⟩
  | .KS_AB0 => ⟨91, 0x16000C, 64, 1024, 0, 1, 0xFFFFFFFF, 0x0, 0x0, 0x0, 0x0, .kset, false⟩
  | .KS_C0 => ⟨92, 0x160010, 64, 1024, 0, 1, 0xFFFFFFFF, 0x0, 0x0, 0x0, 0x0, .kset, false⟩
  | .KS_AB1 => ⟨93, 0x160014, 64, 1024, 0, 1, 0xFFFFFFFF, 0x0, 0x0, 0x0, 0x0, .kset, false⟩
  | .KS_C1 => ⟨94, 0x160018, 64, 1024, 0, 1, 0xFFFFFFFF, 0x0, 0x0, 0x0, 0x0, .kset, false⟩
  | .KS_AB2 => ⟨95, 0x16001C, 64, 1024, 0, 1, 0xFFFFFFFF, 0x0, 0x0, 0x0, 0x0, .kset, false⟩
  | .KS_C2 => ⟨96, 0x160020, 64, 1024, 0, 1, 0xFFFFFFFF, 0x0, 0x0, 0x0, 0x0, .kset, false⟩
  | .ASAP_MARGIN => ⟨97, 0xC0000, 0, 1, 0, 1, 0x3F, 0x0, 0x0, 0x0, 0x6, .pdWrite, false⟩
  | .TK_LATE_COUNT => ⟨98, 0xC0004, 0, 1, 0, 1, 0xFFFFFFFF, 0x0, 0x0, 0x0, 0x0, .pd, false⟩
  | .TK_DEFAULT_COUNT => ⟨99, 0xC0008, 0, 1, 0, 1, 0xFFFFFFFF, 0x0, 0x0, 0x0, 0x0, .pd, false⟩
  | .TK_OVERFLOW_COUNT => ⟨100, 0xC000C, 0, 1, 0, 1, 0xFFFFFFFF, 0x0, 0x0, 0x0, 0x0, .pd, false⟩
  | .DT_DISCARD_COUNT => ⟨101, 0xC0010, 0, 1, 0, 1, 0xFFFFFFFF, 0x0, 0x0, 0x0, 0x0, .pd, false⟩
  | .DN_IGNORED => ⟨102, 0xC0014, 0, 1, 0, 1, 0xFFFFFFFF, 0x0, 0x0, 0x0, 0x0, .pd, false⟩
  | .DT_ECC_CORRECTED => ⟨103, 0xC0018, 0, 1, 0, 1, 0xFFFFFFFF, 0x0, 0x0, 0x0, 0x0, .pd, false⟩
  | .THR_SUB => ⟨104, 0xC1000, 32, 256, 4, 8, 0x0, 0x0, 0x0, 0x0, 0x0, .thread, false⟩
  | .DT_CFG => ⟨105, 0xC8000, 512, 64, 0, 1, 0xC0000FFF, 0x0, 0x0, 0x0, 0x0, .table, false⟩
  | .DT_STATUS => ⟨106, 0xC8004, 512, 64, 0, 1, 0x0, 0x0, 0x0, 0x0, 0x0, .table, false⟩
  | .DT_FIRES => ⟨107, 0xC8008, 512, 64, 0, 1, 0xFFFFFFFF, 0x0, 0x0, 0x0, 0x0, .table, false⟩
  | .DT_IN => ⟨108, 0xC8010, 512, 64, 4, 8, 0x8000F1FF, 0x0, 0x0, 0x0, 0x0, .table, false⟩
  | .DT_LUT => ⟨109, 0xC8100, 512, 64, 4, 64, 0xFFFFFFFF, 0x0, 0x0, 0x0, 0x0, .table, false⟩
  | .COMPLY_SUM0 => ⟨110, 0x180000, 0, 1, 0, 1, 0x0, 0x0, 0x0, 0x0, 0x0, .all, false⟩
  | .COMPLY_SUM1 => ⟨111, 0x180004, 0, 1, 0, 1, 0x0, 0x0, 0x0, 0x0, 0x0, .all, false⟩
  | .FLX_IGNORED_WRITES => ⟨112, 0x180008, 0, 1, 0, 1, 0xFFFFFFFF, 0x0, 0x0, 0x0, 0x0, .pd, false⟩
  | .FLX_ECC_CORRECTED => ⟨113, 0x18000C, 0, 1, 0, 1, 0xFFFFFFFF, 0x0, 0x0, 0x0, 0x0, .pd, false⟩
  | .FG_STROBE => ⟨114, 0x180100, 4, 8, 0, 1, 0x0, 0x0, 0x0, 0x1, 0x0, .fgroup, false⟩
  | .FG_COUNT => ⟨115, 0x180120, 4, 8, 0, 1, 0xFFFFFFFF, 0x0, 0x0, 0x0, 0x0, .fgroup, false⟩
  | .FLX_CTL => ⟨116, 0x190000, 64, 64, 0, 1, 0xF, 0x0, 0x0, 0x0, 0x0, .flux, false⟩
  | .FLX_STATUS => ⟨117, 0x190004, 64, 64, 0, 1, 0x0, 0x5, 0x0, 0x0, 0x8000, .flux, false⟩
  | .FLX_LEVEL => ⟨118, 0x190008, 64, 64, 0, 1, 0xFFFF, 0x0, 0x0, 0x0, 0x0, .flux, false⟩
  | .FLX_PENDING => ⟨119, 0x19000C, 64, 64, 0, 1, 0x0, 0x0, 0x0, 0x0, 0x0, .flux, false⟩
  | .FLX_SLEW => ⟨120, 0x190010, 64, 64, 0, 1, 0xFFFF, 0x0, 0x0, 0x0, 0x3E8, .flux, false⟩
  | .FLX_PARK => ⟨121, 0x190014, 64, 64, 0, 1, 0xFFFF, 0x0, 0x0, 0x0, 0x0, .flux, false⟩
  | .FLX_RANGE_TGT => ⟨122, 0x190018, 64, 64, 0, 1, 0xFFFF, 0x0, 0x0, 0x0, 0x0, .flux, false⟩
  | .COMPLY_COUNT => ⟨123, 0x19001C, 64, 64, 0, 1, 0xFFFFFFFF, 0x0, 0x0, 0x0, 0x0, .flux, false⟩
  | .TRIP_SUM0 => ⟨124, 0x1A0000, 0, 1, 0, 1, 0x0, 0x0, 0x0, 0x0, 0x0, .all, false⟩
  | .TRIP_SUM1 => ⟨125, 0x1A0004, 0, 1, 0, 1, 0x0, 0x0, 0x0, 0x0, 0x0, .all, false⟩
  | .TRIP_SUM2 => ⟨126, 0x1A0008, 0, 1, 0, 1, 0x0, 0x0, 0x0, 0x0, 0x0, .all, false⟩
  | .MON_IGNORED_WRITES => ⟨127, 0x1A000C, 0, 1, 0, 1, 0xFFFFFFFF, 0x0, 0x0, 0x0, 0x0, .pd, false⟩
  | .MON_CFG => ⟨128, 0x1A1000, 32, 96, 0, 1, 0xFF030019, 0x0, 0x4, 0x0, 0x10000000, .monitor, false⟩
  | .MON_TH => ⟨129, 0x1A1004, 32, 96, 0, 1, 0xFFFFFFFF, 0x0, 0x0, 0x0, 0x7FC08000, .monitor, false⟩
  | .MON_HYST => ⟨130, 0x1A1008, 32, 96, 0, 1, 0xFFFF, 0x0, 0x0, 0x0, 0x400, .monitor, false⟩
  | .MON_BLANK => ⟨131, 0x1A100C, 32, 96, 0, 1, 0xC700FFFF, 0x0, 0x0, 0x0, 0x0, .monitor, false⟩
  | .MON_STATUS => ⟨132, 0x1A1010, 32, 96, 0, 1, 0x0, 0x1, 0x0, 0x100, 0x0, .monitor, false⟩
  | .TRIP_COUNT => ⟨133, 0x1A1014, 32, 96, 0, 1, 0xFFFFFFFF, 0x0, 0x0, 0x0, 0x0, .monitor, false⟩
  | .TRIP_T_LO => ⟨134, 0x1A1018, 32, 96, 0, 1, 0x0, 0x0, 0x0, 0x0, 0x0, .monitor, false⟩
  | .TRIP_T_HI => ⟨135, 0x1A101C, 32, 96, 0, 1, 0x0, 0x0, 0x0, 0x0, 0x0, .monitor, false⟩
  | .AUX_MASK => ⟨136, 0x1B0000, 0, 1, 0, 1, 0xFF, 0x0, 0x0, 0x0, 0x0, .pdWrite, false⟩
  | .AUX_START => ⟨137, 0x1B0004, 0, 1, 0, 1, 0x0, 0x0, 0x0, 0xFFFFFFFF, 0x0, .pdWrite, false⟩
  | .AUX_PERIOD => ⟨138, 0x1B0008, 0, 1, 0, 1, 0xFFFFF, 0x0, 0x0, 0x0, 0x0, .pdWrite, false⟩
  | .AUX_STATUS => ⟨139, 0x1B000C, 0, 1, 0, 1, 0x0, 0xFF, 0x0, 0x0, 0x0, .pdWrite, false⟩
  | .AUX_BIAS => ⟨140, 0x1B0010, 0, 1, 0, 1, 0xFFFF, 0x0, 0x0, 0x0, 0x0, .pdWrite, false⟩
  | .AUX_SKIPPED => ⟨141, 0x1B0014, 0, 1, 0, 1, 0xFFFFFFFF, 0x0, 0x0, 0x0, 0x0, .pdWrite, false⟩
  | .AUX_IGNORED => ⟨142, 0x1B0018, 0, 1, 0, 1, 0xFFFFFFFF, 0x0, 0x0, 0x0, 0x0, .pdWrite, false⟩
  | .SCAN_COUNT => ⟨143, 0x1B001C, 0, 1, 0, 1, 0xFFFFFFFF, 0x0, 0x0, 0x0, 0x0, .pdWrite, false⟩
  | .SCAN_T_LO => ⟨144, 0x1B0020, 0, 1, 0, 1, 0x0, 0x0, 0x0, 0x0, 0x0, .pdWrite, false⟩
  | .SCAN_T_HI => ⟨145, 0x1B0024, 0, 1, 0, 1, 0x0, 0x0, 0x0, 0x0, 0x0, .pdWrite, false⟩
  | .AUX_RESULT => ⟨146, 0x1B0040, 4, 8, 0, 1, 0x0, 0x80000000, 0x0, 0x0, 0x0, .pdWrite, false⟩
  | .CAP_IGNORED_WRITES => ⟨147, 0x1C0000, 0, 1, 0, 1, 0xFFFFFFFF, 0x0, 0x0, 0x0, 0x0, .pd, false⟩
  | .CAP_CTL => ⟨148, 0x1C1000, 1024, 2, 0, 1, 0xE00F87FF, 0x0, 0x0, 0x0, 0x0, .engine, false⟩
  | .CAP_TRIG => ⟨149, 0x1C1004, 1024, 2, 0, 1, 0xFC070000, 0x0, 0x0, 0x0, 0x0, .engine, false⟩
  | .CAP_LEVEL => ⟨150, 0x1C1008, 1024, 2, 0, 1, 0xFFFF, 0x0, 0x0, 0x0, 0x0, .engine, false⟩
  | .CAP_HOLDOFF => ⟨151, 0x1C100C, 1024, 2, 0, 1, 0x80FFFFFF, 0x0, 0x0, 0x0, 0x0, .engine, false⟩
  | .CAP_LEAD => ⟨152, 0x1C1010, 1024, 2, 0, 1, 0xFFFF, 0x0, 0x0, 0x0, 0x0, .engine, false⟩
  | .TRIG_MASK_LO => ⟨153, 0x1C1014, 1024, 2, 0, 1, 0xFFFFFFFF, 0x0, 0x0, 0x0, 0x0, .engine, false⟩
  | .TRIG_MASK_HI => ⟨154, 0x1C1018, 1024, 2, 0, 1, 0xFFFFFFFF, 0x0, 0x0, 0x0, 0x0, .engine, false⟩
  | .CAP_STATUS => ⟨155, 0x1C101C, 1024, 2, 0, 1, 0x0, 0x1, 0x0, 0x0, 0x0, .engine, false⟩
  | .CAP_INDEX_LO => ⟨156, 0x1C1020, 1024, 2, 0, 1, 0x0, 0x0, 0x0, 0x0, 0x0, .engine, false⟩
  | .CAP_INDEX_HI => ⟨157, 0x1C1024, 1024, 2, 0, 1, 0x0, 0x0, 0x0, 0x0, 0x0, .engine, false⟩
  | .LOST_COUNT => ⟨158, 0x1C1028, 1024, 2, 0, 1, 0xFFFFFFFF, 0x0, 0x0, 0x0, 0x0, .engine, false⟩
  | .MARK_COUNT => ⟨159, 0x1C102C, 1024, 2, 0, 1, 0xFFFFFFFF, 0x0, 0x0, 0x0, 0x0, .engine, false⟩
  | .REC_SEL => ⟨160, 0x1C1100, 1024, 2, 4, 64, 0xFFF, 0x0, 0x0, 0x0, 0x0, .engine, false⟩
  | .DSP_IGNORED_WRITES => ⟨161, 0x1E0000, 0, 1, 0, 1, 0xFFFFFFFF, 0x0, 0x0, 0x0, 0x0, .pd, false⟩
  | .DSP_ECC_CORRECTED => ⟨162, 0x1E0004, 0, 1, 0, 1, 0xFFFFFFFF, 0x0, 0x0, 0x0, 0x0, .pd, false⟩
  | .LANE_CTL => ⟨163, 0x1E1000, 64, 16, 0, 1, 0x1, 0x0, 0x0, 0x6, 0x0, .lane, false⟩
  | .DSP_LANE_STATUS => ⟨164, 0x1E1004, 64, 16, 0, 1, 0x0, 0x7, 0x0, 0x0, 0x0, .lane, false⟩
  | .LANE_ENTRY => ⟨165, 0x1E1008, 64, 16, 0, 1, 0xFFFF, 0x0, 0x0, 0x0, 0x0, .lane, false⟩
  | .LANE_PC => ⟨166, 0x1E100C, 64, 16, 0, 1, 0x0, 0x0, 0x0, 0x0, 0x0, .lane, false⟩
  | .FAULT_PC => ⟨167, 0x1E1010, 64, 16, 0, 1, 0x0, 0x0, 0x0, 0x0, 0x0, .lane, false⟩
  | .Q_LEVEL => ⟨168, 0x1E1014, 64, 16, 0, 1, 0x0, 0x0, 0x0, 0x0, 0x0, .lane, false⟩
  | .QDROP => ⟨169, 0x1E1018, 64, 16, 0, 1, 0xFFFFFFFF, 0x0, 0x0, 0x0, 0x0, .lane, false⟩
  | .REC_DROP => ⟨170, 0x1E101C, 64, 16, 0, 1, 0xFFFFFFFF, 0x0, 0x0, 0x0, 0x0, .lane, false⟩
  | .DSP_JOBS => ⟨171, 0x1E1020, 64, 16, 0, 1, 0xFFFFFFFF, 0x0, 0x0, 0x0, 0x0, .lane, false⟩
  | .CYCLES_LO => ⟨172, 0x1E1024, 64, 16, 0, 1, 0x0, 0x0, 0x0, 0x0, 0x0, .lane, false⟩
  | .CYCLES_HI => ⟨173, 0x1E1028, 64, 16, 0, 1, 0x0, 0x0, 0x0, 0x0, 0x0, .lane, false⟩
  | .CAL_STATUS => ⟨174, 0x1F0000, 0, 1, 0, 1, 0x0, 0x0, 0x0, 0x0, 0x0, .pdWrite, false⟩
  | .CAL_QUIET_TH => ⟨175, 0x1F0004, 0, 1, 0, 1, 0xFFFFFFFF, 0x0, 0x0, 0x0, 0xFFFFFFCE, .pdWrite, false⟩
  | .CAL_IMPLAUSIBLE_COUNT => ⟨176, 0x1F0008, 0, 1, 0, 1, 0xFFFFFFFF, 0x0, 0x0, 0x0, 0x0, .pdWrite, false⟩
  | .BG_REJECT => ⟨177, 0x1F000C, 0, 1, 0, 1, 0xFFFFFFFF, 0x0, 0x0, 0x0, 0x0, .pdWrite, false⟩
  | .BG_CTL => ⟨178, 0x1F0010, 0, 1, 0, 1, 0xFF, 0x0, 0x0, 0x0, 0x0, .all, false⟩
  | .BG_STATUS => ⟨179, 0x1F0014, 0, 1, 0, 1, 0x0, 0x0, 0x0, 0x0, 0x0, .all, false⟩
  | .CAL_VALID_DAC => ⟨180, 0x1F0020, 0, 1, 0, 1, 0x0, 0x0, 0x0, 0x0, 0x0, .all, false⟩
  | .CAL_VALID_IN => ⟨181, 0x1F0024, 0, 1, 0, 1, 0x0, 0x0, 0x0, 0x0, 0x0, .all, false⟩
  | .CAL_VALID_FLX0 => ⟨182, 0x1F0028, 0, 1, 0, 1, 0x0, 0x0, 0x0, 0x0, 0x0, .all, false⟩
  | .CAL_VALID_FLX1 => ⟨183, 0x1F002C, 0, 1, 0, 1, 0x0, 0x0, 0x0, 0x0, 0x0, .all, false⟩
  | .CAL_VALID1_FLX0 => ⟨184, 0x1F0030, 0, 1, 0, 1, 0x0, 0x0, 0x0, 0x0, 0x0, .all, false⟩
  | .CAL_VALID1_FLX1 => ⟨185, 0x1F0034, 0, 1, 0, 1, 0x0, 0x0, 0x0, 0x0, 0x0, .all, false⟩
  | .CORE_TRIM => ⟨186, 0x1F0100, 4, 16, 0, 1, 0x0, 0x0, 0x0, 0x0, 0x4000, .coreTrim, false⟩
  | .IN_TAP => ⟨187, 0x1F0180, 4, 8, 0, 1, 0x0, 0x0, 0x0, 0x0, 0x40, .input, false⟩
  | .FLX_TRIM => ⟨188, 0x1F0200, 4, 64, 0, 1, 0x0, 0x0, 0x0, 0x0, 0x4000, .flux, false⟩
  | .EVR_IGNORED_WRITES => ⟨189, 0x40000, 0, 1, 0, 1, 0xFFFFFFFF, 0x0, 0x0, 0x0, 0x0, .pd, false⟩
  | .LOOP_COUNT => ⟨190, 0x40004, 0, 1, 0, 1, 0xFFFFFFFF, 0x0, 0x0, 0x0, 0x0, .pd, false⟩
  | .EC_FIRE => ⟨191, 0x40008, 0, 1, 0, 1, 0x0, 0x0, 0x0, 0xFFFFFFFF, 0x0, .all, false⟩
  | .EG_CTL => ⟨192, 0x4000C, 0, 1, 0, 1, 0xFFFFFFFF, 0x0, 0x0, 0x0, 0xFFFFFFFF, .all, false⟩
  | .EC_CFG => ⟨193, 0x41000, 16, 512, 0, 1, 0xE0000FFF, 0x0, 0x0, 0x0, 0x1E000000, .event, false⟩
  | .EC_FIRES => ⟨194, 0x41004, 16, 512, 0, 1, 0xFFFFFFFF, 0x0, 0x0, 0x0, 0x0, .event, false⟩
  | .EC_DROPS => ⟨195, 0x41008, 16, 512, 0, 1, 0xFFFFFFFF, 0x0, 0x0, 0x0, 0x0, .event, false⟩
  | .TASK_SEL => ⟨196, 0x44000, 4, 448, 0, 1, 0x9FF803FF, 0x0, 0x0, 0x40000000, 0x0, .task, false⟩
  | .TASK_DROP => ⟨197, 0x46000, 4, 448, 0, 1, 0xFFFFFFFF, 0x0, 0x0, 0x0, 0x0, .task, false⟩
  | .HQ_STATUS => ⟨198, 0x20000, 0, 1, 0, 1, 0x0, 0x0, 0x0, 0x0, 0x0, .pdWrite, false⟩
  | .ARB_AGE_LIMIT => ⟨199, 0x20004, 0, 1, 0, 1, 0xFFFF, 0x0, 0x0, 0x0, 0x400, .pdWrite, false⟩
  | .TAGS_FREE => ⟨200, 0x20008, 0, 1, 0, 1, 0x0, 0x0, 0x0, 0x0, 0x2000, .pdWrite, false⟩
  | .TAG_QUOTA => ⟨201, 0x20010, 4, 5, 0, 1, 0x3FFF, 0x0, 0x0, 0x0, 0x800, .pdWrite, true⟩
  | .CTX_BASE_LO => ⟨202, 0x20100, 32, 5, 0, 1, 0xFFFFFFFF, 0x0, 0x0, 0x0, 0x0, .part, true⟩
  | .CTX_BASE_HI => ⟨203, 0x20104, 32, 5, 0, 1, 0xFFFFFFFF, 0x0, 0x0, 0x0, 0x0, .part, true⟩
  | .RID_BASE => ⟨204, 0x20108, 32, 5, 0, 1, 0x0, 0x0, 0x0, 0x0, 0x0, .part, true⟩
  | .RID_COUNT => ⟨205, 0x2010C, 32, 5, 0, 1, 0x0, 0x0, 0x0, 0x0, 0x0, .part, true⟩
  | .TAGS_USED => ⟨206, 0x20110, 32, 5, 0, 1, 0x0, 0x0, 0x0, 0x0, 0x0, .part, true⟩
  | .PORT_CTL => ⟨207, 0x21000, 256, 2, 0, 1, 0x1, 0x0, 0x0, 0x0, 0x0, .port, false⟩
  | .PORT_STATUS => ⟨208, 0x21004, 256, 2, 0, 1, 0x0, 0x0, 0x0, 0x0, 0x0, .port, false⟩
  | .DB_BASE_LO => ⟨209, 0x21008, 256, 2, 0, 1, 0xFFFFFFFF, 0x0, 0x0, 0x0, 0x0, .port, false⟩
  | .DB_BASE_HI => ⟨210, 0x2100C, 256, 2, 0, 1, 0xFFFFFFFF, 0x0, 0x0, 0x0, 0x0, .port, false⟩
  | .POLL_MIN => ⟨211, 0x21010, 256, 2, 0, 1, 0xFFFF, 0x0, 0x0, 0x0, 0xC8, .port, false⟩
  | .POLL_MAX => ⟨212, 0x21014, 256, 2, 0, 1, 0x3F, 0x0, 0x0, 0x0, 0x32, .port, false⟩
  | .KICK => ⟨213, 0x21018, 256, 2, 0, 1, 0x0, 0x0, 0x0, 0xFFFFFFFF, 0x0, .port, false⟩
  | .RING_OP => ⟨214, 0x2101C, 256, 2, 0, 1, 0x0, 0x0, 0x0, 0xF00FFFFF, 0x0, .port, false⟩
  | .RING_OP_STATUS => ⟨215, 0x21020, 256, 2, 0, 1, 0x0, 0x0, 0x0, 0x0, 0x0, .port, false⟩
  | .OUTSTANDING_READS => ⟨216, 0x21024, 256, 2, 0, 1, 0x0, 0x0, 0x0, 0x0, 0x0, .port, false⟩
  | .DENIED_COUNT => ⟨217, 0x21028, 256, 2, 0, 1, 0xFFFFFFFF, 0x0, 0x0, 0x0, 0x0, .port, false⟩
  | .RECORD_LOST => ⟨218, 0x2102C, 256, 2, 0, 1, 0xFFFFFFFF, 0x0, 0x0, 0x0, 0x0, .port, false⟩
  | .COMPL_LOST => ⟨219, 0x21030, 256, 2, 0, 1, 0xFFFFFFFF, 0x0, 0x0, 0x0, 0x0, .port, false⟩
  | .PART_STATUS => ⟨220, 0x10000, 0, 1, 0, 1, 0x0, 0x0, 0x0, 0x0, 0x0, .all, false⟩
  | .CAST_ON_ID_LO => ⟨221, 0x10008, 0, 1, 0, 1, 0x0, 0x0, 0x0, 0x0, 0x0, .all, false⟩
  | .CAST_ON_ID_HI => ⟨222, 0x1000C, 0, 1, 0, 1, 0x0, 0x0, 0x0, 0x0, 0x0, .all, false⟩
  | .MANIFEST_SEQ => ⟨223, 0x10010, 0, 1, 0, 1, 0x0, 0x0, 0x0, 0x0, 0x0, .all, false⟩
  | .PORT_PART => ⟨224, 0x10100, 32, 2, 0, 1, 0x0, 0x0, 0x0, 0x0, 0xF0, .port, false⟩
  | .FOREIGN_WRITES => ⟨225, 0x10104, 32, 2, 0, 1, 0xFFFFFFFF, 0x0, 0x0, 0x0, 0x0, .port, false⟩
  | .IDE_STATUS => ⟨226, 0x10108, 32, 2, 0, 1, 0x0, 0x0, 0x0, 0x0, 0x0, .port, false⟩
  | .IDE_FAIL_COUNT => ⟨227, 0x1010C, 32, 2, 0, 1, 0xFFFFFFFF, 0x0, 0x0, 0x0, 0x0, .port, false⟩
  | .RGN_TOTAL_LO => ⟨228, 0x11000, 16, 5, 0, 1, 0x0, 0x0, 0x0, 0x0, 0x0, .part, true⟩
  | .RGN_TOTAL_HI => ⟨229, 0x11004, 16, 5, 0, 1, 0x0, 0x0, 0x0, 0x0, 0x0, .part, true⟩
  | .RGN_IGNORED => ⟨230, 0x11008, 16, 5, 0, 1, 0xFFFFFFFF, 0x0, 0x0, 0x0, 0x0, .part, true⟩
  | .RGN_BASE_LO => ⟨231, 0x12000, 8192, 5, 32, 256, 0xFFFFFFFF, 0x0, 0x0, 0x0, 0x0, .part, true⟩
  | .RGN_BASE_HI => ⟨232, 0x12004, 8192, 5, 32, 256, 0xFFFFFFFF, 0x0, 0x0, 0x0, 0x0, .part, true⟩
  | .RGN_SIZE_LO => ⟨233, 0x12008, 8192, 5, 32, 256, 0xFFFFFFFF, 0x0, 0x0, 0x0, 0x0, .part, true⟩
  | .RGN_SIZE_HI => ⟨234, 0x1200C, 8192, 5, 32, 256, 0xFFFFFFFF, 0x0, 0x0, 0x0, 0x0, .part, true⟩
  | .RGN_CTL => ⟨235, 0x12010, 8192, 5, 32, 256, 0x80000003, 0x0, 0x0, 0x0, 0x0, .part, true⟩
  | .PT_WINDOW => ⟨236, 0x1C000, 4, 640, 0, 1, 0x0, 0x0, 0x0, 0x0, 0x0, .all, false⟩
  | .BOOT_RING_LO => ⟨237, 0x1000, 0, 1, 0, 1, 0xFFFFFFFF, 0x0, 0x0, 0x0, 0x0, .all, false⟩
  | .BOOT_RING_HI => ⟨238, 0x1004, 0, 1, 0, 1, 0xFFFFFFFF, 0x0, 0x0, 0x0, 0x0, .all, false⟩
  | .BOOT_RING_COUNT => ⟨239, 0x1008, 0, 1, 0, 1, 0x7FF, 0x0, 0x0, 0x0, 0x0, .all, false⟩
  | .BOOT_LEN => ⟨240, 0x100C, 0, 1, 0, 1, 0xFFFFFFFF, 0x0, 0x0, 0x0, 0x0, .all, false⟩
  | .BOOT_CTL => ⟨241, 0x1010, 0, 1, 0, 1, 0x0, 0x0, 0x0, 0x3, 0x0, .all, false⟩
  | .BOOT_STATUS => ⟨242, 0x1014, 0, 1, 0, 1, 0x0, 0x0, 0x0, 0x0, 0x0, .all, false⟩
  | .BOOT_READ => ⟨243, 0x1018, 0, 1, 0, 1, 0x0, 0x0, 0x0, 0x0, 0x0, .all, false⟩
  | .BOOT_STATE => ⟨244, 0x1040, 0, 1, 0, 1, 0x0, 0x0, 0x0, 0x0, 0x1, .all, false⟩
  | .BOOT_RECAST => ⟨245, 0x1044, 0, 1, 0, 1, 0x0, 0x0, 0x0, 0xFFFFFFFF, 0x0, .pdWrite, false⟩
  | .BOOT_IGNORED => ⟨246, 0x1048, 0, 1, 0, 1, 0x0, 0x0, 0x0, 0x0, 0x0, .all, false⟩
  | .CMP_CTL => ⟨247, 0x1D0000, 0, 1, 0, 1, 0x1F, 0x0, 0x0, 0x0, 0x3, .pdWrite, false⟩
  | .CMP_STATUS => ⟨248, 0x1D0004, 0, 1, 0, 1, 0x0, 0x0, 0x0, 0x0, 0x0, .pd, false⟩
  | .SKEIN_FLUSH => ⟨249, 0x1D0008, 0, 1, 0, 1, 0xFFFF, 0x0, 0x0, 0x0, 0x64, .pd, false⟩
  | .CMP_JOBS => ⟨250, 0x1D000C, 0, 1, 0, 1, 0xFFFFFFFF, 0x0, 0x0, 0x0, 0x0, .pd, false⟩
  | .RAW_SKEINS => ⟨251, 0x1D0010, 0, 1, 0, 1, 0xFFFFFFFF, 0x0, 0x0, 0x0, 0x0, .pd, false⟩
  | .VERIFY_FAIL => ⟨252, 0x1D0014, 0, 1, 0, 1, 0xFFFFFFFF, 0x0, 0x0, 0x0, 0x0, .pd, false⟩
  | .DECODE_FAIL => ⟨253, 0x1D0018, 0, 1, 0, 1, 0xFFFFFFFF, 0x0, 0x0, 0x0, 0x0, .pd, false⟩
  | .CMP_ECC_CORRECTED => ⟨254, 0x1D001C, 0, 1, 0, 1, 0xFFFFFFFF, 0x0, 0x0, 0x0, 0x0, .pd, false⟩
  | .BYTES_IN_LO => ⟨255, 0x1D0020, 0, 1, 0, 1, 0x0, 0x0, 0x0, 0x0, 0x0, .pd, false⟩
  | .BYTES_IN_HI => ⟨256, 0x1D0024, 0, 1, 0, 1, 0x0, 0x0, 0x0, 0x0, 0x0, .pd, false⟩
  | .BYTES_OUT_LO => ⟨257, 0x1D0028, 0, 1, 0, 1, 0x0, 0x0, 0x0, 0x0, 0x0, .pd, false⟩
  | .BYTES_OUT_HI => ⟨258, 0x1D002C, 0, 1, 0, 1, 0x0, 0x0, 0x0, 0x0, 0x0, .pd, false⟩
  | .NT_CTL => ⟨259, 0x60100, 0, 1, 0, 1, 0xFC0000FF, 0x0, 0x0, 0x0, 0x0, .pd, true⟩
  | .NT_STATUS => ⟨260, 0x60104, 0, 1, 0, 1, 0x0, 0x0, 0x0, 0x0, 0x0, .pdWrite, false⟩
  | .NT_SEC_LO => ⟨261, 0x60108, 0, 1, 0, 1, 0x0, 0x0, 0x0, 0x0, 0x0, .pdWrite, false⟩
  | .NT_SEC_HI => ⟨262, 0x6010C, 0, 1, 0, 1, 0x0, 0x0, 0x0, 0x0, 0x0, .pdWrite, false⟩
  | .NT_NS => ⟨263, 0x60110, 0, 1, 0, 1, 0x0, 0x0, 0x0, 0x0, 0x0, .pdWrite, false⟩
  | .NT_FRAC => ⟨264, 0x60114, 0, 1, 0, 1, 0x0, 0x0, 0x0, 0x0, 0x0, .pdWrite, false⟩
  | .NT_ST_LO => ⟨265, 0x60118, 0, 1, 0, 1, 0x0, 0x0, 0x0, 0x0, 0x0, .pdWrite, false⟩
  | .NT_ST_HI => ⟨266, 0x6011C, 0, 1, 0, 1, 0x0, 0x0, 0x0, 0x0, 0x0, .pdWrite, false⟩
  | .NT_RATE => ⟨267, 0x60120, 0, 1, 0, 1, 0xFFFFFFFF, 0x0, 0x0, 0x0, 0x0, .pd, false⟩
  | .STEP_TH => ⟨268, 0x60124, 0, 1, 0, 1, 0xFFFFFFFF, 0x0, 0x0, 0x0, 0x3E8, .pd, false⟩
  | .LOCK_TH => ⟨269, 0x60128, 0, 1, 0, 1, 0xFFFFFFFF, 0x0, 0x0, 0x0, 0x64, .pd, false⟩
  | .OFFSET => ⟨270, 0x6012C, 0, 1, 0, 1, 0x0, 0x0, 0x0, 0x0, 0x0, .pd, false⟩
  | .MPD => ⟨271, 0x60130, 0, 1, 0, 1, 0x0, 0x0, 0x0, 0x0, 0x0, .pd, false⟩
  | .ASYM0 => ⟨272, 0x60134, 0, 1, 0, 1, 0xFFFFFFFF, 0x0, 0x0, 0x0, 0x0, .pd, false⟩
  | .ASYM1 => ⟨273, 0x60138, 0, 1, 0, 1, 0xFFFFFFFF, 0x0, 0x0, 0x0, 0x0, .pd, false⟩
  | .NT_MAC_LO => ⟨274, 0x6013C, 0, 1, 0, 1, 0xFFFFFFFF, 0x0, 0x0, 0x0, 0x0, .pd, false⟩
  | .NT_MAC_HI => ⟨275, 0x60140, 0, 1, 0, 1, 0xFFFF, 0x0, 0x0, 0x0, 0x0, .pd, false⟩
  | .NT_IP => ⟨276, 0x60144, 0, 1, 0, 1, 0xFFFFFFFF, 0x0, 0x0, 0x0, 0x0, .pd, false⟩
  | .FWD_FRAMES => ⟨277, 0x60150, 0, 1, 0, 1, 0xFFFFFFFF, 0x0, 0x0, 0x0, 0x0, .pd, false⟩
  | .FWD_DROPS => ⟨278, 0x60154, 0, 1, 0, 1, 0xFFFFFFFF, 0x0, 0x0, 0x0, 0x0, .pd, false⟩
  | .TC_CORRECTED => ⟨279, 0x60158, 0, 1, 0, 1, 0xFFFFFFFF, 0x0, 0x0, 0x0, 0x0, .pd, false⟩
  | .NT_IGNORED => ⟨280, 0x6015C, 0, 1, 0, 1, 0xFFFFFFFF, 0x0, 0x0, 0x0, 0x0, .pd, false⟩
  | .TRIG_STATE => ⟨281, 0x60180, 16, 5, 0, 1, 0x0, 0x0, 0x0, 0x40000000, 0x0, .pd, false⟩
  | .TRIG_ST_LO => ⟨282, 0x60184, 16, 5, 0, 1, 0x0, 0x0, 0x0, 0x0, 0x0, .pd, false⟩
  | .TRIG_ST_HI => ⟨283, 0x60188, 16, 5, 0, 1, 0x0, 0x0, 0x0, 0x0, 0x0, .pd, false⟩
  | .RUN_NT_SEC_LO => ⟨284, 0x60200, 16, 64, 0, 1, 0x0, 0x0, 0x0, 0x0, 0x0, .run, false⟩
  | .RUN_NT_SEC_HI => ⟨285, 0x60204, 16, 64, 0, 1, 0x0, 0x0, 0x0, 0x0, 0x0, .run, false⟩
  | .RUN_NT_NS => ⟨286, 0x60208, 16, 64, 0, 1, 0x0, 0x0, 0x0, 0x0, 0x0, .run, false⟩
  | .RUN_NT_FRAC => ⟨287, 0x6020C, 16, 64, 0, 1, 0x0, 0x0, 0x0, 0x0, 0x0, .run, false⟩
  | .MARK_ST_LO => ⟨288, 0x60600, 32, 8, 0, 1, 0x0, 0x0, 0x0, 0x0, 0x0, .marker, false⟩
  | .MARK_ST_HI => ⟨289, 0x60604, 32, 8, 0, 1, 0x0, 0x0, 0x0, 0x0, 0x0, .marker, false⟩
  | .MARK_NT_SEC_LO => ⟨290, 0x60608, 32, 8, 0, 1, 0x0, 0x0, 0x0, 0x0, 0x0, .marker, false⟩
  | .MARK_NT_SEC_HI => ⟨291, 0x6060C, 32, 8, 0, 1, 0x0, 0x0, 0x0, 0x0, 0x0, .marker, false⟩
  | .MARK_NT_NS => ⟨292, 0x60610, 32, 8, 0, 1, 0x0, 0x0, 0x0, 0x0, 0x0, .marker, false⟩
  | .MARK_NT_FRAC => ⟨293, 0x60614, 32, 8, 0, 1, 0x0, 0x0, 0x0, 0x0, 0x0, .marker, false⟩
  | .DLK_CTL => ⟨294, 0x70000, 0, 1, 0, 1, 0x3, 0x0, 0x0, 0x0, 0x2, .pd, false⟩
  | .DLK_STATUS => ⟨295, 0x70004, 0, 1, 0, 1, 0x0, 0x0, 0x0, 0x0, 0x0, .pdWrite, false⟩
  | .REST_IDLE => ⟨296, 0x70008, 0, 1, 0, 1, 0xFFFF, 0x0, 0x0, 0x0, 0x3E8, .pd, false⟩
  | .LINK_LAT => ⟨297, 0x7000C, 0, 1, 0, 1, 0x0, 0x0, 0x0, 0x0, 0x0, .pd, false⟩
  | .CORR_COUNT => ⟨298, 0x70010, 0, 1, 0, 1, 0xFFFFFFFF, 0x0, 0x0, 0x0, 0x0, .pd, false⟩
  | .UNCORR_COUNT => ⟨299, 0x70014, 0, 1, 0, 1, 0xFFFFFFFF, 0x0, 0x0, 0x0, 0x0, .pd, false⟩
  | .REPLAY_COUNT => ⟨300, 0x70018, 0, 1, 0, 1, 0xFFFFFFFF, 0x0, 0x0, 0x0, 0x0, .pd, false⟩
  | .LOSS_COUNT => ⟨301, 0x7001C, 0, 1, 0, 1, 0xFFFFFFFF, 0x0, 0x0, 0x0, 0x0, .pd, false⟩
  | .TRAIN_COUNT => ⟨302, 0x70020, 0, 1, 0, 1, 0xFFFFFFFF, 0x0, 0x0, 0x0, 0x0, .pd, false⟩
  | .REST_COUNT => ⟨303, 0x70024, 0, 1, 0, 1, 0xFFFFFFFF, 0x0, 0x0, 0x0, 0x0, .pd, false⟩
  | .FAR_WR_DISCARD => ⟨304, 0x70028, 0, 1, 0, 1, 0xFFFFFFFF, 0x0, 0x0, 0x0, 0x0, .pd, false⟩
  | .XH_DISCARD => ⟨305, 0x7002C, 0, 1, 0, 1, 0xFFFFFFFF, 0x0, 0x0, 0x0, 0x0, .pd, false⟩
  | .DLK_IGNORED => ⟨306, 0x70030, 0, 1, 0, 1, 0xFFFFFFFF, 0x0, 0x0, 0x0, 0x0, .pd, false⟩
  | .DLK_LANE_STATUS => ⟨307, 0x70040, 4, 8, 0, 1, 0x0, 0x0, 0x0, 0x0, 0x0, .pd, false⟩
  | .LANE_ERR => ⟨308, 0x70060, 4, 8, 0, 1, 0xFFFFFFFF, 0x0, 0x0, 0x0, 0x0, .pd, false⟩
  | .FLT_STATUS => ⟨309, 0x50000, 0, 1, 0, 1, 0x0, 0x0, 0x0, 0x0, 0x0, .pd, false⟩
  | .FLT_CTL => ⟨310, 0x50004, 0, 1, 0, 1, 0x1F, 0x0, 0x0, 0x0, 0xE, .pd, true⟩
  | .FN_ACK => ⟨311, 0x50008, 0, 1, 0, 1, 0x0, 0x0, 0x0, 0xFFFFFFFF, 0x0, .pd, false⟩
  | .SHADOW => ⟨312, 0x5000C, 0, 1, 0, 1, 0xFFFF, 0x0, 0x0, 0x0, 0xA, .pd, true⟩
  | .FIRST_ID => ⟨313, 0x50010, 0, 1, 0, 1, 0x0, 0x0, 0x0, 0x0, 0x0, .pd, false⟩
  | .FIRST_T_LO => ⟨314, 0x50014, 0, 1, 0, 1, 0x0, 0x0, 0x0, 0x0, 0x0, .pd, false⟩
  | .FIRST_T_HI => ⟨315, 0x50018, 0, 1, 0, 1, 0x0, 0x0, 0x0, 0x0, 0x0, .pd, false⟩
  | .FIRST_CLR => ⟨316, 0x5001C, 0, 1, 0, 1, 0x0, 0x0, 0x0, 0xFFFFFFFF, 0x0, .pd, false⟩
  | .SECONDARY_COUNT => ⟨317, 0x50020, 0, 1, 0, 1, 0xFFFFFFFF, 0x0, 0x0, 0x0, 0x0, .pd, false⟩
  | .FLT_IGNORED => ⟨318, 0x50024, 0, 1, 0, 1, 0xFFFFFFFF, 0x0, 0x0, 0x0, 0x0, .pd, false⟩
  | .QUIET_CTL => ⟨319, 0x50028, 0, 1, 0, 1, 0x0, 0x0, 0x0, 0xFFFFFFFF, 0x0, .pd, false⟩
  | .QUIET_STATUS => ⟨320, 0x5002C, 0, 1, 0, 1, 0x0, 0x0, 0x0, 0x0, 0x0, .pdWrite, false⟩
  | .QUIET_T_LO => ⟨321, 0x50030, 0, 1, 0, 1, 0x0, 0x0, 0x0, 0x0, 0x0, .pd, false⟩
  | .QUIET_T_HI => ⟨322, 0x50034, 0, 1, 0, 1, 0x0, 0x0, 0x0, 0x0, 0x0, .pd, false⟩
  | .FLT_PSUM => ⟨323, 0x50040, 4, 5, 0, 1, 0x0, 0xF, 0x0, 0x0, 0x0, .part, false⟩
  | .SRC_CFG => ⟨324, 0x51000, 16, 512, 0, 1, 0xE0000000, 0x0, 0x0, 0x0, 0x0, .pd, false⟩
  | .SRC_STATUS => ⟨325, 0x51004, 16, 512, 0, 1, 0x0, 0x2, 0x0, 0x0, 0x0, .pd, false⟩
  | .SRC_FORCE => ⟨326, 0x51008, 16, 512, 0, 1, 0x0, 0x0, 0x0, 0xFFFFFFFF, 0x0, .pd, false⟩
  | .SRC_COUNT => ⟨327, 0x5100C, 16, 512, 0, 1, 0xFFFFFFFF, 0x0, 0x0, 0x0, 0x0, .pd, false⟩
  | .PWR_STATUS => ⟨328, 0x200000, 0, 1, 0, 1, 0x0, 0x0, 0x0, 0x0, 0x1FF, .pdWrite, false⟩
  | .TEMP => ⟨329, 0x200004, 0, 1, 0, 1, 0x0, 0x0, 0x0, 0x0, 0x0, .pdWrite, false⟩
  | .TEMP_MAX => ⟨330, 0x200008, 0, 1, 0, 1, 0xFFFF, 0x0, 0x0, 0x0, 0x0, .pd, false⟩
  | .TEMP_WARN => ⟨331, 0x20000C, 0, 1, 0, 1, 0xFFFF, 0x0, 0x0, 0x0, 0x6400, .pd, false⟩
  | .GOV_CTL => ⟨332, 0x200010, 0, 1, 0, 1, 0xFFFFFFF, 0x0, 0x0, 0x0, 0xF01051E, .pd, false⟩
  | .GOV_STATUS => ⟨333, 0x200014, 0, 1, 0, 1, 0x0, 0x0, 0x0, 0x0, 0x0, .pd, false⟩
  | .VCORE_REF => ⟨334, 0x200018, 0, 1, 0, 1, 0x0, 0x0, 0x0, 0x0, 0x0, .pd, false⟩
  | .GOV_ENTRIES => ⟨335, 0x20001C, 0, 1, 0, 1, 0xFFFFFFFF, 0x0, 0x0, 0x0, 0x0, .pd, false⟩
  | .GOV_ROWS_LO => ⟨336, 0x200020, 0, 1, 0, 1, 0x0, 0x0, 0x0, 0x0, 0x0, .pd, false⟩
  | .GOV_ROWS_HI => ⟨337, 0x200024, 0, 1, 0, 1, 0x0, 0x0, 0x0, 0x0, 0x0, .pd, false⟩
  | .SAG_COUNT => ⟨338, 0x200028, 0, 1, 0, 1, 0xFFFFFFFF, 0x0, 0x0, 0x0, 0x0, .pd, false⟩
  | .SENSOR_TEMP => ⟨339, 0x200040, 4, 8, 0, 1, 0x0, 0x0, 0x0, 0x0, 0x0, .pdWrite, false⟩

/-- Rows 0 to 33 of the register map. -/
def Reg.list0 : List Reg :=
  [.DEV_ID, .REV, .HALF, .CAPS0, .CAPS1, .UID_LO, .UID_HI, .VIEW, .ST_LO, .ST_HI, .CLK_STATUS, .SYNC_CTL, .SYNC_STATUS, .SYNC_LOAD_LO, .SYNC_LOAD_HI, .SYNC_PREV_LO, .SYNC_PREV_HI, .LATE_COUNT, .LATE_FIRST_Q, .LATE_FIRST_T_LO, .LATE_FIRST_T_HI, .STALL_COUNT, .RUN_AHEAD, .START_LEAD, .JUMP_DROPPED, .UNDERRUN_SAMPLES, .DISCARD_COUNT, .THR_STATE, .THR_PC, .THR_NOW_LO, .THR_NOW_HI, .RUN_STATE, .RUN_SHOT_LO, .RUN_SHOT_HI]

/-- Rows 34 to 67 of the register map. -/
def Reg.list1 : List Reg :=
  [.RUN_T0_LO, .RUN_T0_HI, .PAT_STATUS, .PAT_SUB, .DRV_SAT_SUM, .DRV_MUTE_SUM, .DRV_IGNORED_WRITES, .DRV_ECC_CORRECTED, .DAC_CTL, .DAC_STATUS, .DAC_SCALE, .SAT_ROWS, .SLOT_CTL, .SLOT_AMP, .DRV_FREQ_SET_LO, .DRV_FREQ_SET_HI, .DRV_FREQ_CUR_LO, .DRV_FREQ_CUR_HI, .DRV_PHASE_OFS, .DRV_TREF_LO, .DRV_TREF_HI, .SLOT_STATUS, .RDO_OVR_SUM, .RDO_IGNORED_WRITES, .RDO_ECC_CORRECTED, .XSAT_COUNT, .IN_CTL, .IN_STATUS, .OVR_ROWS, .OVR_FIRST_LO, .OVR_FIRST_HI, .CH_CTL, .CH_STATUS, .RDO_FREQ_SET_LO]

/-- Rows 68 to 101 of the register map. -/
def Reg.list2 : List Reg :=
  [.RDO_FREQ_SET_HI, .RDO_FREQ_CUR_LO, .RDO_FREQ_CUR_HI, .RDO_PHASE_OFS, .RDO_TREF_LO, .RDO_TREF_HI, .LAST_XI, .LAST_XQ, .LAST_TOKEN, .AVG_SUMI_LO, .AVG_SUMI_HI, .AVG_SUMQ_LO, .AVG_SUMQ_HI, .AVG_COUNT, .AVG_S0, .AVG_S1, .AVG_S2, .AVG_S3, .AVG_OVR, .AVG_XSAT, .KS_CFG, .KS_KADDR, .KS_MAP, .KS_AB0, .KS_C0, .KS_AB1, .KS_C1, .KS_AB2, .KS_C2, .ASAP_MARGIN, .TK_LATE_COUNT, .TK_DEFAULT_COUNT, .TK_OVERFLOW_COUNT, .DT_DISCARD_COUNT]

/-- Rows 102 to 135 of the register map. -/
def Reg.list3 : List Reg :=
  [.DN_IGNORED, .DT_ECC_CORRECTED, .THR_SUB, .DT_CFG, .DT_STATUS, .DT_FIRES, .DT_IN, .DT_LUT, .COMPLY_SUM0, .COMPLY_SUM1, .FLX_IGNORED_WRITES, .FLX_ECC_CORRECTED, .FG_STROBE, .FG_COUNT, .FLX_CTL, .FLX_STATUS, .FLX_LEVEL, .FLX_PENDING, .FLX_SLEW, .FLX_PARK, .FLX_RANGE_TGT, .COMPLY_COUNT, .TRIP_SUM0, .TRIP_SUM1, .TRIP_SUM2, .MON_IGNORED_WRITES, .MON_CFG, .MON_TH, .MON_HYST, .MON_BLANK, .MON_STATUS, .TRIP_COUNT, .TRIP_T_LO, .TRIP_T_HI]

/-- Rows 136 to 169 of the register map. -/
def Reg.list4 : List Reg :=
  [.AUX_MASK, .AUX_START, .AUX_PERIOD, .AUX_STATUS, .AUX_BIAS, .AUX_SKIPPED, .AUX_IGNORED, .SCAN_COUNT, .SCAN_T_LO, .SCAN_T_HI, .AUX_RESULT, .CAP_IGNORED_WRITES, .CAP_CTL, .CAP_TRIG, .CAP_LEVEL, .CAP_HOLDOFF, .CAP_LEAD, .TRIG_MASK_LO, .TRIG_MASK_HI, .CAP_STATUS, .CAP_INDEX_LO, .CAP_INDEX_HI, .LOST_COUNT, .MARK_COUNT, .REC_SEL, .DSP_IGNORED_WRITES, .DSP_ECC_CORRECTED, .LANE_CTL, .DSP_LANE_STATUS, .LANE_ENTRY, .LANE_PC, .FAULT_PC, .Q_LEVEL, .QDROP]

/-- Rows 170 to 203 of the register map. -/
def Reg.list5 : List Reg :=
  [.REC_DROP, .DSP_JOBS, .CYCLES_LO, .CYCLES_HI, .CAL_STATUS, .CAL_QUIET_TH, .CAL_IMPLAUSIBLE_COUNT, .BG_REJECT, .BG_CTL, .BG_STATUS, .CAL_VALID_DAC, .CAL_VALID_IN, .CAL_VALID_FLX0, .CAL_VALID_FLX1, .CAL_VALID1_FLX0, .CAL_VALID1_FLX1, .CORE_TRIM, .IN_TAP, .FLX_TRIM, .EVR_IGNORED_WRITES, .LOOP_COUNT, .EC_FIRE, .EG_CTL, .EC_CFG, .EC_FIRES, .EC_DROPS, .TASK_SEL, .TASK_DROP, .HQ_STATUS, .ARB_AGE_LIMIT, .TAGS_FREE, .TAG_QUOTA, .CTX_BASE_LO, .CTX_BASE_HI]

/-- Rows 204 to 237 of the register map. -/
def Reg.list6 : List Reg :=
  [.RID_BASE, .RID_COUNT, .TAGS_USED, .PORT_CTL, .PORT_STATUS, .DB_BASE_LO, .DB_BASE_HI, .POLL_MIN, .POLL_MAX, .KICK, .RING_OP, .RING_OP_STATUS, .OUTSTANDING_READS, .DENIED_COUNT, .RECORD_LOST, .COMPL_LOST, .PART_STATUS, .CAST_ON_ID_LO, .CAST_ON_ID_HI, .MANIFEST_SEQ, .PORT_PART, .FOREIGN_WRITES, .IDE_STATUS, .IDE_FAIL_COUNT, .RGN_TOTAL_LO, .RGN_TOTAL_HI, .RGN_IGNORED, .RGN_BASE_LO, .RGN_BASE_HI, .RGN_SIZE_LO, .RGN_SIZE_HI, .RGN_CTL, .PT_WINDOW, .BOOT_RING_LO]

/-- Rows 238 to 271 of the register map. -/
def Reg.list7 : List Reg :=
  [.BOOT_RING_HI, .BOOT_RING_COUNT, .BOOT_LEN, .BOOT_CTL, .BOOT_STATUS, .BOOT_READ, .BOOT_STATE, .BOOT_RECAST, .BOOT_IGNORED, .CMP_CTL, .CMP_STATUS, .SKEIN_FLUSH, .CMP_JOBS, .RAW_SKEINS, .VERIFY_FAIL, .DECODE_FAIL, .CMP_ECC_CORRECTED, .BYTES_IN_LO, .BYTES_IN_HI, .BYTES_OUT_LO, .BYTES_OUT_HI, .NT_CTL, .NT_STATUS, .NT_SEC_LO, .NT_SEC_HI, .NT_NS, .NT_FRAC, .NT_ST_LO, .NT_ST_HI, .NT_RATE, .STEP_TH, .LOCK_TH, .OFFSET, .MPD]

/-- Rows 272 to 305 of the register map. -/
def Reg.list8 : List Reg :=
  [.ASYM0, .ASYM1, .NT_MAC_LO, .NT_MAC_HI, .NT_IP, .FWD_FRAMES, .FWD_DROPS, .TC_CORRECTED, .NT_IGNORED, .TRIG_STATE, .TRIG_ST_LO, .TRIG_ST_HI, .RUN_NT_SEC_LO, .RUN_NT_SEC_HI, .RUN_NT_NS, .RUN_NT_FRAC, .MARK_ST_LO, .MARK_ST_HI, .MARK_NT_SEC_LO, .MARK_NT_SEC_HI, .MARK_NT_NS, .MARK_NT_FRAC, .DLK_CTL, .DLK_STATUS, .REST_IDLE, .LINK_LAT, .CORR_COUNT, .UNCORR_COUNT, .REPLAY_COUNT, .LOSS_COUNT, .TRAIN_COUNT, .REST_COUNT, .FAR_WR_DISCARD, .XH_DISCARD]

/-- Rows 306 to 339 of the register map. -/
def Reg.list9 : List Reg :=
  [.DLK_IGNORED, .DLK_LANE_STATUS, .LANE_ERR, .FLT_STATUS, .FLT_CTL, .FN_ACK, .SHADOW, .FIRST_ID, .FIRST_T_LO, .FIRST_T_HI, .FIRST_CLR, .SECONDARY_COUNT, .FLT_IGNORED, .QUIET_CTL, .QUIET_STATUS, .QUIET_T_LO, .QUIET_T_HI, .FLT_PSUM, .SRC_CFG, .SRC_STATUS, .SRC_FORCE, .SRC_COUNT, .PWR_STATUS, .TEMP, .TEMP_MAX, .TEMP_WARN, .GOV_CTL, .GOV_STATUS, .VCORE_REF, .GOV_ENTRIES, .GOV_ROWS_LO, .GOV_ROWS_HI, .SAG_COUNT, .SENSOR_TEMP]

/-- Every register of the map, in table order. -/
def Reg.all : List Reg :=
  Reg.list0 ++ Reg.list1 ++ Reg.list2 ++ Reg.list3 ++ Reg.list4 ++ Reg.list5 ++ Reg.list6 ++ Reg.list7 ++ Reg.list8 ++ Reg.list9

/-- The element (i, j) of register `r` at offset `a` of a half, if `a` is one of its addresses. -/
def Reg.element (r : Reg) (a : Nat) : Option (Nat × Nat) :=
  let d := r.info
  if a < d.off then none
  else
    let x := a - d.off
    let i := if d.stepI = 0 then 0 else x / d.stepI
    let y := if d.stepI = 0 then x else x % d.stepI
    let j := if d.stepJ = 0 then 0 else y / d.stepJ
    let z := if d.stepJ = 0 then y else y % d.stepJ
    if i < d.cntI ∧ j < d.cntJ ∧ z = 0 then some (i, j) else none

/-- The first register of a list that has an element at offset `a`. -/
def Reg.findIn : List Reg → Nat → Option (Reg × Nat × Nat)
  | [], _ => none
  | r :: rs, a =>
    match r.element a with
    | some (i, j) => some (r, i, j)
    | none => Reg.findIn rs a

/-- The register and element that offset `a` of a half selects; none where no register is defined (R42). -/
def Reg.find (a : Nat) : Option (Reg × Nat × Nat) := Reg.findIn Reg.all a

/-- The offset of element (i, j) within its half (R13). -/
def Reg.offset (r : Reg) (i j : Nat) : Nat := r.info.off + i * r.info.stepI + j * r.info.stepJ

/-- The key under which the model's register file holds element (i, j) of register `r` on half `h`: a mirrored
register has one home, on H0. -/
def Reg.key (r : Reg) (h i j : Nat) : Nat :=
  ((r.info.num * 2 + (if r.info.mirror then 0 else h)) * 2048 + i) * 256 + j

end Sys2Proof.Machine
end

