-- ==== Sys2Proof/Machine/Types.lean ====
section
/-!
DEFINITION. The records that State is made of, block by block.  Every field has the value it holds at reset as its
default.  Sample times that the part extends to 64 bits (R58) are natural numbers here; the 48-bit ones are `T48`.
-/
namespace Sys2Proof.Machine

/-! ### Tokens, firings and timed commands -/

/-- A decision token (R248). -/
structure Token where
  e : T48 := 0
  shot : Word := 0
  run : Nat := 0
  table : Bool := false
  src : Nat := 0
  value : BitVec 16 := 0
deriving DecidableEq, Repr

/-- Where a firing of an event channel is under way to: a task input of a half, or the threads of a half (R415, R418). -/
inductive FireDest where
  | task (h : Half) (u : Nat)
  | threads (h : Half)
deriving DecidableEq, Repr

/-- The half that a firing travels to. -/
def FireDest.half : FireDest → Nat
  | .task h _ => h.val
  | .threads h => h.val

/-- A firing under way: its channel, its generation (R423) and the row in which its channel fired. -/
structure Fire where
  dest : FireDest
  ch : Nat
  gen : Nat
  row : Nat
deriving DecidableEq, Repr

/-- What a pulse plays: the envelope's first sample or position in its stream, its length, gauge and amplitude (R127). -/
structure PulseSpec where
  addr : Nat := 0
  length : Nat := 0
  gauge : Nat := 0
  amp : BitVec 18 := 0
  stream : Bool := false
deriving DecidableEq, Repr

/-- What a timed command does at its stamp; one that names a segment-table entry carries what it read there at issue (R127). -/
inductive Act where
  | pulse (p : PulseSpec)
  | pattern (entry : Nat) (p : PulseSpec)
  | window (len : Nat) (ksel : Nat)
  | setf (f : BitVec 48)
  | addph (p : Word)
  | setph (p : Word)
  | rstph
  | level (code : BitVec 16)
  | strobe
  | levelStrobe (code : BitVec 16)
  | signal (ec : Nat) (gen : Nat)
  | mark (m : Nat) (act : Nat) (pw : Nat)
deriving DecidableEq, Repr

/-- A command in a timed queue: its rounded stamp, its thread, run and shot, and its effect (R29). -/
structure Cmd where
  stamp : T48
  thr : Nat
  run : Nat
  shot : Nat
  act : Act
deriving DecidableEq, Repr

/-- A timed queue: the commands it holds (oldest first), the stamp of the last command that passed R59 in the current
run and how many passed in that stamp's row, the earliest stamp that the dead time of R99 or R100 allows next, whether
the resource counts as in pattern play for the checks at issue (R103), and the thread and run it is assigned to (R84). -/
structure Queue where
  cmds : List Cmd := []
  lastT : Option T48 := none
  lastN : Nat := 0
  free : Option T48 := none
  pat : Bool := false
  owner : Option (Nat × Nat) := none
deriving DecidableEq, Repr

/-- A command that the sample domain has taken from its queue and that has not reached its stamp (R62). -/
structure Released where
  q : Nat
  cmd : Cmd
deriving DecidableEq, Repr

/-! ### Threads and runs -/

/-- The states of a thread in THR_STATE.STATE's order. -/
inductive ThrState where
  | idle | ready | stalled | ended | halted | faulted
deriving DecidableEq, Repr

/-- The stall causes of R92. -/
inductive Stall where
  | none | fullQueue | waittk | waitev | sync | runAhead | shotEnd | strm | runStart
deriving DecidableEq, Repr

/-- A WAITTK in progress: its subscription, mode, source, commit latency, default target and X, the value of `now` at
its issue (R142 to R144). -/
structure Wait where
  sub : Nat
  asap : Bool
  table : Bool
  src : Nat
  lat : Nat
  dtgt : Nat
  x : T48
deriving DecidableEq, Repr

/-- The last wait of a subscription in the current shot: its X, its commit latency, whether it took its default (R270). -/
structure LastWait where
  x : T48
  lat : Nat
  dflt : Bool
deriving DecidableEq, Repr

/-- A WAITEV in progress: its channel, LEAD, TMO and the row in which it issued (R149, R150). -/
structure EvWait where
  ec : Nat
  lead : Nat
  tmo : Nat
  row : Nat
deriving DecidableEq, Repr

/-- A push that stalled: the commands still to be pushed, each with its queue, the value `now` takes when the push
completes (R124), and the stream position or dead-time bound that passing the checks records. -/
structure Push where
  cmds : List (Nat × Cmd)
  newNow : Option T48
  free : List (Nat × T48)
deriving DecidableEq, Repr

/-- The state of a thread (R82), with its loop levels (R156), call bit (R160), inboxes (R254) and what it waits for. -/
structure Thread where
  g : FMap Word := []
  lc : FMap Word := []
  now : T48 := 0
  z : Bool := false
  n : Bool := false
  c : Bool := false
  v : Bool := false
  tk : BitVec 16 := 0
  link : Nat := 0
  pc : Nat := 0
  entry : Nat := 0
  depth : Nat := 0
  starts : FMap Nat := []
  call : Bool := false
  st : ThrState := .idle
  stall : Stall := .none
  fault : BitVec 8 := 0
  run : Nat := 0
  prio : Nat := 0
  gen : Option Nat := none
  inbox : FMap (List Token) := []
  wait : Option Wait := none
  last : FMap (Option LastWait) := []
  evwait : Option EvWait := none
  barrier : Option Nat := none
  push : Option Push := none
deriving DecidableEq, Repr

/-- The run states in RUN_STATE.STATE's order. -/
inductive RunSt where
  | free | armed | running | stopping | committed
deriving DecidableEq, Repr

/-- How a run was asked to start (R87). -/
inductive StartMode where
  | immediate | networkTime | onEvent
deriving DecidableEq, Repr

/-- A shot whose record is not yet written: its number, its start S, its flags and counts (R457). -/
structure Shot where
  num : Nat
  s : Int
  flags : BitVec 32 := 0
  late : Nat := 0
  dflt : Nat := 0
  underrun : Nat := 0
deriving DecidableEq, Repr

/-- A run (R83 to R91, R448): its state, the status gathered so far (R115), its owner, the START_RUN that started it, its
threads, its record ring, shot gap and count, its start, the current shot and the final one, and its open shots. -/
structure Run where
  st : RunSt := .free
  status : BitVec 8 := 0
  owner : Nat := 0
  port : Nat := 0
  ring : Nat := 0
  user : Word := 0
  tag : Nat := 0
  threads : List Nat := []
  recRing : Nat := 0
  gap : Nat := 0
  count : Nat := 0
  mode : StartMode := .immediate
  t0 : Option Nat := none
  shot : Nat := 0
  start : Int := 0
  final : Option Nat := none
  done : Nat := 0
  discards : Nat := 0
  shots : List Shot := []
  avgDone : Bool := false
  policy : List Nat := []
  seq : Nat := 0
  stopped : Bool := false
deriving DecidableEq, Repr

/-- A barrier: the run it belongs to, its participants, those that have arrived in the current shot and each one's `now`
(R94, R95). -/
structure Barrier where
  run : Option Nat := none
  members : List Nat := []
  arrived : List (Nat × T48) := []
deriving DecidableEq, Repr

/-! ### Drive synthesis, patterns and streams -/

/-- One entry of an oscillator's history: from sample `t` on, the frequency word F, the phase offset P and the phase
reference T_R are these (R172, R176). -/
structure Osc where
  t : Nat := 0
  f : BitVec 48 := 0
  p : Word := 0
  tref : T48 := 0
deriving DecidableEq, Repr

/-- A pulse or segment playing or about to play: its queue, first sample, what it plays, its stream position, its run
and shot, the ball sample from which it plays zero (R109, R201) or is cut (R113), whether it belongs to pattern play
and as which entry; of a streamed one, the samples taken from staging so far, whether one was
missing, and (`live`) whether its command has acted. -/
structure Pulse where
  q : Nat
  t : Nat
  spec : PulseSpec
  pos : Nat := 0
  run : Nat := 0
  shot : Nat := 0
  zeroFrom : Option Nat := none
  cut : Option Nat := none
  entry : Option Nat := none
  taken : List Word := []
  missed : Bool := false
  live : Bool := true
deriving DecidableEq, Repr

/-- A pending jump (R107): its target; whether it was accepted on the final row of the segment in play, so that it waits for
the end of the following one (R106); whether it has so waited; the row in which it registered and whether it was a compare
request. -/
structure Jump where
  target : Nat
  wait : Bool := false
  late : Bool := false
  row : Nat := 0
  cmp : Bool := false
deriving DecidableEq, Repr

/-- A pattern player (R102): the entry in play, the plays of it still to come, the segment's first sample and duration,
the pending jump, the stamps' run and shot, and, once play has ended, the sample time of the boundary at which
PATTERN_END fires. -/
structure Pattern where
  active : Bool := false
  entry : Nat := 0
  left : Nat := 0
  start : Nat := 0
  dur : Nat := 0
  jump : Option Jump := none
  run : Nat := 0
  shot : Nat := 0
  ended : Option Nat := none
  mute : Bool := false
deriving DecidableEq, Repr

/-- A jump request on its way to the sample domain for a queue: an event request, or the token of a compare request. -/
structure JumpReq where
  q : Nat
  tok : Option Token := none
deriving DecidableEq, Repr

/-- An attached stream (R168): its ring, its staging area in bytes, the position of the next sample to play, the number of
samples whose fetch has been issued and of those that have been staged; of a ring with SKEIN the bytes not yet unpacked, whether
a skein's header has failed, and the positions that failed skeins left missing (R522). -/
structure Stream where
  ring : Nat
  stage : Nat
  size : Nat
  ready : Bool := false
  pos : Nat := 0
  fetched : Nat := 0
  staged : Nat := 0
  raw : List Byte := []
  dead : Bool := false
  holes : List (Nat × Nat) := []
deriving DecidableEq, Repr

/-! ### Flux outputs -/

/-- Why the part itself ramps a flux output (R291 to R297, R397). -/
inductive RampKind where
  | rangeDown | rangeUp | park | cal
deriving DecidableEq, Repr

/-- A ramp of R291: from code `c0` toward code `c1`, its first flux sample at sample time `start`, with the slew limit in
µA/µs and the gain G that it began with. -/
structure Ramp where
  kind : RampKind
  c0 : Int
  c1 : Int
  start : Nat
  slew : Nat
  gain : Nat
deriving DecidableEq, Repr

/-- The phases of a range change in FLX_STATUS.PHASE's order (R294). -/
inductive RangePhase where
  | none | rampDown | wait | rampUp
deriving DecidableEq, Repr

/-- A flux channel beside its registers and its pulses: the code its sample domain presents, its pending code (R285), the
level writes that have not reached their flux sample, its ramp and the ramp that is to begin, the phase and the new range of a range change (R294), the end
of its WAIT, a step to zero at a row boundary (R306), a MODE or RANGE change that awaits one, a park ramp to begin at one or
after the range change (R296, R297), the trip in force with the code and range held since it asserted (R299), the codes
to which a calibration routine is still to ramp (R397), and whether the pending code is to take the output code at the next row
boundary (R289). -/
structure FluxCh where
  code : BitVec 16 := 0
  pending : BitVec 16 := 0
  writes : List (Nat × BitVec 16) := []
  ramp : Option Ramp := none
  nextRamp : Option Ramp := none
  phase : RangePhase := .none
  newRange : Bool := false
  waitEnd : Nat := 0
  zeroNext : Option Nat := none
  modeNext : Option Bool := none
  rangeNext : Option Bool := none
  parkNext : Option Nat := none
  parkAfter : Bool := false
  tripped : Bool := false
  held : BitVec 16 := 0
  heldRange : Bool := false
  calSeq : List Int := []
  sync : Bool := false
deriving DecidableEq, Repr

/-- A strobe of a group awaiting its flux sample (R286): the group and the sample time. -/
structure Strobe where
  group : Nat
  t : Nat
deriving DecidableEq, Repr

/-! ### Markers and events -/

/-- A change of a marker that has not reached its row boundary: the boundary's sample time, ACT and PW (R153). -/
structure MarkChange where
  t : Nat
  act : Nat
  pw : Nat
deriving DecidableEq, Repr

/-- A marker output: its level, the end of the pulse in progress, the changes to come, the thread and run it is
assigned to, the sample time and network time of its last change (R545), and the changes that MARKs made at the last boundary at
which some did, with the level before them (R153). -/
structure Marker where
  level : Bool := false
  pulseEnd : Option Nat := none
  changes : List MarkChange := []
  owner : Option (Nat × Nat) := none
  stamp : Nat := 0
  ntime : Nat := 0
  before : Bool := false
  marked : List MarkChange := []
deriving DecidableEq, Repr

/-- A token that is under way to a subscriber (R251). -/
structure Delivery where
  sub : Subscriber
  tok : Token
deriving DecidableEq, Repr

/-- The tokens that a decision table holds, by input (R257). -/
structure Table where
  held : List (Nat × Token) := []
deriving DecidableEq, Repr

/-! ### What leaves the part, and what waits inside it -/

/-- What the part emits: a write to host memory through a port and, where it has one Secure, an IDE stream (R439, R450, R454, R480), an
MSI-X message with the address and data of its vector (R426, R452, R598), a
data object from a port's mailbox (R469), a frame from a network-time port (R529). -/
inductive Out where
  | hostWrite (port : Nat) (stream : Option Nat) (addr : Nat) (bytes : List Byte)
  | msix (port : Nat) (stream : Option Nat) (vector addr data : Nat)
  | object (port : Nat) (bytes : List Byte)
  | frame (ntPort : Nat) (bytes : List Byte)
deriving DecidableEq, Repr

/-- A record that waits in the record buffer of a half for its ring (R456): the half, the ring, the run it belongs to
(none: not a run's), its bytes. -/
structure BufRec where
  half : Nat
  ring : Nat
  run : Option Nat
  bytes : List Byte
deriving DecidableEq, Repr

/-! ### DSP lanes and calibration -/

/-- An entry of a lane's result queue (R373). -/
structure LaneResult where
  xi : Word := 0
  xq : Word := 0
  e : T48 := 0
  value : BitVec 16 := 0
  run : Nat := 0
  ch : Nat := 0
  shot : Word := 0
deriving DecidableEq, Repr

/-- The lane states in LANE_STATUS.STATE's order. -/
inductive LaneSt where
  | idle | running | stalled | fault
deriving DecidableEq, Repr

/-- An active block repeat (R381): its first and last instruction and the executions still to come. -/
structure RepLevel where
  first : Nat
  last : Nat
  left : Nat
deriving DecidableEq, Repr

/-- A DSP lane (R363), with its result queue (R372), its fault (R385), the generation of the firing that started the
job (R376), and whether ABORT awaits the end of the instruction in issue. -/
structure Lane where
  d : FMap Word := []
  a : FMap (BitVec 80) := []
  p : FMap (BitVec 16) := []
  m : FMap (BitVec 16) := []
  z : Bool := false
  n : Bool := false
  c : Bool := false
  v : Bool := false
  pc : Nat := 0
  link : Nat := 0
  call : Bool := false
  reps : List RepLevel := []
  st : LaneSt := .idle
  code : Nat := 0
  faultPc : Nat := 0
  popReg : Nat := 0
  queue : List LaneResult := []
  gen : Option Nat := none
  cycles : Nat := 0
deriving DecidableEq, Repr

/-- The calibration of one target: its redundant elements, its trims, its CAL_VALID bits.  `cells` are the cells or
comparators in use; for an ADC core `gain` and `ofs`, for an interleaved pair `tap`, for a flux output FGAIN and FOFS of
range 0 (`gain`, `ofs`) and of range 1 (`gain1`, `ofs1`) (R390 to R392, R406). -/
structure Trim where
  cells : BitVec 67 := 0x7FFFFFFFFFFFFFFF
  gain : BitVec 16 := 16384
  ofs : BitVec 16 := 0
  gain1 : BitVec 16 := 16384
  ofs1 : BitVec 16 := 0
  tap : Nat := 64
  valid : Bool := false
  valid1 : Bool := false
deriving DecidableEq, Repr

/-- A CAL_RUN accepted by a sequencer (R393): its command tag, routine and target. -/
structure CalJob where
  tag : Nat
  routine : Nat
  target : Nat
deriving DecidableEq, Repr

/-- A command that completes OK at the next row boundary, when its values have taken effect (R400, R408): its tag, whether it is a
CAL_RUN, and its RESULT. -/
structure CalPost where
  tag : Nat
  run : Bool
  result : Word64 := 0
deriving DecidableEq, Repr

/-- A half's calibration sequencer: the commands waiting, the routine running, the commands that complete at the next row boundary; the
values in force, those that take effect at the next row boundary, and those that R401 steps toward; whose turn it is among a target's
fields (R402), the interval last stepped; of a FLUX_CELLS whose result is being applied, whether its range is 1 and the values before
it; and the usable rows that the estimate of each local input has so far (R404). -/
structure Cal where
  waiting : List CalJob := []
  job : Option CalJob := none
  posts : List CalPost := []
  force : FMap Trim := []
  next : List (Nat × Trim) := []
  target : FMap (Option Trim) := []
  turn : FMap Nat := []
  lastStep : Option Nat := none
  applying : Option (Bool × Trim) := none
  usable : FMap Nat := []
deriving DecidableEq, Repr

/-! ### Swatch capture and the auxiliary converter -/

/-- The states of a capture engine in CAP_STATUS.STATE's order. -/
inductive CapSt where
  | free | armed | opened | closing
deriving DecidableEq, Repr

/-- A stream sample of a swatch (R342): its index and time, its payload item (none where a recorder row brings no item), its
quantity x (R345), whether a baseband sample saturated, and the time of a crossing of L recognised at it, in 1/256 sample
(R346). -/
structure CapSample where
  n : Nat
  t : Nat
  item : Option (List Byte)
  x : Option Int
  sat : Bool := false
  cross : Option Nat := none
deriving DecidableEq, Repr

/-- A PIN or EVENT condition that waits for the stream sample to which it belongs (R344, R348): its time in 1/256 sample, and
the generation of an EVENT's firing. -/
structure CapCond where
  pin : Bool
  t256 : Nat
  gen : Nat := 0
deriving DecidableEq, Repr

/-- The measurements of the record in progress (R352, R353). -/
structure CapRec where
  count : Nat := 0
  lo : Int := 0
  hi : Int := 0
  sum : Int := 0
  sq : Nat := 0
  cross : Nat := 0
  first : Nat := 0
  last : Nat := 0
  sat : Bool := false
  lost : Nat := 0
deriving DecidableEq, Repr

/-- A capture engine beside its registers (R340 to R358): its state, ring, start and start mode; the index of the next stream sample; what
its decimator has summed; the previous sample of its quantity; the samples produced and not yet worked; conditions to come;
the items of the data entry being filled; the record in progress; the triggers suppressed, the hold-off in force; the entries
that await delivery, each with its ring; the first sample of a gap; the cause and TIME of the END mark; and whether the swatch's input
has been disabled in the row in progress. -/
structure CapEng where
  st : CapSt := .free
  ring : Nat := 0
  startTag : Option Nat := none
  stopTags : List Nat := []
  mode : Nat := 0
  ks : Option Nat := none
  next : Nat := 0
  nextM : Nat := 0
  accN : Nat := 0
  accI : Int := 0
  accQ : Int := 0
  prev : Option (Int × Nat) := none
  prevWord : Option Word64 := none
  work : List CapSample := []
  conds : List CapCond := []
  items : List (Nat × Nat × List Byte) := []
  meas : CapRec := {}
  suppressed : Nat := 0
  holdUntil : Nat := 0
  holdLeft : Nat := 0
  buf : List (Nat × List Byte) := []
  gap : Option (Nat × Nat) := none
  endCause : Nat := 0
  endTime : Nat := 0
  off : Bool := false
deriving DecidableEq, Repr

/-- The auxiliary converter of a half (R329 to R332): the scan in progress with its mask, row k, conversions done, whether the
converter has powered up, the generation of its SCAN_DONE, the row of the last start, and the register starts that register at the
next row boundary. -/
structure Aux where
  busy : Bool := false
  mask : Nat := 0
  k : Nat := 0
  done : Nat := 0
  ready : Bool := false
  gen : Nat := 0
  last : Option Nat := none
  starts : Nat := 0
deriving DecidableEq, Repr

/-! ### Readout windows, rings and the die link -/

/-- A measurement window that the sample domain has taken (R216): its channel, first sample and length, kernel setting,
run and shot, and whether a row of it was over range or its probe DAC's switch was closed. -/
structure Window where
  ch : Nat
  t : Nat
  len : Nat
  ksel : Nat
  run : Nat
  shot : Nat
  ovr : Bool := false
  pmuted : Bool := false
deriving DecidableEq, Repr

/-- A ball row of a readout input: its number, its 32 trimmed samples (R211), whether it was over range (R229), whether the
input was READY, and whether OVER_RANGE_ROW has reported it. -/
structure AdcRow where
  row : Nat
  x : List (BitVec 16)
  ovr : Bool := false
  ready : Bool := true
  told : Bool := false
deriving DecidableEq, Repr

/-- What a measurement channel holds beside its registers: the run and shot of its last completed window and the number of
windows it has completed there (R233), and the window end of the last window averaged (R236). -/
structure Chan where
  run : Nat := 0
  shot : Nat := 0
  windows : Nat := 0
  avgLast : Nat := 0
deriving DecidableEq, Repr

/-- The ring states in RING_OP_STATUS.STATE's order. -/
inductive RingSt where
  | disabled | enabled | draining | error
deriving DecidableEq, Repr

/-- The records that are to share a skein (R519): when the first came, the CONTENT, their bytes and number, their runs and capture
engines. -/
structure Pack where
  first : Nat := 0
  content : Nat := 1
  bytes : List Byte := []
  count : Nat := 0
  runs : List Nat := []
  engines : List Nat := []
deriving DecidableEq, Repr

/-- A ring: its state and error code, the fields of its context (R430), its own index and the host's index (R429, R435),
the units written since its last interrupt and when the first of them was (R452), whether a FENCE holds it (R440), the
records lost since its last LOSS record with their run (R456); of a record ring with SKEIN the open skein's records, those of a
closed one, the closed one's bytes once the engine has made them, the next SEQ (R519); of a command ring the descriptors fetched and
not yet accepted (R440); whether its context is in the half's cache (R434). -/
structure Ring where
  st : RingSt := .disabled
  err : Nat := 0
  base : Nat := 0
  wb : Nat := 0
  kind : Nat := 0
  log2 : Nat := 0
  dbWord : Nat := 0
  port : Nat := 0
  irq : Nat := 0
  modCount : Nat := 0
  modTime : Nat := 0
  cq : Nat := 0
  skein : Bool := false
  own : Word := 0
  host : Word := 0
  units : Nat := 0
  firstUnit : Option Nat := none
  fence : Option Nat := none
  lost : Nat := 0
  lostRun : Option Nat := none
  pack : Pack := {}
  shut : Option Pack := none
  made : List Byte := []
  seq : Nat := 0
  desc : List (BitVec 512) := []
  resident : Bool := false
deriving DecidableEq, Repr

/-- A command in execution (R442): its ring, port and partition, opcode, NOCOMP flag and USER_ID, its descriptor; while it reads host
memory, the bytes that have come and whether the region check has cut the reads short; once its work has ended, its status and RESULT,
its place in the order of ending, and whether its completion is on its way to the ring; of a STRM_ATTACH with PREFILL, the queue whose
staging area is to fill (R447). -/
structure HostCmd where
  ring : Nat
  port : Nat
  part : Nat
  op : Nat
  nocomp : Bool
  user : Word
  seq : Nat
  done : Option (BitVec 8 × Word64) := none
  order : Nat := 0
  discard : Bool := false
  prefill : Option Nat := none
  desc : BitVec 512 := 0
  reading : Bool := false
  data : List Byte := []
  short : Bool := false
  posted : Bool := false
deriving DecidableEq, Repr

/-- For what a host access is made (R458, R460): a ring's entries or write-back, its descriptors, its context; a command's data; the
summary line, the doorbell words of a flag, the clearing of a flag; a stream attached to a queue (with the position of its first
sample); nothing that still waits for it. -/
inductive DmaWhy where
  | ring (r : Nat)
  | desc (r : Nat)
  | context (r : Nat)
  | data (tag : Nat)
  | line
  | words (j : Nat)
  | page
  | stream (q : Nat) (pos : Nat)
  | none
deriving DecidableEq, Repr

/-- What a DMA request does: a write, a read of a length, an MSI-X message. -/
inductive DmaAct where
  | write (addr : Nat) (bytes : List Byte)
  | read (addr : Nat) (len : Nat)
  | msix (vector : Nat)
deriving DecidableEq, Repr

/-- A DMA request that waits at a port (R460, R461): its class, its partition, its source for the round robin, its age, the half of the
resource that it serves (R35); of the last request of an entry's write, the records that the entry brings, their runs, the command
that a completion entry ends. -/
structure DmaReq where
  cls : Nat
  part : Nat
  src : Nat
  age : Nat := 0
  why : DmaWhy := .none
  act : DmaAct
  half : Nat
  recs : Nat := 0
  runs : List Nat := []
  tag : Option Nat := none
deriving DecidableEq, Repr

/-- A record or swatch entry that waits for a ring: its half, its run, the engine it comes from, its bytes. -/
structure Waiting where
  half : Nat
  run : Option Nat
  engine : Option Nat
  bytes : List Byte
deriving DecidableEq, Repr

/-- The die-link states in DLK_STATUS.STATE's order. -/
inductive DlkState where
  | training | active | rest | dormant | down
deriving DecidableEq, Repr

/-- Host-memory traffic between the halves (R35): an access that the half of a resource asks of a port of the other half, the data
that the port's half has read for it, a record on its way to a ring that a port of the other half serves, with the address that it is
to have there (R456). -/
inductive Forward where
  | access (port : Nat) (q : DmaReq)
  | response (port : Nat) (q : DmaReq) (bytes : List Byte)
  | record (port : Nat) (addr : Nat) (ring : Nat) (w : Waiting)
deriving DecidableEq, Repr

/-- A message formed for the far half and not yet received there, by class (R24, R558): a token; an event firing; a register
write or read with its port, a write of BOOT_CTL.GO with the boot ring that the part will read, and the register response; a
time-align flit (type and payload); forwarded host-memory traffic; of the management class a thread's arrival at a barrier (R95), a
cause of quiet mode (R590), and a signalling occurrence of H1 (R589). -/
inductive DlkMsg where
  | token (t : Token)
  | event (ch : Nat) (gen : Nat)
  | regWrite (port : Nat) (addr : Nat) (v : Word)
  | regRead (port : Nat) (addr : Nat)
  | go (port : Nat) (ring : List Byte)
  | regAnswer (port : Nat) (v : Word)
  | time (typ : Nat) (payload : Nat)
  | dma (x : Forward)
  | arrival (b : Nat) (t : Nat)
  | quiet (cause : Nat) (id : Nat)
  | faultN
deriving DecidableEq, Repr

/-- One half's side of the die link (R559 to R572).  Toward the far half: the messages formed, the next sequence number, the
flits kept for resend, the credits spent by class, the flit at which the last resend started and how many started there, when
the last acknowledgement came and when the last sequenced flit left.  From the far half: the sequence number expected,
whether a NAK is out, and the DMA_DATA flits received of the forwarded message in progress.  Then the Rest handshake, the cause of the last loss, training, the lanes' markers and, by lane, the flit bits
that its scrambling generator has counted since the end of the last marker (R551). -/
structure Dlk where
  st : DlkState := .training
  msgs : List DlkMsg := []
  nextSeq : Nat := 0
  kept : List Nat := []
  owed : List Nat := []
  spent : FMap Nat := []
  resendAt : Option Nat := none
  resends : Nat := 0
  lastAck : Nat := 0
  lastSeq : Nat := 0
  expect : Nat := 0
  nak : Bool := false
  nakDue : Bool := false
  dataFlits : Nat := 0
  asked : Bool := false
  answered : Bool := false
  cause : Nat := 0
  lost : Bool := false
  wake : Bool := false
  trained : Bool := false
  attempts : Nat := 0
  retryAt : Option Nat := none
  markBad : FMap Nat := []
  probe : Option Nat := none
  echoDue : Option Nat := none
  clock : FMap Nat := []
deriving DecidableEq, Repr

/-! ### Host ports, DMA, cast-on -/

/-- An address-association block of an IDE stream (R479): the addresses from base to limit, both included. -/
structure IdeAssoc where
  valid : Bool := false
  base : Nat := 0
  limit : Nat := 0
deriving DecidableEq, Repr

/-- What host software sets in a port's configuration space and in BAR2 (R426, R459, R479), at the values that PCIe gives it at a
reset (log 92): max payload and max read request size in bytes, MSI-X enable and function mask, the vectors' entries (message address,
data, vector control) and pending bits, D3hot, the address associations of the IDE streams (two of each). -/
structure PortConfig where
  maxPayload : Nat := 128
  maxRead : Nat := 512
  msix : Bool := false
  masked : Bool := false
  vectors : FMap (BitVec 128) := []
  pending : BitVec 64 := 0
  d3hot : Bool := false
  assoc : FMap IdeAssoc := []
deriving DecidableEq, Repr

/-- A host port (R426 to R438, R459, R479, R623): its link with speed and width, PERST_N low, when the last poll began and the
interval in ns, a KICK, the requests that wait and the reads outstanding, the source last served in each class, its IDE streams
that are Secure, the words last read from its doorbell page, whether it has had a RING_OP, its configuration. -/
structure HostPort where
  link : Bool := false
  speed : Nat := 0
  width : Nat := 0
  perst : Bool := false
  pollAt : Nat := 0
  interval : Nat := 200
  kicked : Bool := false
  reqs : List DmaReq := []
  reads : List (Nat × DmaReq) := []
  readSeq : Nat := 0
  served : FMap Nat := []
  secure : BitVec 2 := 0
  words : FMap Word := []
  op : Bool := false
  cfg : PortConfig := {}
deriving DecidableEq, Repr

/-! ### The compression engine -/

/-- What a class-3 job of the engine does: COMPRESS, DECOMPRESS, a load with SKEIN = 1 into an on-die memory (0 waveform, 1 thread
program, 2 kernel, 3 DSP lane memory) of a half at an offset (R445, R510, R515). -/
inductive JobKind where
  | compress (prefilter : Bool)
  | decompress
  | load (mem half off limit : Nat)
deriving DecidableEq, Repr

/-- A class-3 job: its command, partition and port; the source bytes that its reads returned and that are still to be worked, and
how many bytes of its source are still to be worked in all; its destination and the room there; the bytes consumed and written, the
next SEQ, whether some skein shrank, whether it has worked a skein. -/
structure CmpJob where
  tag : Nat
  part : Nat
  port : Nat
  kind : JobKind
  data : List Byte
  left : Nat
  dst : Nat := 0
  cap : Nat := 0
  consumed : Nat := 0
  written : Nat := 0
  seq : Nat := 0
  shrunk : Bool := false
  started : Bool := false
deriving DecidableEq, Repr

/-- A user of the engine (R517): a stream by its queue, a record ring, a job by its command. -/
inductive CmpUser where
  | stream (q : Nat)
  | pack (ring : Nat)
  | job (tag : Nat)
deriving DecidableEq, Repr

/-- The engine of a half (R517): the class-3 jobs, the user whose skein is in progress, the partition last served in class 3, and
the skeins of classes 1 and 2 since a class-3 skein last had its turn, and whether the skein in progress was when EN was cleared
(R523). -/
structure CmpEng where
  jobs : List CmpJob := []
  cur : Option CmpUser := none
  last : Nat := 0
  streak : Nat := 0
  late : Bool := false
deriving DecidableEq, Repr

/-- The cast-on states (R487). -/
inductive BootSt where
  | cold | selftest | awaitImage | verify | start | ready | failed
deriving DecidableEq, Repr

/-- A port's own part in BOOT_STATUS.PSTATE (R491, R492). -/
inductive PState where
  | idle | queued | loading | won | refused | dropped
deriving DecidableEq, Repr

/-- A port's image: its PSTATE, refusal code, the chunks of its boot ring, the bytes staged, how many have been read, and whether
a read failed. -/
structure BootPort where
  st : PState := .idle
  err : Nat := 0
  chunks : List (Nat × Nat) := []
  data : List Byte := []
  got : Nat := 0
  failed : Bool := false
deriving DecidableEq, Repr

/-- Cast-on (R487 to R502): its state and FAIL_CAUSE, RESET_N low, a recast on its way, whether the sample-time counters have
started (R52), the ports' images, the arbiter's queue, the winner, the sections started, the image being started or applied,
the code of R474 for the last refused manifest, and whether a transfer was applied at this cast-on (R484). -/
structure Boot where
  st : BootSt := .selftest
  cause : Nat := 0
  resetLow : Bool := false
  recast : Bool := false
  started : Bool := false
  ports : FMap BootPort := []
  queue : List Nat := []
  winner : Option Nat := none
  sect : BitVec 4 := 0
  image : List Byte := []
  refusal : Nat := 0
  transferred : Bool := false
deriving DecidableEq, Repr

/-- The fuses of H0 that change (R472, R496, R497): the owner slots programmed, those unusable, the number of anti-rollback
fuses blown, the revocation fuses. -/
structure Fuses where
  slots : List (BitVec 384) := []
  bad : List Nat := []
  count : Nat := 0
  revoked : BitVec 4 := 0
deriving DecidableEq, Repr

/-! ### Network time -/

/-- A master heard on the active port (R527): its port identity, what BMCA compares (in its order), its Announce interval in
samples and the sample times of its last Announces. -/
structure Foreign where
  id : List Byte
  data : List Nat
  interval : Nat
  seen : List Nat
deriving DecidableEq, Repr

/-- A step or RATE change that takes effect at a row boundary (R536): its sample time, the new RATE, the step in the counter's
units. -/
structure NtUpdate where
  t : Nat
  rate : Option Word := none
  step : Int := 0
deriving DecidableEq, Repr

/-- The slave and its servo (R527, R528, R537 to R541): the state in NT_STATUS.STATE's order, STEPPED, OFFSET_SEQ, the
consecutive small offsets, the masters heard and the one selected, when the last Sync was accepted; the last Sync's origin and
receive times with corrections applied, and a two-step Sync that awaits its Follow_Up; the Delay_Req under way, its interval and
the time of the last. -/
structure Servo where
  st : Nat := 0
  stepped : Bool := false
  seq : BitVec 16 := 0
  near : Nat := 0
  foreign : List Foreign := []
  master : Option (List Byte) := none
  lastSync : Nat := 0
  sync : Option (Int × Int) := none
  twoStep : Option (Nat × Int × Int) := none
  req : Option (Nat × Int) := none
  reqSeq : Nat := 0
  reqEvery : Nat := 0
  reqLast : Option Nat := none
  gone : Bool := true
deriving DecidableEq, Repr

/-! ### SPDM and IDE -/

/-- A secured session (R469): its identifier, whether FINISH has completed it, its transcript and shared secret, the generation of
the key of each direction and the messages sealed with it. -/
structure Session where
  id : Nat
  up : Bool := false
  transcript : List Byte
  secret : List Byte
  reqGen : Nat := 0
  rspGen : Nat := 0
  reqSeq : Nat := 0
  rspSeq : Nat := 0
deriving DecidableEq, Repr

/-- The responder of a port (R469, R479): how far version, capabilities and algorithms have been negotiated (1, 2, 3), the
transcripts of negotiation, of the certificate and of measurements, the sessions; the IDE keys programmed and the key sets that are
in force, by stream, key set, direction and sub-stream. -/
structure Spdm where
  stage : Nat := 0
  vca : List Byte := []
  cert : List Byte := []
  meas : List Byte := []
  sessions : List Session := []
  nextId : Nat := 0
  keys : FMap (List Byte) := []
  going : List Nat := []
deriving DecidableEq, Repr

/-! ### Power and the TAP -/

/-- The tension governor of a half (R607 to R612): its level, the level last computed, since when that has stayed below the
level, since when the level has been 1 or more, and whether SUPPLY_SAG has been raised for the episode. -/
structure Gov where
  level : Nat := 0
  comp : Nat := 0
  below : Option Nat := none
  since : Option Nat := none
  sagged : Bool := false
deriving DecidableEq, Repr

/-- The states of the TAP controller (R624, IEEE 1149.1). -/
inductive TapSt where
  | reset | idle | selectDr | captureDr | shiftDr | exit1Dr | pauseDr | exit2Dr | updateDr
  | selectIr | captureIr | shiftIr | exit1Ir | pauseIr | exit2Ir | updateIr
deriving DecidableEq, Repr

/-- The instructions of the TAP (R624). -/
inductive TapInstr where
  | bypass | sample | extest
deriving DecidableEq, Repr

/-- The TAP: its state, the instruction in force, the shift registers, the boundary register's output latch, TDO (none: high
impedance). -/
structure Tap where
  st : TapSt := .reset
  instr : TapInstr := .bypass
  ir : List Bool := []
  dr : List Bool := []
  latch : List Bool := []
  tdo : Option Bool := none
deriving DecidableEq, Repr

/-! ### Faults and quiet mode -/

/-- What a reaction shadow covers (R584). -/
inductive Cover where
  | runs (l : List Nat)
  | block (kind : Nat) (i : Nat)
  | all
deriving DecidableEq, Repr

/-- A reaction shadow: the sample time at which it ends and what it covers. -/
structure Shadow where
  until_ : Nat
  half : Nat
  cover : Cover
deriving DecidableEq, Repr

/-- A run number leaves what a shadow of a run stop covers. -/
def Shadow.drop (r : Nat) (x : Shadow) : Shadow :=
  { x with cover := match x.cover with | .runs l => .runs (l.filter fun k => k != r) | c => c }

/-- Quiet mode of one half, as QUIET_STATUS and QUIET_T show it (R590 to R595): the state, the first cause and its
source, the result of the last exit request, the entries since cast-on; a request that awaits its boundary; and whether EN of the
half's DACs is still to clear. -/
structure Quiet where
  on : Bool := false
  cause : Nat := 0
  id : Nat := 0
  exitResult : BitVec 8 := 0
  entries : Nat := 0
  granted : Bool := false
  lastReq : Option Nat := none
  drop : Bool := false
deriving DecidableEq, Repr

/-- The FAULT_N ball from READY (R588): its level, FN_PENDING, when the assertion began, when an acknowledged ball is to be
released and whether it is then to assert again, and when a release of 1 µs ends. -/
structure FaultN where
  asserted : Bool := false
  pending : Bool := false
  since : Nat := 0
  release : Option Nat := none
  again : Bool := false
  reassert : Option Nat := none
deriving DecidableEq, Repr

end Sys2Proof.Machine
end

