-- ==== Sys2Proof/Machine/State.lean ====
section
/-!
DEFINITION. The state of the part, the reasons a step can stop, and the state after reset.
-/
namespace Sys2Proof.Machine

/-- The reasons a step ends in a fault. -/
inductive Fault where
  /-- An operand that no event of the part can have (Syntax lists them in WellFormed).  Raised by `exec` for such an
  operand.  SAFE: the part meets no such event. -/
  | illFormed
deriving DecidableEq, Repr

/-- The reasons a command is refused. -/
inductive Refusal where
  /-- The command has no meaning in this model.  Raised by its arm of `exec`.  SAFE: nothing is claimed of it. -/
  | notModelled (mnemonic : String)
deriving DecidableEq, Repr

/-- The state of the part.  `regs` is the register file (keys `Reg.key`), `shadows` and `staged` the per-port halves of
64-bit accesses (R74, R75), `lastRead` the data of each port's last register read, `c0` and `c1` the sample-time
counters of H0 and H1 (R51).  `pending` is the model's queue of commands and `freeCount` counts the free values drawn;
both are the model's own. -/
structure State where
  pending : List Instr := []
  freeCount : Nat := 0
  regs : FMap Word := []
  shadows : FMap Word := []
  staged : FMap Word := []
  lastRead : FMap Word := []
  c0 : Word64 := 0
  c1 : Word64 := 0
  syncAt : Option Nat := none
  mem : List Host.Cell := []
  segtab : FMap (BitVec 128) := []
  thr : FMap Thread := []
  turn : FMap Nat := []
  prioQ : List Nat := []
  run : FMap Run := []
  bar : FMap Barrier := []
  que : FMap Queue := []
  released : List Released := []
  osc : FMap (List Osc) := []
  pulses : List Pulse := []
  delays : FMap (List (Nat × Word)) := []
  dacOut : FMap (List (BitVec 14)) := []
  pat : FMap Pattern := []
  strm : FMap (Option Stream) := []
  flux : FMap FluxCh := []
  fluxOut : FMap (List (BitVec 19)) := []
  strobes : List Strobe := []
  blanks : List Nat := []
  marks : FMap Marker := []
  deliveries : List Delivery := []
  tables : FMap Table := []
  fires : List Fire := []
  evRow : FMap (Option Nat) := []
  evTog : FMap Bool := []
  pins : BitVec 16 := 0
  pinEdge : FMap (Option Nat) := []
  taskRow : FMap (Option Nat) := []
  lanes : FMap Lane := []
  cal : FMap Cal := []
  wins : List Window := []
  adc : FMap (List AdcRow) := []
  chans : FMap Chan := []
  caps : FMap CapEng := []
  aux : FMap Aux := []
  jumps : List JumpReq := []
  nt : FMap Nat := []
  rings : FMap Ring := []
  cmds : FMap (Option HostCmd) := []
  cmdSeq : Nat := 0
  dlk : FMap Dlk := []
  recs : List BufRec := []
  cmp : FMap CmpEng := []
  out : List Out := []
  parts : FMap (BitVec 4096) := []
  quiet : FMap Quiet := []
  shadowsF : List Shadow := []
  faultN : FaultN := {}
  firstRow : FMap (Option Nat) := []
  notified : FMap (Option Nat) := []
  forced : List (Nat × Nat) := []
  enAt : FMap (Option Nat) := []
  warm : BitVec 2 := 0
  hot : BitVec 2 := 0
  gov : FMap Gov := []
  tap : Tap := {}
  ports : FMap HostPort := []
  boot : Boot := {}
  spdm : FMap Spdm := []
  fuses : Fuses := {}
  ntLink : FMap Bool := []
  servo : Servo := {}
  ntUpd : FMap (List NtUpdate) := []
deriving DecidableEq, Repr

/-- What a meaning answers. -/
abbrev Res := Host.Outcome State Fault Refusal

/-- The part right after reset: every register at the reset value of its table (an empty register file), the counters at
zero, nothing loaded, queued, running or latched. -/
def State.reset : State := {}

end Sys2Proof.Machine
end

