-- ==== Sys2Proof/Machine/Ops.lean ====
section
/-!
DEFINITION. The named operations over State: registers and counters, time, on-die memories, ownership by the applied
partition entries, threads, runs, queues and records.
-/
namespace Sys2Proof.Machine

/-! ### Registers -/

/-- The half, as a number. -/
abbrev hn (h : Half) : Nat := h.val

/-- The fault sources that exist, by local index, with their default class and whether they are locked (R575, R578). -/
def sources : List (Nat × Nat × Bool) :=
  [(0x040, 3, true), (0x041, 3, true), (0x042, 3, true), (0x043, 1, false), (0x044, 2, false), (0x045, 2, false),
   (0x046, 0, false), (0x047, 0, false), (0x048, 0, false), (0x049, 0, false),
   (0x060, 2, false), (0x061, 2, false), (0x062, 2, false), (0x063, 2, false), (0x064, 1, false), (0x065, 0, false),
   (0x066, 0, false), (0x068, 0, false), (0x069, 0, false), (0x06A, 0, false), (0x06B, 2, false)] ++
  [(0x080, 0, false), (0x081, 2, false), (0x082, 2, false), (0x083, 2, false), (0x084, 2, false), (0x085, 3, true),
   (0x0A0, 0, false), (0x0A1, 0, false), (0x0A2, 2, false), (0x0A3, 2, false),
   (0x0C0, 2, false), (0x0C1, 0, false), (0x0C2, 2, false), (0x0C3, 2, false), (0x0C4, 3, true),
   (0x0E0, 1, false), (0x0E8, 0, false), (0x0E9, 0, false), (0x0F0, 0, false)] ++
  [(0x100, 0, false), (0x101, 2, false), (0x102, 0, false), (0x110, 0, false), (0x111, 0, false), (0x120, 0, false),
   (0x130, 0, false), (0x131, 0, false), (0x132, 1, false), (0x133, 0, false), (0x140, 0, false),
   (0x150, 1, false), (0x151, 0, false), (0x152, 1, false), (0x160, 3, true), (0x161, 0, false), (0x162, 0, false),
   (0x170, 0, false), (0x171, 3, true), (0x172, 0, false), (0x1E0, 3, true)]

/-- Class and lock of a source; none where the source does not exist. -/
def sourceRow (i : Nat) : Option (Nat × Bool) := (sources.find? fun e => e.1 == i).map (·.2)

/-- The reset value of SRC_CFG of a source: EN = 1, its default class, its LOCK bit; zero where no source exists
(R575). -/
def srcCfgReset (i : Nat) : Word :=
  match sourceRow i with
  | some (c, l) => BitVec.ofNat 32 (2 ^ 31 + c * 2 ^ 29 + (if l then 2 ^ 28 else 0))
  | none => 0

/-- The reset value of element (i, j) of a register on half h (R12): the register table's, with the registers whose
reset value depends on the half or the element. -/
def resetAt (r : Reg) (h i _j : Nat) : Word :=
  match r with
  | .HALF => if h = 0 then 2 else 1
  | .SRC_CFG => srcCfgReset i
  | .PORT_PART => BitVec.ofNat 32 (0xF0 + 2 * h + i)
  | r => r.info.reset

/-- The stored value of element (i, j) of register r on half h. -/
def State.reg (s : State) (r : Reg) (h : Nat) (i : Nat := 0) (j : Nat := 0) : Word :=
  mget (resetAt r h i j) s.regs (r.key h i j)

/-- Store a value in element (i, j) of register r on half h. -/
def State.setReg (s : State) (r : Reg) (h : Nat) (i j : Nat) (v : Word) : State :=
  { s with regs := mset (resetAt r h i j) s.regs (r.key h i j) v }

/-- Add to a saturating counter register. -/
def State.count (s : State) (r : Reg) (h i : Nat) (n : Nat := 1) : State :=
  s.setReg r h i 0 (satAdd (s.reg r h i) n)

/-- Set or clear one bit of a register. -/
def State.regBit (s : State) (r : Reg) (h i : Nat) (b : Nat) (v : Bool) : State :=
  s.setReg r h i 0 (setBit (s.reg r h i) b v)

/-- Store a 64-bit value in a pair of registers. -/
def State.setPair (s : State) (lo hi : Reg) (h i : Nat) (v : Nat) : State :=
  (s.setReg lo h i 0 (BitVec.ofNat 32 v)).setReg hi h i 0 (BitVec.ofNat 32 (v / 2 ^ 32))

/-- The 64-bit value that a pair of registers holds. -/
def State.pair (s : State) (lo hi : Reg) (h i : Nat) : Nat :=
  (s.reg lo h i).toNat + 2 ^ 32 * (s.reg hi h i).toNat

/-! ### Time -/

/-- The sample-time counter of a half (R51). -/
def State.cnt (s : State) (h : Nat) : Word64 := if h = 0 then s.c0 else s.c1

/-- The counter as a number. -/
def State.now (s : State) (h : Nat) : Nat := (s.cnt h).toNat

/-- The row the counter of a half is in (R50). -/
def State.row (s : State) (h : Nat) : Nat := rowOf (s.now h)

/-- The sample time of the first row boundary strictly later than now (R628). -/
def State.nextBoundary (s : State) (h : Nat) : Nat := s.now h + 32

/-- A 48-bit time beside the counter of a half, extended (R58). -/
def State.extI (s : State) (h : Nat) (t : T48) : Int := ext48 (s.now h) t

/-- The same where only what lies from sample 0 on matters: the stamp of a command in a queue. -/
def State.ext (s : State) (h : Nat) (t : T48) : Nat := (s.extI h t).toNat

/-- Whether the governor of a half holds back the yielding block of MASK bit b of GOV_CTL (24 the compression engine, 25 the DSP lanes,
26 the ring engines with their DMA, 27 the calibration sequencer): at level n it starts a handshake in 8 − n of every 8 windows of 50 ns
(R609; log 87). -/
def State.paced (s : State) (h b : Nat) : Bool :=
  let n := (mget {} s.gov h).level
  decide (0 < n) && bit (s.reg .GOV_CTL h) b && (decide (8 ≤ n) || decide (Config.govWindow h (s.now h) % 8 < n))

/-! ### Free values -/

/-- Draw a free value of width w (log 2). -/
def State.free (w : Nat) (s : State) : BitVec w × State :=
  (Config.freeValue w s.freeCount, { s with freeCount := s.freeCount + 1 })

/-! ### On-die memories (R40) -/

/-- The four memories of a half. -/
inductive Mem where
  | wave | prog | kernel | dsp
deriving DecidableEq, Repr

/-- The size of a memory of one half, in bytes. -/
def Mem.size : Mem → Nat
  | .wave => 50331648
  | .prog => 8388608
  | .kernel => 4194304
  | .dsp => 4194304

/-- The place of a half's memory in the model's one address space. -/
def Mem.base (m : Mem) (h : Nat) : Nat :=
  match m with
  | .wave => h * 50331648
  | .prog => 100663296 + h * 8388608
  | .kernel => 117440512 + h * 4194304
  | .dsp => 125829120 + h * 4194304

/-- A byte of memory; a byte that nothing has written reads zero (R483). -/
def memGet (m : List Host.Cell) (a : Nat) : Byte := mget 0 m a

/-- n bytes of memory from address a. -/
def memRead (m : List Host.Cell) (a : Nat) : Nat → List Byte
  | 0 => []
  | n + 1 => memGet m a :: memRead m (a + 1) n

/-- Write bytes from address a. -/
def memWrite (m : List Host.Cell) (a : Nat) : List Byte → List Host.Cell
  | [] => m
  | b :: bs => memWrite (mset 0 m a b) (a + 1) bs

/-- The form that every memory of State has. -/
abbrev Memory.wf (m : List Host.Cell) : Bool := mwf (0 : Byte) m

/-- n bytes of a half's memory at an offset. -/
def State.read (s : State) (k : Mem) (h off n : Nat) : List Byte := memRead s.mem (k.base h + off) n

/-- Write bytes into a half's memory at an offset. -/
def State.write (s : State) (k : Mem) (h off : Nat) (bs : List Byte) : State :=
  { s with mem := memWrite s.mem (k.base h + off) bs }

/-- The 64-bit instruction word n of a half's program memory (R118). -/
def State.progWord (s : State) (h n : Nat) : BitVec 64 := BitVec.ofNat 64 (ofLE (s.read .prog h (8 * n) 8))

/-- The 32-bit word w of a lane's memory (R364). -/
def State.laneWord (s : State) (l w : Nat) : Word :=
  BitVec.ofNat 32 (ofLE (s.read .dsp (l / 16) (262144 * (l % 16) + 4 * (w % 65536)) 4))

/-- Write the 32-bit word w of a lane's memory. -/
def State.setLaneWord (s : State) (l w : Nat) (v : Word) : State :=
  s.write .dsp (l / 16) (262144 * (l % 16) + 4 * (w % 65536)) (leBytes 4 v.toNat)

/-! ### Ownership (R44, R45, R473) -/

/-- The partition entry of index k: 0 to 3 for P0 to P3, 4 for PD. -/
def State.part (s : State) (k : Nat) : BitVec 4096 := mget 0 s.parts k

/-- Whether bit n of the bitmap at byte b of an entry is set. -/
def State.has (s : State) (k b n : Nat) : Bool := bit (s.part k) (8 * b + n)

/-- The partition that holds bit n of the bitmap at byte b; PD what the manifest assigns to none of P0 to P3 (R466), none while no
manifest is applied. -/
def State.ownerBit (s : State) (b n : Nat) : Option Nat :=
  if s.has 0 b n then some 0 else if s.has 1 b n then some 1 else if s.has 2 b n then some 2
  else if s.has 3 b n then some 3 else if s.parts.isEmpty then none else some 4

/-- The partition index that a port is bound to (R45). -/
def State.portPart (s : State) (p : Nat) : Option Nat := s.ownerBit 2 p

/-- The code of a partition index in VIEW and PORT_PART. -/
def partCode : Option Nat → Nat
  | none => 0xF
  | some k => if k = 4 then 8 else k

/-- Owners of the resources, by global number (the partition entry's bitmaps). -/
def State.ownDrive (s : State) (n : Nat) : Option Nat := s.ownerBit 16 n
def State.ownPair (s : State) (n : Nat) : Option Nat := s.ownerBit 20 n
def State.ownFluxGroup (s : State) (n : Nat) : Option Nat := s.ownerBit 22 n
def State.ownLane (s : State) (n : Nat) : Option Nat := s.ownerBit 24 n
def State.ownTrig (s : State) (n : Nat) : Option Nat := s.ownerBit 28 n
def State.ownMark (s : State) (n : Nat) : Option Nat := s.ownerBit 30 n
def State.ownEngine (s : State) (n : Nat) : Option Nat := s.ownerBit 32 n
def State.ownBarrier (s : State) (n : Nat) : Option Nat := s.ownerBit 40 n
def State.ownTable (s : State) (n : Nat) : Option Nat := s.ownerBit 48 n
def State.ownThread (s : State) (n : Nat) : Option Nat := s.ownerBit 64 n
def State.ownEvent (s : State) (n : Nat) : Option Nat := s.ownerBit 128 n
def State.ownWavePage (s : State) (h n : Nat) : Option Nat := s.ownerBit 256 (768 * h + n)
def State.ownProgPage (s : State) (h n : Nat) : Option Nat := s.ownerBit 448 (128 * h + n)
def State.ownKernelPage (s : State) (h n : Nat) : Option Nat := s.ownerBit 480 (64 * h + n)

/-- The owner of a DAC in the DRV block's numbering (R203). -/
def State.ownDac (s : State) (h k : Nat) : Option Nat :=
  if k < 16 then s.ownDrive (16 * h + k) else s.ownPair (8 * h + (k - 16))

/-- The first ring ID and the count of a partition (R430). -/
def State.ridBase (s : State) (k : Nat) : Nat := bits (s.part k) 51 32
def State.ridCount (s : State) (k : Nat) : Nat := bits (s.part k) 84 64

/-- Whether a ring ID lies in a partition's range (R430). -/
def State.ringIn (s : State) (k r : Nat) : Bool := decide (s.ridBase k ≤ r ∧ r < s.ridBase k + s.ridCount k)

/-- The partition whose range holds a ring ID (R430). -/
def State.ringOwner (s : State) (r : Nat) : Option Nat := (List.range 5).find? fun k => s.ringIn k r

/-! ### Queues -/

/-- The key of a queue. -/
def qKey (q : QId) : Nat :=
  match q.kind with
  | .slot => q.idx.val
  | .tone => 512 + q.idx.val
  | .chan => 1024 + q.idx.val
  | .flux => 1536 + q.idx.val

/-- The kind of a queue key. -/
def qKind (q : Nat) : QKind := if q < 512 then .slot else if q < 1024 then .tone else if q < 1536 then .chan else .flux

/-- The global resource number of a queue key. -/
def qIdx (q : Nat) : Nat := q % 512

/-- The half of a queue's resource (R37). -/
def qHalf (q : Nat) : Nat := if q < 1536 then qIdx q / 256 else qIdx q / 64

/-- The local queue number of LATE_FIRST_Q. -/
def qLocal (q : Nat) : Nat :=
  match qKind q with
  | .slot => qIdx q % 256
  | .tone => 0x100 + qIdx q % 256
  | .chan => 0x200 + qIdx q % 256
  | .flux => 0x300 + qIdx q % 64

/-- The grain of a queue's stamps (R54). -/
def qGrain (q : Nat) : Nat := if q < 1024 then 1 else 8

/-- The arrival lead of a queue, in rows (R62). -/
def qLead (q : Nat) : Nat :=
  match qKind q with
  | .slot => 28
  | .tone => 28
  | .chan => 2
  | .flux => 20

/-- The pattern group of a queue, local to its half: drive DACs 0–15, probe DACs 16–23, flux channels 24–87. -/
def qGroup (q : Nat) : Nat :=
  match qKind q with
  | .slot => qIdx q % 256 / 16
  | .tone => 16 + qIdx q % 256 / 32
  | .chan => 16 + qIdx q % 256 / 32
  | .flux => 24 + qIdx q % 64

/-- The DAC of a slot or tone in the DRV block's numbering, and its slot index there. -/
def qDac (q : Nat) : Nat := if q < 512 then qIdx q % 256 / 16 else 16 + qIdx q % 256 / 32
def qSlotIx (q : Nat) : Nat := if q < 512 then qIdx q % 256 else 256 + qIdx q % 256

/-- The index of a queue in the pattern registers: 0–255 slot, 256–511 probe tone, 512–575 flux channel. -/
def qLocalPat (q : Nat) : Nat :=
  match qKind q with
  | .slot => qIdx q % 256
  | .tone => 256 + qIdx q % 256
  | .chan => 0
  | .flux => 512 + qIdx q % 64

/-- The queue key of slot index i of the DRV block on half h. -/
def slotQ (h i : Nat) : Nat := if i < 256 then 256 * h + i else 512 + 256 * h + (i - 256)

/-- The partition that owns a queue's resource. -/
def State.ownQueue (s : State) (q : Nat) : Option Nat :=
  match qKind q with
  | .slot => s.ownDrive (qIdx q / 16)
  | .tone => s.ownPair (qIdx q / 32)
  | .chan => s.ownPair (qIdx q / 32)
  | .flux => s.ownFluxGroup (qIdx q / 8)

def State.queue (s : State) (q : Nat) : Queue := mget {} s.que q
def State.modQueue (s : State) (q : Nat) (f : Queue → Queue) : State := { s with que := mmod {} s.que q f }

/-! ### Threads, runs, barriers, markers, flux channels, lanes -/

def State.thread (s : State) (t : Nat) : Thread := mget {} s.thr t
def State.modThread (s : State) (t : Nat) (f : Thread → Thread) : State := { s with thr := mmod {} s.thr t f }
def State.runOf (s : State) (r : Nat) : Run := mget {} s.run r
def State.modRun (s : State) (r : Nat) (f : Run → Run) : State := { s with run := mmod {} s.run r f }
def State.barrier (s : State) (b : Nat) : Barrier := mget {} s.bar b
def State.modBarrier (s : State) (b : Nat) (f : Barrier → Barrier) : State := { s with bar := mmod {} s.bar b f }
def State.marker (s : State) (m : Nat) : Marker := mget {} s.marks m
def State.modMarker (s : State) (m : Nat) (f : Marker → Marker) : State := { s with marks := mmod {} s.marks m f }
def State.fluxCh (s : State) (f : Nat) : FluxCh := mget {} s.flux f
def State.modFlux (s : State) (c : Nat) (f : FluxCh → FluxCh) : State := { s with flux := mmod {} s.flux c f }
def State.lane (s : State) (l : Nat) : Lane := mget {} s.lanes l
def State.modLane (s : State) (l : Nat) (f : Lane → Lane) : State := { s with lanes := mmod {} s.lanes l f }
def State.calOf (s : State) (h : Nat) : Cal := mget {} s.cal h
def State.modCal (s : State) (h : Nat) (f : Cal → Cal) : State := { s with cal := mmod {} s.cal h f }
def State.pattern (s : State) (q : Nat) : Pattern := mget {} s.pat q
def State.modPattern (s : State) (q : Nat) (f : Pattern → Pattern) : State := { s with pat := mmod {} s.pat q f }
def State.stream (s : State) (q : Nat) : Option Stream := mget none s.strm q
def State.setStream (s : State) (q : Nat) (x : Option Stream) : State := { s with strm := mset none s.strm q x }
def State.table (s : State) (d : Nat) : Table := mget {} s.tables d
def State.quietOf (s : State) (h : Nat) : Quiet := mget {} s.quiet h
def State.modQuiet (s : State) (h : Nat) (f : Quiet → Quiet) : State := { s with quiet := mmod {} s.quiet h f }

/-- Whether a half is in quiet mode (R590). -/
def State.isQuiet (s : State) (h : Nat) : Bool := (s.quietOf h).on

/-- Whether a run is active: in state ARMED, RUNNING, STOPPING or COMMITTED. -/
def Run.active (r : Run) : Bool := decide (r.st ≠ .free)

/-- Whether a queue's resource is assigned to an active run (R206, R293). -/
def State.inRun (s : State) (q : Nat) : Bool := (s.queue q).owner.isSome

/-- The half of a thread (R37). -/
def thrHalf (t : Nat) : Nat := t / 256

/-- The priority of a completion status, 11 the lowest (R115). -/
def statusRank (x : BitVec 8) : Nat :=
  match x.toNat with
  | 0x11 => 1
  | 0x14 => 2
  | 0x12 => 3
  | 0x02 => 4
  | 0x08 => 5
  | 0x09 => 6
  | 0x13 => 7
  | 0x15 => 8
  | 0x0F => 9
  | 0x0E => 10
  | _ => 11

/-- A run's status raised by another (R115). -/
def raise (old new : BitVec 8) : BitVec 8 := if statusRank new < statusRank old then new else old

def State.raiseRun (s : State) (r : Nat) (x : BitVec 8) : State := s.modRun r fun u => { u with status := raise u.status x }

/-- Change one open shot of a run. -/
def State.modShot (s : State) (r num : Nat) (f : Shot → Shot) : State :=
  s.modRun r fun u => { u with shots := u.shots.map fun x => if x.num = num then f x else x }

/-- Set a flag in a shot's record (R457). -/
def State.flagShot (s : State) (r num b : Nat) : State := s.modShot r num fun x => { x with flags := x.flags ||| BitVec.ofNat 32 (2 ^ b) }

/-- The number of the shot whose span at the ball contains sample n: the last open shot that has started there (R457). -/
def Run.ballShot (u : Run) (n : Nat) : Option Nat :=
  (u.shots.foldl (fun (acc : Option Shot) x =>
    if x.s ≤ (n : Int) then (match acc with | some y => if y.s ≤ x.s then some x else some y | none => some x) else acc) none).map (·.num)

/-- Set a flag tied to a ball row: in the shot whose span contains sample n (R457). -/
def State.flagBall (s : State) (r n b : Nat) : State :=
  match (s.runOf r).ballShot n with
  | some k => s.flagShot r k b
  | none => s

/-- Make the current shot of a run its final shot (R90). -/
def State.finalShot (s : State) (r : Nat) : State :=
  s.modRun r fun u =>
    if u.st = .free then u
    else { u with final := some (match u.final with | some k => min k u.shot | none => u.shot),
                  st := if u.st = .running then .stopping else u.st }

/-! ### Records and output -/

/-- Emit something from the part. -/
def State.emit (s : State) (o : Out) : State := { s with out := s.out ++ [o] }

/-- The bytes that wait in a half's record buffer (R456). -/
def State.bufUsed (s : State) (h : Nat) : Nat := (s.recs.filter fun x => x.half = h).foldl (fun n x => n + x.bytes.length) 0

/-! ### Threads of runs -/

/-- Every queue assigned to a run, by key. -/
def State.queuesOf (s : State) (r : Nat) : List Nat :=
  (s.que.filter fun e => match e.2.owner with | some (_, k) => k == r | none => false).map (·.1)

/-- Every marker assigned to a run. -/
def State.marksOf (s : State) (r : Nat) : List Nat :=
  (s.marks.filter fun e => match e.2.owner with | some (_, k) => k == r | none => false).map (·.1)

/-- Every active run, by number. -/
def State.activeRuns (s : State) : List Nat := (s.run.filter fun e => e.2.active).map (·.1)

/-- The run that a queue's resource is assigned to. -/
def State.runOfQueue (s : State) (q : Nat) : List Nat :=
  match (s.queue q).owner with
  | some (_, r) => [r]
  | none => []

/-- One half's side of the die link. -/
def State.dlkOf (s : State) (h : Nat) : Dlk := mget {} s.dlk h
def State.modDlk (s : State) (h : Nat) (f : Dlk → Dlk) : State := { s with dlk := mmod {} s.dlk h f }

/-- Whether the die link carries messages: both sides ACTIVE or in Rest, which a message ends (R567). -/
def State.linkUp (s : State) : Bool :=
  ((s.dlkOf 0).st == .active || (s.dlkOf 0).st == .rest) && ((s.dlkOf 1).st == .active || (s.dlkOf 1).st == .rest)

/-- Hand a message to the die link of a half; with the link down it is lost (R570), and counted while the link is Dormant
(R568). -/
def State.send (s : State) (h : Nat) (m : DlkMsg) : State :=
  if s.linkUp then s.modDlk h fun d => { d with msgs := d.msgs ++ [m] }
  else if (s.dlkOf h).st = .dormant then s.count .XH_DISCARD h 0
  else s

def State.port (s : State) (p : Nat) : HostPort := mget {} s.ports p
def State.modPort (s : State) (p : Nat) (f : HostPort → HostPort) : State := { s with ports := mmod {} s.ports p f }

/-- Whether cast-on has reached READY (R487). -/
def State.ready (s : State) : Bool := s.boot.st == .ready

def State.ring (s : State) (r : Nat) : Ring := mget {} s.rings r
def State.modRing (s : State) (r : Nat) (f : Ring → Ring) : State := { s with rings := mmod {} s.rings r f }

/-- Fold an operation over a list. -/
def State.forEach {α : Type} (s : State) (l : List α) (f : State → α → State) : State := l.foldl f s

end Sys2Proof.Machine
end

