-- ==== Sys2Proof/Machine/Faults.lean ====
section
/-!
DEFINITION. The event router's firings, what stopping a run does, quiet mode, and an occurrence of a fault source with
its reaction: the operations that every block calls (R113, R411 to R423, R576 to R598).
-/
namespace Sys2Proof.Machine

/-! ### Firing an event channel -/

/-- The elements i of a register that a half's register file lists: those that differ from reset. -/
def State.listed (s : State) (r : Reg) (h : Nat) : List Nat :=
  (s.regs.filter fun e => e.1 / 256 / 2048 == r.info.num * 2 + h).map fun e => e.1 / 256 % 2048

/-- EC_CFG of a channel by its global number. -/
def State.ecCfg (s : State) (ch : Nat) : Word := s.reg .EC_CFG (ch / 512) (ch % 512)

/-- Whether a channel is enabled: its EN bit and its group's bit in EG_CTL (R411). -/
def State.ecEnabled (s : State) (ch : Nat) : Bool :=
  bit (s.ecCfg ch) 31 && bit (s.reg .EG_CTL (ch / 512)) (ch % 512 / 16)

/-- Whether a half has threads of active runs that may name a channel in WAITEV or BEV: runs of the channel's owner (R148). -/
def State.watched (s : State) (h : Half) (ch : Nat) : Bool :=
  s.run.any fun e => e.2.active && s.ownEvent ch == some e.2.owner && e.2.threads.any fun t => thrHalf t == h.val

/-- The consumers of a channel on one half: the enabled task inputs that select it, and the half's threads where it has such that
may observe it (R415, R418). -/
def State.consumers (s : State) (h : Half) (ch : Nat) : List FireDest :=
  ((s.listed .TASK_SEL h).filter fun u => bit (s.reg .TASK_SEL h u) 31 && bits (s.reg .TASK_SEL h u) 9 0 == ch).map (.task h) ++
  if s.watched h ch then [.threads h] else []

/-- The place of a half's record of a channel's last firing, as its threads observe it. -/
def evKey (h ch : Nat) : Nat := 1024 * h + ch

/-- The row of half h in which the last firing of a channel registered at its threads (R151). -/
def State.lastFiring (s : State) (h ch : Nat) : Option Nat := mget none s.evRow (evKey h ch)

/-- A firing registers at the threads of a half in a row. -/
def State.observe (s : State) (h ch row : Nat) : State := { s with evRow := mset none s.evRow (evKey h ch) (some row) }

/-- Put a firing on its way to a half's consumers; a half with no thread to observe it has observed it at once (log 79). -/
def State.fireTo (s : State) (h : Half) (ch gen row : Nat) : State :=
  let s := if s.watched h ch then s else s.observe h ch row
  { s with fires := s.fires ++ (s.consumers h ch).map fun d => ⟨d, ch, gen, row⟩ }

/-- A firing of generation at most 7 reaches a channel: it is dropped and counted where the channel is not enabled;
otherwise it is counted, its generation shown, and it travels to its consumers on both halves, to the far half over the
die link (R411, R420, R423).  A SAFETY channel feeds only its own half (R414). -/
def State.fireRaw (s : State) (ch gen row : Nat) : State :=
  let h := ch / 512
  if !s.ecEnabled ch then s.count .EC_DROPS h (ch % 512)
  else
    let s := (s.count .EC_FIRES h (ch % 512)).setReg .EC_CFG h (ch % 512) 0 (setBits (s.ecCfg ch) 14 12 gen)
    let s := { s with evTog := mmod false s.evTog ch not }
    let hh : Half := if h = 0 then 0 else 1
    let fh : Half := if h = 0 then 1 else 0
    let s := s.fireTo hh ch gen row
    if (s.consumers fh ch).isEmpty then s else s.send h (.event ch gen)

/-- A hardware producer of a half fires: every channel of the half whose SRC names it fires (R412, R413). -/
def State.fireProducer (s : State) (h code gen row : Nat) : State :=
  s.forEach ((s.listed .EC_CFG h).filter fun c => bits (s.reg .EC_CFG h c) 11 0 == code)
    fun s c => s.fireRaw (512 * h + c) gen row

/-- A command's work ends with a status and RESULT; its completion is still to be posted (R442). -/
def State.finish (s : State) (tag : Nat) (status : BitVec 8) (result : Word64) : State :=
  match mget none s.cmds tag with
  | some c =>
    if c.done.isSome then s
    else { s with cmds := mset none s.cmds tag (some { c with done := some (status, result), order := s.cmdSeq }), cmdSeq := s.cmdSeq + 1 }
  | none => s

/-! ### The end of a calibration routine -/

/-- A CAL_RUN completes and fires CAL_DONE (R400). -/
def State.calDone (s : State) (h tag : Nat) (status : BitVec 8) : State :=
  (s.finish tag status 0).fireProducer h 0x49 0 (s.row h)

/-- The calibration routine of a half ends at once (R398); a result of FLUX_CELLS that is being applied gives way to the values before
the routine (log 88). -/
def State.endCal (s : State) (h : Nat) (status : BitVec 8) : State :=
  match (s.calOf h).job with
  | some j =>
    (s.modCal h fun c =>
      { c with job := none, applying := none,
               target := match c.applying with | some x => mset none c.target (64 + j.target % 64) (some x.2) | none => c.target }).calDone h
      j.tag status
  | none => s

/-! ### Stopping a run -/

/-- A thread halts for its run (R113, R272): nothing it waits for resumes it. -/
def haltThread (st : ThrState) (t : Thread) : Thread :=
  { t with st := st, stall := .none, wait := none, evwait := none, barrier := none, push := none, prio := 0 }

/-- Discard the commands of a queue, counting them for their runs and in DISCARD_COUNT (R113, R114).  A discarded
command that was to start pattern play ends the queue's claim of R103 (log 12). -/
def State.discardQueue (s : State) (q : Nat) : State :=
  let cs := (s.queue q).cmds
  if cs.isEmpty then s
  else
    let s := s.modQueue q fun x => { x with cmds := [], pat := x.pat && (s.pattern q).active }
    let s := s.count .DISCARD_COUNT (qHalf q) 0 cs.length
    s.forEach cs fun s c => s.modRun c.run fun u => { u with discards := u.discards + 1 }

/-- End the pattern play of a queue at the sample time of a row boundary: the claim ends and PATTERN_END fires there
(R103). -/
def State.endPattern (s : State) (q at_ : Nat) : State :=
  if (s.queue q).pat || (s.pattern q).active then
    let s := (s.modQueue q fun x => { x with pat := false }).modPattern q fun _ => {}
    s.fireProducer (qHalf q) (0x280 + qGroup q) 0 (rowOf at_)
  else s

/-- Cut what a queue plays from sample n on. -/
def cutPulses (l : List Pulse) (q n : Nat) : List Pulse :=
  l.map fun p => if p.q = q then { p with cut := some (match p.cut with | some c => min c n | none => n) } else p

/-- Whether a released command still acts after its run stops: only an oscillator command does (log 13). -/
def Act.osc : Act → Bool
  | .setf _ => true
  | .addph _ => true
  | .setph _ => true
  | .rstph => true
  | _ => false

/-- A resource's output ends at the next row boundary: released pulses are void, pulses are cut, pattern play ends, a
pulse-mode flux output steps to zero unless `keepFlux`, and a flux channel's pending code becomes its output code there
(R113, R289, R306). -/
def State.silence (s : State) (q : Nat) (keepFlux : Bool) : State :=
  let b := s.nextBoundary (qHalf q)
  let s := { s with released := s.released.filter fun x => x.q ≠ q || x.cmd.act.osc, pulses := cutPulses s.pulses q b }
  let s := s.endPattern q b
  match qKind q with
  | .flux =>
    let bias := bit (s.reg .FLX_CTL (qHalf q) (qIdx q % 64)) 1
    s.modFlux (qIdx q) fun c =>
      { c with sync := true, writes := c.writes.filter fun w => decide (w.1 < b), zeroNext := if bias || keepFlux then c.zeroNext else some b }
  | .chan =>
    { s with wins := s.wins.filter fun w => w.ch ≠ qIdx q || decide (w.t + w.len ≤ b) }
  | _ => s

/-- A marker goes low at the next row boundary, ending its pulse (R113, R592). -/
def State.markLow (s : State) (m : Nat) : State :=
  s.modMarker m fun k => { k with changes := [⟨s.nextBoundary (m / 8), 0, 0⟩], pulseEnd := none }

/-- When a run leaves ARMED, the part clears EN of its RUN_START input (R417). -/
def State.leaveArmed (s : State) (r : Nat) : State := s.regBit .TASK_SEL 0 r 31 false

/-- Whether a thread has ended its shot (R88). -/
def Thread.over (x : Thread) : Bool :=
  match x.st with
  | .ended => true
  | .halted => true
  | .faulted => true
  | _ => false

/-- Whether the current shot of a run has ended: every thread has (R88). -/
def State.shotOver (s : State) (r : Nat) : Bool :=
  (s.runOf r).t0.isSome && (s.runOf r).threads.all fun t => (s.thread t).over

/-- The shots of a run completed (RUN_SHOT, R448). -/
def State.shotsDone (s : State) (r : Nat) : Nat :=
  let u := s.runOf r
  u.done + (if !u.stopped && s.shotOver r then 1 else 0)

/-- A run that is still ARMED stops (R113): every command pushed counts as discarded, those that the sample domain has taken
already with the others, and none of them acts. -/
def State.discardTaken (s : State) (r : Nat) : State :=
  let mine := s.released.filter fun x => x.cmd.run == r
  let s := { s with released := s.released.filter fun x => x.cmd.run != r, pulses := s.pulses.filter fun p => p.run != r }
  let s := s.forEach mine fun s x => s.count .DISCARD_COUNT (qHalf x.q) 0
  s.modRun r fun u => { u with discards := u.discards + mine.length }

/-- A stop of a run registers before it has committed (R113): threads halt, queued commands are discarded, outputs and
markers end at the next row boundary, windows close, the current shot's record carries ABORTED; a run still ARMED writes
no shot record.  Its STOPPING state is left at once.  Quiet mode (`quiet`) stops a committed run too (R591). -/
def State.stopRun (s : State) (r : Nat) (status : BitVec 8) (quiet : Bool) : State :=
  let u := s.runOf r
  if u.st = .free ∨ (u.st = .committed ∧ !quiet) then s
  else if u.stopped then s.raiseRun r status
  else
    let shots := s.shotsDone r
    let s := s.forEach u.threads fun s t => s.modThread t (haltThread .halted)
    let s := if u.st = .armed then s.discardTaken r else s
    let s := s.forEach (s.queuesOf r) fun s q => (s.discardQueue q).silence q quiet
    let s := s.forEach (s.marksOf r) fun s m => s.markLow m
    let s := if u.st = .armed then s.modRun r fun u => { u with shots := [] } else s.flagShot r u.shot 10
    let s := s.leaveArmed r
    s.modRun r fun u => { u with st := .committed, stopped := true, status := raise u.status status, done := shots,
                                 final := some (match u.final with | some k => min k u.shot | none => u.shot) }

/-! ### Notifications -/

/-- The way out of a request to an address: outside IDE while no stream is Secure, otherwise the first Secure stream whose address
associations cover it; none where none does (R480). -/
def HostPort.wayOut (x : HostPort) (addr : Nat) : Option (Option Nat) :=
  if x.secure = 0 then some none
  else
    ((List.range 2).find? fun i => bit x.secure i && [0, 1].any fun b =>
      let a := mget {} x.cfg.assoc (2 * i + b)
      a.valid && decide (a.base ≤ addr ∧ addr ≤ a.limit)).map some

/-- The entry of an MSI-X vector: masked at reset. -/
def PortConfig.vector (c : PortConfig) (v : Nat) : BitVec 128 := mget (BitVec.ofNat 128 (2 ^ 96)) c.vectors v

/-- Whether a vector's message can go out: MSI-X enabled, neither the function nor the vector masked, the link up and in D0. -/
def HostPort.msixOpen (x : HostPort) (v : Nat) : Bool :=
  x.cfg.msix && !x.cfg.masked && !bit (x.cfg.vector v) 96 && x.link && !x.cfg.d3hot

/-- Port p is to send the message of a vector (R426, R452): one that is masked stays pending, and without MSI-X enabled there is none
(log 92). -/
def State.sendMsix (s : State) (p v : Nat) : State :=
  let x := s.port p
  let a := bits (x.cfg.vector v) 63 0
  if !x.cfg.msix then s
  else if x.msixOpen v then
    match x.wayOut a with
    | some w => s.emit (.msix p w v a (bits (x.cfg.vector v) 95 64))
    | none => s
  else s.modPort p fun x => { x with cfg := { x.cfg with pending := setBit x.cfg.pending v true } }

/-- The pending messages of a port that can now go out do. -/
def State.settleMsix (s : State) (p : Nat) : State :=
  s.forEach ((List.range 64).filter fun v => bit (s.port p).cfg.pending v && (s.port p).msixOpen v) fun s v =>
    (s.modPort p fun x => { x with cfg := { x.cfg with pending := setBit x.cfg.pending v false } }).sendMsix p v

/-- MSI-X vector 0 of a bound port sends a message; occurrences within 1 µs share one (R598). -/
def State.notify (s : State) (p : Nat) : State :=
  if (s.portPart p).isNone then s
  else
    let t := s.now (p / 2)
    let recent := match mget none s.notified p with | some t0 => decide (t < t0 + 20000 ∧ t0 ≤ t) | none => false
    if recent then s else { s.sendMsix p 0 with notified := mset none s.notified p (some t) }

/-- The halves that a message of half h reaches: both while the die link is ACTIVE, otherwise its own (R34, R570). -/
def State.reached (s : State) (h : Nat) : List Nat := if s.linkUp then [0, 1] else [h]

/-- Notify the ports of the halves listed that a condition picks. -/
def State.notifyAll (s : State) (hs : List Nat) (f : Nat → Bool) : State :=
  s.forEach ([0, 1, 2, 3].filter fun p => hs.contains (p / 2) && f p) fun s p => s.notify p

/-- Notify the ports of a partition that half h reaches. -/
def State.notifyPart (s : State) (h k : Nat) : State := s.notifyAll (s.reached h) fun p => s.portPart p == some k

/-! ### Quiet mode -/

/-- A lane's job ends without DSP_DONE (R370). -/
def abortLane (l : Lane) : Lane :=
  if l.st = .running ∨ l.st = .stalled then { l with st := .idle } else l

/-- An enabled flux channel on quiet-mode entry: it is to park from boundary b; a range change in RAMP_DOWN or WAIT
goes on and parks after it, one in RAMP_UP ends at once (R289, R296, R297). -/
def parkFlux (b : Nat) (c : FluxCh) : FluxCh :=
  let c := { c with sync := true, writes := c.writes.filter fun w => decide (w.1 < b) }
  match c.phase with
  | .rampDown => { c with parkAfter := true }
  | .wait => { c with parkAfter := true }
  | _ => { c with parkNext := some b, phase := .none, zeroNext := none, calSeq := [] }

/-- What one half does when quiet mode reaches it (R591, R592), beside the stopping of runs; EN of its DACs clears at the next row
boundary, once the switches have closed. -/
def State.quietHalf (s : State) (h : Nat) (cause id : Nat) : State :=
  let b := s.nextBoundary h
  let s := s.modQuiet h fun q =>
    { q with on := true, cause := cause, id := id, entries := min 255 (q.entries + 1), granted := false, drop := true }
  let s := s.setPair .QUIET_T_LO .QUIET_T_HI h 0 (s.now h)
  let s := { s with thr := mmap ({} : Thread) (fun t (x : Thread) => if thrHalf t = h ∧ x.st ≠ ThrState.idle then haltThread .halted x else x) s.thr }
  let s := { s with lanes := mmap ({} : Lane) (fun l (x : Lane) => if l / 16 = h then abortLane x else x) s.lanes }
  let s := s.endCal h 0x11
  let s := s.forEach (List.range 8) fun s m => s.markLow (8 * h + m)
  let s := s.forEach (List.range 24) fun s k => s.regBit .DAC_STATUS h k 14 true
  s.forEach ((List.range 64).filter fun c => bit (s.reg .FLX_CTL h c) 0) fun s c => s.modFlux (64 * h + c) (parkFlux b)

/-- Whether a run has a thread on a half. -/
def Run.onHalf (u : Run) (h : Nat) : Bool := u.threads.any fun t => thrHalf t == h

/-- Quiet mode reaches a half (R591): the runs with threads there stop, and the half does what `quietHalf` says; a half already in
quiet mode records nothing (R595). -/
def State.quietIn (s : State) (k cause id : Nat) : State :=
  if s.isQuiet k then s
  else
    let s := s.forEach (s.activeRuns.filter fun r => (s.runOf r).onHalf k) fun s r => s.stopRun r 0x11 true
    let s := s.quietHalf k cause id
    let e := s.now k + 20000 * max 1 (s.reg .SHADOW 0).toNat
    let s := { s with shadowsF := s.shadowsF ++ [(⟨e, k, .all⟩ : Shadow)] }
    s.notifyAll [k] fun _ => true

/-- A cause of quiet mode on half h (R590, R594): the half enters, the cause goes to the other half in the management class, and a
granted exit that has not come yet is cancelled. -/
def State.enterQuiet (s : State) (h cause id : Nat) : State :=
  let s := s.forEach (s.reached h) fun s k =>
    s.modQuiet k fun q => if q.on ∧ q.granted then { q with granted := false, exitResult := 0x0A } else q
  if s.isQuiet h then s else (s.quietIn h cause id).send h (.quiet cause id)

/-! ### Occurrences of fault sources -/

/-- What an occurrence names: the runs it concerns (R577), the partitions that own what it names (R597), the lane,
ring or converter named, by kind 1, 2 or 3 and number, and whether the occurrence is itself that block's reaction (R584), and
whether it was forced (R581). -/
structure Names where
  runs : List Nat := []
  parts : List Nat := []
  block : Option (Nat × Nat) := none
  opens : Bool := false
  forced : Bool := false
deriving DecidableEq, Repr

/-- Whether a shadow covers an occurrence (R584, R586). -/
def Shadow.covers (x : Shadow) (h : Nat) (fatal : Bool) (w : Names) : Bool :=
  match x.cover with
  | .all => x.half == h
  | .runs l => x.half == h && !fatal && !w.runs.isEmpty && w.runs.all fun r => l.contains r
  | .block k i => x.half == h && !fatal && w.block == some (k, i)

/-- The class of a source as SRC_CFG holds it. -/
def State.srcClass (s : State) (h i : Nat) : Nat := bits (s.reg .SRC_CFG h i) 30 29
/-- EN of a source. -/
def State.srcEn (s : State) (h i : Nat) : Bool := bit (s.reg .SRC_CFG h i) 31

/-- Whether some source qualifies under R589: LATCHED, EN and its class in FN_CLASS; H1's count only over the link. -/
def State.compatLevel (s : State) : Bool :=
  [0, 1].any fun h => (h == 0 || s.linkUp) && sources.any fun e =>
    bit (s.reg .SRC_STATUS h e.1) 1 && s.srcEn h e.1 && bit (s.reg .FLT_CTL 0) (s.srcClass h e.1)

/-- In compatibility mode the ball follows the latched sources (R589). -/
def State.refreshFaultN (s : State) : State :=
  if bit (s.reg .FLT_CTL 0) 4 then { s with faultN := { asserted := s.compatLevel, since := s.now 0 } }
  else s

/-- A signalling occurrence reaches the ball: in compatibility mode the ball follows the latched sources; in native mode it asserts it, sets FN_PENDING while it is asserted, and does
neither during a release of 1 µs (R588); H1's reach it in the management class of the die link (R589). -/
def State.signalFaultN (s : State) (h : Nat) : State :=
  if h = 1 then s.send 1 .faultN
  else if bit (s.reg .FLT_CTL 0) 4 then s.refreshFaultN
  else if s.faultN.reassert.isSome then s
  else if s.faultN.asserted then { s with faultN := { s.faultN with pending := true } }
  else { s with faultN := { s.faultN with asserted := true, since := s.now 0 } }

/-- The first-fault capture of a half (R582, R583): while VALID is 0 the occurrence is captured; a later one sets
OVERFLOW, and one of the same row with a lower index takes the capture's place. -/
def State.capture (s : State) (h i : Nat) (forced : Bool) : State :=
  let id := s.reg .FIRST_ID h
  let fresh := !bit id 31
  let same := mget none s.firstRow h == some (s.row h) && decide (0x200 * h + i < bits id 9 0)
  let s := if fresh then s else s.regBit .FLT_STATUS h 0 30 true
  if fresh ∨ same then
    let v : Word := bitW true 31 ||| bitW forced 30 ||| BitVec.ofNat 32 (i + 0x200 * h)
    let s := s.setReg .FIRST_ID h 0 0 v
    let t := if bit (s.reg .CLK_STATUS h) 3 then s.now h else 0
    { s.setPair .FIRST_T_LO .FIRST_T_HI h 0 t with firstRow := mset none s.firstRow h (some (s.row h)) }
  else s

/-- The partitions an occurrence concerns (R597). -/
def State.concerned (s : State) (w : Names) : List Nat := (w.parts ++ w.runs.map fun r => (s.runOf r).owner).eraseDups

/-- FLT_PSUM bits of the partitions concerned; a bit that changes to 1 notifies the partition's ports (R597, R598).  With the
die link down each half's copy gathers that half's occurrences. -/
def State.psum (s : State) (h c : Nat) (w : Names) : State :=
  s.forEach (s.concerned w) fun s k =>
    if bit (s.reg .FLT_PSUM h k) c then s
    else
      let s := s.forEach (s.reached h) fun s g => s.regBit .FLT_PSUM g k c true
      if k = 4 then s else s.notifyPart h k

/-- Open a reaction shadow (R584): that of a run stop on every half that the reaction reaches, that of a block on its own. -/
def State.openShadow (s : State) (h : Nat) (c : Cover) : State :=
  let hs := match c with | .runs _ => s.reached h | _ => [h]
  { s with shadowsF := s.shadowsF ++ hs.map fun k => ⟨s.now h + 20000 * max 1 (s.reg .SHADOW 0).toNat, k, c⟩ }

/-- The reaction of a class (R576): DATA flags the shot record of every run concerned, RUN also makes its current shot the
final one and opens a shadow, FATAL enters quiet mode. -/
def State.react (s : State) (h i c : Nat) (w : Names) : State :=
  let flag := fun (s : State) (r : Nat) => s.flagShot r (s.runOf r).shot 9
  match c with
  | 0 => s
  | 1 => s.forEach w.runs flag
  | 2 =>
    let s := s.forEach w.runs fun s r => (flag s r).finalShot r
    if w.runs.isEmpty then s else s.openShadow h (.runs w.runs)
  | _ => s.enterQuiet h 1 (i + 0x200 * h)

/-- An occurrence of fault source i of half h (R576 to R598); the fault unit starts at READY. -/
def State.occur (s : State) (h i : Nat) (w : Names := {}) : State :=
  let s := if s.ready then s.count .SRC_COUNT h i else s
  if !s.ready || !s.srcEn h i then s
  else
    let c := s.srcClass h i
    let s := s.regBit .SRC_STATUS h i 1 true
    if s.shadowsF.any fun x => decide (s.now h < x.until_) && x.covers h (c == 3) w then
      (s.count .SECONDARY_COUNT h 0).refreshFaultN
    else
      let signals := bit (s.reg .FLT_CTL 0) c
      let s := if signals then (s.capture h i w.forced).signalFaultN h else s
      let s := if signals then s.notifyPart h 4 else s
      let s := s.psum h c w
      let s := s.fireProducer h (0x300 + c) 0 (s.row h)
      let s := match w.block with | some (k, n) => if w.opens then s.openShadow h (.block k n) else s | none => s
      s.react h i c w

/-- A firing reaches a channel: one of generation 8 is dropped, counted and raises EV_LOOP (R423). -/
def State.fire (s : State) (ch gen row : Nat) : State :=
  if gen ≥ 8 then (s.count .LOOP_COUNT (ch / 512) 0).occur (ch / 512) 0x120
  else s.fireRaw ch gen row

/-- A producer fires with a generation that may have reached 8 (R423): every channel whose SRC names it fires. -/
def State.fireGen (s : State) (h code gen row : Nat) : State :=
  if gen ≥ 8 then
    s.forEach ((s.listed .EC_CFG h).filter fun c => bits (s.reg .EC_CFG h c) 11 0 == code) fun s c => s.fire (512 * h + c) gen row
  else s.fireProducer h code gen row

/-! ### Records -/

/-- The lowest-numbered port bound to a partition on half h, else the lowest-numbered of the part (R456). -/
def State.lossPort (s : State) (k h : Nat) : Option Nat :=
  match ([2 * h, 2 * h + 1] : List Nat).find? fun p => s.portPart p = some k with
  | some p => some p
  | none => ([0, 1, 2, 3] : List Nat).find? fun p => s.portPart p = some k

/-- Count a discarded record in RECORD_LOST (R432, R433, R456). -/
def State.countLost (s : State) (h ring : Nat) : State :=
  match (s.ringOwner ring).bind fun k => s.lossPort k h with
  | some p => s.count .RECORD_LOST (p / 2) (p % 2)
  | none => s

/-- The bytes of a half's record buffer that partition k occupies, and those reserved for it: 64 KiB where it holds a port (R482). -/
def State.bufUsedBy (s : State) (h k : Nat) : Nat :=
  (s.recs.filter fun x => x.half == h && s.ringOwner x.ring == some k).foldl (fun n x => n + x.bytes.length) 0
def State.bufReserved (s : State) (k : Nat) : Nat := if bits (s.part k) 19 16 = 0 then 0 else 65536

/-- Whether a half's buffer holds room for n bytes more of partition k: beyond the reserves, 512 KiB are shared (R456, R482). -/
def State.bufRoom (s : State) (h k n : Nat) : Bool :=
  let spare := (List.range 5).foldl (fun a j => a + s.bufReserved j) 0
  let taken := (List.range 5).foldl (fun a j => a + ((s.bufUsedBy h j + (if j = k then n else 0)) - s.bufReserved j)) 0
  decide (taken + spare ≤ 524288)

/-- A record for a ring is lost, to be told of in its next LOSS record (R456). -/
def State.loseRecord (s : State) (h ring : Nat) (run : Option Nat) : State :=
  (s.countLost h ring).modRing ring fun x =>
    { x with lost := x.lost + 1, lostRun := if x.lost = 0 ∨ x.lostRun = run then run else none }

/-- The shot, modulo 2^32, that a record belongs to: a measurement (1) or shot record (5), a thread's (2) or a lane's (4). -/
def recordShot (b : List Byte) : Option Nat :=
  match leField b 0 1 with
  | 1 => some (leField b 4 4)
  | 2 => some (leField b 8 4)
  | 4 => some (leField b 8 4)
  | 5 => some (leField b 4 4)
  | _ => none

/-- A shot whose record is still to be written carries RECLOST. -/
def Run.recLost (u : Run) (k : Option Nat) : Run :=
  { u with shots := u.shots.map fun y => if k = some (y.num % 2 ^ 32) then { y with flags := y.flags ||| 0x1000 } else y }

/-- A record that cannot cross the die link is lost, and its shot's record carries RECLOST (R571). -/
def State.strandRecord (s : State) (h ring : Nat) (run : Option Nat) (bytes : List Byte) : State :=
  let s := s.loseRecord h ring run
  match run with
  | some r => s.modRun r fun u => u.recLost (recordShot bytes)
  | none => s

/-- A record of a run is formed on half h for a record ring (R454 to R456): it waits in the half's record buffer; for a ring that is
not ENABLED, or without room, it is discarded and counted, and lack of room raises REC_LOST and flags the open shots.  The run's
completion waits for it where `waits`: for every record but a DSP record (R375). -/
def State.formRecord (s : State) (h ring : Nat) (run : Option Nat) (waits : Bool) (bytes : List Byte) : State :=
  if (s.ring ring).st ≠ .enabled then s.countLost h ring
  else if !s.bufRoom h ((s.ringOwner ring).getD 5) bytes.length then
    let s := s.loseRecord h ring run
    let s := s.occur h 0x132 { runs := run.toList, parts := (s.ringOwner ring).toList }
    match run with
    | some r => s.modRun r fun u => { u with shots := u.shots.map fun x => { x with flags := x.flags ||| 0x1000 } }
    | none => s
  else { s with recs := s.recs ++ [⟨h, ring, if waits then run else none, bytes⟩] }

end Sys2Proof.Machine
end

