-- ==== Sys2Proof/Machine/Push.lean ====
section
/-!
DEFINITION. Thread faults, and the push of timed commands: the checks of R125 in their order, stalls, LATE and discards
(R59 to R63, R86, R93, R99 to R103, R111, R114, R123 to R126).
-/
namespace Sys2Proof.Machine

/-- The thread faults in the order of R120. -/
inductive TFault where
  | ecc | notOwner | range | overlap | tqRange | tqOrder
deriving DecidableEq, Repr

/-- The fault source of a thread fault (R78, R117). -/
def TFault.source : TFault → Nat
  | .ecc => 0x063
  | .notOwner => 0x060
  | .range => 0x061
  | .overlap => 0x062
  | .tqRange => 0x045
  | .tqOrder => 0x044

/-- The status of a thread fault in the thread's state and the run's completion (R111's table). -/
def TFault.status : TFault → BitVec 8
  | .ecc => 0x12
  | .notOwner => 0x08
  | .range => 0x09
  | .overlap => 0x13
  | .tqRange => 0x09
  | .tqOrder => 0x09

/-- The first fault of a list of conditions, each with its fault. -/
def firstFault : List (Bool × TFault) → Option TFault
  | [] => none
  | (c, f) :: l => if c then some f else firstFault l

/-- A thread fault (R111): the thread halts for the rest of the shot, with `now` as it is; the run's status is raised; the
source occurs, and its class decides the run. -/
def State.threadFault (s : State) (t : Nat) (f : TFault) : State :=
  let r := (s.thread t).run
  let s := s.modThread t fun x => { haltThread .faulted x with fault := f.status }
  let s := s.raiseRun r f.status
  s.occur (thrHalf t) f.source { runs := [r], parts := [(s.runOf r).owner] }

/-! ### The run-ahead of one push -/

/-- Whether a queue's resource is disabled in its own block (R114): its DAC, its input or its flux channel has EN = 0. -/
def State.disabled (s : State) (q : Nat) : Bool :=
  match qKind q with
  | .slot => !bit (s.reg .DAC_CTL (qHalf q) (qDac q)) 0
  | .tone => !bit (s.reg .DAC_CTL (qHalf q) (qDac q)) 0
  | .chan => !bit (s.reg .IN_CTL (qHalf q) (qIdx q % 256 / 32)) 0
  | .flux => !bit (s.reg .FLX_CTL (qHalf q) (qIdx q % 64)) 0

/-- How far a stamp lies ahead of the counter of its queue's half, as a signed difference (R56, R60, R93). -/
def State.ahead (s : State) (q : Nat) (t : T48) : Int := sdiff48 t (t48 (s.now (qHalf q)))

/-- Whether a command's arrival boundary has passed: the start of row ⌊t / 32⌋ − A of its queue (R62). -/
def State.isLate (s : State) (q : Nat) (t : T48) : Bool :=
  decide (s.ahead q (BitVec.ofNat 48 (t.toNat / 32 * 32)) ≤ 32 * (qLead q : Int))

/-- The run-ahead limit of a half in samples (R93): RUN_AHEAD rows, 0 treated as 1. -/
def State.runAhead (s : State) (h : Nat) : Int := 32 * (max 1 (s.reg .RUN_AHEAD h).toNat : Nat)

/-- Whether a command keeps the order and density of its queue (R59): not before the last that passed, and not the fifth
of its row. -/
def Queue.ordered (x : Queue) (t : T48) : Bool :=
  match x.lastT with
  | none => true
  | some l => decide (sdiff48 t l ≥ 0) && !(t.toNat / 32 == l.toNat / 32 && x.lastN ≥ 4)

/-- The queue after a command has passed R59. -/
def Queue.passed (x : Queue) (t : T48) : Queue :=
  { x with lastT := some t, lastN := match x.lastT with
      | some l => if t.toNat / 32 = l.toNat / 32 then x.lastN + 1 else 1
      | none => 1 }

/-- A LATE command (R63): it is not queued; the shot and the run carry LATE, the counters of R77's table record it, TQ_LATE
is raised; a command that was to start pattern play ends the claim with PATTERN_END (R103). -/
def State.lateCmd (s : State) (q : Nat) (c : Cmd) : State :=
  let h := qHalf q
  let s := s.count .LATE_COUNT h 0
  let s := if bit (s.reg .LATE_FIRST_Q h) 15 then s
    else (s.setReg .LATE_FIRST_Q h 0 0 (BitVec.ofNat 32 (c.thr * 65536 + 32768 + qLocal q))).setPair
      .LATE_FIRST_T_LO .LATE_FIRST_T_HI h 0 (ext64 (s.now h) c.stamp).toNat
  let s := s.modShot c.run c.shot fun x => { x with flags := x.flags ||| 1, late := min 65535 (x.late + 1) }
  let s := s.raiseRun c.run 0x0F
  let s := match c.act with
    | .pattern _ _ => s.fireProducer h (0x280 + qGroup q) 0 (rowOf (s.nextBoundary h))
    | _ => s
  s.occur h 0x043 { runs := [c.run], parts := (s.ownQueue q).toList }

/-- A command pushed to a disabled resource is discarded and counted (R114). -/
def State.discardCmd (s : State) (q : Nat) (c : Cmd) : State :=
  let s := s.count .DISCARD_COUNT (qHalf q) 0
  s.modRun c.run fun u => { u with discards := u.discards + 1, status := raise u.status 0x15 }

/-- The write of one command into its queue: discarded where the resource is disabled (R114), LATE where its arrival
boundary has passed (R62), otherwise queued; a command that starts pattern play claims the queue (R103). -/
def State.pushOne (s : State) (q : Nat) (c : Cmd) : State :=
  if s.disabled q then s.discardCmd q c
  else if s.isLate q c.stamp then s.lateCmd q c
  else s.modQueue q fun x =>
    { x with cmds := x.cmds ++ [c], pat := match c.act with | .pattern _ _ => true | _ => x.pat }

/-- A push completes (R124): its commands are written, `now` is set, the thread goes on at the next instruction. -/
def State.completePush (s : State) (t : Nat) (p : Push) : State :=
  let s := s.forEach p.cmds fun s qc => s.pushOne qc.1 qc.2
  s.modThread t fun x =>
    { x with st := .ready, stall := .none, push := none, pc := x.pc + 1,
             now := match p.newNow with | some n => n | none => x.now }

/-- Steps 6 and 7 of R125, for all queues of the push together (R126): order and density, then the full-queue stall. -/
def State.pushOrdered (s : State) (t : Nat) (p : Push) : State :=
  if p.cmds.any fun qc => !(s.queue qc.1).ordered qc.2.stamp then s.threadFault t .tqOrder
  else
    let s := s.forEach p.cmds fun s qc => s.modQueue qc.1 fun x => x.passed qc.2.stamp
    let s := s.forEach p.free fun s qf => s.modQueue qf.1 fun x => { x with free := some qf.2 }
    if p.cmds.any fun qc => 64 ≤ (s.queue qc.1).cmds.length then
      (s.count .STALL_COUNT (thrHalf t) 0).modThread t fun x =>
        { x with st := .stalled, stall := .fullQueue, push := some p }
    else s.completePush t p

/-- Steps 4 to 7 of R125: the range check R60, the run-ahead stall R93, then the rest. -/
def State.startPush (s : State) (t : Nat) (p : Push) : State :=
  if p.cmds.any fun qc => decide (s.ahead qc.1 qc.2.stamp > 2 ^ 46) then s.threadFault t .tqRange
  else if p.cmds.any fun qc => decide (s.ahead qc.1 qc.2.stamp > s.runAhead (thrHalf t)) then
    s.modThread t fun x => { x with st := .stalled, stall := .runAhead, push := some p }
  else s.pushOrdered t p

/-- Whether a queue is assigned to a thread that may command it: in its run, and on its half (R25, R86). -/
def State.assigned (s : State) (t q : Nat) : Bool :=
  decide ((s.queue q).owner = some (t, (s.thread t).run)) && decide (thrHalf t = qHalf q)

/-- The dead-time and pattern checks of a pulse or window (R99, R100, R103). -/
def State.overlaps (s : State) (q : Nat) (t : T48) : Bool :=
  (s.queue q).pat || match (s.queue q).free with | some f => decide (sdiff48 t f < 0) | none => false

/-- The stamp of a timed command: now + OFS, rounded to its queue's grain (R55, R123). -/
def stampOf (now : T48) (ofs q : Nat) : T48 := grain48 (now + BitVec.ofNat 48 ofs) (qGrain q)

/-- A timed command of a thread with its act. -/
def State.cmdOf (s : State) (t : Nat) (stamp : T48) (a : Act) : Cmd :=
  ⟨stamp, t, (s.thread t).run, (s.runOf (s.thread t).run).shot, a⟩

/-- A timed instruction after its own checks: the first fault found, or the push. -/
def State.timed (s : State) (t : Nat) (checks : List (Bool × TFault)) (p : Push) : State :=
  match firstFault checks with
  | some f => s.threadFault t f
  | none => s.startPush t p

/-! ### Issuing -/

/-- The opcodes of the thread instruction set (R118's table). -/
def threadOpcodes : List Nat :=
  [0x00, 0x01, 0x02, 0x08, 0x09, 0x0A, 0x10, 0x11, 0x12, 0x13, 0x18, 0x19, 0x1A, 0x1B, 0x20, 0x21, 0x28, 0x29, 0x2A, 0x2B,
   0x30, 0x31, 0x32, 0x33, 0x34, 0x35, 0x40, 0x41, 0x42, 0x43, 0x44, 0x45, 0x46, 0x47, 0x48, 0x49, 0x50, 0x58]

/-- A thread of a cluster that is ready to issue. -/
def State.canIssue (s : State) (t : Nat) : Bool := (s.thread t).st == .ready

/-- The ready priority threads of a cluster of 32, in the order in which they are served (R81). -/
def State.urgent (s : State) (c : Nat) : List Nat := s.prioQ.filter fun t => t / 32 == c && s.canIssue t && decide (0 < (s.thread t).prio)

/-- The thread that a cluster serves next: its priority threads in turn (R81), else the first ready thread from the round-robin place
on, in ascending order (R80). -/
def State.served (s : State) (c : Nat) : Option Nat :=
  match s.urgent c with
  | t :: _ => some t
  | [] => ((List.range 32).map fun i => 32 * c + (mget 0 s.turn c + i) % 32).find? s.canIssue

/-- A thread has its turn (R80, R81): a priority thread spends one of its 4 instructions and goes behind the other priority threads; any
other moves the cluster's round-robin place behind itself. -/
def State.issued (s : State) (t : Nat) : State :=
  let n := (s.thread t).prio
  if n = 0 then { s with turn := mset 0 s.turn (t / 32) ((t + 1) % 32) }
  else
    { s.modThread t fun x => { x with prio := n - 1 } with
      prioQ := (s.prioQ.filter fun u => u != t) ++ (if 1 < n then [t] else []) }

/-- A thread whose wait has just ended is a priority thread for its next 4 instructions, behind those that are (R81). -/
def State.prioritise (s : State) (t : Nat) : State :=
  { s.modThread t fun x => { x with prio := 4 } with prioQ := (s.prioQ.filter fun u => u != t) ++ [t] }

/-- A thread issues the instruction at its PC when its cluster serves it (R79 to R81, R118 to R121): a fetch past the program memory raises THR_RANGE,
an uncorrectable word THR_ECC, a page of another partition THR_NOT_OWNER, an opcode outside the table THR_RANGE.  An
instruction of another opcode is not this row's: the event has not occurred (log 1). -/
def State.issue (s : State) (t : Nat) (e : Ecc) (op : Nat) (f : State → BitVec 64 → State) : State :=
  let x := s.thread t
  if s.served (t / 32) ≠ some t then s
  else
    let s' := s.issued t
    if 1048576 ≤ x.pc then s'.threadFault t .range
    else if e = .uncorrectable then s'.threadFault t .ecc
    else if s.ownProgPage (thrHalf t) (x.pc / 8192) ≠ some (s.runOf x.run).owner then s'.threadFault t .notOwner
    else
      let w := s.progWord (thrHalf t) x.pc
      if bits w 63 56 = op then f s' w
      else if threadOpcodes.contains (bits w 63 56) then s
      else s'.threadFault t .range

/-- The thread goes on at the next instruction. -/
def State.next (s : State) (t : Nat) : State := s.modThread t fun x => { x with pc := x.pc + 1 }

/-- The thread goes on at a target. -/
def State.goto (s : State) (t n : Nat) : State := s.modThread t fun x => { x with pc := n }

/-- A general register of a thread. -/
def Thread.reg (x : Thread) (n : Nat) : Word := mget 0 x.g n
def Thread.setG (x : Thread) (n : Nat) (v : Word) : Thread := { x with g := mset 0 x.g n v }
def Thread.loopc (x : Thread) (n : Nat) : Word := mget 0 x.lc n
def Thread.setLc (x : Thread) (n : Nat) (v : Word) : Thread := { x with lc := mset 0 x.lc n v }

/-- Run `k` unless the condition holds, which raises THR_RANGE. -/
def State.ranged (s : State) (t : Nat) (bad : Bool) (k : State → State) : State := if bad then s.threadFault t .range else k s

end Sys2Proof.Machine
end

