-- ==== Sys2Proof/Machine/NetTime.lean ====
section
/-!
DEFINITION. The network-time counter (R534, R535, R545).  The model holds it exactly, in units of 1/(80 × 2^32) ns.
-/
namespace Sys2Proof.Machine

/-- Units of the counter in a nanosecond, and in a second. -/
def ntNs : Nat := 343597383680
def ntSec : Nat := 1000000000 * ntNs

/-- The counter wraps with its 48-bit seconds. -/
def ntWrap : Nat := 2 ^ 48 * ntSec

/-- The increment I of one row: 1.6 ns + RATE × 2^-32 ns (R534). -/
def ntInc (rate : Word) : Nat := (549755813888 + 80 * rate.toInt).toNat

/-- The counter of a half. -/
def State.ntOf (s : State) (h : Nat) : Nat := mget 0 s.nt h

/-- Add to the counter of a half. -/
def State.ntAdd (s : State) (h : Nat) (d : Int) : State :=
  { s with nt := mset 0 s.nt h (((s.ntOf h : Int) + d) % (ntWrap : Int)).toNat }

/-- Seconds, nanoseconds and the fraction truncated to 16 bits (R534). -/
def ntParts (n : Nat) : Nat × Nat × Nat := (n / ntSec % 2 ^ 48, n % ntSec / ntNs, n % ntNs * 65536 / ntNs)

/-- The increment in force on a half. -/
def State.ntRate (s : State) (h : Nat) : Nat := ntInc (s.reg .NT_RATE h)

end Sys2Proof.Machine
end

