-- ==== Sys2Proof/Machine/Flags.lean ====
section
/-!
DEFINITION. The flags of thread and lane arithmetic (R165, R377): each function gives the result and the flags it sets.
-/
namespace Sys2Proof.Machine

/-- The result of an arithmetic instruction and its flags Z, N, C, V. -/
structure Alu where
  r : Word
  z : Bool
  n : Bool
  c : Bool
  v : Bool
deriving DecidableEq, Repr

/-- Z and N of a result (R165), with the given C and V. -/
def Alu.of (r : Word) (c v : Bool) : Alu := ⟨r, decide (r = 0), bit r 31, c, v⟩

/-- ADD: C is the carry out of bit 31, V the signed overflow (R165). -/
def aluAdd (a b : Word) : Alu :=
  Alu.of (a + b) (decide (2 ^ 32 ≤ a.toNat + b.toNat)) (decide ((a + b).toInt ≠ a.toInt + b.toInt))

/-- SUB and CMP: C = 1 when there is no borrow, V the signed overflow (R165). -/
def aluSub (a b : Word) : Alu :=
  Alu.of (a - b) (decide (b.toNat ≤ a.toNat)) (decide ((a - b).toInt ≠ a.toInt - b.toInt))

/-- AND, OR and XOR: C = V = 0 (R165). -/
def aluLogic (r : Word) : Alu := Alu.of r false false

/-- SHL by n positions: C is the last bit shifted out, 0 for a shift by 0; V = 0 (R164, R165). -/
def aluShl (a : Word) (n : Nat) : Alu :=
  Alu.of (a <<< n) (if n = 0 then false else bit a (32 - n)) false

/-- SHR by n positions, logical or arithmetic (R164, R165). -/
def aluShr (arith : Bool) (a : Word) (n : Nat) : Alu :=
  Alu.of (if arith then a.sshiftRight n else a >>> n) (if n = 0 then false else bit a (n - 1)) false

/-- The conditions of R162 over Z, N, C, V; code 15 is reserved. -/
def condHolds (code : Nat) (z n c v : Bool) : Bool :=
  match code with
  | 0 => z
  | 1 => !z
  | 2 => c
  | 3 => !c
  | 4 => n
  | 5 => !n
  | 6 => v
  | 7 => !v
  | 8 => c && !z
  | 9 => !c || z
  | 10 => n == v
  | 11 => n != v
  | 12 => !z && n == v
  | 13 => z || n != v
  | 14 => true
  | _ => false

end Sys2Proof.Machine
end

