-- ==== Sys2Proof/Machine/Timed.lean ====
section
/-!
DEFINITION. The timed instructions of a thread: PLAY, PLAYS, MEAS, FLUX, SETF, ADDPH, SETPH, RSTPH, SIGNAL, MARK and STRM
(R123 to R138, R148, R152 to R155, R167 to R170, R178, R179, R219).
-/
namespace Sys2Proof.Machine

/-! ### Segment-table entries -/

/-- The fields of a segment-table entry. -/
structure Entry where
  addr : Nat
  length : Nat
  gauge : Nat
  loops : Nat
  next : Nat
  evTarget : Nat
  cmpTarget : Nat
  evEn : Bool
  cmpEn : Bool
  cmpState : Nat
  stream : Bool
  last : Bool
  amp : BitVec 18
  reserved : Nat
deriving DecidableEq, Repr

/-- The fields of a 16-byte entry. -/
def entryOf (x : BitVec 128) : Entry :=
  { addr := bits x 127 104, length := bits x 103 88, gauge := bits x 87 84, loops := bits x 83 72, next := bits x 71 62,
    evTarget := bits x 61 52, cmpTarget := bits x 51 42, evEn := bit x 41, cmpEn := bit x 40, cmpState := bits x 39 38,
    stream := bit x 37, last := bit x 36, amp := BitVec.ofNat 18 (bits x 35 18), reserved := bits x 17 0 }

/-- The number of a queue's segment table: 88 groups per half, H0's first. -/
def qTable (q : Nat) : Nat := 88 * qHalf q + qGroup q

/-- Entry n of a queue's table; an entry never loaded is all zeros (R483). -/
def State.entry (s : State) (q n : Nat) : Entry := entryOf (mget 0 s.segtab (1024 * qTable q + n % 1024))

/-- The number of samples in the waveform memory of one half (R179). -/
def waveSamples : Nat := 12582912

/-- Whether every page of `size` bytes from `lo` up to, but not with, `hi`, in units of `per` items a page, that the memory
has belongs to a partition. -/
def pagesOwned (own : Nat → Option Nat) (k per limit lo hi : Nat) : Bool :=
  if hi ≤ lo then true
  else (List.range ((hi - 1) / per - lo / per + 1)).all fun i => limit ≤ lo / per + i || own (lo / per + i) == some k

/-- Whether partition k owns every page that an envelope touches (R179). -/
def State.ownsEnvelope (s : State) (k h addr len : Nat) : Bool := pagesOwned (s.ownWavePage h) k 16384 768 addr (addr + len)

/-- The partition that a thread's run belongs to. -/
def State.partOf (s : State) (t : Nat) : Nat := (s.runOf (s.thread t).run).owner

/-- The checks of an entry read at issue (R130, R136, R179), beside the operand checks of the instruction: ownership first,
then ranges. -/
def State.entryOwner (s : State) (t : Nat) (e : Entry) : Bool :=
  !e.stream && !s.ownsEnvelope (s.partOf t) (thrHalf t) e.addr e.length

def State.entryRange (s : State) (q : Nat) (e : Entry) : Bool :=
  e.length == 0 || decide (9 < e.gauge) || (e.stream && (s.stream q).isNone) ||
    (!e.stream && decide (waveSamples < e.addr + e.length))

/-- The pulse that an entry plays (R127). -/
def Entry.pulse (e : Entry) (amp : BitVec 18) : PulseSpec := ⟨e.addr, e.length, e.gauge, amp, e.stream⟩

/-- The duration of a pulse in samples (R128): one envelope sample lasts 2^GAUGE samples, on a flux channel 8 times that. -/
def PulseSpec.dur (p : PulseSpec) (q : Nat) : Nat := (if 1536 ≤ q then 8 else 1) * p.length * 2 ^ p.gauge

/-- 48-bit t + n. -/
def plus (t : T48) (n : Nat) : T48 := t + BitVec.ofNat 48 n

/-- The queue of a 1-bit KIND. -/
def kindQ (kind : Bool) (res : Nat) : Nat := if kind then 512 + res else res

/-! ### PLAY and PLAYS -/

/-- What a PLAY says: its queue, its entry, the amplitude and the stamp (R129). -/
structure Playing where
  q : Nat
  n : Nat
  entry : Entry
  amp : BitVec 18
  stamp : T48
deriving DecidableEq, Repr

/-- The operands of a PLAY: ER takes the entry's number from a register, AR the amplitude (R129, R130). -/
def State.playArgs (s : State) (t : Nat) (w : BitVec 64) : Playing :=
  let x := s.thread t
  let q := kindQ (bit w 54) (bits w 50 42)
  let n := if bit w 52 then bits (x.reg (bits w 31 28)) 9 0 else bits w 41 32
  let e := s.entry q n
  { q := q, n := n, entry := e, stamp := stampOf x.now (bits w 19 0) q,
    amp := if bit w 51 then BitVec.ofNat 18 (x.reg (bits w 27 24)).toNat else e.amp }

/-- The checks of a PLAY in the order of R125. -/
def State.playChecks (s : State) (t : Nat) (se : Ecc) (w : BitVec 64) : List (Bool × TFault) :=
  let y := s.playArgs t w
  let ge := (s.thread t).reg (bits w 31 28)
  let er := bit w 52
  let ar := bit w 51
  [(se == .uncorrectable, .ecc),
   (!s.assigned t y.q || s.entryOwner t y.entry, .notOwner),
   (decide (bits w 23 20 ≠ 0) || (er && decide (bits w 41 32 ≠ 0)) || (!er && decide (bits w 31 28 ≠ 0)) ||
     (!ar && decide (bits w 27 24 ≠ 0)) || (bit w 53 && ar) || (er && decide (bits ge 31 10 ≠ 0)) || s.entryRange y.q y.entry, .range),
   (s.overlaps y.q y.stamp, .overlap)]

/-- What a PLAY pushes: a pulse, or with P the start of pattern play; A moves `now` on by the pulse's duration. -/
def State.playPush (s : State) (t : Nat) (w : BitVec 64) : Push :=
  let y := s.playArgs t w
  let p := y.entry.pulse y.amp
  let d := if bit w 53 then 0 else p.dur y.q
  { cmds := [(y.q, s.cmdOf t y.stamp (if bit w 53 then .pattern y.n p else .pulse p))],
    newNow := if bit w 55 then some (plus y.stamp d) else none,
    free := [(y.q, plus y.stamp (d + 32))] }

/-- A corrected word of the segment table is counted. -/
def State.tableRead (s : State) (t : Nat) (read : Bool) (se : Ecc) : State :=
  if se = .corrected ∧ read then s.count .DRV_ECC_CORRECTED (thrHalf t) 0 else s

/-- PLAY (R129, R130). -/
def State.play (s : State) (t : Nat) (se : Ecc) (w : BitVec 64) : State :=
  (s.tableRead t true se).timed t (s.playChecks t se w) (s.playPush t w)

/-- The pulse of a PLAYS (R131): the amplitude of AR = 0 is SLOT_AMP as it stands at issue (R184). -/
def State.playsPulse (s : State) (t : Nat) (w : BitVec 64) : PulseSpec :=
  let q := kindQ (bit w 54) (bits w 48 40)
  let amp : BitVec 18 :=
    if bit w 53 then BitVec.ofNat 18 ((s.thread t).reg (bits w 52 49)).toNat
    else BitVec.ofNat 18 (s.reg .SLOT_AMP (qHalf q) (qSlotIx q)).toNat
  ⟨0, bits w 39 24, bits w 23 20, amp, true⟩

/-- The checks of a PLAYS in the order of R125. -/
def State.playsChecks (s : State) (t : Nat) (w : BitVec 64) : List (Bool × TFault) :=
  let q := kindQ (bit w 54) (bits w 48 40)
  let p := s.playsPulse t w
  [(!s.assigned t q, .notOwner),
   ((!bit w 53 && decide (bits w 52 49 ≠ 0)) || p.length == 0 || decide (9 < p.gauge) || (s.stream q).isNone, .range),
   (s.overlaps q (stampOf (s.thread t).now (bits w 19 0) q), .overlap)]

/-- What a PLAYS pushes. -/
def State.playsPush (s : State) (t : Nat) (w : BitVec 64) : Push :=
  let q := kindQ (bit w 54) (bits w 48 40)
  let p := s.playsPulse t w
  let tt := stampOf (s.thread t).now (bits w 19 0) q
  { cmds := [(q, s.cmdOf t tt (.pulse p))],
    newNow := if bit w 55 then some (plus tt (p.dur q)) else none,
    free := [(q, plus tt (p.dur q + 32))] }

/-- PLAYS (R131). -/
def State.plays (s : State) (t : Nat) (w : BitVec 64) : State := s.timed t (s.playsChecks t w) (s.playsPush t w)

/-! ### MEAS -/

/-- The kernel checks of R219 for a window of W samples: not owned, out of range. -/
def State.kernelChecks (s : State) (t c ksel win : Nat) : Bool × Bool :=
  let h := c / 256
  let cfg := s.reg .KS_CFG h (4 * (c % 256) + ksel)
  let addr := bits (s.reg .KS_KADDR h (4 * (c % 256) + ksel)) 19 0
  let g := bits cfg 3 0
  let k := (win / 8 + 2 ^ g - 1) / 2 ^ g
  if bit cfg 31 then (false, false)
  else (!pagesOwned (s.ownKernelPage h) (s.partOf t) 16384 64 addr (addr + k), decide (9 < g) || decide (1048576 < addr + k))

/-- The entry of a MEAS with a probe: ER takes its number from a register. -/
def State.measEntry (s : State) (t : Nat) (w : BitVec 64) : Entry :=
  s.entry (512 + bits w 52 44) (if bit w 53 then bits ((s.thread t).reg (bits w 37 34)) 9 0 else bits w 43 34)

/-- The samples of a MEAS's window: 8 × (WLEN + 1). -/
def measSamples (w : BitVec 64) : Nat := 8 * (bits w 33 19 + 1)

/-- The stamp of a MEAS's window: 8 × WDLY after `now`. -/
def State.measStamp (s : State) (t : Nat) (w : BitVec 64) : T48 := grain48 (plus (s.thread t).now (8 * bits w 18 9)) 8

/-- The checks of a MEAS in the order of R125. -/
def State.measChecks (s : State) (t : Nat) (se : Ecc) (w : BitVec 64) : List (Bool × TFault) :=
  let x := s.thread t
  let np := bit w 54
  let er := bit w 53
  let c := bits w 52 44
  let e := s.measEntry t w
  let kc := s.kernelChecks t c (bits w 8 7) (measSamples w)
  [(!np && se == .uncorrectable, .ecc),
   (!s.assigned t (1024 + c) || (!np && !s.assigned t (512 + c)) || (!np && s.entryOwner t e) || kc.1, .notOwner),
   (decide (bits w 6 0 ≠ 0) || (!np && er && (decide (bits w 43 38 ≠ 0) || decide (bits (x.reg (bits w 37 34)) 31 10 ≠ 0))) ||
     (!np && s.entryRange (512 + c) e) || kc.2, .range),
   (s.overlaps (1024 + c) (s.measStamp t w) || (!np && s.overlaps (512 + c) x.now), .overlap)]

/-- What a MEAS pushes: the probe at `now`, the window 8 × WDLY later, both or neither (R126). -/
def State.measPush (s : State) (t : Nat) (w : BitVec 64) : Push :=
  let np := bit w 54
  let c := bits w 52 44
  let e := s.measEntry t w
  let p := e.pulse e.amp
  let tp := (s.thread t).now
  let tw := s.measStamp t w
  let win := measSamples w
  { cmds := (if np then [] else [(512 + c, s.cmdOf t tp (.pulse p))]) ++ [(1024 + c, s.cmdOf t tw (.window win (bits w 8 7)))],
    newNow := if bit w 55 then some (plus tw win) else none,
    free := (if np then [] else [(512 + c, plus tp (p.dur (512 + c) + 32))]) ++ [(1024 + c, plus tw (win + 32))] }

/-- MEAS (R132). -/
def State.meas (s : State) (t : Nat) (se : Ecc) (w : BitVec 64) : State :=
  (s.tableRead t (!bit w 54) se).timed t (s.measChecks t se w) (s.measPush t w)

/-! ### FLUX -/

/-- The number of the entry that a FLUX plays, and the entry. -/
def State.fluxEntry (s : State) (t : Nat) (w : BitVec 64) : Nat × Entry :=
  let v := bits w 41 26
  let n := if bit w 52 then bits ((s.thread t).reg (v % 16)) 9 0 else v % 1024
  (n, s.entry (1536 + bits w 51 45) n)

/-- The checks of a FLUX in the order of R125. -/
def State.fluxChecks (s : State) (t : Nat) (se : Ecc) (w : BitVec 64) : List (Bool × TFault) :=
  let mode := bits w 54 53
  let rr := bit w 52
  let f := bits w 51 45
  let q := 1536 + f
  let v := bits w 41 26
  let g := (s.thread t).reg (v % 16)
  let bias := bit (s.reg .FLX_CTL (f / 64) (f % 64)) 1
  let e := (s.fluxEntry t w).2
  let range0 := (if rr then decide (v % 32768 / 16 ≠ 0) || decide (bits g 31 10 ≠ 0) else decide (v % 32768 / 1024 ≠ 0)) ||
    bias || s.entryRange q e
  let range := match mode with
    | 0 => range0
    | 1 => rr && decide (v / 16 ≠ 0)
    | 2 => decide (v ≠ 0) || rr || !bias
    | _ => (rr && decide (v / 16 ≠ 0)) || !bias
  [(mode == 0 && se == .uncorrectable, .ecc),
   (!s.assigned t q || (mode == 0 && s.entryOwner t e), .notOwner),
   (decide (bits w 44 42 ≠ 0) || decide (bits w 25 20 ≠ 0) || range, .range),
   (decide (mode ≤ 1) && (s.queue q).pat, .overlap)]

/-- What a FLUX pushes, by its MODE: a pulse or a pattern's start, a level, a strobe, or both (R133 to R136). -/
def State.fluxPush (s : State) (t : Nat) (w : BitVec 64) : Push :=
  let mode := bits w 54 53
  let q := 1536 + bits w 51 45
  let v := bits w 41 26
  let n := (s.fluxEntry t w).1
  let e := (s.fluxEntry t w).2
  let p := e.pulse e.amp
  let code : BitVec 16 := if bit w 52 then BitVec.ofNat 16 ((s.thread t).reg (v % 16)).toNat else BitVec.ofNat 16 v
  let tt := stampOf (s.thread t).now (bits w 19 0) q
  let d := if mode = 0 ∧ v < 32768 then p.dur q else 0
  let act := match mode with
    | 0 => if 32768 ≤ v then .pattern n p else .pulse p
    | 1 => .level code
    | 2 => .strobe
    | _ => .levelStrobe code
  { cmds := [(q, s.cmdOf t tt act)], newNow := if bit w 55 then some (plus tt d) else none, free := [] }

/-- FLUX (R133 to R136). -/
def State.fluxCmd (s : State) (t : Nat) (se : Ecc) (w : BitVec 64) : State := s.timed t (s.fluxChecks t se w) (s.fluxPush t w)

/-! ### Oscillator instructions -/

/-- The queues of a KIND code (the KIND table). -/
def kindQs (kind res : Nat) : List Nat :=
  match kind with
  | 0 => [res]
  | 1 => [512 + res]
  | 2 => [1024 + res]
  | _ => [512 + res, 1024 + res]

/-- The stamp for a KIND: KIND 2 and 3 round to 8 samples (R138). -/
def kindStamp (kind : Nat) (now : T48) (ofs : Nat) : T48 := grain48 (plus now ofs) (if kind < 2 then 1 else 8)

/-- What an oscillator instruction pushes: its act to the queue of its KIND, or to both (R126). -/
def State.oscPush (s : State) (t : Nat) (w : BitVec 64) (adv : Bool) (a : Act) : Push :=
  let kind := bits w 55 54
  let tt := kindStamp kind (s.thread t).now (bits w 19 0)
  { cmds := (kindQs kind (bits w 52 44)).map fun q => (q, s.cmdOf t tt a), newNow := if adv then some tt else none, free := [] }

/-- The queues of an oscillator instruction are all assigned to its thread. -/
def State.oscMine (s : State) (t : Nat) (w : BitVec 64) : Bool := (kindQs (bits w 55 54) (bits w 52 44)).all fun q => s.assigned t q

/-- An oscillator instruction (R126, R137, R138). -/
def State.oscCmd (s : State) (t : Nat) (w : BitVec 64) (bad : Bool) (adv : Bool) (a : Act) : State :=
  s.timed t [(!s.oscMine t w, .notOwner), (bad, .range)] (s.oscPush t w adv a)

/-- SETF: the frequency word of the register pair (R137). -/
def State.setf (s : State) (t : Nat) (w : BitVec 64) : State :=
  let x := s.thread t
  let r := bits w 43 40
  let f : BitVec 48 := BitVec.ofNat 48 ((x.reg r).toNat + 2 ^ 32 * bits (x.reg (r + 1)) 15 0)
  s.oscCmd t w (decide (r % 2 ≠ 0) || decide (bits w 39 20 ≠ 0)) (bit w 53) (.setf f)

/-- The phase of ADDPH and SETPH, and whether its field is out of range. -/
def phaseOf (x : Thread) (w : BitVec 64) : Word × Bool :=
  if bit w 53 then (x.reg (bits w 23 20), decide (bits w 43 24 ≠ 0)) else (BitVec.ofNat 32 (256 * bits w 43 20), false)

def State.addph (s : State) (t : Nat) (w : BitVec 64) : State :=
  s.oscCmd t w (phaseOf (s.thread t) w).2 false (.addph (phaseOf (s.thread t) w).1)

def State.setph (s : State) (t : Nat) (w : BitVec 64) : State :=
  s.oscCmd t w (phaseOf (s.thread t) w).2 false (.setph (phaseOf (s.thread t) w).1)

def State.rstph (s : State) (t : Nat) (w : BitVec 64) : State :=
  s.oscCmd t w (decide (bits w 43 20 ≠ 0)) (bit w 53) .rstph

/-! ### SIGNAL and MARK -/

/-- The queue of a carrier; none for a flux channel that does not exist (R152). -/
def carrierQ (ckind cres : Nat) : Option Nat :=
  match ckind with
  | 0 => some cres
  | 1 => some (512 + cres)
  | 2 => some (1024 + cres)
  | _ => if cres < 128 then some (1536 + cres) else none

/-- A firing that half h of the part causes on a channel: on its own half it reaches the channel, otherwise it crosses the
die link (R420). -/
def State.fireFrom (s : State) (h ch gen : Nat) : State :=
  if ch / 512 = h then s.fire ch gen (s.row h)
  else if gen ≥ 8 then (s.count .LOOP_COUNT h 0).occur h 0x120
  else s.send h (.event ch gen)

/-- The generation that a SIGNAL of a thread carries (R155). -/
def Thread.sigGen (x : Thread) : Nat := match x.gen with | some g => g + 1 | none => 0

/-- The class of a channel (R414): 2 is SAFETY. -/
def State.ecClass (s : State) (ch : Nat) : Nat := bits (s.ecCfg ch) 30 29

/-- Whether the channel of a SIGNAL is not the partition's (R148). -/
def State.signalForeign (s : State) (t : Nat) (w : BitVec 64) : Bool := decide (s.ownEvent (bits w 55 46) ≠ some (s.partOf t))

/-- What a timed SIGNAL pushes to its carrier's queue. -/
def State.signalPush (s : State) (t : Nat) (w : BitVec 64) (q : Nat) : Push :=
  let x := s.thread t
  { cmds := [(q, s.cmdOf t (stampOf x.now (bits w 19 0) q) (.signal (bits w 55 46) x.sigGen))], newNow := none, free := [] }

/-- SIGNAL (R148, R152, R154, R155). -/
def State.signal (s : State) (t : Nat) (w : BitVec 64) : State :=
  let ec := bits w 55 46
  let notOwned := s.signalForeign t w
  let safety := s.ecClass ec == 2
  if bit w 45 then
    match carrierQ (bits w 44 43) (bits w 42 34) with
    | none => s.threadFault t (if notOwned then .notOwner else .range)
    | some q =>
      s.timed t [(notOwned || !s.assigned t q, .notOwner), (safety || decide (bits w 33 20 ≠ 0), .range)] (s.signalPush t w q)
  else
    match firstFault [(notOwned, .notOwner), (safety || decide (bits w 44 0 ≠ 0), .range)] with
    | some f => s.threadFault t f
    | none => (s.next t).fireFrom (thrHalf t) ec (s.thread t).sigGen

/-- Whether the marker of a MARK is on another half than the thread or not assigned to it (R153). -/
def State.markForeign (s : State) (t : Nat) (w : BitVec 64) : Bool :=
  let m := bits w 55 52
  decide (m / 8 ≠ thrHalf t) || decide ((s.marker m).owner ≠ some (t, (s.thread t).run))

/-- What a MARK pushes to its carrier's queue. -/
def State.markPush (s : State) (t : Nat) (w : BitVec 64) (q : Nat) : Push :=
  { cmds := [(q, s.cmdOf t (stampOf (s.thread t).now (bits w 19 0) q) (.mark (bits w 55 52) (bits w 51 50) (bits w 49 42)))],
    newNow := none, free := [] }

/-- MARK (R153, R154): the marker must be on the thread's half and assigned to it. -/
def State.markCmd (s : State) (t : Nat) (w : BitVec 64) : State :=
  let pw := bits w 49 42
  let notMine := s.markForeign t w
  match carrierQ (bits w 41 40) (bits w 39 31) with
  | none => s.threadFault t (if notMine then .notOwner else .range)
  | some q =>
    s.timed t
      [(notMine || !s.assigned t q, .notOwner),
       (decide (bits w 30 20 ≠ 0) || (if bits w 51 50 = 2 then pw == 0 else pw != 0), .range)]
      (s.markPush t w q)

/-! ### STRM -/

/-- Whether a queue has a streamed command queued, released or playing (R170). -/
def State.streaming (s : State) (q : Nat) : Bool :=
  let strm (a : Act) : Bool := match a with | .pulse p => p.stream | _ => false
  ((s.queue q).cmds.any fun c => strm c.act) || (s.released.any fun r => r.q == q && strm r.cmd.act) ||
  (s.pulses.any fun p => p.q == q && p.spec.stream)

/-- Whether two staging areas overlap, in bytes. -/
def stagesMeet (a na b nb : Nat) : Bool := decide (a < b + nb) && decide (b < a + na)

/-- The reads that a stream has outstanding bring it nothing more. -/
def State.dropReads (s : State) (q : Nat) : State :=
  let off (x : DmaReq) : DmaReq := match x.why with | .stream p _ => if p = q then { x with why := .none } else x | _ => x
  { s with ports := mmap {} (fun _ p => { p with reads := p.reads.map fun e => (e.1, off e.2) }) s.ports }

/-- STRM (R168 to R170). -/
def State.strmCmd (s : State) (t : Nat) (w : BitVec 64) : State :=
  let kind := bits w 55 54
  let det := bit w 53
  let res := bits w 52 44
  let q := if kind = 2 then 1536 + res % 128 else kindQ (kind == 1) res
  let sz := bits w 43 40
  let stage := bits w 39 26
  let ring := bits w 19 0
  let k := s.partOf t
  let area := 4096 * stage
  let size := 4096 * 2 ^ sz
  let named := decide (kind < 3) && (decide (kind ≠ 2) || decide (res < 128))
  match firstFault
    [((named && !s.assigned t q) ||
        (!det && (!s.ringIn k ring || !pagesOwned (s.ownWavePage (thrHalf t)) k 65536 768 area (area + size))), .notOwner),
     (!named || decide (bits w 25 20 ≠ 0) || (det && decide (bits w 43 0 ≠ 0)) ||
        (!det && (decide (8 < sz) || decide (stage % 2 ^ sz ≠ 0) || decide (12288 < stage + 2 ^ sz) ||
          s.strm.any fun e => e.1 != q && qHalf e.1 == thrHalf t &&
            (match e.2 with | some y => stagesMeet area size y.stage y.size | none => false))), .range),
     ((s.queue q).pat || s.streaming q, .overlap)] with
  | some f => s.threadFault t f
  | none =>
    let s := s.dropReads q
    if det then (s.setStream q none).next t
    else
      (s.setStream q (some { ring := ring, stage := area, size := size })).modThread t fun x =>
        { x with st := .stalled, stall := .strm }

/-- STRM_READY: the ring's context is resident and its first fetch is issued, so the thread goes on (R168). -/
def State.strmGo (s : State) (t : Nat) : State :=
  let x := s.thread t
  if x.st = .stalled ∧ x.stall = .strm then
    let w := s.progWord (thrHalf t) x.pc
    let q := if bits w 55 54 = 2 then 1536 + bits w 52 44 % 128 else kindQ (bits w 55 54 == 1) (bits w 52 44)
    match s.stream q with
    | some y =>
      if (s.ring y.ring).st = .enabled ∧ 0 < y.fetched then
        (s.setStream q (some { y with ready := true })).modThread t fun x => { x with st := .ready, stall := .none, pc := x.pc + 1 }
      else s
    | none => s
  else s

end Sys2Proof.Machine
end

