-- ==== Sys2Proof/Machine/Waits.lean ====
section
/-!
DEFINITION. Waiting on a decision token: subscriptions, path minima, the in-time test, the default row, and what becomes of
each token that reaches a thread (R142 to R146, R251 to R254, R265 to R273).
-/
namespace Sys2Proof.Machine

/-! ### Path minima (R265) -/

/-- The rows that tables and crossings of the longest route from a channel add for a source seen from a half. -/
def State.routeRows (s : State) : Nat → Bool → Nat → Nat → Nat
  | 0, _, _, _ => 0
  | _ + 1, false, src, h => if src / 256 = h then 0 else 19
  | fuel + 1, true, src, h =>
    let th := src / 64
    let cfg := s.reg .DT_CFG th (src % 64)
    let ins := (List.range 8).map fun n =>
      let x := s.reg .DT_IN th (src % 64) n
      if bit cfg n then s.routeRows fuel (bit x 31) (bits x 8 0) th else 0
    5 + (if th = h then 0 else 19) + (if bit cfg 30 then 0 else ins.foldl max 0)

/-- The path minimum L_p of a source for a thread of half h (R265; R259 for a table in DSP mode). -/
def State.pathMin (s : State) (table : Bool) (src h : Nat) : Nat := 75 + s.routeRows 129 table src h

/-! ### The default row and the in-time test -/

/-- X extended beside the counter of the thread's half (R58). -/
def State.waitX (s : State) (t : Nat) (x : T48) : Int := s.extI (thrHalf t) x

/-- Rows rounded up. -/
def ceilRow (n : Int) : Int := (n + 31) / 32

/-- The default row of a wait (R268). -/
def State.defaultRow (s : State) (t : Nat) (w : Wait) : Int :=
  ceilRow (s.waitX t w.x) + (max w.lat (s.pathMin w.table w.src (thrHalf t)) : Nat) - 37

/-- The in-time test of R267 for a token with reference time e and a wait with the given X, L and source. -/
def State.inTime (s : State) (t : Nat) (x : T48) (lat : Nat) (table : Bool) (src : Nat) (e : T48) : Bool :=
  let x64 := s.waitX t x
  decide (ceilRow (x64 + sdiff48 e x) ≤ ceilRow x64 + (lat - s.pathMin table src (thrHalf t) : Nat))

/-! ### Taking a token -/

/-- What the judgement of R267 and R270 makes of a token that meets a pending wait. -/
inductive Judged where
  | satisfies | stale | late
deriving DecidableEq, Repr

/-- A token of the wait's source judged against the wait (R267, R270). -/
def State.judge (s : State) (t : Nat) (w : Wait) (k : Token) : Judged :=
  if sdiff48 k.e w.x < 0 then .stale
  else if s.inTime t w.x w.lat w.table w.src k.e then .satisfies
  else .late

/-- The stamp that as-soon-as-possible mode delivers, or E + 32 × L in deterministic mode (R143, R273). -/
def State.commitTime (s : State) (t : Nat) (w : Wait) (k : Token) : T48 :=
  let d := k.e + BitVec.ofNat 48 (32 * w.lat)
  if w.asap then
    min48 d (BitVec.ofNat 48 (32 * (s.row (thrHalf t) + 28 + (s.reg .ASAP_MARGIN (thrHalf t)).toNat)))
  else d

/-- A wait is satisfied (R143): the token in tk, `now` set, on to PC + 1 as a priority thread (R81). -/
def State.satisfyWait (s : State) (t : Nat) (w : Wait) (k : Token) : State :=
  let c := s.commitTime t w k
  (s.modThread t fun x =>
    { x with tk := k.value, now := c, pc := x.pc + 1, st := .ready, stall := .none, wait := none,
             last := mset none x.last w.sub (some ⟨w.x, w.lat, false⟩) }).prioritise t

/-- A wait takes its default (R144, R268): the default token in tk, `now` at X + 32 × L, on to the default target. -/
def State.defaultWait (s : State) (t : Nat) (w : Wait) : State :=
  let r := (s.thread t).run
  let s := (s.modThread t fun x =>
    { x with tk := if w.table then 0xC000 else 0x8000, now := w.x + BitVec.ofNat 48 (32 * w.lat), pc := w.dtgt, st := .ready,
             stall := .none, wait := none, last := mset none x.last w.sub (some ⟨w.x, w.lat, true⟩) }).prioritise t
  let s := s.count .TK_DEFAULT_COUNT (thrHalf t) 0
  let s := s.modShot r (s.runOf r).shot fun x => { x with flags := x.flags ||| 0x80, dflt := min 65535 (x.dflt + 1) }
  s.occur (thrHalf t) 0x069 { runs := [r], parts := [(s.runOf r).owner] }

/-- A late token is discarded and counted (R270). -/
def State.lateToken (s : State) (t : Nat) : State :=
  let r := (s.thread t).run
  let s := (s.count .TK_LATE_COUNT (thrHalf t) 0).flagShot r (s.runOf r).shot 8
  s.occur (thrHalf t) 0x068 { runs := [r], parts := [(s.runOf r).owner] }

/-- A WAITTK takes tokens from its inbox in their order until one satisfies it (R142, R270); whether one did. -/
def State.drainInbox (s : State) (t : Nat) (w : Wait) : List Token → State × Bool
  | [] => (s.modThread t fun x => { x with inbox := mset [] x.inbox w.sub [] }, false)
  | k :: ks =>
    match s.judge t w k with
    | .satisfies => ((s.modThread t fun x => { x with inbox := mset [] x.inbox w.sub ks }).satisfyWait t w k, true)
    | .stale => s.drainInbox t w ks
    | .late =>
      let s := s.lateToken t
      if (s.thread t).st ≠ .ready then (s, true) else s.drainInbox t w ks

/-- WAITTK after its checks: a token of the inbox, the default where its row has come, or a stall (R142, R268). -/
def State.startWait (s : State) (t : Nat) (w : Wait) : State :=
  match s.drainInbox t w (mget [] (s.thread t).inbox w.sub) with
  | (s, true) => s
  | (s, false) =>
    if s.defaultRow t w ≤ (s.row (thrHalf t) : Int) then s.defaultWait t w
    else s.modThread t fun x => { x with st := .stalled, stall := .waittk, wait := some w }

/-- A token enters an inbox; a full one loses its oldest (R254). -/
def State.inboxPut (s : State) (t sub : Nat) (k : Token) : State :=
  let l := mget [] (s.thread t).inbox sub
  if l.length < 4 then s.modThread t fun x => { x with inbox := mset [] x.inbox sub (l ++ [k]) }
  else
    let r := (s.thread t).run
    let s := s.modThread t fun x => { x with inbox := mset [] x.inbox sub (l.tail ++ [k]) }
    let s := s.count .TK_OVERFLOW_COUNT (thrHalf t) 0
    s.occur (thrHalf t) 0x06A { runs := [r], parts := [(s.runOf r).owner] }

/-- Whether a thread accepts tokens at all: it executes a shot of an active run (R253, R272). -/
def Thread.listens (x : Thread) : Bool :=
  match x.st with
  | .ready => true
  | .stalled => true
  | _ => false

/-- A token that is late with no wait pending: the last wait of the subscription took its default and the token would have
failed its in-time test (R270). -/
def State.lateAfter (s : State) (t sub : Nat) (k : Token) : Bool :=
  match mget none (s.thread t).last sub with
  | some l => l.dflt && decide (sdiff48 k.e l.x ≥ 0) && !s.inTime t l.x l.lat k.table k.src k.e
  | none => false

/-- A wait whose default row the counter has entered has taken its default (R268). -/
def State.dueDefault (s : State) (t : Nat) : State :=
  match (s.thread t).wait with
  | some w => if s.defaultRow t w ≤ (s.row (thrHalf t) : Int) then s.defaultWait t w else s
  | none => s

/-- A token reaches subscription `sub` of a thread (R253, R254, R270, R272), after the default of a wait whose row has come
(R268). -/
def State.tokenToThread (s : State) (t sub : Nat) (k : Token) : State :=
  let s := s.dueDefault t
  let x := s.thread t
  let y := s.reg .THR_SUB (thrHalf t) (t % 256) sub
  let sub' := bit y 31 && bit y 30 == k.table && bits y 8 0 == k.src
  if !sub' || !x.listens || x.run ≠ k.run || BitVec.ofNat 32 (s.runOf x.run).shot ≠ k.shot then s
  else
    match x.wait with
    | some w =>
      if w.sub = sub then
        match s.judge t w k with
        | .satisfies => s.satisfyWait t w k
        | .stale => s
        | .late => s.lateToken t
      else if s.lateAfter t sub k then s.lateToken t else s.inboxPut t sub k
    | none => if s.lateAfter t sub k then s.lateToken t else s.inboxPut t sub k

end Sys2Proof.Machine
end

