-- ==== Sys2Proof/Machine/Threads.lean ====
section
/-!
DEFINITION. The thread instruction set: one meaning per opcode (R118 to R170).  Each names the thread that issues and what
the SEC-DED check of the instruction word reported; the instruction itself is the word at the thread's PC.
-/
namespace Sys2Proof.Machine

/-! ### Words with all of bits [55:0] reserved -/

/-- NOP. -/
def execTNop (t : ThrIx) (e : Ecc) (s : State) : Res :=
  .next (s.issue t e 0x00 fun s w => s.ranged t (decide (bits w 55 0 ≠ 0)) fun s => s.next t)

/-- END: the thread's shot ends (R88), and it waits for the next one (cause 6 of R92). -/
def execTEnd (t : ThrIx) (e : Ecc) (s : State) : Res :=
  .next (s.issue t e 0x01 fun s w => s.ranged t (decide (bits w 55 0 ≠ 0)) fun s => s.modThread t fun x => { x with st := .ended, stall := .shotEnd })

/-- HALT: the thread's shot ends and the current shot becomes the run's final shot (R91). -/
def execTHalt (t : ThrIx) (e : Ecc) (s : State) : Res :=
  .next (s.issue t e 0x02 fun s w => s.ranged t (decide (bits w 55 0 ≠ 0)) fun s =>
    (s.modThread t fun x => { x with st := .halted, stall := .shotEnd }).finalShot (s.thread t).run)

/-! ### Time and barriers -/

/-- WAIT (R139). -/
def execTWait (t : ThrIx) (e : Ecc) (s : State) : Res :=
  .next (s.issue t e 0x08 fun s w =>
    let x := s.thread t
    let r := bit w 55
    let d := if r then (x.reg (bits w 54 51)).toNat else bits w 39 0
    s.ranged t ((!r && decide (bits w 54 51 ≠ 0)) || decide (bits w 50 40 ≠ 0) || (r && decide (bits w 39 0 ≠ 0))) fun s =>
      s.modThread t fun x => { x with now := plus x.now d, pc := x.pc + 1 })

/-- WAITUNTIL: IMM beside 0, the shot's start S, the run's T0 or the counter at issue (R140). -/
def execTWaituntil (t : ThrIx) (e : Ecc) (s : State) : Res :=
  .next (s.issue t e 0x09 fun s w =>
    let u := s.runOf (s.thread t).run
    let base : T48 := match bits w 55 54 with
      | 0 => 0
      | 1 => BitVec.ofInt 48 u.start
      | 2 => t48 (u.t0.getD 0)
      | _ => t48 (s.now (thrHalf t))
    s.ranged t (decide (bits w 53 48 ≠ 0)) fun s =>
      s.modThread t fun x => { x with now := plus base (bits w 47 0), pc := x.pc + 1 })

/-- SYNC: the thread arrives at the barrier and stalls (R95, R141); a participant's half hears of it in the management class (R26). -/
def execTSync (t : ThrIx) (e : Ecc) (s : State) : Res :=
  .next (s.issue t e 0x0A fun s w =>
    let x := s.thread t
    let b := bits w 55 50
    match firstFault [((s.barrier b).run != some x.run || !(s.barrier b).members.contains t.val, .notOwner),
                      (decide (bits w 49 0 ≠ 0), .range)] with
    | some f => s.threadFault t f
    | none =>
      let s := (s.modBarrier b fun y => { y with arrived := y.arrived ++ [(t.val, x.now)] }).modThread t fun x =>
        { x with st := .stalled, stall := .sync, barrier := some b }
      if (s.barrier b).members.any fun u => thrHalf u != thrHalf t then s.send (thrHalf t) (.arrival b t.val) else s)

/-! ### Timed commands -/

def execTPlay (t : ThrIx) (e se : Ecc) (s : State) : Res := .next (s.issue t e 0x10 fun s w => s.play t se w)
def execTPlays (t : ThrIx) (e : Ecc) (s : State) : Res := .next (s.issue t e 0x11 fun s w => s.plays t w)
def execTMeas (t : ThrIx) (e se : Ecc) (s : State) : Res := .next (s.issue t e 0x12 fun s w => s.meas t se w)
def execTFlux (t : ThrIx) (e se : Ecc) (s : State) : Res := .next (s.issue t e 0x13 fun s w => s.fluxCmd t se w)
def execTSetf (t : ThrIx) (e : Ecc) (s : State) : Res := .next (s.issue t e 0x18 fun s w => s.setf t w)
def execTAddph (t : ThrIx) (e : Ecc) (s : State) : Res := .next (s.issue t e 0x19 fun s w => s.addph t w)
def execTSetph (t : ThrIx) (e : Ecc) (s : State) : Res := .next (s.issue t e 0x1A fun s w => s.setph t w)
def execTRstph (t : ThrIx) (e : Ecc) (s : State) : Res := .next (s.issue t e 0x1B fun s w => s.rstph t w)

/-! ### Decisions -/

/-- The partition that owns the source of a token (R145). -/
def State.ownSource (s : State) (table : Bool) (src : Nat) : Option Nat :=
  if table then (if src < 128 then s.ownTable src else none) else s.ownPair (src / 32)

/-- The subscription of a thread that matches a source (R252). -/
def State.subOf (s : State) (t : Nat) (table : Bool) (src : Nat) : Option Nat :=
  (List.range 8).find? fun i =>
    let y := s.reg .THR_SUB (thrHalf t) (t % 256) i
    bit y 31 && bit y 30 == table && bits y 8 0 == src

/-- WAITTK (R142 to R146, R252, R267 to R273). -/
def execTWaittk (t : ThrIx) (e : Ecc) (s : State) : Res :=
  .next (s.issue t e 0x20 fun s w =>
    let table := bit w 54
    let src := bits w 53 45
    match firstFault
      [((!table || decide (src < 128)) && s.ownSource table src != some (s.partOf t), .notOwner),
       (decide (bits w 32 20 ≠ 0) || (table && decide (128 ≤ src)) || (s.subOf t table src).isNone, .range)] with
    | some f => s.threadFault t f
    | none =>
      s.startWait t { sub := (s.subOf t table src).getD 0, asap := bit w 55, table := table, src := src, lat := bits w 44 33,
                      dtgt := bits w 19 0, x := (s.thread t).now })

/-- BTK (R147). -/
def execTBtk (t : ThrIx) (e : Ecc) (s : State) : Res :=
  .next (s.issue t e 0x21 fun s w =>
    let mask := bits w 51 36
    let value := bits w 35 20
    let hit := decide ((s.thread t).tk.toNat &&& mask = value)
    s.ranged t (decide (bits w 54 52 ≠ 0) || decide (value &&& mask ≠ value)) fun s =>
      if hit != bit w 55 then s.goto t (bits w 19 0) else s.next t)

/-! ### Events and markers -/

/-- WAITEV: the thread stalls until a firing or its timeout (R148 to R150). -/
def execTWaitev (t : ThrIx) (e : Ecc) (s : State) : Res :=
  .next (s.issue t e 0x28 fun s w =>
    let ec := bits w 55 46
    match firstFault [(decide (s.ownEvent ec ≠ some (s.partOf t)), .notOwner), (decide (bits w 17 0 ≠ 0), .range)] with
    | some f => s.threadFault t f
    | none =>
      s.modThread t fun x => { x with st := .stalled, stall := .waitev,
                                      evwait := some ⟨ec, bits w 45 34, bits w 33 18, s.row (thrHalf t)⟩ })

/-- BEV: whether the channel's last firing registered at the thread's half no more than WIN rows back (R148, R151). -/
def execTBev (t : ThrIx) (e : Ecc) (s : State) : Res :=
  .next (s.issue t e 0x29 fun s w =>
    let ec := bits w 55 46
    let recent := match s.lastFiring (thrHalf t) ec with
      | some r => decide (s.row (thrHalf t) ≤ r + bits w 44 29)
      | none => false
    match firstFault [(decide (s.ownEvent ec ≠ some (s.partOf t)), .notOwner), (decide (bits w 28 20 ≠ 0), .range)] with
    | some f => s.threadFault t f
    | none => if recent != bit w 45 then s.goto t (bits w 19 0) else s.next t)

def execTSignal (t : ThrIx) (e : Ecc) (s : State) : Res := .next (s.issue t e 0x2A fun s w => s.signal t w)
def execTMark (t : ThrIx) (e : Ecc) (s : State) : Res := .next (s.issue t e 0x2B fun s w => s.markCmd t w)

/-! ### Control flow -/

/-- LOOP (R157). -/
def execTLoop (t : ThrIx) (e : Ecc) (s : State) : Res :=
  .next (s.issue t e 0x30 fun s w =>
    let x := s.thread t
    let r := bit w 55
    let n : Word := if r then x.reg (bits w 54 51) else BitVec.ofNat 32 (bits w 43 20)
    s.ranged t ((!r && decide (bits w 54 51 ≠ 0)) || decide (bits w 50 44 ≠ 0) || (r && decide (bits w 43 20 ≠ 0)) ||
        (decide (n ≠ 0) && decide (4 ≤ x.depth))) fun s =>
      if n = 0 then s.goto t (bits w 19 0)
      else s.modThread t fun x =>
        { (x.setLc x.depth n) with starts := mset 0 x.starts x.depth (x.pc + 1), depth := x.depth + 1, pc := x.pc + 1 })

/-- ENDL (R158). -/
def execTEndl (t : ThrIx) (e : Ecc) (s : State) : Res :=
  .next (s.issue t e 0x31 fun s w =>
    let x := s.thread t
    let l := x.depth - 1
    let n := x.loopc l - 1
    s.ranged t (decide (bits w 55 0 ≠ 0) || x.depth == 0) fun s =>
      s.modThread t fun x =>
        if n = 0 then { (x.setLc l n) with depth := l, pc := x.pc + 1 } else { (x.setLc l n) with pc := mget 0 x.starts l })

/-- The target of BR and CALL, and whether the word's operands are out of range (R122, R160). -/
def targetOf (x : Thread) (w : BitVec 64) : Nat × Bool :=
  let r := bit w 55
  let g := x.reg (bits w 54 51)
  (if r then bits g 19 0 else bits w 19 0,
   (!r && decide (bits w 54 51 ≠ 0)) || decide (bits w 50 20 ≠ 0) || (r && (decide (bits w 19 0 ≠ 0) || decide (bits g 31 20 ≠ 0))))

/-- BR (R160). -/
def execTBr (t : ThrIx) (e : Ecc) (s : State) : Res :=
  .next (s.issue t e 0x32 fun s w =>
    s.ranged t (targetOf (s.thread t) w).2 fun s => s.goto t (targetOf (s.thread t) w).1)

/-- BCC (R162). -/
def execTBcc (t : ThrIx) (e : Ecc) (s : State) : Res :=
  .next (s.issue t e 0x33 fun s w =>
    let x := s.thread t
    s.ranged t (decide (bits w 51 20 ≠ 0) || bits w 55 52 == 15) fun s =>
      if condHolds (bits w 55 52) x.z x.n x.c x.v then s.goto t (bits w 19 0) else s.next t)

/-- CALL (R160, R161). -/
def execTCall (t : ThrIx) (e : Ecc) (s : State) : Res :=
  .next (s.issue t e 0x34 fun s w =>
    s.ranged t ((targetOf (s.thread t) w).2 || (s.thread t).call) fun s =>
      s.modThread t fun x => { x with link := (x.pc + 1) % 1048576, call := true, pc := (targetOf x w).1 })

/-- RET (R160, R161). -/
def execTRet (t : ThrIx) (e : Ecc) (s : State) : Res :=
  .next (s.issue t e 0x35 fun s w =>
    s.ranged t (decide (bits w 55 0 ≠ 0) || !(s.thread t).call) fun s =>
      s.modThread t fun x => { x with call := false, pc := x.link })

/-! ### Register arithmetic -/

/-- LDI (R163). -/
def execTLdi (t : ThrIx) (e : Ecc) (s : State) : Res :=
  .next (s.issue t e 0x40 fun s w =>
    s.ranged t (decide (bits w 51 32 ≠ 0)) fun s =>
      s.modThread t fun x => { (x.setG (bits w 55 52) (BitVec.ofNat 32 (bits w 31 0))) with pc := x.pc + 1 })

/-- The source that a MOV selector names (R166). -/
def State.movSrc (s : State) (t c : Nat) : Option Word :=
  let x := s.thread t
  let u := s.runOf x.run
  if c < 16 then some (x.reg c)
  else if c < 20 then some (x.loopc (c - 16))
  else match c with
    | 0x14 => some (BitVec.ofNat 32 x.tk.toNat)
    | 0x15 => some (BitVec.ofNat 32 x.now.toNat)
    | 0x16 => some (BitVec.ofNat 32 (x.now.toNat / 2 ^ 32))
    | 0x17 => some (BitVec.ofNat 32 u.shot)
    | 0x18 => some (BitVec.ofInt 32 u.start)
    | 0x19 => some (BitVec.ofNat 32 (65536 * x.run + t))
    | _ => none

/-- MOV (R166). -/
def execTMov (t : ThrIx) (e : Ecc) (s : State) : Res :=
  .next (s.issue t e 0x41 fun s w =>
    let d := bits w 55 51
    match s.movSrc t (bits w 50 46) with
    | none => s.threadFault t .range
    | some v =>
      s.ranged t (decide (bits w 45 0 ≠ 0) || decide (20 ≤ d)) fun s =>
        s.modThread t fun x => { (if d < 16 then x.setG d v else x.setLc (d - 16) v) with pc := x.pc + 1 })

/-- Register arithmetic (R163 to R165): reserved fields, the second operand, the result where the opcode writes one, and
the flags. -/
def State.arith (s : State) (t : Nat) (w : BitVec 64) (wr : Bool) (isShr : Bool) (f : Word → Word → Alu) : State :=
  let x := s.thread t
  let i := bit w 47
  let y : Word := if i then BitVec.ofNat 32 (bits w 31 0) else x.reg (bits w 35 32)
  let a := f (x.reg (bits w 51 48)) y
  s.ranged t (decide (bits w 45 36 ≠ 0) || (!isShr && bit w 46) || (!wr && decide (bits w 55 52 ≠ 0)) ||
      (i && decide (bits w 35 32 ≠ 0)) || (!i && decide (bits w 31 0 ≠ 0))) fun s =>
    s.modThread t fun x =>
      { (if wr then x.setG (bits w 55 52) a.r else x) with z := a.z, n := a.n, c := a.c, v := a.v, pc := x.pc + 1 }

def execTAdd (t : ThrIx) (e : Ecc) (s : State) : Res := .next (s.issue t e 0x42 fun s w => s.arith t w true false aluAdd)
def execTSub (t : ThrIx) (e : Ecc) (s : State) : Res := .next (s.issue t e 0x43 fun s w => s.arith t w true false aluSub)
def execTAnd (t : ThrIx) (e : Ecc) (s : State) : Res :=
  .next (s.issue t e 0x44 fun s w => s.arith t w true false fun a b => aluLogic (a &&& b))
def execTOr (t : ThrIx) (e : Ecc) (s : State) : Res :=
  .next (s.issue t e 0x45 fun s w => s.arith t w true false fun a b => aluLogic (a ||| b))
def execTXor (t : ThrIx) (e : Ecc) (s : State) : Res :=
  .next (s.issue t e 0x46 fun s w => s.arith t w true false fun a b => aluLogic (a ^^^ b))
/-- SHL: Y[31:5] is ignored (R164). -/
def execTShl (t : ThrIx) (e : Ecc) (s : State) : Res :=
  .next (s.issue t e 0x47 fun s w => s.arith t w true false fun a b => aluShl a (bits b 4 0))
/-- SHR: S selects the arithmetic shift (R164). -/
def execTShr (t : ThrIx) (e : Ecc) (s : State) : Res :=
  .next (s.issue t e 0x48 fun s w => s.arith t w true true fun a b => aluShr (bit w 46) a (bits b 4 0))
def execTCmp (t : ThrIx) (e : Ecc) (s : State) : Res := .next (s.issue t e 0x49 fun s w => s.arith t w false false aluSub)

/-! ### Records and streams -/

/-- The bytes of a thread record (R167). -/
def threadRecord (run t tag shot : Nat) (v : Word) : List Byte :=
  leBytes 1 2 ++ leBytes 1 run ++ leBytes 2 t ++ leBytes 2 tag ++ leBytes 2 0 ++ leBytes 4 shot ++ leBytes 4 v.toNat

/-- REC (R167). -/
def execTRec (t : ThrIx) (e : Ecc) (s : State) : Res :=
  .next (s.issue t e 0x50 fun s w =>
    let x := s.thread t
    let u := s.runOf x.run
    s.ranged t (decide (bits w 51 48 ≠ 0) || decide (bits w 31 0 ≠ 0)) fun s =>
      (s.next t).formRecord (thrHalf t) u.recRing (some x.run) true
        (threadRecord x.run t (bits w 47 32) u.shot (x.reg (bits w 55 52))))

def execTStrm (t : ThrIx) (e : Ecc) (s : State) : Res := .next (s.issue t e 0x58 fun s w => s.strmCmd t w)

/-! ### What ends a stall (R92) -/

/-- QUEUE_ROOM_RESUME: every queue of the stalled push has room (R61, R126). -/
def execQueueRoomResume (t : ThrIx) (s : State) : Res :=
  let x := s.thread t
  .next (match x.push with
    | some p =>
      if x.st = .stalled ∧ x.stall = .fullQueue ∧ p.cmds.all (fun qc => decide ((s.queue qc.1).cmds.length < 64)) then s.completePush t p
      else s
    | none => s)

/-- RUN_AHEAD_RESUME: the counter has advanced far enough for R93; steps 6 and 7 of R125 follow. -/
def execRunAheadResume (t : ThrIx) (s : State) : Res :=
  let x := s.thread t
  .next (match x.push with
    | some p =>
      if x.st = .stalled ∧ x.stall = .runAhead ∧ p.cmds.all (fun qc => decide (s.ahead qc.1 qc.2.stamp ≤ s.runAhead (thrHalf t))) then
        (s.modThread t fun x => { x with st := .ready, stall := .none, push := none }).pushOrdered t p
      else s
    | none => s)

/-- WAITTK_DEFAULT: the counter has entered the default row of the thread's wait (R268). -/
def execWaittkDefault (t : ThrIx) (s : State) : Res :=
  .next (s.dueDefault t)

/-- The end of a WAITEV in row r (R149, R150): Z, and `now` at r + LEAD at the earliest. -/
def State.endWaitev (s : State) (t : Nat) (w : EvWait) (z : Bool) (r : Nat) (gen : Option Nat) : State :=
  (s.modThread t fun x =>
    { x with z := z, now := max48 x.now (BitVec.ofNat 48 (32 * (r + w.lead))), st := .ready, stall := .none, evwait := none,
             pc := x.pc + 1, gen := match gen with | some g => some g | none => x.gen }).prioritise t

/-- A firing registers at a thread: it ends a WAITEV of its channel before the timeout's row (R149, R150). -/
def State.firingAt (s : State) (t ch gen : Nat) : State :=
  match (s.thread t).evwait with
  | some w =>
    let r := s.row (thrHalf t)
    if w.ec = ch ∧ (w.tmo = 0 ∨ r < w.row + w.tmo) then s.endWaitev t w false r (some gen) else s
  | none => s

/-- The threads of a half that wait for an event. -/
def State.evWaiters (s : State) (h : Nat) : List Nat := (s.thr.filter fun e => thrHalf e.1 == h && e.2.evwait.isSome).map (·.1)

/-- A firing under way to the threads of a half registers there: BEV sees it from now on (R151), and every WAITEV of its channel that
has issued ends (R149). -/
def State.observeFiring (s : State) (h : Nat) (f : Fire) : State :=
  ({ s with fires := s.fires.erase f }.observe h f.ch (s.row h)).forEach
    (s.evWaiters h) fun s t => s.firingAt t f.ch f.gen

/-- The firing that registers next at a thread's half: the oldest of the channel that the thread waits for, where it waits for one,
otherwise the oldest. -/
def State.nextFiring (s : State) (t : Nat) : Option Fire :=
  let due := s.fires.filter fun f => (match f.dest with | .threads h => h.val == thrHalf t | _ => false) && decide (f.row ≤ s.row (thrHalf t))
  match (s.thread t).evwait with
  | some w => due.find? fun f => f.ch == w.ec
  | none => due.head?

/-- WAITEV_FIRING: a firing under way to the threads of thread t's half registers (R149 to R151). -/
def execWaitevFiring (t : ThrIx) (s : State) : Res :=
  .next (match s.nextFiring t with
    | some f => s.observeFiring (thrHalf t) f
    | none => s)

/-- The counter has entered row r_i + TMO of a thread's WAITEV (R150). -/
def State.evTimeout (s : State) (t : Nat) : State :=
  match (s.thread t).evwait with
  | some w =>
    if w.tmo ≠ 0 ∧ w.row + w.tmo ≤ s.row (thrHalf t) then s.endWaitev t w true (w.row + w.tmo) none else s
  | none => s

/-- WAITEV_TIMEOUT (R150). -/
def execWaitevTimeout (t : ThrIx) (s : State) : Res := .next (s.evTimeout t)

/-- Whether a participant has arrived at a barrier in the current shot, or counts as arrived (R96). -/
def State.counted (s : State) (b t : Nat) : Bool :=
  ((s.barrier b).arrived.any fun e => e.1 == t) || (s.thread t).over

/-- No arrival at a barrier is still under way between the halves (R26). -/
def State.barrierHeard (s : State) (b : Nat) : Bool :=
  s.dlk.all fun e => e.2.msgs.all fun m => match m with | .arrival c _ => c != b | _ => true

/-- BARRIER_COMPLETE: every participant has arrived or counts as arrived, and both halves know; those in SYNC go on with the largest `now` among
them (R95, R96). -/
def execBarrierComplete (b : BarIx) (s : State) : Res :=
  let y := s.barrier b
  .next (match y.arrived with
    | [] => s
    | e :: es =>
      if y.members.all (s.counted b) ∧ s.barrierHeard b then
        let m := es.foldl (fun m x => max48 m x.2) e.2
        (s.modBarrier b fun y => { y with arrived := [] }).forEach y.members fun s t =>
          if (s.thread t).barrier = some b.val then
            (s.modThread t fun x => { x with now := m, st := .ready, stall := .none, barrier := none, pc := x.pc + 1 }).prioritise t
          else s
      else s)

/-- STRM_READY (R168): the ring is enabled and its first fetch has been issued. -/
def execStrmReady (t : ThrIx) (s : State) : Res := .next (s.strmGo t)

end Sys2Proof.Machine
end

