-- ==== Sys2Proof/Machine/Runs.lean ====
section
/-!
DEFINITION. The life of a run: its start, its shots, its commitment, its shot and averaging records and its completion
(R82, R87 to R91, R112, R115, R235, R236, R448, R456, R457, R629).
-/
namespace Sys2Proof.Machine

/-- A thread at the start of a shot (R82, R156, R161, R254): `now` = S, the PC at the entry point. -/
def Thread.begin (x : Thread) (sTime : Int) : Thread :=
  { x with now := BitVec.ofInt 48 sTime, pc := x.entry, depth := 0, starts := [], call := false, st := .ready, stall := .none, prio := 0,
           gen := none, inbox := [], wait := none, last := [], evwait := none, barrier := none, push := none }

/-- Shot k of a run begins at S (R89, R629): every thread of the run issues from there. -/
def State.beginShot (s : State) (r k : Nat) (sTime : Int) : State :=
  let u := s.runOf r
  let s := s.forEach u.threads fun s t => s.modThread t fun x => x.begin sTime
  let s := { s with bar := mmap ({} : Barrier) (fun _ (b : Barrier) => if b.run = some r then { b with arrived := [] } else b) s.bar }
  s.modRun r fun u => { u with shot := k, start := sTime, shots := u.shots ++ [({ num := k, s := sTime } : Shot)] }

/-- The start time of a run is fixed (R629). -/
def State.fixT0 (s : State) (r t0 : Nat) : State := (s.modRun r fun u => { u with t0 := some t0 }).beginShot r 0 t0

/-- Whether the current shot is the run's final one (R90). -/
def Run.isFinal (u : Run) : Bool :=
  (match u.final with | some k => decide (k ≤ u.shot) | none => false) || (u.count != 0 && u.shot + 1 == u.count)

/-- The start lead of a run: the larger START_LEAD of the halves that hold its threads (R87). -/
def State.startLead (s : State) (threads : List Nat) : Nat :=
  threads.foldl (fun m t => max m (s.reg .START_LEAD (thrHalf t)).toNat) 0

/-- The first row boundary at least `lead` rows after sample time t (R87). -/
def leadTime (t lead : Nat) : Nat := roundUp t 32 + 32 * lead

/-- SHOT_START: every thread of the run has ended its shot and the shot is not the final one; the next shot starts at the
latest `now` plus the shot gap, rounded up to a row (R89). -/
def execShotStart (r : RunIx) (s : State) : Res :=
  let u := s.runOf r
  .next (match u.threads with
    | [] => s
    | t :: ts =>
      if u.active ∧ !u.stopped ∧ u.st ≠ .committed ∧ s.shotOver r ∧ !u.isFinal then
        let m := ts.foldl (fun m t => max48 m (s.thread t).now) (s.thread t).now
        let sTime := roundUpI (s.extI (thrHalf t) m + 32 * u.gap) 32
        (s.modRun r fun u => { u with done := u.done + 1 }).beginShot r (u.shot + 1) sTime
      else s)

/-- The counter value at a run's T0 goes into its RUN_NT registers (R545). -/
def State.stampRun (s : State) (r : Nat) : State :=
  s.forEach [0, 1] fun s h =>
    let p := ntParts (s.ntOf h)
    ((s.setPair .RUN_NT_SEC_LO .RUN_NT_SEC_HI h r p.1).setReg .RUN_NT_NS h r 0 (BitVec.ofNat 32 p.2.1)).setReg .RUN_NT_FRAC h r 0
      (BitVec.ofNat 32 p.2.2)

/-- The counter reaches T0, and the run leaves ARMED (R417, R545, R629). -/
def State.reachT0 (s : State) (r : Nat) : State :=
  let u := s.runOf r
  match u.t0 with
  | some t0 =>
    if u.st = .armed ∧ !u.stopped ∧ t0 ≤ s.now 0 then
      ((s.leaveArmed r).stampRun r).modRun r fun u => { u with st := if u.final.isSome then .stopping else .running }
    else s
  | none => s

/-- RUN_T0 (R417, R545, R629). -/
def execRunT0 (r : RunIx) (s : State) : Res := .next (s.reachT0 r)

/-- Whether a run has committed (R112): its final shot has ended and no command of it is left in a queue. -/
def State.committed (s : State) (r : Nat) : Bool :=
  let u := s.runOf r
  u.st == .committed || (u.active && s.shotOver r && u.isFinal && (s.queuesOf r).all fun q => (s.queue q).cmds.isEmpty)

/-- RUN_COMMIT (R112): pattern play in progress ends at the next row boundary, as at a stop. -/
def execRunCommit (r : RunIx) (s : State) : Res :=
  let u := s.runOf r
  .next (if (u.st = .running ∨ u.st = .stopping) ∧ s.committed r then
      let s := s.forEach ((s.queuesOf r).filter fun q => (s.queue q).pat) fun s q => s.silence q false
      s.modRun r fun u => { u with st := .committed }
    else s)

/-! ### Records of a run -/

/-- The bytes of a shot record (R456's table). -/
def shotRecord (r : Nat) (x : Shot) (final : Bool) : List Byte :=
  leBytes 1 5 ++ leBytes 1 r ++ leBytes 2 0 ++ leBytes 4 x.num ++ leBytes 8 (BitVec.ofInt 64 x.s).toNat ++
  leBytes 4 (x.flags ||| (if final then 0x800 else 0)).toNat ++ leBytes 2 x.late ++ leBytes 2 x.dflt ++ leBytes 4 x.underrun ++
  leBytes 4 0

/-- Whether something of a shot is still to come at a queue, on its way or at the ball (R457). -/
def State.shotBusy (s : State) (r k : Nat) : Bool :=
  ((s.queuesOf r).any fun q => (s.queue q).cmds.any fun c => c.shot == k) ||
  (s.released.any fun x => x.cmd.run == r && x.cmd.shot == k) ||
  (s.pulses.any fun p => p.run == r && p.shot == k) ||
  (s.wins.any fun w => w.run == r && w.shot == k) ||
  (s.pat.any fun e => e.2.active && e.2.run == r && e.2.shot == k)

/-- The half in which a run's own records are formed: that of its first listed thread (log 14). -/
def State.runHalf (s : State) (r : Nat) : Nat := match (s.runOf r).threads with | t :: _ => thrHalf t | [] => 0

/-- SHOT_RECORD_WRITE: the oldest open shot of the run has nothing left to come, and the ball has passed the start of the
next shot, or the shot is the final one (R457). -/
def execShotRecordWrite (r : RunIx) (s : State) : Res :=
  let u := s.runOf r
  .next (match u.shots with
    | [] => s
    | x :: xs =>
      let last := xs.isEmpty
      let final := last && (u.st == .committed)
      let passed : Bool := u.stopped || (match xs with | y :: _ => decide (y.s ≤ (s.now 0 : Int)) | [] => final)
      if u.active ∧ passed ∧ !s.shotBusy r x.num then
        let s := s.modRun r fun u => { u with shots := xs }
        s.formRecord (s.runHalf r) u.recRing (some r.val) true (shotRecord r x final)
      else s)

/-- The bytes of an averaging record (R236). -/
def State.avgRecord (s : State) (r c : Nat) : List Byte :=
  let h := c / 256
  let i := c % 256
  let w (x : Reg) : List Byte := leBytes 4 (s.reg x h i).toNat
  leBytes 1 3 ++ leBytes 1 r ++ leBytes 2 c ++ w .AVG_COUNT ++ w .AVG_SUMI_LO ++ w .AVG_SUMI_HI ++ w .AVG_SUMQ_LO ++ w .AVG_SUMQ_HI ++
  w .AVG_S0 ++ w .AVG_S1 ++ w .AVG_S2 ++ w .AVG_S3 ++ w .AVG_OVR ++ w .AVG_XSAT ++
  leBytes 8 (if s.reg .AVG_COUNT h i = 0 then 0 else (mget ({} : Chan) s.chans c).avgLast) ++ leBytes 8 0

/-- The channels assigned to a run, by global number. -/
def State.chansOf (s : State) (r : Nat) : List Nat := ((s.queuesOf r).filter fun q => qKind q == .chan).map qIdx

/-- Each channel of the run with AVG_EN forms its averaging record, once (R236). -/
def State.avgRecords (s : State) (r : Nat) : State :=
  let u := s.runOf r
  if u.avgDone then s
  else
    (s.modRun r fun u => { u with avgDone := true }).forEach
      ((s.chansOf r).filter fun c => bit (s.reg .CH_CTL (c / 256) (c % 256)) 1)
      fun s c => s.formRecord (c / 256) u.recRing (some r) true (s.avgRecord r c)

/-- RESULT of a run's completion (R448). -/
def runResult (shots discards r : Nat) : Word64 :=
  BitVec.ofNat 64 (shots % 2 ^ 32 + min discards 0xFFFFFF * 2 ^ 32 + r * 2 ^ 56)

/-- A run's number, threads, barriers and resources are released (R115): the run is FREE.  A later run of the same number counts
its windows from 0 (R233) and is not one of those that a reaction stopped (R584). -/
def State.freeRun (s : State) (r : Nat) : State :=
  let u := s.runOf r
  let s := s.forEach u.threads fun s t =>
    s.forEach (List.range 8) (fun s i => s.setReg .THR_SUB (thrHalf t) (t % 256) i 0) |>.modThread t fun x =>
      { haltThread .idle x with run := 0, fault := 0, inbox := [], last := [] }
  let s := s.forEach (s.queuesOf r) fun s q => s.modQueue q fun x => { x with owner := none }
  let s := s.forEach (s.marksOf r) fun s m => s.modMarker m fun x => { x with owner := none }
  let s := { s with bar := mmap ({} : Barrier) (fun _ (b : Barrier) => if b.run = some r then {} else b) s.bar }
  { s with
    run := mset {} s.run r {}
    chans := mmap {} (fun _ (c : Chan) => if c.run = r then { c with windows := 0 } else c) s.chans
    shadowsF := s.shadowsF.map (Shadow.drop r) }

/-- A record ring's open skein closes (R519). -/
def State.shutPack (s : State) (ring : Nat) : State :=
  s.modRing ring fun x => if x.pack.count = 0 ∨ x.shut.isSome then x else { x with shut := some x.pack, pack := {} }

/-- Whether a record of a run waits in a buffer, in a skein, at a port or on the die link (R115, R456). -/
def State.recWaits (s : State) (r : Nat) : Bool :=
  let x := s.ring (s.runOf r).recRing
  (s.recs.any fun b => b.run == some r) || x.pack.runs.contains r || (match x.shut with | some p => p.runs.contains r | none => false) ||
  (s.ports.any fun e => e.2.reqs.any fun q => q.runs.contains r) ||
  [0, 1].any fun h => (s.dlkOf h).msgs.any fun m => match m with | .dma (.record _ _ _ w) => w.run == some r | _ => false

/-- RUN_COMPLETE (R115, R236, R456, R519): the run has committed or been stopped and has no record left to form but its averaging
records, which are formed now; once every record of it has been written, its completion is posted and the run is FREE. -/
def execRunComplete (r : RunIx) (s : State) : Res :=
  let u := s.runOf r
  .next (if u.st = .committed ∧ u.shots.isEmpty ∧ (s.wins.all fun w => w.run != r.val) then
      let s := (s.avgRecords r).shutPack u.recRing
      if s.recWaits r then s
      else
        let u := s.runOf r
        (s.finish u.tag u.status (runResult (s.shotsDone r) u.discards r)).freeRun r
    else s)

end Sys2Proof.Machine
end

