-- ==== Sys2Proof/Machine/Queues.lean ====
section
/-!
DEFINITION. What the sample domain does with timed commands: the take at the arrival boundary, the effect at the stamp,
markers, pattern play with its jumps, and streamed samples (R62, R102 to R110, R135, R152, R153, R176, R179, R182, R201, R202,
R216, R283 to R287, R309, R545).
-/
namespace Sys2Proof.Machine

/-! ### Markers -/

/-- A rising edge of a marker starts the blanking of every enabled monitor of its half that selects it: the start is then
under way to the monitor (R324). -/
def State.blankEdge (s : State) (h m : Nat) : State :=
  { s with blanks := s.blanks ++ (((List.range 96).filter fun i =>
      bits (s.reg .MON_BLANK h i) 31 30 == 2 && bits (s.reg .MON_BLANK h i) 26 24 == m && bit (s.reg .MON_CFG h i) 0).map fun i =>
        96 * h + i).filter fun n => !s.blanks.contains n }

/-- A change of marker m at the row boundary at sample time t (R153, R545): any change cancels the pending return to low of
an earlier pulse; a new pulse counts its rows from here.  In quiet mode no change is recorded (R592). -/
def State.changeMarker (s : State) (m : Nat) (c : MarkChange) : State :=
  let k := s.marker m
  let level := match c.act with
    | 0 => false
    | 1 => true
    | 2 => true
    | _ => !k.level
  let nt := s.ntOf (m / 8)
  let kept := level == k.level || s.isQuiet (m / 8)
  let s := if level && !k.level then s.blankEdge (m / 8) (m % 8) else s
  s.modMarker m fun k =>
    { k with level := level, pulseEnd := if c.act = 2 then some (c.t + 32 * c.pw) else none,
             stamp := if kept then k.stamp else c.t, ntime := if kept then k.ntime else nt }

/-- The changes of a marker whose row boundary has come take place, in their order (R153). -/
def State.settleMarker (s : State) (m : Nat) : State :=
  let now := s.now (m / 8)
  let due := (s.marker m).changes.filter fun c => decide (c.t ≤ now)
  if due.isEmpty then s
  else
    let s := s.modMarker m fun k =>
      let same := match k.marked with | c :: _ => decide (now ≤ c.t) | [] => false
      { k with changes := k.changes.filter fun c => !decide (c.t ≤ now), before := if same then k.before else k.level,
               marked := (if same then k.marked else []) ++ due.map fun c => { c with t := now } }
    s.forEach due fun s c => s.changeMarker m c

/-- A marker's MARK task input acts at the registration row (R153): where MARKs acted at the same row, they are applied last. -/
def State.taskMarker (s : State) (m act pw : Nat) : State :=
  let t := s.now (m / 8)
  let k := s.marker m
  let same := k.marked.filter fun c => c.t == t
  if same.isEmpty then s.changeMarker m ⟨t, act, pw⟩
  else
    let s := (s.modMarker m fun x => { x with level := k.before }).changeMarker m ⟨t, act, pw⟩
    s.forEach same fun s c => s.changeMarker m c

/-- A marker returns to low once the counter has reached the end of its pulse (R153). -/
def State.endPulse (s : State) (m : Nat) : State :=
  match (s.marker m).pulseEnd with
  | some t => if t ≤ s.now (m / 8) then s.changeMarker m ⟨s.now (m / 8), 0, 0⟩ else s
  | none => s

/-- MARKER_PULSE_END (R153). -/
def execMarkerPulseEnd (m : MarkIx) (s : State) : Res := .next (s.endPulse m)

/-! ### Oscillators -/

/-- The history of a queue's oscillator; at first F = 0, P = 0, T_R = 0 (R177). -/
def State.oscs (s : State) (q : Nat) : List Osc := mget [] s.osc q

/-- The oscillator in force at sample t. -/
def oscAt (l : List Osc) (t : Nat) : Osc := l.foldl (fun a e => if e.t ≤ t then e else a) {}

/-- Put an entry into a history after every entry that is not later. -/
def oscInsert (l : List Osc) (e : Osc) : List Osc := (l.filter fun x => x.t ≤ e.t) ++ e :: l.filter fun x => e.t < x.t

/-- Change a queue's oscillator from sample t on (R176). -/
def State.oscSet (s : State) (q t : Nat) (f : Osc → Osc) : State :=
  let l := s.oscs q
  { s with osc := mset [] s.osc q (oscInsert l { f (oscAt l t) with t := t }) }

/-- What an oscillator command does to F, P and T_R (R176). -/
def Act.onOsc (a : Act) (t : T48) (o : Osc) : Osc :=
  match a with
  | .setf f => { o with f := f }
  | .addph p => { o with p := o.p + p }
  | .setph p => { o with p := p }
  | .rstph => { o with p := 0, tref := t }
  | _ => o

/-! ### Pulses -/

/-- The last sample plus one of a pulse. -/
def Pulse.stop (p : Pulse) : Nat := p.t + p.spec.dur p.q

/-- The play point of envelope sample k (R182, R284). -/
def Pulse.playPoint (p : Pulse) (k : Nat) : Nat :=
  if 1536 ≤ p.q then p.t + 8 * (k * 2 ^ p.spec.gauge)
  else if p.spec.gauge = 0 then p.t + k
  else p.t + (k - 9) * 2 ^ p.spec.gauge

/-- A pulse plays zero, or on a flux channel holds, from sample n on. -/
def Pulse.zero (p : Pulse) (n : Nat) : Pulse :=
  { p with zeroFrom := some (match p.zeroFrom with | some z => min z n | none => n) }

/-- The first sample that a pulse uses of the waveform word that holds its envelope sample k (R201, R309). -/
def Pulse.wordStart (p : Pulse) (k : Nat) : Nat := k - min k (((if p.spec.stream then p.pos else p.spec.addr) + k) % 8)

/-- What the SEC-DED checks of a pulse's waveform reads do (R201, R309). -/
def State.waveCheck (s : State) (p : Pulse) (w : WaveCheck) : State × Pulse :=
  let h := qHalf p.q
  let flux := decide (1536 ≤ p.q)
  let s := if w.corrected = 0 then s else s.count (if flux then .FLX_ECC_CORRECTED else .DRV_ECC_CORRECTED) h 0 w.corrected
  match w.bad with
  | none => (s, p)
  | some k =>
    let s := (s.flagShot p.run p.shot 5).raiseRun p.run 0x12
    (s.occur h (if flux then 0x0C2 else 0x081) { runs := [p.run], parts := (s.ownQueue p.q).toList }, p.zero (p.playPoint (p.wordStart k)))

/-- A streamed pulse takes its place in the stream when its queue releases it; the position advances by the whole of it
(R109, R168). -/
def State.streamPos (s : State) (p : Pulse) : State × Pulse :=
  if p.spec.stream then
    match s.stream p.q with
    | some y => (s.setStream p.q (some { y with pos := y.pos + p.spec.length }), { p with pos := y.pos })
    | none => (s, p)
  else (s, p)

/-- A pulse joins those that are to play. -/
def State.addPulse (s : State) (p : Pulse) : State := { s with pulses := s.pulses ++ [p] }

/-- Change the pulses of a queue that start at sample t. -/
def State.modPulses (s : State) (q t : Nat) (f : Pulse → Pulse) : State :=
  { s with pulses := s.pulses.map fun p => if p.q = q ∧ p.t = t then f p else p }

/-- A pattern segment as entry n has it, starting at sample t: played as zero where its address or pages fail R179, or where no stream
is attached. -/
def State.segmentOf (s : State) (q n t run shot : Nat) (y : PulseSpec) : Pulse × Bool :=
  let k := (s.runOf run).owner
  let bad := (!y.stream && (decide (waveSamples < y.addr + y.length) || !s.ownsEnvelope k (qHalf q) y.addr y.length)) ||
    (y.stream && (s.stream q).isNone)
  let p : Pulse := { q := q, t := t, spec := y, run := run, shot := shot, entry := some (n % 1024) }
  (if bad then p.zero t else p, bad)

/-- A pattern segment of an entry as the player fetches it. -/
def State.segment (s : State) (q n t run shot : Nat) : Pulse × Bool :=
  s.segmentOf q n t run shot ((s.entry q n).pulse (s.entry q n).amp)

/-! ### The take and the effect -/

/-- At its arrival boundary the sample domain takes the front command of a queue (R62).  A pattern's first segment is then known to the
player, which works that far ahead (R104); a streamed pulse takes its place in the stream. -/
def State.takeFront (s : State) (q : Nat) : State :=
  let h := qHalf q
  match (s.queue q).cmds with
  | [] => s
  | c :: cs =>
    let t := s.ext h c.stamp
    if rowOf t ≤ s.row h + qLead q then
      let s := { s.modQueue q (fun x => { x with cmds := cs }) with released := s.released ++ [⟨q, c⟩] }
      match c.act with
      | .pattern n p =>
        let s := s.modPattern q fun _ =>
          { active := true, entry := n, left := (s.entry q n).loops, start := t, dur := p.dur q, run := c.run, shot := c.shot }
        if p.stream then
          let r := s.streamPos { (s.segmentOf q n t c.run c.shot p).1 with live := false }
          r.1.addPulse r.2
        else s
      | .pulse p =>
        if p.stream then
          let r := s.streamPos { q := q, t := t, spec := p, run := c.run, shot := c.shot, live := false }
          r.1.addPulse r.2
        else s
      | _ => s
    else s

/-- QUEUE_RELEASE (R62). -/
def execQueueRelease (qi : QId) (s : State) : Res :=
  if qi.kind = .flux ∧ 128 ≤ qi.idx.val then .fault .illFormed else .next (s.takeFront (qKey qi))

/-- On a flux channel the remainder of an earlier pulse is abandoned at sample t (R283). -/
def State.abandon (s : State) (q t : Nat) : State :=
  if q < 1536 then s
  else
    { s with pulses := s.pulses.map fun p =>
        if p.q = q ∧ p.live ∧ p.t ≤ t then { p with cut := some (match p.cut with | some c => min c t | none => t) } else p }

/-- A pulse or first segment acts at its stamp: a streamed one stands in the list since its release. -/
def State.applyPulse (s : State) (p : Pulse) (w : WaveCheck) : State :=
  let r := (s.abandon p.q p.t).waveCheck p w
  if p.spec.stream then
    r.1.modPulses p.q p.t fun x => match r.2.zeroFrom with | some z => { x.zero z with live := true } | none => { x with live := true }
  else r.1.addPulse r.2

/-- A level command or write takes effect at flux sample t (R283, R285). -/
def State.levelAt (s : State) (f t : Nat) (v : BitVec 16) : State :=
  let s := if bit (s.reg .FLX_CTL (f / 64) (f % 64)) 1 then s else s.abandon (1536 + f) t
  s.modFlux f fun x => { x with writes := x.writes ++ [(t, v)] }

/-- The effect of a released command at its stamp t (R29). -/
def State.applyAct (s : State) (q : Nat) (c : Cmd) (t : Nat) (w : WaveCheck) : State :=
  let h := qHalf q
  let f := qIdx q
  match c.act with
  | .pulse p => s.applyPulse { q := q, t := t, spec := p, run := c.run, shot := c.shot } w
  | .pattern n p =>
    let g := s.segmentOf q n t c.run c.shot p
    let s := if g.2 then s.occur h 0x083 { runs := [c.run], parts := (s.ownQueue q).toList } else s
    s.applyPulse g.1 w
  | .window len k => { s with wins := s.wins ++ [{ ch := f, t := t, len := len, ksel := k, run := c.run, shot := c.shot }] }
  | .level v => s.levelAt f t v
  | .strobe => { s with strobes := s.strobes ++ [⟨f / 8, t⟩] }
  | .levelStrobe v => { s.levelAt f t v with strobes := s.strobes ++ [⟨f / 8, t⟩] }
  | .signal ec gen => s.fireFrom h ec gen
  | .mark m act pw =>
    (s.modMarker m fun k => { k with changes := k.changes ++ [⟨roundUp t 32, act, pw⟩] }).settleMarker m
  | a => s.oscSet q t (a.onOsc (t48 t))

/-- The oldest released command of a queue acts once the counter has entered the row of its stamp (R29, R54). -/
def State.actFront (s : State) (q : Nat) (w : WaveCheck) : State :=
  let h := qHalf q
  match s.released.find? fun x => x.q == q with
  | none => s
  | some x =>
    let t := s.ext h x.cmd.stamp
    if rowOf t ≤ s.row h then { s with released := s.released.erase x }.applyAct q x.cmd t w else s

/-- TIMED_COMMAND_APPLY (R29, R54). -/
def execTimedCommandApply (qi : QId) (w : WaveCheck) (s : State) : Res :=
  if qi.kind = .flux ∧ 128 ≤ qi.idx.val then .fault .illFormed else .next (s.actFront (qKey qi) w)

/-! ### Pattern play -/

/-- Count a dropped jump request (R104, R107). -/
def State.jumpDropped (s : State) (q : Nat) : State :=
  (s.count .JUMP_DROPPED (qHalf q) 0).occur (qHalf q) 0x065 { runs := s.runOfQueue q, parts := (s.ownQueue q).toList }

/-- The last row of the segment in play. -/
def Pattern.lastRow (p : Pattern) : Nat := rowOf (p.start + p.dur - 1)

/-- Pattern play has come to its end after the segment in play: PATTERN_END fires at the boundary after its final row
(R103). -/
def State.patternOver (s : State) (q : Nat) : State :=
  s.modPattern q fun p => { p with ended := some (32 * (p.lastRow + 1)), jump := none }

/-- The player goes on with entry n, `left` more plays of it to come, after one row of dead time; `late`: a jump taken under
R106. -/
def State.nextSegment (s : State) (q n left : Nat) (late : Bool) (e : Ecc) (w : WaveCheck) : State :=
  let h := qHalf q
  let p := s.pattern q
  let en := s.entry q n
  let named : Names := { runs := [p.run], parts := (s.ownQueue q).toList }
  if e = .uncorrectable then ((s.raiseRun p.run 0x12).occur h 0x082 named).patternOver q
  else
    let s := if e = .corrected ∧ q < 1536 then s.count .DRV_ECC_CORRECTED h 0 else s
    if en.length = 0 ∨ 9 < en.gauge then (s.occur h 0x083 named).patternOver q
    else
      let t := p.start + p.dur + 32
      let g := s.segment q n t p.run p.shot
      let s := if g.2 then s.occur h 0x083 named else s
      let s := s.modPattern q fun x =>
        { x with entry := n, left := left, start := t, dur := g.1.spec.dur q,
                 jump := match x.jump with | some j => if j.wait then some { j with wait := false, late := true } else none | none => none }
      let s := if late then
          (((s.regBit .PAT_STATUS h (qLocalPat q) 29 true).flagShot p.run p.shot 2).occur h 0x066 named) else s
      let r := s.waveCheck (if p.mute then g.1.zero t else g.1) w
      let r := r.1.streamPos r.2
      r.1.addPulse r.2

/-- The player has worked the final row of the segment in play and goes on with what follows it (R102 to R107). -/
def State.segmentOver (s : State) (q : Nat) (e : Ecc) (w : WaveCheck) : State :=
  let p := s.pattern q
  let en := s.entry q p.entry
  match p.jump with
  | some j =>
    if !j.wait then s.nextSegment q j.target (s.entry q j.target).loops j.late e w
    else if 0 < p.left then s.nextSegment q p.entry (p.left - 1) false e w
    else s.nextSegment q en.next (s.entry q en.next).loops false e w
  | none =>
    if 0 < p.left then s.nextSegment q p.entry (p.left - 1) false e w
    else if en.last then s.patternOver q
    else s.nextSegment q en.next (s.entry q en.next).loops false e w

/-- Whether the player is done with the segment in play (R104). -/
def State.segmentDue (s : State) (q : Nat) : Bool :=
  let p := s.pattern q
  p.active && p.ended.isNone && decide (p.lastRow < s.row (qHalf q) + qLead q)

/-- After the last segment the ball has passed it, and PATTERN_END fires (R103). -/
def State.patternEnd (s : State) (q b : Nat) : State :=
  let p := s.pattern q
  ((s.modPattern q fun _ => {}).modQueue q fun x =>
    { x with pat := false, free := if q < 1024 then some (t48 (p.start + p.dur + 32)) else x.free }).fireProducer (qHalf q) (0x280 + qGroup q) 0 (rowOf b)

/-- What a queue's pattern play does once its time has come. -/
def State.patternStep (s : State) (q : Nat) (e : Ecc) (w : WaveCheck) : State :=
  if s.segmentDue q then s.segmentOver q e w
  else
    match (s.pattern q).active, (s.pattern q).ended with
    | true, some b => if b ≤ s.now (qHalf q) then s.patternEnd q b else s
    | _, _ => s

/-- PATTERN_SEGMENT_END (R102 to R107, R179, R202): the player has worked the final row of the segment and fetches what
follows; or, after the last segment, the ball has passed it and PATTERN_END fires. -/
def execPatternSegmentEnd (qi : QId) (e : Ecc) (w : WaveCheck) (s : State) : Res :=
  if qi.kind = .flux ∧ 128 ≤ qi.idx.val then .fault .illFormed else .next (s.patternStep (qKey qi) e w)

/-- A jump request registers while the counter is in row k, for ball row k + A (R104 to R107). -/
def State.jump (s : State) (q : Nat) (cmp : Bool) : State :=
  let p := s.pattern q
  let k := s.row (qHalf q)
  let b := k + qLead q
  let e := s.entry q p.entry
  let ok := p.active && p.ended.isNone && decide (rowOf p.start ≤ b ∨ (s.pulses.any fun x => x.q = q ∧ x.entry.isSome)) &&
    (if cmp then e.cmpEn else e.evEn)
  if !ok then s.jumpDropped q
  else
    let final := decide (p.lastRow ≤ b)
    let j : Jump := { target := if cmp then e.cmpTarget else e.evTarget, wait := final && !(p.left == 0 && e.last),
                      row := k, cmp := cmp }
    match p.jump with
    | none => s.modPattern q fun p => { p with jump := some j }
    | some i =>
      if i.cmp ∧ !cmp ∧ i.row = k then (s.modPattern q fun p => { p with jump := some j }).jumpDropped q
      else s.jumpDropped q

/-- The entry that a queue's pattern play is at: the player's, or, where the sample domain has not yet taken the command that starts
it, the one which that command names. -/
def State.patEntry (s : State) (q : Nat) : Nat :=
  if (s.pattern q).active then (s.pattern q).entry
  else (((s.queue q).cmds.findSome? fun c => match c.act with | .pattern n _ => some n | _ => none).getD 0)

/-- A jump request reaches the sample domain, where a segment whose end has come is over first (R104).  One that finds no pattern play
is dropped; a compare request's token must be of the queue's run and of the shot at the request's ball row (R253), and its state the
entry's CMP_STATE. -/
def State.jumpIn (s : State) (q : Nat) (tok : Option Token) : State :=
  let s := if s.segmentDue q then s.segmentOver q .ok .ok else s
  match tok with
  | none => if (s.queue q).pat then s.jump q false else s.jumpDropped q
  | some k =>
    let mine := (s.runOfQueue q).any fun r =>
      r == k.run && ((s.runOf r).ballShot (32 * (s.row (qHalf q) + qLead q))).map (BitVec.ofNat 32) == some k.shot
    if (s.queue q).pat && mine && bits k.value 1 0 == (s.entry q (s.patEntry q)).cmpState then s.jump q true else s

/-- PATTERN_JUMP_REQUEST (R104): a request under way to a queue registers in the sample domain. -/
def execPatternJumpRequest (qi : QId) (compare : Bool) (s : State) : Res :=
  let q := qKey qi
  if qi.kind = .flux ∧ 128 ≤ qi.idx.val then .fault .illFormed
  else
    .next (match s.jumps.find? fun j => j.q == q && j.tok.isSome == compare with
      | none => s
      | some j => { s with jumps := s.jumps.erase j }.jumpIn q j.tok)

/-! ### Streams -/

/-- The number of samples of a streamed pulse whose arrival boundary has come (R108, R182). -/
def State.dueSamples (s : State) (p : Pulse) : Nat :=
  ((List.range p.spec.length).filter fun k => decide (rowOf (p.playPoint k) ≤ s.row (qHalf p.q) + qLead p.q)).length

/-- The word of the staging area that holds a position of the stream. -/
def State.stagedWord (s : State) (h : Nat) (y : Stream) (pos : Nat) : Word :=
  BitVec.ofNat 32 (ofLE (s.read .wave h (y.stage + 4 * (pos % (y.size / 4))) 4))

/-- A streamed sample is missing (R109, R110): the slot plays zero from its play point on; the shot, the run and the counters
record it; under the policy HALT the current shot becomes the final one. -/
def State.underrun (s : State) (p : Pulse) (k : Nat) : State :=
  let h := qHalf p.q
  let n := p.spec.length - k
  let s := s.modPulses p.q p.t fun x => { x.zero (x.playPoint k) with missed := true }
  let s := s.modShot p.run p.shot fun x => { x with flags := x.flags ||| 2, underrun := min 0xFFFFFFFF (x.underrun + n) }
  let s := (s.count .UNDERRUN_SAMPLES h 0 n).raiseRun p.run 0x0E
  let s := s.occur h 0x064 { runs := [p.run], parts := (s.ownQueue p.q).toList }
  match (s.queue p.q).owner with
  | some (t, _) => if (s.runOf p.run).policy.contains t then s.finalShot p.run else s
  | none => s

/-- The first position from `pos` on that is not in the staging area (R109, R522). -/
def Stream.upTo (y : Stream) (pos : Nat) : Nat :=
  y.holes.foldl (fun m x => if pos < x.2 then min m (max pos x.1) else m) (max pos y.staged)

/-- The samples of a queue's streamed pulse whose arrival boundary has come are taken from the staging area; the first that is not there
starts the under-run (R108, R109). -/
def State.deadline (s : State) (q : Nat) : State :=
  let h := qHalf q
  match s.pulses.find? fun p => p.q == q && p.spec.stream && !p.missed && decide (p.taken.length < s.dueSamples p) with
  | none => s
  | some p =>
    let n := p.taken.length
    let due := s.dueSamples p
    match s.stream q with
    | none => s.underrun p n
    | some y =>
      let have_ := min due (y.upTo (p.pos + n) - p.pos)
      let s := s.modPulses q p.t fun x =>
        { x with taken := x.taken ++ (List.range (have_ - n)).map fun i => s.stagedWord h y (p.pos + n + i) }
      if have_ < due then s.underrun p (max n have_) else s

/-- STREAM_DEADLINE (R108, R109). -/
def execStreamDeadline (qi : QId) (s : State) : Res :=
  if qi.kind = .flux ∧ 128 ≤ qi.idx.val then .fault .illFormed else .next (s.deadline (qKey qi))

end Sys2Proof.Machine
end

