-- ==== Sys2Proof/Machine/Synth.lean ====
section
/-!
DEFINITION. The arithmetic of the drive, probe and readout paths, sample by sample: oscillators, the interpolator cascade, the
mixing product, the decimator (R171 to R185, R204, R210 to R214).  Signals are integers in units of their last place.
-/
namespace Sys2Proof.Machine

/-! ### Sine and cosine (R175) -/

/-- One in the fixed point of the series, 2^100, and a quarter turn in it. -/
def fixOne : Int := 1267650600228229401496703205376
def fixQuarter : Int := 1991220906497848681844175556976

/-- Cosine and sine by their power series in fixed point: `n` terms from the i-th, `t` being the i-th. -/
def cosSinSeries (x : Int) : Nat → Nat → Int → Int × Int
  | 0, _, _ => (0, 0)
  | n + 1, i, t =>
    let r := cosSinSeries x n (i + 1) (t * x / fixOne / (i + 1 : Nat))
    match i % 4 with
    | 0 => (r.1 + t, r.2)
    | 1 => (r.1, r.2 + t)
    | 2 => (r.1 - t, r.2)
    | _ => (r.1, r.2 - t)

/-- A value in fixed point to Q1.17: rounded half up, 1.0 clamped (R175). -/
def toQ17 (y : Int) : Int := min 131071 ((y * 131072 + fixOne / 2) / fixOne)

/-- C and S of R175 for an 18-bit phase index. -/
def cosSin (p : Nat) : Int × Int :=
  let r := cosSinSeries (fixQuarter * (p % 65536 : Nat) / 65536) 36 0 fixOne
  match p / 65536 % 4 with
  | 0 => (toQ17 r.1, toQ17 r.2)
  | 1 => (toQ17 (-r.2), toQ17 r.1)
  | 2 => (toQ17 (-r.1), toQ17 (-r.2))
  | _ => (toQ17 r.2, toQ17 (-r.1))

/-- The oscillator phase at sample t (R173, R174). -/
def Osc.phase (o : Osc) (t : Nat) : Word :=
  BitVec.ofNat 32 ((o.f.toNat * (t48 t - o.tref).toNat) % 2 ^ 48 / 65536) + o.p

/-- C and S of an oscillator at sample t (R175). -/
def Osc.wave (o : Osc) (t : Nat) : Int × Int := cosSin (bits (o.phase t) 31 14)

/-! ### The interpolator (R180, R181) -/

/-- The coefficients of filters A, B and C, from c_1. -/
def filterA : List Int := [40902, -11679, 5171, -2261, 786, -151]
def filterB : List Int := [39721, -9037, 2503, -419]
def filterC : List Int := [36864, -4096]

/-- The filter of interpolator stage m. -/
def stageFilter (m : Nat) : List Int := if m = 1 then filterA else if m = 2 then filterB else filterC

/-- Element i of a list that stands for the values from index lo on; zero outside. -/
def atZ (l : List (Int × Bool)) (lo i : Int) : Int := if i < lo then 0 else (l.getD (i - lo).toNat (0, false)).1

/-- The sum of an odd output: Σ c_i × (x[k + 1 − i] + x[k + i]). -/
def firSum (l : List (Int × Bool)) (lo k : Int) : List Int → Nat → Int
  | [], _ => 0
  | c :: cs, i => c * (atZ l lo (k + 1 - i) + atZ l lo (k + i)) + firSum l lo k cs (i + 1)

/-- Outputs lo to lo + n − 1 of stage m of the cascade, each with whether its narrowing saturated; stage 0 is the envelope
widened to Q2.16, zero outside itself (R180, R181). -/
def interp (env : Int → Int) : Nat → Int → Nat → List (Int × Bool)
  | 0, lo, n => (List.range n).map fun (i : Nat) => (2 * env (lo + i), false)
  | m + 1, lo, n =>
    let f := stageFilter (m + 1)
    let lo' := lo / 2 - f.length
    let x := interp env m lo' (n / 2 + 2 + 2 * f.length)
    (List.range n).map fun (i : Nat) =>
      let j : Int := lo + i
      if j % 2 = 0 then (atZ x lo' (j / 2), false) else narrow 18 16 (firSum x lo' (j / 2) f 1)

/-! ### The slot (R171, R183, R184) -/

/-- A signed field of a word. -/
def sField (w : Word) (hi lo : Nat) : Int :=
  let n := hi + 1 - lo
  let v := bits w hi lo
  if v < 2 ^ (n - 1) then (v : Int) else (v : Int) - 2 ^ n

/-- The contribution of a slot at one sample: envelope I and Q in Q2.16, oscillator C and S, amplitude; whether the mixing
product or the output saturated. -/
def slotSample (i q : Int) (cs : Int × Int) (amp : Int) : Int × Bool :=
  let m := narrow 18 17 (i * cs.1 - q * cs.2)
  let a := narrow 18 16 (amp * m.1)
  (a.1, m.2 || a.2)

/-- The code of a DAC from the sum of its slots: the sum saturated to Q3.17, scaled, narrowed to Q1.13; the two saturations
(R185). -/
def dacCode (sum : Int) (scale : Nat) : Int × Bool × Bool :=
  let x := clampS 20 sum
  let y := narrow 14 19 (x * scale)
  (y.1, decide (x ≠ sum), y.2)

/-! ### The readout chain (R210 to R214) -/

/-- A decimator stage's output k from its input u, given as a list from index lo: 0.5 × u[2k] + Σ c_i × (…) × 2^-17, narrowed
to Q2.16 (R213). -/
def decimOut (f : List Int) (u : List (Int × Bool)) (lo k : Int) : Int :=
  let rec go : List Int → Nat → Int
    | [], _ => 0
    | c :: cs, i => c * (atZ u lo (2 * k - 2 * i + 1) + atZ u lo (2 * k + 2 * i - 1)) + go cs (i + 1)
  (narrow 18 17 (65536 * atZ u lo (2 * k) + go f 1)).1

/-- Outputs lo to lo + n − 1 of a decimator stage from its input. -/
def decimStage (f : List Int) (inp : Int → Nat → List (Int × Bool)) (lo : Int) (n : Nat) : List (Int × Bool) :=
  let w := 2 * f.length
  let ulo := 2 * lo - w
  let u := inp ulo (2 * n + 2 * w)
  (List.range n).map fun (i : Nat) => (decimOut f u ulo (lo + i), false)

/-- Baseband samples b[lo], …, b[lo + n − 1] of a channel from the downconverted samples z: filters C, B and A (R213,
R214). -/
def baseband (z : Int → Int) (lo : Int) (n : Nat) : List Int :=
  (decimStage filterA (decimStage filterB (decimStage filterC
    fun l k => (List.range k).map fun (i : Nat) => (z (l + i), false))) lo n).map (·.1)

/-- z[n] of R212 from the trimmed sample x (Q1.15) and the oscillator: 2xC and −2xS in Q2.16. -/
def downconvert (x : Int) (cs : Int × Int) : Int × Int :=
  ((narrow 18 16 (2 * x * cs.1)).1, (narrow 18 16 (-(2 * x * cs.2))).1)

end Sys2Proof.Machine
end

