-- ==== Sys2Proof/Machine/Drive.lean ====
section
/-!
DEFINITION. Drive and probe DACs: the mute switch and its causes, enabling and disabling, delayed register values, and the
row of codes that each DAC plays (R185, R186, R189 to R207).
-/
namespace Sys2Proof.Machine

/-! ### The mute switch (R191 to R195) -/

/-- The calibration routine running on a half, if it is one of the given codes on the given target (R393). -/
def State.calOn (s : State) (h routine target : Nat) : Bool :=
  match (s.calOf h).job with
  | some j => j.routine == routine && j.target == target
  | none => false

/-- Whether a calibration routine holds a DAC (R191, R395). -/
def State.calDac (s : State) (h k : Nat) : Bool :=
  if k < 16 then s.calOn h 1 (16 * h + k) else s.calOn h 2 (8 * h + (k - 16))

/-- Whether a window monitor of a half is in state TRIPPED (R317). -/
def State.monTripped (s : State) (h m : Nat) : Bool := bit (s.reg .MON_STATUS h m) 31

/-- The mute causes of a DAC in DAC_STATUS's bits: NOT_EN, HOST, QUIET, TRIP, CAL (R191); EVENT is the stored bit 3. -/
def State.muteCauses (s : State) (h k : Nat) : Word :=
  bitW (!bit (s.reg .DAC_CTL h k) 0 || !bit (s.reg .DAC_STATUS h k) 15) 13 ||| bitW (bit (s.reg .DAC_CTL h k) 2) 12 |||
  bitW (s.isQuiet h) 11 ||| bitW (s.monTripped h k) 10 ||| bitW (s.calDac h k) 9

/-- Whether some cause holds the switch closed (R191). -/
def State.muted (s : State) (h k : Nat) : Bool :=
  decide (s.muteCauses h k ≠ 0) || bit (s.reg .DAC_STATUS h k) 3

/-- A TRIP, QUIET or a firing of MUTE closes the switch in the step of the cause (R192; log 40); it opens only at a row boundary
(R194). -/
def State.closeSwitch (s : State) (h k : Nat) : State :=
  if s.muted h k then s.regBit .DAC_STATUS h k 14 true else s

/-- The element that the time of an EN is held for: a DAC, a readout input, a flux channel. -/
def enDac (h k : Nat) : Nat := 32 * h + k
def enInput (i : Nat) : Nat := 64 + i
def enFlux (f : Nat) : Nat := 80 + f

/-- The half of such an element. -/
def enHalf (key : Nat) : Nat := if key < 64 then key / 32 else if key < 80 then (key - 64) / 8 else (key - 80) / 64

/-- EN has been set at the time given, or its wait for READY has ended. -/
def State.enSet (s : State) (key : Nat) (t : Option Nat) : State := { s with enAt := mset none s.enAt key t }

/-- Whether 50 µs have passed since EN was set, without READY and without having been reported (R197, R240, R305). -/
def State.enLate (s : State) (key now : Nat) : Bool :=
  match mget none s.enAt key with
  | some t => decide (t + 1000000 ≤ now)
  | none => false

/-- Whether an element has EN without READY, its want of READY having been reported (R197, R240, R305): the condition lasts until READY
comes or EN falls. -/
def State.unready (s : State) (key : Nat) (en ready : Bool) : Bool := en && !ready && (mget none s.enAt key).isNone

/-- The switch follows the causes at a row boundary (R194); EN that quiet mode clears falls there, the switch having closed, and a
converter without EN powers down (R198, R591). -/
def State.settleSwitch (s : State) (h k : Nat) : State :=
  let s := if (s.quietOf h).drop ∧ bit (s.reg .DAC_CTL h k) 0 then (s.regBit .DAC_CTL h k 0 false).enSet (enDac h k) none else s
  let s := s.regBit .DAC_STATUS h k 14 (s.muted h k)
  if bit (s.reg .DAC_CTL h k) 0 then s else s.regBit .DAC_STATUS h k 15 false

/-! ### Disabling a resource (R114) -/

/-- Disabling a resource's queue: its commands are discarded and counted, its output goes to zero at the next row boundary,
and its run carries DISCARDED.  A pattern in play keeps its timing, unheard: R103 does not list the disable among its ends. -/
def State.disableQueue (s : State) (q : Nat) : State :=
  let rs := s.runOfQueue q
  let b := s.nextBoundary (qHalf q)
  let s := s.discardQueue q
  let s := { s with released := s.released.filter fun x => x.q ≠ q || x.cmd.act.osc, pulses := cutPulses s.pulses q b }
  let s := if (s.pattern q).active then s.modPattern q fun p => { p with mute := true } else s
  s.forEach rs fun s r => s.raiseRun r 0x15

/-- The queues of a DAC of one half. -/
def dacQueues (h k : Nat) : List Nat :=
  if k < 16 then (List.range 16).map fun i => 256 * h + 16 * k + i
  else (List.range 32).map fun i => 512 + 256 * h + 32 * (k - 16) + i

/-- Whether a slot of the DAC is assigned to an active run. -/
def State.dacInRun (s : State) (h k : Nat) : Bool := (dacQueues h k).any s.inRun

/-- The runs that have a slot of a DAC assigned. -/
def State.dacRuns (s : State) (h k : Nat) : List Nat := ((dacQueues h k).flatMap s.runOfQueue).eraseDups

/-- Enabling a resource sets TEST of its monitor to 0, and a monitor that was under test returns to INSIDE (R326, R327). -/
def State.testOff (s : State) (h m : Nat) : State :=
  if bits (s.reg .MON_CFG h m) 17 16 = 0 then s
  else (s.setReg .MON_CFG h m 0 (setBits (s.reg .MON_CFG h m) 17 16 0)).regBit .MON_STATUS h m 31 false

/-- A write to DAC_CTL (R189, R197, R198): MODE changes only while EN is 0; setting EN powers the converter; clearing it
disables the DAC and its slots.  The switch follows HOST and NOT_EN at the next row boundary (R192). -/
def State.wrDacCtl (s : State) (h k : Nat) (v : Word) : State :=
  let old := s.reg .DAC_CTL h k
  let en := bit v 0
  let was := bit old 0
  let modeOk := bit v 1 == bit old 1 || !was
  let s := if modeOk then s else s.count .DRV_IGNORED_WRITES h 0
  let s := s.setReg .DAC_CTL h k 0 ((if modeOk then v else setBit v 1 (bit old 1)) &&& 7)
  if en && !was then (s.testOff h k).enSet (enDac h k) (some (s.now h))
  else if was && !en then
    let s := (s.forEach (dacQueues h k) fun s q => s.disableQueue q).enSet (enDac h k) none
    if s.calDac h k then s.endCal h 0x02 else s
  else s

/-- DAC_READY: a powered converter has settled (R197). -/
def execDacReady (h : Half) (k : DacIx) (s : State) : Res :=
  .next (if bit (s.reg .DAC_CTL h k) 0 then (s.regBit .DAC_STATUS h k 15 true).enSet (enDac h k) none else s)

/-- DAC_NOT_READY: READY has not come within 50 µs of EN (R197). -/
def execDacNotReady (h : Half) (k : DacIx) (s : State) : Res :=
  .next (if bit (s.reg .DAC_CTL h k) 0 ∧ !bit (s.reg .DAC_STATUS h k) 15 ∧ s.enLate (enDac h k) (s.now h) then
      (s.enSet (enDac h k) none).occur h 0x084 { runs := s.dacRuns h k, parts := (s.ownDac h k).toList, block := some (3, k), opens := true }
    else s)

/-- MUTE_STUCK: the sense of a switch did not report closed within 4 rows of a closing cause (R207). -/
def execMuteStuck (h : Half) (k : DacIx) (s : State) : Res :=
  .next (if s.muted h k then s.occur h 0x085 { runs := s.dacRuns h k, parts := (s.ownDac h k).toList, block := some (3, k) } else s)

/-! ### Values that take effect at a later row (R185, R200) -/

/-- The value of a register in force in row r: the last change at or before it. -/
def State.delayed (s : State) (key r : Nat) (d : Word) : Word :=
  (mget [] s.delays key).foldl (fun a (e : Nat × Word) => if e.1 ≤ r then e.2 else a) d

/-- A register's new value is to take effect from row r on. -/
def State.delay (s : State) (key r : Nat) (v : Word) : State :=
  { s with delays := mset [] s.delays key ((mget [] s.delays key) ++ [(r, v)]) }

/-- A write to DAC_SCALE: it applies from ball row k + 28 on, k being the next row boundary (R185). -/
def State.wrDacScale (s : State) (h k : Nat) (v : Word) : State :=
  let w := v &&& 0xFFFF
  (s.setReg .DAC_SCALE h k 0 w).delay (Reg.DAC_SCALE.key h k 0) (s.row h + 1 + 28) w

/-- The slot of index i on a half is assigned to an active run (R206). -/
def State.slotInRun (s : State) (h i : Nat) : Bool := s.inRun (slotQ h i)

/-- A write to SLOT_CTL: MUTE from the next row boundary on (R200); RSTPH, refused within a run, sets T_R to that boundary and
P to 0 (R206). -/
def State.wrSlotCtl (s : State) (h i : Nat) (v : Word) : State :=
  let s := (s.setReg .SLOT_CTL h i 0 (v &&& 1)).delay (Reg.SLOT_CTL.key h i 0) (s.row h + 1) (v &&& 1)
  if bit v 1 then
    if s.slotInRun h i then s.count .DRV_IGNORED_WRITES h 0
    else
      let b := s.nextBoundary h
      s.oscSet (slotQ h i) b fun o => { o with p := 0, tref := t48 b }
  else s

/-- A committed write of F, or a write of P, to a slot (R206). -/
def State.wrSlotOsc (s : State) (h i : Nat) (f : Osc → Osc) : State :=
  if s.slotInRun h i then s.count .DRV_IGNORED_WRITES h 0 else s.oscSet (slotQ h i) (s.nextBoundary h) f

/-! ### The row of codes -/

/-- The envelope sample k of a pulse, I and Q in Q1.15 (R178); zero outside it and where it was not staged. -/
def State.envelope (s : State) (p : Pulse) (k : Int) : Int × Int :=
  if k < 0 ∨ (p.spec.length : Int) ≤ k then (0, 0)
  else
    let n := k.toNat
    let w : Word :=
      if p.spec.stream then p.taken.getD n 0
      else BitVec.ofNat 32 (ofLE (s.read .wave (qHalf p.q) (4 * (p.spec.addr + n)) 4))
    (sField w 15 0, sField w 31 16)

/-- The first sample from which a pulse contributes nothing. -/
def Pulse.silentFrom (p : Pulse) : Nat :=
  let a := match p.zeroFrom with | some z => min z p.stop | none => p.stop
  match p.cut with | some c => min c a | none => a

/-- What a slot contributes in a row: 32 values in Q1.17, whether an interpolator stage, mixing product or output saturated
(R171, R180 to R186).  A muted slot, and a pulse from the sample on from which it plays zero, form nothing that could saturate (log
84). -/
def State.slotRow (s : State) (q row : Nat) : List Int × Bool :=
  match s.pulses.find? fun p => p.q == q && p.live && decide (p.t < 32 * row + 32 ∧ 32 * row < p.silentFrom) with
  | none => ([], false)
  | some p =>
    let h := qHalf q
    if bit (s.delayed (Reg.SLOT_CTL.key h (qSlotIx q) 0) row 0) 0 then ([], false)
    else
      let g := p.spec.gauge
      let r0 := 32 * row
      let lo := max r0 p.t - p.t
      let hi := min (r0 + 32) p.silentFrom - p.t
      let yi := interp (fun k => (s.envelope p k).1) g lo (hi - lo)
      let yq := interp (fun k => (s.envelope p k).2) g lo (hi - lo)
      let stageSat := (List.range g).any fun i =>
        let m := i + 1
        let st := 2 ^ (g - m)
        let jlo := (lo + st - 1) / st
        let n := (hi - 1) / st + 1 - jlo
        (interp (fun k => (s.envelope p k).1) m jlo n).any (·.2) || (interp (fun k => (s.envelope p k).2) m jlo n).any (·.2)
      let l := s.oscs q
      let amp := p.spec.amp.toInt
      let xs := (List.range (hi - lo)).map fun i =>
        let t := p.t + lo + i
        slotSample (yi.getD i (0, false)).1 (yq.getD i (0, false)).1 ((oscAt l t).wave t) amp
      (List.replicate (p.t + lo - r0) 0 ++ xs.map (·.1) ++ List.replicate (r0 + 32 - (p.t + hi)) 0, stageSat || xs.any (·.2))

/-- A DAC's row: its 32 codes where a slot plays, and the saturations of the slots, of the sum and of the code (R185). -/
def State.dacRow (s : State) (h k row : Nat) : List Int × Bool × Bool × Bool :=
  let rows := (dacQueues h k).map fun q => s.slotRow q row
  let live := rows.filter fun r => !r.1.isEmpty
  if live.isEmpty then ([], false, false, false)
  else
    let scale := (s.delayed (Reg.DAC_SCALE.key h k 0) row 0x8000).toNat
    let ys := (List.range 32).map fun i => dacCode (live.foldl (fun a r => a + r.1.getD i 0) 0) scale
    (ys.map (·.1), live.any (·.2), ys.any (·.2.1), ys.any (·.2.2))

/-- The saturations of a row (R186): sticky flags, SAT_ROWS, DAC_SAT, SAT in the records of the runs concerned. -/
def State.dacSats (s : State) (h k row : Nat) (slot sum out : Bool) : State :=
  if slot || sum || out then
    let s := s.setReg .DAC_STATUS h k 0 (s.reg .DAC_STATUS h k ||| bitW slot 0 ||| bitW sum 1 ||| bitW out 2)
    let s := s.count .SAT_ROWS h k
    let s := s.forEach (s.dacRuns h k) fun s r => s.flagBall r (32 * row) 3
    s.occur h 0x080 { runs := s.dacRuns h k, parts := (s.ownDac h k).toList, block := some (3, k) }
  else s

/-- The ball row of a DAC that has just been played: its codes, its saturations, MUTED of the runs concerned (R195), and the
switch at the boundary (R194). -/
def State.playDac (s : State) (h k row : Nat) : State :=
  let r := s.dacRow h k row
  let s := { s with dacOut := mset [] s.dacOut (32 * h + k) (r.1.map (BitVec.ofInt 14)) }
  let s := s.forEach (dacQueues h k) fun s q =>
    if (s.slotRow q row).2 then s.regBit .SLOT_STATUS h (qSlotIx q) 0 true else s
  let s := s.dacSats h k row r.2.1 r.2.2.1 r.2.2.2
  if bit (s.reg .DAC_STATUS h k) 14 && bit (s.reg .DAC_CTL h k) 0 then
    s.forEach (s.dacRuns h k) fun s r => s.flagBall r (32 * row) 4
  else s

end Sys2Proof.Machine
end

