-- ==== Sys2Proof/Machine/Flux.lean ====
section
/-!
DEFINITION. Flux outputs: the codes that a row plays, ramps, range changes, parking, trips, compliance and the writes of the
FLX registers (R277 to R309).
-/
namespace Sys2Proof.Machine

/-! ### Calibration values in force -/

/-- The keys under which a half's calibration holds its targets: DACs 0–23, ADC cores 32–47, interleaved pairs 48–55, flux
channels 64–127. -/
def coreKey (r : Nat) : Nat := 32 + r
def pairKey (i : Nat) : Nat := 48 + i
def fluxKey (c : Nat) : Nat := 64 + c

/-- The defaults of R392 for a target: an ADC core's first comparators, otherwise the primary cells. -/
def trimDefault (key : Nat) : Trim :=
  if key < 32 then {} else if key < 64 then { cells := 0 } else { cells := 0x7FFFFFFF }

/-- The values in force for a target of a half. -/
def State.trim (s : State) (h key : Nat) : Trim := mget (trimDefault key) (s.calOf h).force key

/-- Change the values in force for a target. -/
def State.setTrim (s : State) (h key : Nat) (t : Trim) : State :=
  s.modCal h fun c => { c with force := mset (trimDefault key) c.force key t }

/-! ### Codes and trips -/

/-- The queue of a flux channel. -/
def fluxQ (f : Nat) : Nat := 1536 + f

/-- FLX_CTL of a channel by its global number. -/
def State.flxCtl (s : State) (f : Nat) : Word := s.reg .FLX_CTL (f / 64) (f % 64)

/-- The runs that have a flux channel assigned. -/
def State.fluxRuns (s : State) (f : Nat) : List Nat := s.runOfQueue (fluxQ f)

/-- A ramp at its n-th flux sample: the code, and whether it has reached its end (R291; a SLEW of 0 is 1, R292). -/
def Ramp.code (r : Ramp) (n : Nat) : Int × Bool :=
  let d := r.c1 - r.c0
  let step := (2 * n * max 1 r.slew * 32768 + 6250000 * r.gain) / (2 * 6250000 * r.gain)
  if d.natAbs ≤ step then (r.c1, true) else (r.c0 + (if d < 0 then -(step : Int) else (step : Int)), false)

/-- Whether the ramp in progress, or the one to begin, is a park ramp: from row boundary k of R296 on. -/
def FluxCh.held_ (c : FluxCh) : Bool :=
  let park (r : Option Ramp) : Bool := match r with | some x => x.kind == .park | none => false
  park c.ramp || park c.nextRamp

/-- Whether a park ramp is in progress or to come (R296, R307). -/
def FluxCh.parking (c : FluxCh) : Bool := c.parkNext.isSome || c.parkAfter || c.held_

/-- Whether a channel counts as in a range change (R295, R395). -/
def State.fluxChanging (s : State) (f : Nat) : Bool := (s.fluxCh f).phase != .none || s.calOn (f / 64) 5 f

/-- The trip input of a channel: its monitor, or its group's TRIP task input (R299, R421). -/
def State.tripInput (s : State) (f : Nat) : Bool :=
  let h := f / 64
  s.monTripped h (24 + f % 64) || bit (s.reg .TASK_SEL h (0x68 + f % 64 / 8)) 29

/-- The trip input asserts: the output is forced, the code in force being held for TRIP_ACT = 1 (R299). -/
def State.tripFlux (s : State) (f : Nat) : State :=
  if s.tripInput f && !(s.fluxCh f).tripped then
    s.modFlux f fun c => { c with tripped := true, held := c.code, heldRange := bit (s.flxCtl f) 2 }
  else s

/-- Whether both flux rails of a half are valid: RAILS of its channels (R304). -/
def State.fluxRails (s : State) (h : Nat) : Bool := bits (s.reg .PWR_STATUS h) 8 7 == 3

/-- Whether a channel drives its output: its rails are valid and EN is 1, or EN has been cleared and the row boundary of R306 is still
to come. -/
def State.fluxOn (s : State) (f : Nat) : Bool :=
  s.fluxRails (f / 64) && (bit (s.flxCtl f) 0 || (s.fluxCh f).zeroNext.isSome)

/-- Whether FLUX_NOT_READY has been raised since EN was set, and READY has not come since (R305). -/
def State.fluxFailed (s : State) (f : Nat) : Bool :=
  s.unready (enFlux f) (bit (s.flxCtl f) 0) (bit (s.reg .FLX_STATUS (f / 64) (f % 64)) 14)

/-- The code that a channel presents ahead of the trip override (R305, R313). -/
def State.fluxAhead (s : State) (f : Nat) : BitVec 16 := if s.fluxFailed f then 0 else (s.fluxCh f).code

/-- The code that the ball of a channel carries, and whether in range 1 (R299, R300, R305). -/
def State.fluxAt (s : State) (f : Nat) : BitVec 16 × Bool :=
  let c := s.fluxCh f
  let range := bit (s.flxCtl f) 2
  if !s.fluxFailed f && c.tripped then (if bit (s.flxCtl f) 3 then (c.held, c.heldRange) else (0, range))
  else (s.fluxAhead f, range)

/-- The code that the ball of a channel carries. -/
def State.fluxBall (s : State) (f : Nat) : BitVec 16 := (s.fluxAt f).1

/-- The current of a code in units of 2.5 mA / 32,768: c × G (R277). -/
def fluxCurrent (c : BitVec 16) (range : Bool) : Int := c.toInt * (if range then 2 else 1)

/-- The current at the ball of a channel, in the same units (R277, R299). -/
def State.fluxAmps (s : State) (f : Nat) : Int := fluxCurrent (s.fluxAt f).1 (s.fluxAt f).2

/-- What the converter of a channel receives for a ball code: the trims of its range act after the code (R277, R391). -/
def State.fluxConv (s : State) (f : Nat) (c : BitVec 16 × Bool) : BitVec 19 :=
  let t := s.trim (f / 64) (fluxKey (f % 64))
  let g := if c.2 then (t.gain1, t.ofs1) else (t.gain, t.ofs)
  BitVec.ofInt 19 (roundHalfUp (4 * c.1.toInt * g.1.toNat) 14 + g.2.toInt)

/-! ### The flux samples of a row -/

/-- The value a pulse gives at flux sample τ, with whether its product saturated; none where it holds (R279 to R284,
R309). -/
def State.fluxPulse (s : State) (p : Pulse) (τ : Nat) : Option (Int × Bool) :=
  match p.zeroFrom with
  | some z => if z ≤ τ then none else some (narrow 16 17 ((s.envelope p ((τ - p.t) / 8 / 2 ^ p.spec.gauge : Nat)).1 * p.spec.amp.toInt))
  | none => some (narrow 16 17 ((s.envelope p ((τ - p.t) / 8 / 2 ^ p.spec.gauge : Nat)).1 * p.spec.amp.toInt))

/-- The pulse that plays on a channel at flux sample τ. -/
def State.pulseAt (s : State) (f τ : Nat) : Option Pulse :=
  s.pulses.find? fun p => p.q == fluxQ f && p.live && decide (p.t ≤ τ ∧ τ < p.silentFrom)

/-- Level writes at flux sample τ: in bias mode to the pending code, in pulse mode to the output code (R283, R285, R307). -/
def FluxCh.level (c : FluxCh) (bias : Bool) (τ : Nat) : FluxCh :=
  let due := c.writes.filter fun w => decide (w.1 ≤ τ)
  let c := { c with writes := c.writes.filter fun w => !decide (w.1 ≤ τ) }
  due.foldl (fun c w => if bias then { c with pending := w.2 } else { c with code := w.2 }) c

/-- The ramp of a channel at flux sample τ: a ramp to come starts from the code then presented (R291, R292); during a park
ramp the pending code follows the output (R296). -/
def FluxCh.ramped (c : FluxCh) (τ : Nat) : FluxCh :=
  let c := match c.nextRamp with
    | some r => if r.start ≤ τ then { c with ramp := some { r with c0 := c.code.toInt }, nextRamp := none } else c
    | none => c
  match c.ramp with
  | some r =>
    let v := BitVec.ofInt 16 (r.code ((τ - r.start) / 8 + 1)).1
    { c with code := v, pending := if r.kind = .park then v else c.pending }
  | none => c

/-- One flux sample of a channel: level writes, then a strobe, then a pulse, then a ramp; whether a pulse product saturated.  From the
boundary k of R296 on only the park ramp changes the code. -/
def State.fluxStep (s : State) (f τ : Nat) (strobed : Bool) : FluxCh × Bool :=
  let bias := bit (s.flxCtl f) 1
  if (s.fluxCh f).held_ then ((s.fluxCh f).ramped τ, false)
  else
  let c := (s.fluxCh f).level bias τ
  let c := if strobed && bias && !s.fluxChanging f && !c.parking then { c with code := c.pending } else c
  let pv := if bias then none else (s.pulseAt f τ).bind fun p => s.fluxPulse p τ
  let c := match pv with | some v => { c with code := BitVec.ofInt 16 v.1 } | none => c
  (c.ramped τ, match pv with | some v => v.2 | none => false)

/-- One flux sample of a channel takes place; PARKED clears when a command or write changes the output (R310). -/
def State.playFluxSample (s : State) (f τ : Nat) (strobed : Bool) : State × Bool :=
  let r := s.fluxStep f τ strobed
  let before := (s.fluxCh f).code
  let s := s.modFlux f fun _ => r.1
  let s := { s with fluxOut := mmod [] s.fluxOut f fun l => l ++ [s.fluxConv f (s.fluxAt f)] }
  let park := match r.1.ramp with | some x => x.kind == .park | none => false
  (if !park && r.1.code != before then s.regBit .FLX_STATUS (f / 64) (f % 64) 10 false else s, r.2)

/-- The four flux samples of row `row` of a channel that drives its output (R278); a saturation during a row counts once (R281);
MUTED while the trip holds (R300). -/
def State.playFlux (s : State) (f row : Nat) : State :=
  let h := f / 64
  let s := { s with fluxOut := mset [] s.fluxOut f [] }
  let s := if (s.fluxCh f).tripped then s.forEach (s.fluxRuns f) fun s r => s.flagBall r (32 * row) 4 else s
  if !s.fluxOn f then s
  else
    let r := (List.range 4).foldl (fun (a : State × Bool) j =>
      let τ := 32 * row + 8 * j
      let st := a.1.strobes.any fun x => decide (x.group = f / 8 ∧ x.t / 8 * 8 ≤ τ ∧ 32 * row ≤ x.t) && decide (τ < x.t + 8)
      let x := a.1.playFluxSample f τ st
      (x.1, a.2 || x.2)) (s, false)
    let s := r.1
    if r.2 then
        let s := s.regBit .FLX_STATUS h (f % 64) 2 true
        let s := s.forEach (s.fluxRuns f) fun s r => s.flagBall r (32 * row) 3
        s.occur h 0x0C1 { runs := s.fluxRuns f, parts := (s.ownQueue (fluxQ f)).toList }
    else s

/-- The strobes of a half's row have taken place: those of one group at one flux sample count once (R287). -/
def State.countStrobes (s : State) (h row : Nat) : State :=
  let due := (s.strobes.filter fun x => decide (x.group / 8 = h ∧ x.t < 32 * row + 32)).eraseDups
  let s := { s with strobes := s.strobes.filter fun x => !decide (x.group / 8 = h ∧ x.t < 32 * row + 32) }
  s.forEach due fun s x => s.count .FG_COUNT h (x.group % 8)

/-- What a row boundary at sample time b brings to a flux channel: a step to zero (R113, R306), the pending code of R289, a MODE or RANGE
change (R293, R308), the cut and the ramp of a park (R296), which a range change begun in the same row puts off to its end (R297), the
release of a trip (R300). -/
def State.fluxEdge (s : State) (f b : Nat) : State :=
  let h := f / 64
  let c := s.fluxCh f
  let reached (o : Option Nat) : Bool := match o with | some x => decide (x ≤ b) | none => false
  let s := if reached c.zeroNext then
      let s := if c.code = 0 then s else s.regBit .FLX_STATUS h (f % 64) 10 false
      s.modFlux f fun c =>
        { c with code := 0, pending := 0, writes := [], ramp := none, nextRamp := none, zeroNext := none, parkNext := none, parkAfter := false }
    else s
  let s := if c.sync then s.modFlux f fun c => { c with pending := c.code, sync := false } else s
  let s : State := match c.modeNext with
    | some m => (s.regBit .FLX_CTL h (f % 64) 1 m).modFlux f fun c => { c with modeNext := none, pending := c.code }
    | none => s
  let s : State := match c.rangeNext with
    | some m => (s.regBit .FLX_CTL h (f % 64) 2 m).modFlux f fun c => { c with rangeNext := none }
    | none => s
  let s := if reached (s.fluxCh f).parkNext then
      let g := if bit (s.flxCtl f) 2 then 2 else 1
      let r : Ramp := ⟨.park, 0, (BitVec.ofNat 16 (s.reg .FLX_PARK h (f % 64)).toNat).toInt, c.parkNext.getD b + 640,
        (s.reg .FLX_SLEW h (f % 64)).toNat, g⟩
      { s with pulses := cutPulses s.pulses (fluxQ f) (c.parkNext.getD b) }.modFlux f fun c =>
        if c.phase = RangePhase.rampDown then { c with parkNext := none, parkAfter := true }
        else { c with parkNext := none, ramp := none, writes := [], nextRamp := some r }
    else s
  if (s.fluxCh f).tripped && !s.tripInput f then s.modFlux f fun c => { c with tripped := false } else s

/-! ### Ramps and range changes -/

/-- The row boundary after the last sample of a ramp (R294, R296, R297, R397).  After RAMP_DOWN the gain switches and
WAIT begins; after RAMP_UP the change is over; after a park ramp the channel is PARKED, and a range change accepted meanwhile goes on. -/
def State.rampEnd (s : State) (f : Nat) : State :=
  let h := f / 64
  let c := s.fluxCh f
  match c.ramp with
  | none => s
  | some r =>
    if r.start < s.now h ∧ (r.code ((s.now h - r.start + 7) / 8)).2 then
      match r.kind with
      | .rangeDown =>
        (s.regBit .FLX_CTL h (f % 64) 2 c.newRange).modFlux f fun c =>
          { c with code := 0, ramp := none, phase := .wait, waitEnd := s.now h + 32 * 1250 }
      | .rangeUp =>
        s.modFlux f fun c => { c with code := BitVec.ofInt 16 r.c1, pending := BitVec.ofInt 16 r.c1, ramp := none, phase := .none }
      | .cal =>
        match c.calSeq with
        | [] => s.modFlux f fun c => { c with code := BitVec.ofInt 16 r.c1, ramp := none }
        | k :: ks =>
          s.modFlux f fun c =>
            { c with code := BitVec.ofInt 16 r.c1, ramp := none, calSeq := ks, nextRamp := some { r with c1 := k, start := s.nextBoundary h + 640 } }
      | .park =>
        (s.regBit .FLX_STATUS h (f % 64) 10 true).modFlux f fun c =>
          { c with code := BitVec.ofInt 16 r.c1, pending := BitVec.ofInt 16 r.c1, ramp := none,
                   phase := if c.phase = .rampDown then .rampDown else .none, parkAfter := c.parkAfter && c.phase == .rampDown }
    else s

/-- FLUX_RAMP_END. -/
def execFluxRampEnd (f : FluxIx) (s : State) : Res := .next (s.rampEnd f)

/-- The 1,250 rows of WAIT are over and RAMP_UP begins, to FLX_RANGE_TGT or, after a quiet-mode entry, to
FLX_PARK (R294, R297). -/
def State.rangeUp (s : State) (f : Nat) : State :=
  let h := f / 64
  let i := f % 64
  let c := s.fluxCh f
  if c.phase = .wait ∧ c.waitEnd ≤ s.now h then
    let g := if bit (s.flxCtl f) 2 then 2 else 1
    let v (r : Reg) : Int := (BitVec.ofNat 16 (s.reg r h i).toNat).toInt
    let r : Ramp := if c.parkAfter then ⟨.park, 0, v .FLX_PARK, c.waitEnd, (s.reg .FLX_SLEW h i).toNat, g⟩
      else ⟨.rangeUp, 0, v .FLX_RANGE_TGT, c.waitEnd, (s.reg .FLX_SLEW h i).toNat, g⟩
    s.modFlux f fun c => { c with phase := .rampUp, nextRamp := some r, parkAfter := false }
  else s

/-- RANGE_WAIT_END. -/
def execRangeWaitEnd (f : FluxIx) (s : State) : Res := .next (s.rangeUp f)

/-! ### Writes of the FLX registers -/

/-- A write is ignored and counted (R286, R293, R295, R307, R308). -/
def State.flxIgnored (s : State) (h : Nat) : State := s.count .FLX_IGNORED_WRITES h 0

/-- The conditions of R307 on a channel: EN, no range change or park ramp, not in an active run. -/
def State.fluxFree (s : State) (f : Nat) : Bool :=
  !s.fluxChanging f && !(s.fluxCh f).parking && !s.inRun (fluxQ f)

/-- Clearing EN of a channel: the output goes on for the row in progress and steps to zero at its end (R114, R306). -/
def State.fluxDisable (s : State) (f : Nat) : State :=
  let h := f / 64
  let b := s.nextBoundary h
  let s := (s.disableQueue (fluxQ f)).modFlux f fun c =>
    { c with writes := c.writes.filter fun w => decide (w.1 < b), zeroNext := some b, parkNext := none, parkAfter := false }
  let s := (s.regBit .FLX_STATUS h (f % 64) 14 false).enSet (enFlux f) none
  if s.calOn h 5 f then (s.endCal h 0x02).modFlux f fun c => { c with calSeq := [], ramp := none, nextRamp := none } else s

/-- A write to FLX_CTL (R293, R295, R305, R306, R308); one that clears EN during a calibration routine ends it (R398). -/
def State.wrFlxCtl (s : State) (f : Nat) (v : Word) : State :=
  let h := f / 64
  let i := f % 64
  let old := s.flxCtl f
  let en0 := bit old 0
  let en1 := bit v 0
  let c := s.fluxCh f
  if s.fluxChanging f && !(en0 && !en1 && c.phase == .none) then s.flxIgnored h
  else
    let modeCh := bit v 1 != bit old 1
    let rangeCh := bit v 2 != bit old 2
    let modeOk := s.fluxFree f
    let rangeOk := !(en0 && en1) || !s.inRun (fluxQ f)
    let s := if (modeCh && !modeOk) || (rangeCh && !rangeOk) then s.flxIgnored h else s
    let modeCh := modeCh && modeOk
    let rangeCh := rangeCh && rangeOk
    let s := if !en0 && en1 then (s.testOff h (24 + i)).enSet (enFlux f) (some (s.now h)) else s
    let w := setBit (setBit old 0 en1) 3 (bit v 3)
    let now := !en0
    let w := if modeCh && now then setBit w 1 (bit v 1) else w
    let w := if rangeCh && now then setBit w 2 (bit v 2) else w
    let s := s.setReg .FLX_CTL h i 0 w
    let s := if en0 && !en1 then s.fluxDisable f else s
    let s := if modeCh then
        s.modFlux f fun c => if now then { c with pending := c.code } else { c with modeNext := some (bit v 1) }
      else s
    if rangeCh && en0 then
      if en1 then
        let g := if bit old 2 then 2 else 1
        s.modFlux f fun c =>
          { c with phase := .rampDown, newRange := bit v 2,
                   nextRamp := some ⟨.rangeDown, 0, 0, s.nextBoundary h + 640, (s.reg .FLX_SLEW h i).toNat, g⟩ }
      else s.modFlux f fun c => { c with rangeNext := some (bit v 2) }
    else s

/-- A write to FLX_LEVEL (R295, R307). -/
def State.wrFlxLevel (s : State) (f : Nat) (v : Word) : State :=
  let h := f / 64
  if bit (s.flxCtl f) 0 && s.fluxFree f then s.levelAt f (s.nextBoundary h + 640) (BitVec.ofNat 16 v.toNat)
  else s.flxIgnored h

/-- A write to FLX_SLEW or FLX_RANGE_TGT, refused during a range change (R295). -/
def State.wrFlxGuarded (s : State) (r : Reg) (f : Nat) (v : Word) : State :=
  if s.fluxChanging f then s.flxIgnored (f / 64) else s.setReg r (f / 64) (f % 64) 0 (v &&& 0xFFFF)

/-- A write to FG_STROBE of group g (R286). -/
def State.wrFgStrobe (s : State) (g : Nat) (v : Word) : State :=
  if !bit v 0 then s
  else if (List.range 8).any fun i => s.inRun (fluxQ (8 * g + i)) then s.flxIgnored (g / 8)
  else { s with strobes := s.strobes ++ [⟨g, s.nextBoundary (g / 8) + 640⟩] }

/-! ### Readiness and compliance -/

/-- FLUX_READY: the datapath of an enabled channel is powered and settled (R305). -/
def execFluxReady (f : FluxIx) (s : State) : Res :=
  .next (if bit (s.flxCtl f) 0 ∧ s.fluxRails (f.val / 64) then
      (s.regBit .FLX_STATUS (f.val / 64) (f.val % 64) 14 true).enSet (enFlux f) none
    else s)

/-- FLUX_NOT_READY: READY has not come within 50 µs of EN (R305). -/
def execFluxNotReady (f : FluxIx) (s : State) : Res :=
  .next (if bit (s.flxCtl f) 0 ∧ !bit (s.reg .FLX_STATUS (f.val / 64) (f.val % 64)) 14 ∧ s.enLate (enFlux f) (s.now (f.val / 64)) then
      (s.enSet (enFlux f) none).occur (f.val / 64) 0x0C3 { runs := s.fluxRuns f, parts := (s.ownQueue (fluxQ f)).toList }
    else s)

/-- Whether the compliance detector of a channel can assert: a current is commanded, and of at least 20 µA where the load is open (R301,
R303). -/
def State.complyCan (s : State) (f : Nat) (openLoad : Bool) : Bool :=
  let a := (s.fluxAmps f).natAbs
  if openLoad then decide (20 * 32768 ≤ a * 2500) else decide (a ≠ 0)

/-- COMPLY_ASSERT (R301 to R303). -/
def execComplyAssert (f : FluxIx) (openLoad : Bool) (s : State) : Res :=
  let h := f.val / 64
  let i := f.val % 64
  .next (if bit (s.reg .FLX_STATUS h i) 1 ∨ !s.complyCan f openLoad then s
    else
      let s := s.setReg .FLX_STATUS h i 0 (s.reg .FLX_STATUS h i ||| 3)
      let s := s.count .COMPLY_COUNT h i
      let s := s.forEach (s.fluxRuns f) fun s r => s.flagBall r (s.now h) 6
      s.occur h 0x0C0 { runs := s.fluxRuns f, parts := (s.ownQueue (fluxQ f)).toList })

/-- COMPLY_DEASSERT (R301, R302). -/
def execComplyDeassert (f : FluxIx) (s : State) : Res :=
  .next (s.regBit .FLX_STATUS (f.val / 64) (f.val % 64) 1 false)

end Sys2Proof.Machine
end

