-- ==== Sys2Proof/Machine/Monitors.lean ====
section
/-!
DEFINITION. Window monitors: ticks, trips, blanking, and the writes of the MON registers (R313 to R327, R335, R336).  A monitor is
named by its half and local index.
-/
namespace Sys2Proof.Machine

/-- The half and local index of a monitor (R38). -/
abbrev monHalf (m : MonIx) : Nat := m.val / 96
abbrev monLocal (m : MonIx) : Nat := m.val % 96

/-- The partition that owns a monitor (R314). -/
def State.ownMon (s : State) (h m : Nat) : Option Nat :=
  if m < 24 then s.ownDac h m else if m < 88 then s.ownFluxGroup (8 * h + (m - 24) / 8) else s.ownPair (8 * h + (m - 88))

/-- The channels' queues of an input. -/
def inQueues (i : Nat) : List Nat := (List.range 32).map fun c => 1024 + 32 * i + c

/-- The runs that the watched resource is assigned to (R577). -/
def State.monRuns (s : State) (h m : Nat) : List Nat :=
  if m < 24 then s.dacRuns h m
  else if m < 88 then s.fluxRuns (64 * h + (m - 24))
  else ((inQueues (8 * h + (m - 88))).flatMap s.runOfQueue).eraseDups

/-- Whether the watched resource is enabled (R326). -/
def State.monWatchedOn (s : State) (h m : Nat) : Bool :=
  if m < 24 then bit (s.reg .DAC_CTL h m) 0 else if m < 88 then bit (s.reg .FLX_CTL h (m - 24)) 0 else bit (s.reg .IN_CTL h (m - 88)) 0

/-- A 16-bit threshold with bits [5:0] zero, signed (R316). -/
def th16 (w : Word) (hi lo : Nat) : Int := sField (w &&& ~~~ BitVec.ofNat 32 (63 * 2 ^ lo)) hi lo

/-- What a tick makes of v: above TH_HI, below TH_LO, outside, inside the inner window (R316, R326). -/
structure Tick where
  hi : Bool
  lo : Bool
  inside : Bool
deriving DecidableEq, Repr

/-- The comparison of a tick under MON_TH, MON_HYST and TEST. -/
def State.tick (s : State) (h m : Nat) (v : Int) : Tick :=
  let th := s.reg .MON_TH h m
  let thi := th16 th 31 16
  let tlo := th16 th 15 0
  let hyst : Int := (bits (s.reg .MON_HYST h m) 15 6 * 64 : Nat)
  let test := bits (s.reg .MON_CFG h m) 17 16
  let v : Int := if test = 2 then (if 24 ≤ m ∧ m < 88 then -32768 else 0) else if test = 3 then 32767 else v
  if test = 1 then ⟨decide (v < thi), decide (tlo < v), false⟩
  else ⟨decide (thi < v), decide (v < tlo), decide (tlo + hyst ≤ v) && decide (v ≤ thi - hyst)⟩

/-- Entry to TRIPPED (R320, R327): the trip output acts on the DAC's switch or the flux output; outside self-test MON_TRIP is
counted, fired and raised. -/
def State.trip (s : State) (h m : Nat) : State :=
  let test := bits (s.reg .MON_CFG h m) 17 16 != 0
  let s := s.setReg .MON_STATUS h m 0 (s.reg .MON_STATUS h m ||| 0x80000001)
  let s := s.setPair .TRIP_T_LO .TRIP_T_HI h m (if bit (s.reg .CLK_STATUS h) 3 then s.nextBoundary h else 0)
  let s := if m < 24 then s.closeSwitch h m else if m < 88 then s.tripFlux (64 * h + (m - 24)) else s
  if test then s
  else
    let s := s.count .TRIP_COUNT h m
    let s := s.fireProducer h (0x200 + m) 0 (s.row h)
    s.occur h 0x0E0 { runs := s.monRuns h m, parts := (s.ownMon h m).toList }

/-- A monitor returns to INSIDE and its trip output deasserts (R317, R320). -/
def State.monInside (s : State) (h m : Nat) : State := s.regBit .MON_STATUS h m 31 false

/-- The peak of a DAC's last row in units of v: code 8,191 is 32,767 (R313). -/
def State.dacPeak (s : State) (h k : Nat) : Nat :=
  min 32767 (4 * (mget [] s.dacOut (32 * h + k)).foldl (fun a c => max a c.toInt.natAbs) 0)

/-- Whether the quantity that a monitor measures can be v: what the converter put out in the row just finished, ahead of the mute
switch and the trip override, within the accuracy of R338 (3 % of full scale of a DAC, 0.5 % of a flux output); of a readout input's
analogue quantity only that it is a magnitude (R313; log 85). -/
def State.monSees (s : State) (h m : Nat) (v : Int) : Bool :=
  if m < 24 then decide (0 ≤ v) && decide ((v - s.dacPeak h m).natAbs ≤ 983)
  else if m < 88 then decide ((v - (s.fluxAhead (64 * h + (m - 24))).toInt).natAbs ≤ 164)
  else decide (0 ≤ v)

/-- MON_TICK: the comparators of an enabled monitor decide on the value v at their inputs (R313 to R320, R325). -/
def execMonTick (m : MonIx) (v : BitVec 16) (s : State) : Res :=
  let h := monHalf m
  let i := monLocal m
  let cfg := s.reg .MON_CFG h i
  .next (if !bit cfg 0 || !s.monSees h i v.toInt then s
    else
      let k := s.tick h i v.toInt
      let comply := decide (24 ≤ i ∧ i < 88) && bit cfg 4 && bit (s.reg .FLX_STATUS h (i - 24)) 1
      let outside := k.hi || k.lo || comply
      let st := s.reg .MON_STATUS h i
      let s := s.setReg .MON_STATUS h i 0 (setBit (setBit st 2 k.hi) 1 k.lo)
      if outside then (if bit st 31 || bit st 30 then s else s.trip h i)
      else if bit st 31 && bit cfg 3 && k.inside then s.monInside h i
      else s)

/-! ### Blanking -/

/-- BLANK_START: a start under way to the monitor registers (R324); LEN 0 disables blanking. -/
def execBlankStart (m : MonIx) (s : State) : Res :=
  let h := monHalf m
  let i := monLocal m
  .next (if s.blanks.contains m.val then
      let s := { s with blanks := s.blanks.erase m.val }
      if bit (s.reg .MON_CFG h i) 0 && bits (s.reg .MON_BLANK h i) 15 0 != 0 then s.regBit .MON_STATUS h i 30 true else s
    else s)

/-- BLANK_END: LEN × 100 ns after the start (R324). -/
def execBlankEnd (m : MonIx) (s : State) : Res := .next (s.regBit .MON_STATUS (monHalf m) (monLocal m) 30 false)

/-! ### Writes of the MON registers -/

/-- A write to MON_CFG (R323, R326, R327, R336). -/
def State.wrMonCfg (s : State) (h m : Nat) (v : Word) : State :=
  let old := s.reg .MON_CFG h m
  if bit old 2 then s.count .MON_IGNORED_WRITES h 0
  else
    let bad := bits v 17 16 != 0 && s.monWatchedOn h m
    let s := if bad then s.count .MON_IGNORED_WRITES h 0 else s
    let v := if bad then setBits v 17 16 (bits old 17 16) else v
    let v := v &&& (if 24 ≤ m ∧ m < 88 then 0xFF03001D else 0xFF03000D)
    let s := s.setReg .MON_CFG h m 0 v
    let s := if bits old 17 16 ≠ 0 ∧ bits v 17 16 = 0 then s.monInside h m else s
    if bit v 0 then s
    else
      let s := { s with blanks := s.blanks.filter fun x => x != 96 * h + m }
      s.setReg .MON_STATUS h m 0 (setBit (setBit (s.reg .MON_STATUS h m) 31 false) 30 false)

/-- A write to MON_TH, MON_HYST or MON_BLANK (R319, R336). -/
def State.wrMonPlain (s : State) (r : Reg) (h m : Nat) (v : Word) : State :=
  if bit (s.reg .MON_CFG h m) 2 then s.count .MON_IGNORED_WRITES h 0 else s.setReg r h m 0 (v &&& r.info.rw)

/-- A write to MON_STATUS: CLR and the sticky EVER (R317). -/
def State.wrMonStatus (s : State) (h m : Nat) (v : Word) : State :=
  let s := if bit v 8 then s.monInside h m else s
  if bit v 0 then s.regBit .MON_STATUS h m 0 false else s

end Sys2Proof.Machine
end

