-- ==== Sys2Proof/Machine/Adc.lean ====
section
/-!
DEFINITION. Readout inputs: the trimmed samples of a row, over-range, and the baseband of a channel (R209 to R214, R229, R240,
R390).
-/
namespace Sys2Proof.Machine

/-! ### The samples of a row -/

/-- A code through its core's trim: x of R390, and whether the sample is over-range (R210). -/
def trimCode (t : Trim) (code : BitVec 12) : BitVec 16 × Bool :=
  let y := roundHalfUp ((16 * code.toInt - t.ofs.toInt) * t.gain.toNat) 14
  let x := clampS 16 y
  (BitVec.ofInt 16 x, decide (x ≠ y) || decide (code.toInt = -2048) || decide (code.toInt = 2047))

/-- A row of 32 codes of an input: even samples through core 2i, odd ones through core 2i + 1 (R209). -/
def State.adcRow (s : State) (i row : Nat) (codes : List (BitVec 12)) : AdcRow :=
  let h := i / 8
  let even := s.trim h (coreKey (2 * (i % 8)))
  let odd := s.trim h (coreKey (2 * (i % 8) + 1))
  let xs := (List.range 32).map fun j => trimCode (if j % 2 = 0 then even else odd) (codes.getD j 0)
  { row := row, x := xs.map (·.1), ovr := xs.any (·.2), ready := bit (s.reg .IN_STATUS h (i % 8)) 15 }

/-- The ball rows of an input that the model still holds. -/
def State.adcRows (s : State) (i : Nat) : List AdcRow := mget [] s.adc i

/-- The trimmed sample x[n] of an input; zero where the input was not powered. -/
def State.adcAt (s : State) (i n : Nat) : Int :=
  match (s.adcRows i).find? fun r => r.row == n / 32 with
  | some r => (r.x.getD (n % 32) 0).toInt
  | none => 0

/-- Whether one of a row and the two rows before it was an over-range row of the input (R230). -/
def State.overAt (s : State) (i row : Nat) : Bool :=
  (s.adcRows i).any fun r => r.ovr && decide (r.row ≤ row ∧ row ≤ r.row + 2)

/-! ### Baseband -/

/-- Baseband samples b[lo], …, b[lo + n − 1] of a channel, real and imaginary parts in Q2.16 (R212 to R214). -/
def State.bband (s : State) (c lo n : Nat) : List (Int × Int) :=
  let l := s.oscs (1024 + c)
  let z (k : Int) : Int × Int := if k < 0 then (0, 0) else downconvert (s.adcAt (c / 32) k.toNat) ((oscAt l k.toNat).wave k.toNat)
  (baseband (fun k => (z k).1) lo n).zip (baseband (fun k => (z k).2) lo n)

/-- The integer part of a square root, by `n` binary digits. -/
def isqrt : Nat → Nat → Nat
  | 0, _ => 0
  | n + 1, x =>
    let r := 2 * isqrt n (x / 4)
    if (r + 1) * (r + 1) ≤ x then r + 1 else r

end Sys2Proof.Machine
end

