-- ==== Sys2Proof/Machine/Capture.lean ====
section
/-!
DEFINITION. Swatch capture: stream samples, triggers, records, entries, gaps and the end of a swatch; the event recorder (R339
to R361).  An engine is named by its global number 0 to 3.
-/
namespace Sys2Proof.Machine

def State.cap (s : State) (e : Nat) : CapEng := mget {} s.caps e
def State.modCap (s : State) (e : Nat) (f : CapEng → CapEng) : State := { s with caps := mmod {} s.caps e f }

/-- A capture register of an engine. -/
def State.capReg (s : State) (r : Reg) (e : Nat) : Word := s.reg r (e / 2) (e % 2)

/-- The source of an engine: 0 baseband, 1 auxiliary, 2 recorder. -/
def State.capSrc (s : State) (e : Nat) : Nat := bits (s.capReg .CAP_CTL e) 31 30

/-- The global channel of a baseband swatch. -/
def State.capChan (s : State) (e : Nat) : Nat := 256 * (e / 2) + bits (s.capReg .CAP_CTL e) 7 0

/-! ### The event recorder (R360) -/

/-- The level of a recorder signal code on a half; a code outside the table is constant 0. -/
def State.recSignal (s : State) (h code : Nat) : Bool :=
  if 0x008 ≤ code ∧ code < 0x010 then bit s.pins (8 * h + (code - 0x008))
  else if 0x010 ≤ code ∧ code < 0x018 then (s.marker (8 * h + (code - 0x010))).level
  else if 0x100 ≤ code ∧ code < 0x160 then s.monTripped h (code - 0x100)
  else if 0x200 ≤ code ∧ code < 0x400 then mget false s.evTog (512 * h + (code - 0x200))
  else if 0x400 ≤ code ∧ code < 0x418 then bit (s.reg .DAC_STATUS h (code - 0x400)) 14
  else if 0x500 ≤ code ∧ code < 0x540 then s.tripInput (64 * h + (code - 0x500))
  else false

/-- The owner of a recorder signal's resource: none for a constant. -/
def State.recOwner (s : State) (h code : Nat) : Option (Option Nat) :=
  if 0x008 ≤ code ∧ code < 0x010 then some (s.ownTrig (8 * h + (code - 0x008)))
  else if 0x010 ≤ code ∧ code < 0x018 then some (s.ownMark (8 * h + (code - 0x010)))
  else if 0x100 ≤ code ∧ code < 0x160 then some (s.ownMon h (code - 0x100))
  else if 0x200 ≤ code ∧ code < 0x400 then some (s.ownEvent (512 * h + (code - 0x200)))
  else if 0x400 ≤ code ∧ code < 0x418 then some (s.ownDac h (code - 0x400))
  else if 0x500 ≤ code ∧ code < 0x540 then some (s.ownFluxGroup (8 * h + (code - 0x500) / 8))
  else none

/-- The code selected for signal j of an engine. -/
def State.recSel (s : State) (e j : Nat) : Nat := bits (s.reg .REC_SEL (e / 2) (e % 2) j) 11 0

/-- The 64 signals of an engine. -/
def State.recWord (s : State) (e : Nat) : Word64 :=
  BitVec.ofNat 64 ((List.range 64).foldl (fun a j => if s.recSignal (e / 2) (s.recSel e j) then a + 2 ^ j else a) 0)

/-! ### Crossings (R345, R346) -/

/-- Whether a step from x' to x crosses L in direction SLOPE. -/
def crosses (slope : Nat) (l x' x : Int) : Bool :=
  let up := decide (x' < l ∧ l ≤ x)
  let down := decide (x' ≥ l ∧ l > x)
  match slope with
  | 0 => up
  | 1 => down
  | _ => up || down

/-- The time of a crossing in 1/256 sample; the fraction f lies from 1 to 256. -/
def crossTime (l x' x : Int) (t' t : Nat) : Nat :=
  let num := (256 * (l - x')).natAbs
  let den := (x - x').natAbs
  256 * t' + (t - t') * max 1 ((2 * num + den) / (2 * den))

/-- The recorder's crossing: a masked bit changes in direction SLOPE. -/
def wordCrosses (slope : Nat) (mask old new : Word64) : Bool :=
  let up := mask &&& new &&& ~~~ old != 0
  let down := mask &&& old &&& ~~~ new != 0
  match slope with
  | 0 => up
  | 1 => down
  | _ => up || down

/-! ### Stream samples (R342) -/

/-- A stream sample of quantity x joins an engine's work, with its crossing. -/
def State.capSample (s : State) (e t : Nat) (item : Option (List Byte)) (x : Option Int) (sat : Bool) : State :=
  let l := (BitVec.ofNat 16 (s.capReg .CAP_LEVEL e).toNat).toInt
  let slope := bits (s.capReg .CAP_TRIG e) 28 27
  s.modCap e fun c =>
    let cross := match x, c.prev with
      | some x, some p => if crosses slope l p.1 x then some (crossTime l p.1 x p.2 t) else none
      | _, _ => none
    { c with work := c.work ++ [⟨c.next, t, item, x, sat, cross⟩], next := c.next + 1,
             prev := match x with | some x => some (x, t) | none => c.prev }

/-- One baseband sample b joins the decimator of an engine; a full sum gives a stream sample. -/
def State.capBase (s : State) (e : Nat) (b : Int × Int) : State :=
  let dec := bits (s.capReg .CAP_CTL e) 19 16
  let c := s.cap e
  let i := c.accI + b.1
  let q := c.accQ + b.2
  if c.accN + 1 < 2 ^ dec then s.modCap e fun c => { c with nextM := c.nextM + 1, accN := c.accN + 1, accI := i, accQ := q }
  else
    let re := narrow 16 (dec + 2) i
    let im := narrow 16 (dec + 2) q
    let t := 8 * (c.nextM + 1 - 2 ^ dec)
    let comp := bit (s.capReg .CAP_CTL e) 15
    let item := leBytes 2 (BitVec.ofInt 16 re.1).toNat ++ leBytes 2 (BitVec.ofInt 16 im.1).toNat
    (s.modCap e fun c => { c with nextM := c.nextM + 1, accN := 0, accI := 0, accQ := 0 }).capSample e t (some item)
      (some (if comp then im.1 else re.1)) (re.2 || im.2)

/-- The stream samples that the row just finished gives an open engine. -/
def State.capRow (s : State) (e row : Nat) : State :=
  let c := s.cap e
  if c.st ≠ .opened then s
  else
    match s.capSrc e with
    | 0 =>
      let n := (32 * row + 31 - 61) / 8 + 1 - c.nextM
      (s.bband (s.capChan e) c.nextM n).foldl (fun s b => s.capBase e b) s
    | 2 =>
      if c.ks.getD 0 ≤ row then
        let w := s.recWord e
        let t := 32 * row
        let mask := BitVec.ofNat 64 (s.pair .TRIG_MASK_LO .TRIG_MASK_HI (e / 2) (e % 2))
        let slope := bits (s.capReg .CAP_TRIG e) 28 27
        let item := if c.prevWord = some w then none else some (leBytes 8 t ++ leBytes 8 w.toNat)
        let cross := match c.prevWord with
          | some o => if wordCrosses slope mask o w then some (256 * t) else none
          | none => none
        s.modCap e fun c => { c with work := c.work ++ [⟨c.next, t, item, none, false, cross⟩], next := c.next + 1, prevWord := some w }
      else s
    | _ => s

/-- An auxiliary conversion joins the open engines of its half that stream the scans. -/
def State.capConv (s : State) (h ch row : Nat) (code : BitVec 16) (ovr : Bool) : State :=
  s.forEach [2 * h, 2 * h + 1] fun s e =>
    let c := s.cap e
    if c.st = .opened ∧ s.capSrc e = 1 ∧ c.ks.getD 0 ≤ row then
      let item := leBytes 8 (32 * row) ++ leBytes 2 code.toNat ++ leBytes 1 ch ++ leBytes 1 (if ovr then 1 else 0) ++ leBytes 4 0
      let x := if bits (s.capReg .CAP_CTL e) 10 8 = ch then some code.toInt else none
      s.capSample e (32 * row) (some item) x false
    else s

/-! ### Records (R352, R353) -/

/-- A sample of the quantity joins the record in progress; a recorder row, which has none, is not measured. -/
def CapRec.add (r : CapRec) (p : CapSample) : CapRec :=
  match p.x with
  | none => r
  | some x =>
    let r := { r with count := r.count + 1, lo := if r.count = 0 then x else min r.lo x, hi := if r.count = 0 then x else max r.hi x,
                      sum := r.sum + x, sq := r.sq + x.natAbs * x.natAbs, sat := r.sat || p.sat }
    match p.cross with
    | some t => { r with cross := r.cross + 1, first := if r.cross = 0 then t else r.first, last := t }
    | none => r

/-- The measurement fields of a mark: bytes 26 to 55 (R352). -/
def CapRec.bytes (r : CapRec) : List Byte :=
  let n := r.count
  let w (x : Int) : Nat := (BitVec.ofInt 16 x).toNat
  let mean : Int := if n = 0 then 0 else (2 * r.sum * 65536 + n) / (2 * (n : Int))
  let rms := if n = 0 then 0 else (isqrt 40 (4 * r.sq * 2 ^ 32 / n) + 1) / 2
  let period := if r.cross < 2 then 0 else (2 * (r.last - r.first) + (r.cross - 1)) / (2 * (r.cross - 1))
  leBytes 2 (w r.lo) ++ leBytes 2 (w r.hi) ++ leBytes 2 (r.hi - r.lo).toNat ++ leBytes 4 (BitVec.ofInt 32 mean).toNat ++
  leBytes 4 rms ++ leBytes 4 (min n 0xFFFFFFFF) ++ leBytes 4 (min r.cross 0xFFFFFFFF) ++ leBytes 8 period

/-! ### Entries (R354, R355) -/

/-- A mark entry. -/
def markEntry (e kind cond supp pin cause index time frac : Nat) (r : CapRec) (lost : Nat) : List Byte :=
  leBytes 1 0x11 ++ leBytes 1 e ++ leBytes 1 kind ++ leBytes 1 cond ++ leBytes 2 (min supp 65535) ++ leBytes 1 pin ++ leBytes 1 cause ++
  leBytes 8 index ++ leBytes 8 time ++ leBytes 2 frac ++ r.bytes ++ leBytes 4 lost ++ leBytes 4 0

/-- The items of a full data entry: 12 for baseband, 3 otherwise. -/
def State.capFull (s : State) (e : Nat) : Nat := if s.capSrc e = 0 then 12 else 3

/-- An entry joins those that await delivery. -/
def State.capPut (s : State) (e : Nat) (b : List Byte) : State := s.modCap e fun c => { c with buf := c.buf ++ [(c.ring, b)] }

/-- How many items at the front of a list have the indices n, n + 1 and so on. -/
def consecutive : Nat → List (Nat × Nat × List Byte) → Nat
  | _, [] => 0
  | n, x :: l => if x.1 = n then 1 + consecutive (n + 1) l else 0

/-- The items of the next entry: of consecutive index, at most `full` (R355). -/
def entryItems (full : Nat) (l : List (Nat × Nat × List Byte)) : List (Nat × Nat × List Byte) :=
  match l with
  | [] => []
  | x :: _ => l.take (min full (consecutive x.1 l))

/-- The number of entries that items take: `left` more fit the entry before them where the first has index n. -/
def entryCount (full : Nat) : Nat → Nat → List (Nat × Nat × List Byte) → Nat
  | _, _, [] => 0
  | left, n, x :: l => if 0 < left ∧ x.1 = n then entryCount full (left - 1) (n + 1) l else 1 + entryCount full (full - 1) (x.1 + 1) l

/-- Whether the delivery buffer, 128 KiB with room for one GAP mark kept back, has room for items not yet written and
`marks` marks more (R357). -/
def State.capRoom (s : State) (e : Nat) (items : List (Nat × Nat × List Byte)) (marks : Nat) : Bool :=
  decide ((s.cap e).buf.length + entryCount (s.capFull e) 0 0 items + marks ≤ 2047)

/-- One data entry from the first items that the engine holds. -/
def State.capEntry (s : State) (e : Nat) : State :=
  let c := s.cap e
  let l := entryItems (s.capFull e) c.items
  match l with
  | [] => s
  | x :: _ =>
    let payload := l.flatMap fun i => i.2.2
    (s.modCap e fun c => { c with items := c.items.drop l.length }).capPut e
      (leBytes 1 0x10 ++ leBytes 1 e ++ leBytes 1 l.length ++ leBytes 5 0 ++ leBytes 8 x.1 ++ payload ++
        List.replicate (48 - payload.length) 0)

/-- Every item that the engine holds is written, before a mark. -/
def State.capFlush (s : State) (e : Nat) : Nat → State
  | 0 => s
  | n + 1 => if (s.cap e).items.isEmpty then s else (s.capEntry e).capFlush e n

/-! ### Triggers (R348 to R351) -/

/-- The conditions waiting at an engine that belong to a sample at time t (R348). -/
def CapEng.due (c : CapEng) (t : Nat) : List CapCond := c.conds.filter fun x => decide (x.t256 ≤ 256 * t)

/-- Whether a sample carries a trigger. -/
def State.capTriggered (s : State) (e : Nat) (p : CapSample) : Bool :=
  (p.cross.isSome && bit (s.capReg .CAP_TRIG e) 31) || !((s.cap e).due p.t).isEmpty

/-- A sample without a trigger, or whose trigger has been dealt with, is measured and its item taken; with a full buffer the
item is lost (R357). -/
def State.capTake (s : State) (e : Nat) (p : CapSample) : State :=
  let c := s.cap e
  let s := s.modCap e fun c => { c with work := c.work.tail, meas := c.meas.add p }
  match p.item with
  | none => s
  | some b =>
    if !s.capRoom e (c.items ++ [(p.n, p.t, b)]) 0 ∨ c.gap.isSome then
      (s.count .LOST_COUNT (e / 2) (e % 2)).modCap e fun c =>
        { c with gap := some (match c.gap with | some g => g | none => (p.n, p.t)), meas := { c.meas with lost := c.meas.lost + 1 } }
    else s.modCap e fun c => { c with items := c.items ++ [(p.n, p.t, b)] }

/-- The samples that an engine has produced are worked up to the first that carries a trigger. -/
def State.capWork (s : State) (e : Nat) : Nat → State
  | 0 => s
  | n + 1 =>
    match (s.cap e).work with
    | [] => s
    | p :: _ => if s.capTriggered e p then s else (s.capTake e p).capWork e n

/-- Work everything that can be worked. -/
def State.capRun (s : State) (e : Nat) : State := s.capWork e ((s.cap e).work.length + 1)

/-- A trigger at sample p: suppressed, discarded with a full buffer, or a mark (R349 to R351, R357). -/
def State.capTrigger (s : State) (e : Nat) (p : CapSample) : State :=
  let c := s.cap e
  let level := p.cross.isSome && bit (s.capReg .CAP_TRIG e) 31
  let due := c.due p.t
  let pin := due.find? fun x => x.pin
  let ev := due.find? fun x => !x.pin
  let t256 := match pin with
    | some x => x.t256
    | none => match p.cross with
      | some t => if level then t else (match ev with | some x => x.t256 | none => 0)
      | none => (match ev with | some x => x.t256 | none => 0)
  let hold := s.capReg .CAP_HOLDOFF e
  let value := bits hold 23 0
  let byCount := bit hold 31
  let s := s.modCap e fun c => { c with conds := c.conds.filter fun x => !decide (x.t256 ≤ 256 * p.t) }
  let rest (s : State) : State := s.capTake e p
  if !s.capRoom e c.items 1 ∨ c.gap.isSome then rest (s.modCap e fun c => { c with suppressed := c.suppressed + 1 })
  else if byCount ∧ 0 < c.holdLeft then
    rest (s.modCap e fun c => { c with suppressed := c.suppressed + 1, holdLeft := c.holdLeft - 1 })
  else if !byCount ∧ t256 < 256 * c.holdUntil then rest (s.modCap e fun c => { c with suppressed := c.suppressed + 1 })
  else
    let s := s.capFlush e (c.items.length + 1)
    let b (x : Bool) (n : Nat) : Nat := if x then n else 0
    let cond := b c.meas.sat 32 + b (p.n < (s.capReg .CAP_LEAD e).toNat) 8 + b ev.isSome 4 + b pin.isSome 2 + b level 1
    let s := s.capPut e (markEntry e 0 cond c.suppressed (if pin.isSome then bits (s.capReg .CAP_TRIG e) 18 16 else 0) 0 p.n (t256 / 256)
      (t256 % 256) c.meas c.meas.lost)
    let s := s.modCap e fun c =>
      { c with meas := {}, suppressed := 0, holdLeft := if byCount then value else 0,
               holdUntil := if byCount ∨ value = 0 then 0 else t256 / 256 + 32 * value }
    let s := s.count .MARK_COUNT (e / 2) (e % 2)
    let s := s.fireGen (e / 2) (0x40 + e % 2) (match ev with | some x => x.gen + 1 | none => 0) (s.row (e / 2))
    rest s

/-! ### The end of a swatch (R358) -/

/-- The time t(n) of the first sample that an engine has not yet produced; of a conversion that no scan in progress will bring, the
present moment (R342, R358; log 86). -/
def State.capNextTime (s : State) (e : Nat) : Nat :=
  let c := s.cap e
  match s.capSrc e with
  | 0 => 8 * (4 * c.ks.getD 0 + 2 ^ bits (s.capReg .CAP_CTL e) 19 16 * c.next)
  | 2 => 32 * (c.ks.getD 0 + c.next)
  | _ =>
    let a := mget ({} : Aux) s.aux (e / 2)
    if a.busy then 32 * (a.k + 1250 + 625 * a.done) else s.now (e / 2)

/-- Whether entries of an engine wait in a skein of a ring (R356, R520). -/
def State.inSkein (s : State) (e : Nat) : Bool :=
  s.rings.any fun x => x.2.pack.engines.contains e || (match x.2.shut with | some p => p.engines.contains e | none => false)

/-- A CLOSING engine whose entries have been delivered writes its END mark and is FREE; its SWATCH_STOP completes. -/
def State.capSettle (s : State) (e : Nat) : State :=
  let c := s.cap e
  if c.st = .closing ∧ c.work.isEmpty ∧ c.items.isEmpty ∧ c.buf.isEmpty ∧ c.gap.isNone ∧ !s.inSkein e then
    let b (x : Bool) (n : Nat) : Nat := if x then n else 0
    let s := s.capPut e (markEntry e 3 (b c.meas.sat 32) c.suppressed 0 c.endCause c.next c.endTime 0 c.meas c.meas.lost)
    let s := s.forEach c.stopTags fun s g => s.finish g 0 (BitVec.ofNat 64 c.next)
    let s := s.modCap e fun c => { ({} : CapEng) with ring := c.ring, buf := c.buf }
    s.fireProducer (e / 2) (0x42 + e % 2) 0 (s.row (e / 2))
  else s

/-- A stop of an open engine registers: nothing more is produced, what was produced is still worked and written. -/
def State.capStop (s : State) (e cause : Nat) (tag : Option Nat) : State :=
  let t := s.capNextTime e
  let s := s.modCap e fun c => { c with st := .closing, endCause := cause, endTime := t, stopTags := tag.toList }
  let s := (s.cap e).work.foldl (fun s p => if s.capTriggered e p then s.capTrigger e p else s.capTake e p) s
  (s.capFlush e ((s.cap e).items.length + 1)).capSettle e

/-- The input of a baseband swatch is disabled: the swatch closes at the row boundary of R241 (R358). -/
def State.capSourceOff (s : State) (i : Nat) : State :=
  s.forEach [2 * (i / 8), 2 * (i / 8) + 1] fun s e =>
    if (s.cap e).st = .opened ∧ s.capSrc e = 0 ∧ s.capChan e / 32 = i then s.modCap e fun c => { c with off := true } else s

/-- The swatches of a half whose input was disabled in the row just finished close (R358). -/
def State.settleCap (s : State) (h : Nat) : State :=
  s.forEach [2 * h, 2 * h + 1] fun s e =>
    if (s.cap e).off ∧ (s.cap e).st = .opened then (s.modCap e fun c => { c with off := false }).capStop e 1 none else s

/-! ### Events of a swatch -/

/-- The START mark of an engine (R341). -/
def startEntry (e ks : Nat) : List Byte := markEntry e 2 0 0 0 0 0 (32 * ks) 0 {} 0

/-- The counter has reached k_s; the engine writes its START mark and is OPEN, and its SWATCH_START completes (R340, R341). -/
def State.capOpen (s : State) (e : Nat) : State :=
  let c := s.cap e
  match c.ks with
  | some k =>
    if c.st = .armed ∧ k ≤ s.row (e / 2) then
      let s := s.capPut e (startEntry e k)
      let s := match c.startTag with | some g => s.finish g 0 0 | none => s
      s.modCap e fun c => { c with st := .opened, nextM := 4 * k, startTag := none }
    else s
  | none => s

/-- SWATCH_STREAM_START (R340, R341). -/
def execSwatchStreamStart (e : CapIx) (s : State) : Res := .next (s.capOpen e)

/-- TRIGGER_MARK: the first sample not yet worked carries a trigger (R349). -/
def execTriggerMark (e : CapIx) (s : State) : Res :=
  let s' := s.capRun e
  .next (match (s'.cap e).work with
    | p :: _ => if (s'.cap e).st = .opened ∧ s'.capTriggered e p then (s'.capTrigger e p).capRun e else s
    | [] => s)

/-- DATA_ENTRY_WRITE: a data entry is full or the item after it does not follow on in index, or its first item is 1 µs old (R355). -/
def execDataEntryWrite (e : CapIx) (s : State) : Res :=
  let s' := s.capRun e
  .next (match (s'.cap e).items with
    | x :: xs =>
      let n := (entryItems (s'.capFull e) (x :: xs)).length
      if (s'.cap e).st = .opened ∧ (n = s'.capFull e ∨ n < xs.length + 1 ∨ x.2.1 + 20000 ≤ s.now (e.val / 2)) then s'.capEntry e else s
    | [] => s)

/-- GAP_MARK: 1 KiB of the delivery buffer is free again after samples were lost (R357). -/
def execGapMark (e : CapIx) (s : State) : Res :=
  let h := e.val / 2
  let s' := s.capRun e
  let c := s'.cap e
  .next (match c.gap with
    | some g =>
      if c.buf.length ≤ 2032 then
        let s := s'.capFlush e (c.items.length + 1)
        let last := match c.work with | p :: _ => p.n | [] => c.next
        let s := s.capPut e (markEntry e 1 0 c.suppressed 0 0 g.1 g.2 0 {} (last - g.1))
        let s := s.modCap e fun c => { c with gap := none, suppressed := 0 }
        let s := s.regBit .CAP_STATUS h (e.val % 2) 0 true
        (s.occur h 0x0F0 { parts := (s.ownEngine e).toList }).capSettle e
      else s
    | none => s)

/-- The ARM task input of an engine registers in row r (R341). -/
def State.capArm (s : State) (e row : Nat) : State := s.modCap e fun c => { c with ks := some row }

/-- A TRIG firing registers at an open engine in row r (R344). -/
def State.capEvent (s : State) (e row gen : Nat) : State :=
  if bit (s.capReg .CAP_TRIG e) 29 then s.modCap e fun c => { c with conds := c.conds ++ [⟨false, 256 * 32 * row, gen⟩] } else s

/-- A TRIG_IN edge at sample time t16 / 16 reaches the engines of its half that select it (R344, R347). -/
def State.capPin (s : State) (i : Nat) (rising : Bool) (t16 : Nat) : State :=
  s.forEach [2 * (i / 8), 2 * (i / 8) + 1] fun s e =>
    let x := s.capReg .CAP_TRIG e
    if (s.cap e).st = .opened ∧ bit x 30 ∧ bits x 18 16 = i % 8 ∧ bit x 26 = !rising then
      s.modCap e fun c => { c with conds := c.conds ++ [⟨true, 16 * t16, 0⟩] }
    else s

/-! ### Writes of the CAP registers (R361) -/

/-- The registers that SWATCH_START reads are refused while the engine is not FREE. -/
def State.wrCap (s : State) (r : Reg) (h e j : Nat) (v : Word) : State :=
  if (s.cap (2 * h + e)).st ≠ .free then s.count .CAP_IGNORED_WRITES h 0 else s.setReg r h e j (v &&& r.info.rw)

end Sys2Proof.Machine
end

