-- ==== Sys2Proof/Machine/Decide.lean ====
section
/-!
DEFINITION. The decision network: subscribers of a token, its delivery, decision tables and the compare requests of pattern
groups (R104, R248 to R261).
-/
namespace Sys2Proof.Machine

/-- Whether a subscription word names a source (THR_SUB fields). -/
def subNames (x : Word) (table : Bool) (src : Nat) : Bool := bit x 31 && bit x 30 == table && bits x 8 0 == src

/-- Whether a DT_IN word names a source. -/
def inNames (x : Word) (table : Bool) (src : Nat) : Bool := bit x 31 == table && bits x 8 0 == src

/-- The first queue of a half's pattern group, as an index of the pattern registers (PAT_SUB). -/
def groupFirst (g : Nat) : Nat := if g < 16 then 16 * g else if g < 24 then 256 + 32 * (g - 16) else 512 + (g - 24)

/-- The subscribers of a source on one half (R251). -/
def State.subscribers (s : State) (h : Nat) (table : Bool) (src : Nat) : List Subscriber :=
  let thr := ((s.activeRuns.flatMap fun r => (s.runOf r).threads).filter fun t => thrHalf t == h).flatMap fun t =>
    ((List.range 8).filter fun i => subNames (s.reg .THR_SUB h (t % 256) i) table src).map fun i =>
      Subscriber.thread (Fin.ofNat 512 t) (Fin.ofNat 8 i)
  let tab := ((s.listed .DT_CFG h).eraseDups.filter fun d => bit (s.reg .DT_CFG h d) 31).flatMap fun d =>
    ((List.range 8).filter fun n => bit (s.reg .DT_CFG h d) n && inNames (s.reg .DT_IN h d n) table src).map fun n =>
      Subscriber.table (Fin.ofNat 128 (64 * h + d)) (Fin.ofNat 8 n)
  let grp := ((List.range 88).filter fun g => subNames (s.reg .PAT_SUB h (groupFirst g)) table src).map fun g =>
    Subscriber.group (Fin.ofNat 176 (88 * h + g))
  thr ++ tab ++ grp

/-- A token is on its way to a half's subscribers. -/
def State.tokenOn (s : State) (h : Nat) (k : Token) : State :=
  { s with deliveries := s.deliveries ++ (s.subscribers h k.table k.src).map fun x => ⟨x, k⟩ }

/-- A source of half h emits a token: to its own half's subscribers, and over the die link where the far half has some. -/
def State.emitToken (s : State) (h : Nat) (k : Token) : State :=
  let s := s.tokenOn h k
  if (s.subscribers (1 - h) k.table k.src).isEmpty then s else s.send h (.token k)

/-! ### Decision tables -/

/-- Whether a table takes, directly or through tables, an input from table d. -/
def State.feeds (s : State) : Nat → Nat → Nat → Bool
  | 0, _, _ => false
  | n + 1, d, top =>
    d == top || (List.range 8).any fun i =>
      let x := s.reg .DT_IN (top / 64) (top % 64) i
      bit (s.reg .DT_CFG (top / 64) (top % 64)) i && !bit (s.reg .DT_CFG (top / 64) (top % 64)) 30 && bit x 31 && s.feeds n d (bits x 8 0)

/-- Whether a table is in use: a thread of an active run subscribes to it, directly or through tables (R261). -/
def State.tableUsed (s : State) (d : Nat) : Bool :=
  (s.activeRuns.flatMap fun r => (s.runOf r).threads).any fun t => (List.range 8).any fun i =>
    let x := s.reg .THR_SUB (thrHalf t) (t % 256) i
    bit x 31 && bit x 30 && s.feeds 129 d (bits x 8 0)

/-- Change what a table holds. -/
def State.modTable (s : State) (d : Nat) (f : Table → Table) : State := { s with tables := mmod {} s.tables d f }

/-- The enabled inputs of a table. -/
def State.tableIns (s : State) (d : Nat) : List Nat := (List.range 8).filter fun n => bit (s.reg .DT_CFG (d / 64) (d % 64)) n

/-- The token a table's lookup makes of the tokens held (R249, R250, R258). -/
def State.tableToken (s : State) (d : Nat) (held : List (Nat × Token)) : Token :=
  let h := d / 64
  let i := d % 64
  let idx := held.foldl (fun a x => if bit x.2.value (bits (s.reg .DT_IN h i x.1) 15 12) then a + 2 ^ x.1 else a) 0
  let entry := bits (s.reg .DT_LUT h i (idx / 4)) (8 * (idx % 4) + 7) (8 * (idx % 4))
  let flags := held.foldl (fun a x => a ||| (x.2.value &&& 0x1C)) (0 : BitVec 16)
  let first := match held with | x :: _ => x.2 | [] => {}
  { e := held.foldl (fun a x => max48 a x.2.e) first.e, shot := first.shot, run := first.run, table := true, src := d,
    value := 0x4000 ||| BitVec.ofNat 16 (256 * (entry / 4) + entry % 4) ||| flags }

/-- A table fires (R258, R260). -/
def State.tableFire (s : State) (d : Nat) (e : Ecc) : State :=
  let h := d / 64
  let held := (s.table d).held
  let k := s.tableToken d held
  let s := (s.modTable d fun _ => {}).count .DT_FIRES h (d % 64)
  match e with
  | .uncorrectable =>
    s.occur h 0x06B { runs := if (s.runOf k.run).active then [k.run] else [], parts := (s.ownTable d).toList }
  | _ =>
    let s := if e = .corrected then s.count .DT_ECC_CORRECTED h 0 else s
    (s.setReg .DT_STATUS h (d % 64) 0 (BitVec.ofNat 32 k.value.toNat)).emitToken h k

/-- A token reaches input n of a table (R257, R258). -/
def State.tokenToTable (s : State) (d n : Nat) (k : Token) (e : Ecc) : State :=
  let h := d / 64
  let cfg := s.reg .DT_CFG h (d % 64)
  if !bit cfg 31 || bit cfg 30 || !bit cfg n then s
  else
    let held := (s.table d).held
    let other := held.any fun x => decide (x.2.run ≠ k.run ∨ x.2.shot ≠ k.shot)
    let s := if other then (s.count .DT_DISCARD_COUNT h 0 held.length).modTable d fun _ => {} else s
    let keep := (if other then [] else held).filter fun x => x.1 != n
    let s := s.modTable d fun _ => { held := keep ++ [(n, k)] }
    if (s.tableIns d).all fun i => (s.table d).held.any fun x => x.1 == i then s.tableFire d e else s

/-! ### Delivery -/

/-- The queues of a pattern group in pattern play. -/
def State.groupQueues (s : State) (h g : Nat) : List Nat :=
  (s.que.filter fun e => e.2.pat && qKind e.1 != .chan && qHalf e.1 == h && qGroup e.1 == g).map (·.1)

/-- A jump request of a group is on its way to every queue of it in pattern play (R104, R255). -/
def State.requestJump (s : State) (h g : Nat) (tok : Option Token) : State :=
  { s with jumps := s.jumps ++ (s.groupQueues h g).map fun q => ⟨q, tok⟩ }

/-- TOKEN_DELIVERY: the oldest token on its way to a subscriber arrives (R251 to R260, R270); `e` is what the check of the
lookup word read reports if a table fires. -/
def execTokenDelivery (sub : Subscriber) (e : Ecc) (s : State) : Res :=
  .next (match s.deliveries.find? fun x => x.sub == sub with
    | none => s
    | some x =>
      let s := { s with deliveries := s.deliveries.erase x }
      match sub with
      | .thread t i => s.tokenToThread t i x.tok
      | .table d n => s.tokenToTable d n x.tok e
      | .group g => s.requestJump (g.val / 88) (g.val % 88) (some x.tok))

/-! ### Writes of the SEQ registers of the decision network -/

/-- A write to DT_CFG or DT_LUT, refused while the table is in use (R261). -/
def State.wrTable (s : State) (r : Reg) (h d j : Nat) (v : Word) : State :=
  if s.tableUsed (64 * h + d) then s.count .DN_IGNORED h 0
  else
    let s := s.setReg r h d j (v &&& r.info.rw)
    if r = .DT_CFG then s.modTable (64 * h + d) fun t =>
        { held := if bit v 31 then t.held.filter fun x => bit v x.1 else [] }
      else s

/-- A write to DT_IN: refused in use, and unless its source is a channel, or a table of a lower number, of the table's partition
(R256, R261). -/
def State.wrTableIn (s : State) (h d n : Nat) (v : Word) : State :=
  let g := 64 * h + d
  let src := bits v 8 0
  if s.tableUsed g || (bit v 31 && decide (g ≤ src)) || s.ownSource (bit v 31) src != s.ownTable g then s.count .DN_IGNORED h 0
  else s.setReg .DT_IN h d n (v &&& Reg.DT_IN.info.rw)

end Sys2Proof.Machine
end

