-- ==== Sys2Proof/Machine/Lanes.lean ====
section
/-!
DEFINITION. DSP lanes: jobs, the result queue, the lane instruction set and lane faults (R363 to R388).
-/
namespace Sys2Proof.Machine

/-- The half and local index of a lane. -/
abbrev laneHalf (l : Nat) : Nat := l / 16
abbrev laneLocal (l : Nat) : Nat := l % 16

/-- The runs that a lane's fault concerns: those with a channel delivering to it or a thread subscribing to a table that it
supplies (R387). -/
def State.laneRuns (s : State) (l : Nat) : List Nat :=
  let h := laneHalf l
  s.activeRuns.filter fun r =>
    ((s.chansOf r).any fun c => c / 256 == h && bit (s.reg .CH_CTL h (c % 256)) 7 && bits (s.reg .CH_CTL h (c % 256)) 11 8 == laneLocal l) ||
    (s.runOf r).threads.any fun t => (List.range 8).any fun i =>
      let x := s.reg .THR_SUB (thrHalf t) (t % 256) i
      let d := bits x 8 0
      bit x 31 && bit x 30 && d / 64 == h && bit (s.reg .DT_CFG h (d % 64)) 30 && bits (s.reg .DT_CFG h (d % 64)) 11 8 == laneLocal l

/-- What an occurrence about a lane names. -/
def State.laneNames (s : State) (l : Nat) (opens : Bool) : Names :=
  { runs := s.laneRuns l, parts := (s.ownLane l).toList, block := some (1, laneLocal l), opens := opens }

/-- A lane fault (R385). -/
def State.laneFault (s : State) (l code : Nat) : State :=
  let s := s.modLane l fun x => { x with st := .fault, code := code, faultPc := x.pc }
  s.occur (laneHalf l) (if code = 8 then 0x101 else 0x100) (s.laneNames l true)

/-! ### Jobs -/

/-- A start of an enabled idle lane (R366); outside quiet mode (R370). -/
def State.laneCanStart (s : State) (l : Nat) : Bool :=
  bit (s.reg .LANE_CTL (laneHalf l) (laneLocal l)) 0 && (s.lane l).st == .idle && !s.isQuiet (laneHalf l)

/-- A job begins, with the generation of the firing that starts it (none: a register write). -/
def State.laneStart (s : State) (l : Nat) (gen : Option Nat) : State :=
  let pc := bits (s.reg .LANE_ENTRY (laneHalf l) (laneLocal l)) 15 0
  s.modLane l fun x => { x with pc := pc, z := false, n := false, c := false, v := false, reps := [], call := false, st := .running,
                                code := 0, gen := gen, cycles := 0 }

/-- The generation of what a job fires (R376). -/
def Lane.outGen (x : Lane) : Nat := match x.gen with | some g => g + 1 | none => 0

/-- A measurement result is delivered to a lane (R372). -/
def State.laneDeliver (s : State) (l : Nat) (r : LaneResult) : State :=
  let h := laneHalf l
  if !bit (s.reg .LANE_CTL h (laneLocal l)) 0 then s.count .QDROP h (laneLocal l)
  else if 64 ≤ (s.lane l).queue.length then (s.count .QDROP h (laneLocal l)).occur h 0x102 (s.laneNames l false)
  else s.modLane l fun x => { x with queue := x.queue ++ [r] }

/-- A write to LANE_CTL: EN, START, ABORT (R366, R367, R370, R371). -/
def State.wrLaneCtl (s : State) (l : Nat) (v : Word) : State :=
  let h := laneHalf l
  let i := laneLocal l
  let s := s.setReg .LANE_CTL h i 0 (v &&& 1)
  let s := if bit v 0 then s else (s.count .QDROP h i (s.lane l).queue.length).modLane l fun x => { x with queue := [] }
  let s := if bit v 2 then s.modLane l abortLane else s
  if bit v 1 then (if s.laneCanStart l then s.laneStart l none else s.count .DSP_IGNORED_WRITES h 0) else s

/-- A write to LANE_STATUS: FAULT returns the lane to IDLE; SAT and DONE clear (R385). -/
def State.wrLaneStatus (s : State) (l : Nat) (v : Word) : State :=
  let h := laneHalf l
  let i := laneLocal l
  let s := s.setReg .DSP_LANE_STATUS h i 0 (s.reg .DSP_LANE_STATUS h i &&& ~~~ (v &&& 5))
  if bit v 1 && (s.lane l).st == .fault then s.modLane l fun x => { x with st := .idle, code := 0 } else s

/-! ### Issue -/

/-- The opcodes of the lane instruction set. -/
def laneOpcodes : List Nat :=
  [0x00, 0x01, 0x02, 0x03, 0x04, 0x05, 0x06, 0x08, 0x09, 0x0A, 0x0B, 0x0C, 0x0D, 0x0E, 0x0F, 0x10, 0x11, 0x12, 0x13,
   0x18, 0x19, 0x1A, 0x1B, 0x1C, 0x1D, 0x20, 0x21, 0x22, 0x23, 0x24, 0x28, 0x29, 0x2A, 0x2B]

/-- The next instruction after one at `pc`, under the active repeats (R381). -/
def advance : List RepLevel → Nat → List RepLevel × Nat
  | [], pc => ([], (pc + 1) % 65536)
  | r :: rs, pc =>
    if pc = r.last then (if 0 < r.left then ({ r with left := r.left - 1 } :: rs, r.first) else advance rs pc)
    else (r :: rs, (pc + 1) % 65536)

/-- The lane goes on after the instruction at `pc`, having spent n cycles. -/
def Lane.step (x : Lane) (pc n : Nat) : Lane :=
  let a := advance x.reps pc
  { x with reps := a.1, pc := a.2, cycles := x.cycles + n }

/-- The lane goes on at a target, ending every repeat level (R382). -/
def Lane.jump (x : Lane) (t n : Nat) : Lane := { x with reps := [], pc := t % 65536, cycles := x.cycles + n }

/-- A corrected error of a lane's memory is counted (R386). -/
def State.laneEcc (s : State) (l : Nat) (e : Ecc) : State :=
  if e = .corrected then s.count .DSP_ECC_CORRECTED (laneHalf l) 0 else s

/-- The corrected errors of the words that an instruction reads are counted, and an uncorrectable one is fault 8 (R385, R386). -/
def State.laneReads (s : State) (l : Nat) (de : Reads) (k : State → State) : State :=
  let s := s.count .DSP_ECC_CORRECTED (laneHalf l) 0 de.corrected
  if de.bad.isSome then s.laneFault l 8 else k s

/-- A running lane that the governor does not hold back (R609) issues the instruction at its PC: the word's uncorrectable error is fault 8, an opcode outside the table fault
1.  An instruction of another opcode is not this row's: the event has not occurred (log 1).  `f` gives the new lane, or the code
of the fault; nothing else of the lane changes. -/
def State.laneIssue (s : State) (l : Nat) (e : Ecc) (op : Nat) (f : State → Word → Lane → State) : State :=
  let x := s.lane l
  if x.st ≠ .running || s.paced (laneHalf l) 25 then s
  else if e = .uncorrectable then s.laneFault l 8
  else
    let w := s.laneWord l x.pc
    if bits w 31 26 = op then f (s.laneEcc l e) w x
    else if laneOpcodes.contains (bits w 31 26) then s
    else (s.laneEcc l e).laneFault l 1

/-- An instruction that only changes the lane. -/
def State.laneSet (s : State) (l : Nat) (bad : Bool) (x : Lane) (n : Nat) : State :=
  if bad then s.laneFault l 1 else s.modLane l fun y => x.step y.pc n

/-- Registers of a lane. -/
def Lane.dr (x : Lane) (i : Nat) : Word := mget 0 x.d i
def Lane.setD (x : Lane) (i : Nat) (v : Word) : Lane := { x with d := mset 0 x.d i v }
def Lane.pr (x : Lane) (i : Nat) : BitVec 16 := mget 0 x.p i
def Lane.setP (x : Lane) (i : Nat) (v : BitVec 16) : Lane := { x with p := mset 0 x.p i v }
def Lane.mr (x : Lane) (i : Nat) : BitVec 16 := mget 0 x.m i
def Lane.setM (x : Lane) (i : Nat) (v : BitVec 16) : Lane := { x with m := mset 0 x.m i v }
def Lane.ar (x : Lane) (i : Nat) : BitVec 80 := mget 0 x.a i
def Lane.setA (x : Lane) (i : Nat) (v : BitVec 80) : Lane := { x with a := mset 0 x.a i v }
def Lane.flags (x : Lane) (r : Alu) : Lane := { x with z := r.z, n := r.n, c := r.c, v := r.v }

/-- Result and flags of an ALU operation into d_i. -/
def Lane.alu (x : Lane) (i : Nat) (r : Alu) : Lane := (x.setD i r.r).flags r

/-- A saturation sets LANE_STATUS.SAT (R379, R380). -/
def State.laneSat (s : State) (l : Nat) (b : Bool) : State :=
  if b then s.regBit .DSP_LANE_STATUS (laneHalf l) (laneLocal l) 2 true else s

/-! Fields of the formats. -/
def fD (w : Word) : Nat := bits w 25 21
def fA (w : Word) : Nat := bits w 20 16
def fB (w : Word) : Nat := bits w 15 11
def fImm (w : Word) : BitVec 16 := BitVec.ofNat 16 w.toNat
def fSImm (w : Word) : Word := (fImm w).signExtend 32

/-- Format R. -/
def State.laneR (s : State) (l : Nat) (e : Ecc) (op : Nat) (f : Word → Word → Alu) : State :=
  s.laneIssue l e op fun s w x => s.laneSet l (bits w 10 0 != 0) (x.alu (fD w) (f (x.dr (fA w)) (x.dr (fB w)))) 1

/-- Format I with result. -/
def State.laneI (s : State) (l : Nat) (e : Ecc) (op : Nat) (f : Word → Word → Alu) : State :=
  s.laneIssue l e op fun s w x => s.laneSet l false (x.alu (fD w) (f (x.dr (fA w)) w)) 1

/-! ### Instructions -/

def execLNop (l : LaneIx) (e : Ecc) (s : State) : Res :=
  .next (s.laneIssue l e 0x00 fun s w x => s.laneSet l (bits w 25 0 != 0) x 1)

/-- HALT (R368). -/
def execLHalt (l : LaneIx) (e : Ecc) (s : State) : Res :=
  let h := laneHalf l
  let i := laneLocal l
  .next (s.laneIssue l e 0x01 fun s w x =>
    if bits w 25 0 ≠ 0 then s.laneFault l 1
    else
      let s := s.modLane l fun x => { x with st := .idle, cycles := x.cycles + 1 }
      let s := (s.count .DSP_JOBS h i).regBit .DSP_LANE_STATUS h i 0 true
      s.fireGen h (0x50 + i) x.outGen (s.row h))

def execLLdi (l : LaneIx) (e : Ecc) (s : State) : Res :=
  .next (s.laneIssue l e 0x02 fun s w x => s.laneSet l (fA w != 0) (x.setD (fD w) (fSImm w)) 1)

def execLLdih (l : LaneIx) (e : Ecc) (s : State) : Res :=
  .next (s.laneIssue l e 0x03 fun s w x =>
    s.laneSet l (fA w != 0) (x.setD (fD w) (setBits (x.dr (fD w)) 31 16 (fImm w).toNat)) 1)

/-- Post-modification of a pointer (R378). -/
def Lane.post (x : Lane) (w : Word) : Lane :=
  if bit w 14 then x.setP (bits w 20 18) (x.pr (bits w 20 18) + x.mr (bits w 17 15)) else x

/-- LD (R378); an uncorrectable word is fault 8. -/
def execLLd (l : LaneIx) (e : Ecc) (de : Reads) (s : State) : Res :=
  .next (s.laneIssue l e 0x04 fun s w x =>
    if bits w 13 0 ≠ 0 then s.laneFault l 1
    else s.laneReads l de fun s => s.laneSet l false ((x.setD (fD w) (s.laneWord l (x.pr (bits w 20 18)).toNat)).post w) 1)

/-- ST (R378). -/
def execLSt (l : LaneIx) (e : Ecc) (s : State) : Res :=
  .next (s.laneIssue l e 0x05 fun s w x =>
    if bits w 13 0 ≠ 0 then s.laneFault l 1
    else (s.setLaneWord l (x.pr (bits w 20 18)).toNat (x.dr (fD w))).laneSet l false (x.post w) 1)

/-- SETP (R378). -/
def execLSetp (l : LaneIx) (e : Ecc) (s : State) : Res :=
  .next (s.laneIssue l e 0x06 fun s w x =>
    let v : BitVec 16 := if bit w 21 then BitVec.ofNat 16 (x.dr (fA w)).toNat else fImm w
    s.laneSet l false (if bit w 25 then x.setM (bits w 24 22) v else x.setP (bits w 24 22) v) 1)

def execLAdd (l : LaneIx) (e : Ecc) (s : State) : Res := .next (s.laneR l e 0x08 aluAdd)
def execLSub (l : LaneIx) (e : Ecc) (s : State) : Res := .next (s.laneR l e 0x09 aluSub)
def execLAnd (l : LaneIx) (e : Ecc) (s : State) : Res := .next (s.laneR l e 0x0A fun a b => aluLogic (a &&& b))
def execLOr (l : LaneIx) (e : Ecc) (s : State) : Res := .next (s.laneR l e 0x0B fun a b => aluLogic (a ||| b))
def execLXor (l : LaneIx) (e : Ecc) (s : State) : Res := .next (s.laneR l e 0x0C fun a b => aluLogic (a ^^^ b))
def execLAddi (l : LaneIx) (e : Ecc) (s : State) : Res := .next (s.laneI l e 0x0D fun a w => aluAdd a (fSImm w))
def execLShli (l : LaneIx) (e : Ecc) (s : State) : Res := .next (s.laneI l e 0x0E fun a w => aluShl a (bits w 4 0))
def execLShri (l : LaneIx) (e : Ecc) (s : State) : Res := .next (s.laneI l e 0x0F fun a w => aluShr false a (bits w 4 0))

/-- SHRA: arithmetic and rounded half up (R379). -/
def execLShra (l : LaneIx) (e : Ecc) (s : State) : Res :=
  .next (s.laneI l e 0x10 fun a w => aluLogic (BitVec.ofInt 32 (roundHalfUp a.toInt (bits w 4 0))))

def execLCmp (l : LaneIx) (e : Ecc) (s : State) : Res :=
  .next (s.laneIssue l e 0x11 fun s w x =>
    s.laneSet l (fD w != 0 || bits w 10 0 != 0) (x.flags (aluSub (x.dr (fA w)) (x.dr (fB w)))) 1)

def execLCmpi (l : LaneIx) (e : Ecc) (s : State) : Res :=
  .next (s.laneIssue l e 0x12 fun s w x => s.laneSet l (fD w != 0) (x.flags (aluSub (x.dr (fA w)) (fSImm w))) 1)

/-- The signed low half of a word. -/
def low16 (w : Word) : Int := (BitVec.ofNat 16 w.toNat).toInt
/-- The signed high half of a word. -/
def high16 (w : Word) : Int := (BitVec.ofNat 16 (w.toNat / 65536)).toInt

def execLMul (l : LaneIx) (e : Ecc) (s : State) : Res :=
  .next (s.laneR l e 0x13 fun a b => aluLogic (BitVec.ofInt 32 (low16 a * low16 b)))

/-- An accumulator with a signed term added, saturating at 80 bits; whether it saturated (R380). -/
def accAdd (a : BitVec 80) (v : Int) : BitVec 80 × Bool :=
  let y := a.toInt + v
  (BitVec.ofInt 80 (clampS 80 y), decide (clampS 80 y ≠ y))

/-- MACR (R380). -/
def execLMacr (l : LaneIx) (e : Ecc) (s : State) : Res :=
  .next (s.laneIssue l e 0x18 fun s w x =>
    let p := low16 (x.dr (fA w)) * low16 (x.dr (fB w))
    let r := accAdd (x.ar (bits w 25 24)) (if bit w 23 then -p else p)
    if bits w 22 21 ≠ 0 ∨ bits w 10 0 ≠ 0 then s.laneFault l 1
    else (s.laneSat l r.2).laneSet l false (x.setA (bits w 25 24) r.1) 1)

/-- CMAC (R380): both pointers are post-modified, the first before the second. -/
def execLCmac (l : LaneIx) (e : Ecc) (de : Reads) (s : State) : Res :=
  .next (s.laneIssue l e 0x19 fun s w x =>
    let acc := bits w 25 24
    let px := bits w 23 21
    let py := bits w 17 15
    if acc % 2 ≠ 0 ∨ bits w 9 0 ≠ 0 then s.laneFault l 1
    else s.laneReads l de fun s =>
      let a := s.laneWord l (x.pr px).toNat
      let b := s.laneWord l (x.pr py).toNat
      let cj := bit w 11
      let i := if cj then low16 a * low16 b + high16 a * high16 b else low16 a * low16 b - high16 a * high16 b
      let q := if cj then high16 a * low16 b - low16 a * high16 b else low16 a * high16 b + high16 a * low16 b
      let r0 := accAdd (x.ar acc) (if bit w 10 then -i else i)
      let r1 := accAdd (x.ar (acc + 1)) (if bit w 10 then -q else q)
      let x := x.setP px (x.pr px + x.mr (bits w 20 18))
      let x := x.setP py (x.pr py + x.mr (bits w 14 12))
      (s.laneSat l (r0.2 || r1.2)).laneSet l false ((x.setA acc r0.1).setA (acc + 1) r1.1) 1)

/-- RND (R379). -/
def execLRnd (l : LaneIx) (e : Ecc) (s : State) : Res :=
  .next (s.laneIssue l e 0x1A fun s w x =>
    let r := narrow 32 (bits w 18 13) (x.ar (bits w 20 19)).toInt
    let a := Alu.of (BitVec.ofInt 32 r.1) false r.2
    if bits w 12 0 ≠ 0 then s.laneFault l 1 else (s.laneSat l r.2).laneSet l false (x.alu (fD w) a) 1)

/-- CLRA. -/
def execLClra (l : LaneIx) (e : Ecc) (s : State) : Res :=
  .next (s.laneIssue l e 0x1B fun s w x =>
    s.laneSet l (bits w 21 0 != 0) ((List.range 4).foldl (fun x i => if bit w (22 + i) then x.setA i 0 else x) x) 1)

/-- The n words that a search reads, and the pointer after them. -/
def State.searchWords (s : State) (l : Nat) : Nat → BitVec 16 → BitVec 16 → List Word × BitVec 16
  | 0, p, _ => ([], p)
  | n + 1, p, m =>
    let r := s.searchWords l n (p + m) m
    (s.laneWord l p.toNat :: r.1, r.2)

/-- The best value of a list and its lowest position. -/
def bestOf (better : Int → Int → Bool) : List Word → Nat → Int × Nat → Int × Nat
  | [], _, b => b
  | w :: ws, i, b => bestOf better ws (i + 1) (if better w.toInt b.1 then (w.toInt, i) else b)

/-- MAXS and MINS (R383). -/
def State.laneSearch (s : State) (l : Nat) (e : Ecc) (de : Reads) (op : Nat) (better : Int → Int → Bool) : State :=
  s.laneIssue l e op fun s w x =>
    let d := fD w
    let n := bits w 14 0
    if d % 2 ≠ 0 ∨ n = 0 then s.laneFault l 1
    else s.laneReads l de fun s =>
      let r := s.searchWords l n (x.pr (bits w 20 18)) (x.mr (bits w 17 15))
      match r.1 with
      | [] => s
      | v :: vs =>
        let b := bestOf better vs 1 (v.toInt, 0)
        let y := BitVec.ofInt 32 b.1
        let x := ((x.setD d y).setD (d + 1) (BitVec.ofNat 32 b.2)).setP (bits w 20 18) r.2
        s.laneSet l false { x with z := decide (y = 0), n := bit y 31 } (n + 1)

def execLMaxs (l : LaneIx) (e : Ecc) (de : Reads) (s : State) : Res := .next (s.laneSearch l e de 0x1C fun a b => decide (b < a))
def execLMins (l : LaneIx) (e : Ecc) (de : Reads) (s : State) : Res := .next (s.laneSearch l e de 0x1D fun a b => decide (a < b))

/-- REP (R381, R382). -/
def execLRep (l : LaneIx) (e : Ecc) (s : State) : Res :=
  .next (s.laneIssue l e 0x20 fun s w x =>
    let len := bits w 19 12
    let r := bit w 25
    let c := if r then (x.dr (bits w 24 20)).toNat else bits w 11 0
    let last := x.pc + len
    if len = 0 ∨ (r ∧ bits w 11 0 ≠ 0) then s.laneFault l 1
    else if decide (65535 < last) || decide (0 < c ∧ 4 ≤ x.reps.length) || (match x.reps with | o :: _ => decide (o.last < last) | [] => false)
      then s.laneFault l 2
    else if c = 0 then s.modLane l fun x => x.step last 2
    else s.modLane l fun x => { x with reps := ⟨x.pc + 1, last, c - 1⟩ :: x.reps, pc := x.pc + 1, cycles := x.cycles + 1 })

def execLBr (l : LaneIx) (e : Ecc) (s : State) : Res :=
  .next (s.laneIssue l e 0x21 fun s w x =>
    if bits w 25 16 ≠ 0 then s.laneFault l 1 else s.modLane l fun _ => x.jump (bits w 15 0) 2)

def execLBcc (l : LaneIx) (e : Ecc) (s : State) : Res :=
  .next (s.laneIssue l e 0x22 fun s w x =>
    if bits w 25 22 = 15 ∨ bits w 21 16 ≠ 0 then s.laneFault l 1
    else if condHolds (bits w 25 22) x.z x.n x.c x.v then s.modLane l fun _ => x.jump (bits w 15 0) 2
    else s.laneSet l false x 1)

/-- CALL (R384). -/
def execLCall (l : LaneIx) (e : Ecc) (s : State) : Res :=
  .next (s.laneIssue l e 0x23 fun s w x =>
    if bits w 25 16 ≠ 0 then s.laneFault l 1
    else if x.call then s.laneFault l 3
    else s.modLane l fun _ => { x.jump (bits w 15 0) 2 with link := (x.pc + 1) % 65536, call := true })

/-- RET (R384). -/
def execLRet (l : LaneIx) (e : Ecc) (s : State) : Res :=
  .next (s.laneIssue l e 0x24 fun s w x =>
    if bits w 25 0 ≠ 0 then s.laneFault l 1
    else if !x.call then s.laneFault l 3
    else s.modLane l fun _ => { x.jump x.link 2 with call := false })

/-- The registers that POP writes (R373). -/
def Lane.pop (x : Lane) (d : Nat) (r : LaneResult) : Lane :=
  let y := (((((x.setD d r.xi).setD (d + 1) r.xq).setD (d + 2) (BitVec.ofNat 32 r.e.toNat)).setD (d + 3)
    (BitVec.ofNat 32 (65536 * r.value.toNat + r.e.toNat / 2 ^ 32))).setD (d + 4) (BitVec.ofNat 32 (1024 * r.run + r.ch))).setD (d + 5) r.shot
  { y with z := false }

/-- POP (R371, R373). -/
def execLPop (l : LaneIx) (e : Ecc) (s : State) : Res :=
  .next (s.laneIssue l e 0x28 fun s w x =>
    let d := fD w
    if bits w 19 0 ≠ 0 then s.laneFault l 1
    else if 26 < d then s.laneFault l 4
    else
      match x.queue with
      | r :: q => s.laneSet l false { x.pop d r with queue := q } 1
      | [] =>
        if bit w 20 ∨ !bit (s.reg .LANE_CTL (laneHalf l) (laneLocal l)) 0 then s.laneSet l false { x with z := true } 1
        else s.modLane l fun x => { x with st := .stalled, popReg := d, cycles := x.cycles + 1 })

/-- LANE_POP_RESUME: an entry has arrived for a lane stalled on POP (R373), or the lane's EN was cleared (R371). -/
def execLanePopResume (l : LaneIx) (s : State) : Res :=
  let x := s.lane l
  .next (if x.st ≠ .stalled then s
    else
      match x.queue with
      | r :: q => s.modLane l fun x => { x.pop x.popReg r with queue := q, st := .running }.step x.pc 0
      | [] =>
        if bit (s.reg .LANE_CTL (laneHalf l) (laneLocal l)) 0 then s
        else s.modLane l fun x => { x with z := true, st := .running }.step x.pc 0)

/-- The token that TOK writes from a register block (R374). -/
def Lane.token (x : Lane) (d table : Nat) : Token :=
  let v := x.dr (d + 3)
  { e := BitVec.ofNat 48 (bits v 15 0 * 2 ^ 32 + (x.dr (d + 2)).toNat), shot := x.dr (d + 5), run := bits (x.dr (d + 4)) 15 10,
    table := true, src := table,
    value := BitVec.ofNat 16 (0x4000 + 256 * bits v 29 24 + 4 * bits v 20 18 + bits v 17 16) }

/-- TOK (R374). -/
def execLTok (l : LaneIx) (e : Ecc) (s : State) : Res :=
  let h := laneHalf l
  .next (s.laneIssue l e 0x29 fun s w x =>
    let d := fD w
    let tb := bits w 20 15
    let cfg := s.reg .DT_CFG h tb
    if bits w 14 0 ≠ 0 then s.laneFault l 1
    else if 26 < d then s.laneFault l 4
    else if s.ownTable (64 * h + tb) ≠ s.ownLane l ∨ !bit cfg 31 ∨ !bit cfg 30 ∨ bits cfg 11 8 ≠ laneLocal l then s.laneFault l 5
    else
      let k := x.token d (64 * h + tb)
      ((s.setReg .DT_STATUS h tb 0 (BitVec.ofNat 32 k.value.toNat)).emitToken h k).modLane l fun x => x.step x.pc 1)

/-- The DSP record (R375). -/
def dspRecord (x : Lane) (l d sr tag : Nat) : List Byte :=
  leBytes 1 4 ++ leBytes 1 (bits (x.dr (d + 4)) 15 10) ++ leBytes 1 l ++ leBytes 1 0 ++ leBytes 2 tag ++ leBytes 2 0 ++
  leBytes 4 (x.dr (d + 5)).toNat ++ leBytes 4 0 ++ (List.range 4).flatMap fun i => leBytes 4 (x.dr (sr + i)).toNat

/-- REC (R375). -/
def execLRec (l : LaneIx) (e : Ecc) (s : State) : Res :=
  let h := laneHalf l
  .next (s.laneIssue l e 0x2A fun s w x =>
    let d := fD w
    let sr := fA w
    let r := bits (x.dr (d + 4)) 15 10
    let u := s.runOf r
    let s' := s.modLane l fun x => x.step x.pc 1
    if 26 < d ∨ 28 < sr then s.laneFault l 4
    else if !u.active then s'.count .REC_DROP h (laneLocal l)
    else if some u.owner ≠ s.ownLane l then s.laneFault l 6
    else s'.formRecord h u.recRing (some r) false (dspRecord x l d sr (bits w 15 0)))

/-- SIG (R376). -/
def execLSig (l : LaneIx) (e : Ecc) (s : State) : Res :=
  .next (s.laneIssue l e 0x2B fun s w x =>
    let ec := bits w 25 16
    if bits w 15 0 ≠ 0 then s.laneFault l 1
    else if s.ownEvent ec ≠ s.ownLane l ∨ s.ecClass ec = 2 then s.laneFault l 7
    else (s.modLane l fun x => x.step x.pc 1).fireFrom (laneHalf l) ec x.outGen)

end Sys2Proof.Machine
end

