-- ==== Sys2Proof/Machine/Readout.lean ====
section
/-!
DEFINITION. Measurement channels and readout inputs: a row's samples, windows and their completion, averages, and the writes of
the RDO registers (R209 to R245).
-/
namespace Sys2Proof.Machine

/-- The runs that an input's channels are assigned to. -/
def State.inRuns (s : State) (i : Nat) : List Nat := ((inQueues i).flatMap s.runOfQueue).eraseDups

/-! ### Rows -/

/-- Whether an input's cores are powered: EN is 1, or they have not powered down since (R239 to R241). -/
def State.inPowered (s : State) (i : Nat) : Bool :=
  bit (s.reg .IN_CTL (i / 8) (i % 8)) 0 || bit (s.reg .IN_STATUS (i / 8) (i % 8)) 15

/-- The codes of a row enter an input: those given, or where an enabled input gives none what its cores deliver, which the model
leaves free (R240, log 2).  An input whose cores are not powered takes nothing (R239). -/
def State.readRow (s : State) (i row : Nat) (codes : Option (List (BitVec 12))) : State :=
  let put (s : State) (c : List (BitVec 12)) : State := { s with adc := mmod [] s.adc i fun l => l ++ [s.adcRow i row c] }
  if !s.inPowered i then s
  else
    match codes with
    | some c => put s c
    | none =>
      let r := s.free 384
      put r.2 ((List.range 32).map fun j => BitVec.ofNat 12 (bits r.1 (12 * j + 11) (12 * j)))

/-- The ball rows that no window and no swatch needs any more go (the model's own housekeeping). -/
def State.pruneAdc (s : State) (i row : Nat) : State :=
  let keep := s.wins.foldl (fun m w => if w.ch / 32 = i then min m (w.t / 32 - 2) else m) (row - 4)
  { s with adc := mmod [] s.adc i fun l => l.filter fun r => decide (keep ≤ r.row) || (r.ovr && !r.told) }

/-- Whether a window spans a ball row. -/
def Window.spans (w : Window) (row : Nat) : Bool := decide (w.t < 32 * row + 32 ∧ 32 * row < w.t + w.len)

/-- A ball row marks the windows of a half that span it: over-range or not READY (R230, R240), and the probe DAC's switch
(R226). -/
def State.markWindows (s : State) (h row : Nat) : State :=
  { s with wins := s.wins.map fun w =>
      let i := w.ch / 32
      if w.ch / 256 = h ∧ w.spans row then
        let notReady := (s.adcRows i).any fun r => decide (r.row = row) && !r.ready
        { w with ovr := w.ovr || s.overAt i row || notReady,
                 pmuted := w.pmuted || bit (s.reg .DAC_STATUS h (16 + i % 8)) 14 }
      else w }

/-- OVER_RANGE_ROW: an over-range row of an input is reported (R232). -/
def execOverRangeRow (i : InIx) (s : State) : Res :=
  let h := i.val / 8
  let k := i.val % 8
  .next (match (s.adcRows i).find? fun r => r.ovr && !r.told with
    | none => s
    | some r =>
      let s := { s with adc := mmod [] s.adc i fun l => l.map fun (x : AdcRow) => if x.row = r.row then { x with told := true } else x }
      let s := if bit (s.reg .IN_STATUS h k) 0 then s else s.setPair .OVR_FIRST_LO .OVR_FIRST_HI h k (32 * r.row)
      let s := (s.regBit .IN_STATUS h k 0 true).count .OVR_ROWS h k
      s.occur h 0x0A0 { runs := s.inRuns i, parts := (s.ownPair i).toList })

/-! ### A window's result -/

/-- The weight of baseband sample m of a window (R218); zero where its kernel word has an uncorrectable error (R223). -/
def State.weight (s : State) (c ksel j : Nat) (bad : List Nat) : Int × Int :=
  let h := c / 256
  let i := 4 * (c % 256) + ksel
  let cfg := s.reg .KS_CFG h i
  if bit cfg 31 then (32768, 0)
  else
    let a := bits (s.reg .KS_KADDR h i) 19 0 + j / 2 ^ bits cfg 3 0
    if bad.contains (a / 8) then (0, 0)
    else
      let w := BitVec.ofNat 32 (ofLE (s.read .kernel h (4 * a) 4))
      (sField w 15 0, sField w 31 16)

/-- The integrated point X_I, X_Q of a window and whether it saturated (R221, R222). -/
def State.integrate (s : State) (w : Window) (bad : List Nat) : Int × Int × Bool :=
  let shift := bits (s.reg .KS_CFG (w.ch / 256) (4 * (w.ch % 256) + w.ksel)) 20 16
  let b := s.bband w.ch (w.t / 8) (w.len / 8)
  let acc := b.foldl (fun (a : Nat × Int × Int) x =>
    let k := s.weight w.ch w.ksel a.1 bad
    (a.1 + 1, a.2.1 + (x.1 * k.1 - x.2 * k.2), a.2.2 + (x.1 * k.2 + x.2 * k.1))) (0, 0, 0)
  let i := narrow 32 shift acc.2.1
  let q := narrow 32 shift acc.2.2
  (i.1, q.1, i.2 || q.2)

/-- The boundary bits of a point (R224). -/
def State.boundary (s : State) (c ksel j : Nat) (x : Int × Int) : Bool :=
  let h := c / 256
  let i := 4 * (c % 256) + ksel
  let ab := s.reg (match j with | 0 => .KS_AB0 | 1 => .KS_AB1 | _ => .KS_AB2) h i
  let k := s.reg (match j with | 0 => .KS_C0 | 1 => .KS_C1 | _ => .KS_C2) h i
  bit (s.reg .KS_CFG h i) (28 + j) &&
    decide (0 ≤ sField ab 15 0 * x.1 + sField ab 31 16 * x.2 - 32768 * k.toInt)

/-- The token value of a window (R225, R226). -/
def State.tokenValue (s : State) (w : Window) (x : Int × Int × Bool) : BitVec 16 :=
  let d (j : Nat) : Nat := if s.boundary w.ch w.ksel j (x.1, x.2.1) then 1 else 0
  let idx := d 2 * 4 + d 1 * 2 + d 0
  let state := bits (s.reg .KS_MAP (w.ch / 256) (4 * (w.ch % 256) + w.ksel)) (2 * idx + 1) (2 * idx)
  let b (c : Bool) (n : Nat) : Nat := if c then n else 0
  BitVec.ofNat 16 (128 * d 2 + 64 * d 1 + 32 * d 0 + b w.pmuted 16 + b x.2.2 8 + b w.ovr 4 + state)

/-- The measurement record of a window (R233). -/
def measRecord (w : Window) (x : Int × Int × Bool) (v : BitVec 16) (n : Nat) (kecc : Bool) : List Byte :=
  let b (c : Bool) (n : Nat) : Nat := if c then n else 0
  leBytes 1 1 ++ leBytes 1 w.run ++ leBytes 2 w.ch ++ leBytes 4 w.shot ++ leBytes 8 (w.t + w.len) ++
  leBytes 4 (BitVec.ofInt 32 x.1).toNat ++ leBytes 4 (BitVec.ofInt 32 x.2.1).toNat ++ leBytes 2 v.toNat ++ leBytes 2 (min n 65535) ++
  leBytes 1 (b kecc 8 + b w.pmuted 4 + b x.2.2 2 + b w.ovr 1) ++ leBytes 1 w.ksel ++ leBytes 2 0

/-- A 64-bit signed sum in a pair of registers, saturating (R234). -/
def State.avgSum (s : State) (lo hi : Reg) (h i : Nat) (v : Int) : State :=
  s.setPair lo hi h i (BitVec.ofInt 64 (clampS 64 ((BitVec.ofNat 64 (s.pair lo hi h i)).toInt + v))).toNat

/-- The averaging update of a window (R234). -/
def State.average (s : State) (w : Window) (x : Int × Int × Bool) (v : BitVec 16) : State :=
  let h := w.ch / 256
  let i := w.ch % 256
  let s := ((s.avgSum .AVG_SUMI_LO .AVG_SUMI_HI h i x.1).avgSum .AVG_SUMQ_LO .AVG_SUMQ_HI h i x.2.1).count .AVG_COUNT h i
  let s := s.count (match bits v 1 0 with | 0 => .AVG_S0 | 1 => .AVG_S1 | 2 => .AVG_S2 | _ => .AVG_S3) h i
  let s := if w.ovr then s.count .AVG_OVR h i else s
  let s := if x.2.2 then s.count .AVG_XSAT h i else s
  { s with chans := mmod {} s.chans w.ch fun c => { c with avgLast := w.t + w.len } }

/-- The registers of averaging go to zero (R235). -/
def State.clearAvg (s : State) (c : Nat) : State :=
  s.forEach [Reg.AVG_SUMI_LO, .AVG_SUMI_HI, .AVG_SUMQ_LO, .AVG_SUMQ_HI, .AVG_COUNT, .AVG_S0, .AVG_S1, .AVG_S2, .AVG_S3, .AVG_OVR, .AVG_XSAT]
    fun s r => s.setReg r (c / 256) (c % 256) 0 0

/-- What a kernel check reports (R223): corrections are counted; whether a word was uncorrectable. -/
def State.kernelEcc (s : State) (w : Window) (k : KernelCheck) : State × Bool :=
  let h := w.ch / 256
  let s := if k.corrected = 0 then s else s.count .RDO_ECC_CORRECTED h 0 k.corrected
  if k.bad.isEmpty then (s, false)
  else
    let s := (s.regBit .CH_STATUS h (w.ch % 256) 3 true).raiseRun w.run 0x12
    (s.occur h 0x0A2 { runs := [w.run], parts := (s.ownPair (w.ch / 32)).toList }, true)

/-- A window completes (R221 to R238). -/
def State.completeWindow (s : State) (w : Window) (k : KernelCheck) : State :=
  let h := w.ch / 256
  let i := w.ch % 256
  let e := w.t + w.len
  let row := (e + 31) / 32 + 31
  let x := s.integrate w (k.bad)
  let v := s.tokenValue w x
  let ctl := s.reg .CH_CTL h i
  let chan := mget ({} : Chan) s.chans w.ch
  let n := if chan.run = w.run ∧ chan.shot = w.shot then chan.windows else 0
  let s := { s with wins := s.wins.erase w, chans := mmod {} s.chans w.ch fun c => { c with run := w.run, shot := w.shot, windows := n + 1 } }
  let r := s.kernelEcc w k
  let s := r.1.setReg .CH_STATUS h i 0 (r.1.reg .CH_STATUS h i ||| bitW x.2.2 2 ||| bitW w.ovr 1 ||| bitW w.pmuted 0)
  let s := if x.2.2 then
      (s.count .XSAT_COUNT h 0).occur h 0x0A1 { runs := [w.run], parts := (s.ownPair (w.ch / 32)).toList }
    else s
  let s := ((s.setReg .LAST_XI h i 0 (BitVec.ofInt 32 x.1)).setReg .LAST_XQ h i 0 (BitVec.ofInt 32 x.2.1)).setReg .LAST_TOKEN h i 0
    (BitVec.ofNat 32 v.toNat)
  let s := s.emitToken h { e := t48 e, shot := BitVec.ofNat 32 w.shot, run := w.run, table := false, src := w.ch, value := v }
  let s := s.fireProducer h (0x100 + i) 0 row
  let s := if bit ctl 0 then s.formRecord h (s.runOf w.run).recRing (some w.run) true (measRecord w x v n r.2) else s
  let s := if bit ctl 1 then s.average w x v else s
  if bit ctl 7 then
    s.laneDeliver (16 * h + bits ctl 11 8)
      { xi := BitVec.ofInt 32 x.1, xq := BitVec.ofInt 32 x.2.1, e := t48 e, value := v, run := w.run, ch := w.ch,
        shot := BitVec.ofNat 32 w.shot }
  else s

/-- The counter has reached the row in which the oldest window of a channel presents its token (R227). -/
def State.windowOver (s : State) (c : Nat) (k : KernelCheck) : State :=
  match s.wins.find? fun w => w.ch == c with
  | some w => if (w.t + w.len + 31) / 32 + 31 ≤ s.row (c / 256) then s.completeWindow w k else s
  | none => s

/-- WINDOW_COMPLETE (R227). -/
def execWindowComplete (c : ChIx) (k : KernelCheck) (s : State) : Res := .next (s.windowOver c k)

/-! ### Inputs -/

/-- A write to IN_CTL: enabling an input, or disabling it with its 32 channels (R114, R240, R241). -/
def State.wrInCtl (s : State) (i : Nat) (v : Word) : State :=
  let h := i / 8
  let k := i % 8
  let was := bit (s.reg .IN_CTL h k) 0
  let en := bit v 0
  let s := s.setReg .IN_CTL h k 0 (v &&& 1)
  if !was && en then (s.testOff h (88 + k)).enSet (enInput i) (some (s.now h))
  else if was && !en then
    let b := s.nextBoundary h
    let s := s.forEach (inQueues i) fun s q => s.disableQueue q
    let s := { s with wins := s.wins.filter fun w => w.ch / 32 ≠ i || decide (w.t + w.len ≤ b) }
    let s := (s.capSourceOff i).enSet (enInput i) none
    if s.calOn h 3 i || s.calOn h 4 i then s.endCal h 0x02 else s
  else s

/-- The cores of a disabled input power down at the row boundary (R241). -/
def State.settleInput (s : State) (i : Nat) : State :=
  if bit (s.reg .IN_CTL (i / 8) (i % 8)) 0 then s else s.regBit .IN_STATUS (i / 8) (i % 8) 15 false

/-- ADC_READY (R240). -/
def execAdcReady (i : InIx) (s : State) : Res :=
  .next (if bit (s.reg .IN_CTL (i.val / 8) (i.val % 8)) 0 then (s.regBit .IN_STATUS (i.val / 8) (i.val % 8) 15 true).enSet (enInput i) none else s)

/-- ADC_NOT_READY: READY has not come within 50 µs of EN (R240). -/
def execAdcNotReady (i : InIx) (s : State) : Res :=
  .next (if bit (s.reg .IN_CTL (i.val / 8) (i.val % 8)) 0 ∧ !bit (s.reg .IN_STATUS (i.val / 8) (i.val % 8)) 15 ∧ s.enLate (enInput i) (s.now (i.val / 8)) then
      (s.enSet (enInput i) none).occur (i.val / 8) 0x0A3 { runs := s.inRuns i, parts := (s.ownPair i).toList }
    else s)

/-! ### Writes of channel registers (R245) -/

/-- A write to CH_CTL (R235, R237, R245). -/
def State.wrChCtl (s : State) (c : Nat) (v : Word) : State :=
  let h := c / 256
  let i := c % 256
  if s.inRun (1024 + c) then s.count .RDO_IGNORED_WRITES h 0
  else if bit v 7 && s.ownLane (16 * h + bits v 11 8) != s.ownPair (c / 32) then s.count .RDO_IGNORED_WRITES h 0
  else
    let s := s.setReg .CH_CTL h i 0 (v &&& 0xF83)
    let s := if bit v 3 then s.clearAvg c else s
    if bit v 2 then
      let b := s.nextBoundary h
      s.oscSet (1024 + c) b fun o => { o with p := 0, tref := t48 b }
    else s

/-- A committed write of F, or a write of P, to a channel. -/
def State.wrChOsc (s : State) (c : Nat) (f : Osc → Osc) : State :=
  if s.inRun (1024 + c) then s.count .RDO_IGNORED_WRITES (c / 256) 0 else s.oscSet (1024 + c) (s.nextBoundary (c / 256)) f

/-- A write to a register of kernel set i of a half. -/
def State.wrKernelSet (s : State) (r : Reg) (h i : Nat) (v : Word) : State :=
  if s.inRun (1024 + 256 * h + i / 4) then s.count .RDO_IGNORED_WRITES h 0 else s.setReg r h i 0 (v &&& r.info.rw)

end Sys2Proof.Machine
end

