-- ==== Sys2Proof/Machine/Quiet.lean ====
section
/-!
DEFINITION. What host software does to the fault unit and to quiet mode, and what follows of itself: FAULT_N, the capture,
shadows, the exit from quiet mode and the firmware watchdog (R578 to R599).
-/
namespace Sys2Proof.Machine

/-! ### Live conditions -/

/-- Whether the trigger condition of source i of half h lasts (R580); false for a source whose trigger is an instant, and for one
whose condition the part does not hold. -/
def State.live (s : State) (h i : Nat) : Bool :=
  let clk := s.reg .CLK_STATUS h
  let rails := s.reg .PWR_STATUS h
  if i = 0x040 then !bit clk 0
  else if i = 0x041 then bit clk 0 && !bit clk 1
  else if i = 0x084 then
    (List.range 24).any fun k => s.unready (enDac h k) (bit (s.reg .DAC_CTL h k) 0) (bit (s.reg .DAC_STATUS h k) 15)
  else if i = 0x0A3 then
    (List.range 8).any fun k => s.unready (enInput (8 * h + k)) (bit (s.reg .IN_CTL h k) 0) (bit (s.reg .IN_STATUS h k) 15)
  else if i = 0x0C3 then (List.range 64).any fun c => s.fluxFailed (64 * h + c)
  else if i = 0x0C0 then (List.range 64).any fun c => bit (s.reg .FLX_STATUS h c) 1
  else if i = 0x0C4 then !(bit rails 7 && bit rails 8)
  else if i = 0x0E0 then (List.range 96).any fun m => bit (s.reg .MON_STATUS h m) 31
  else if i = 0x160 then (s.dlkOf h).lost
  else if i = 0x170 then bit s.warm h
  else if i = 0x171 then bit s.hot h
  else if i = 0x172 then (mget ({} : Gov) s.gov h).sagged
  else false

/-! ### FAULT_N -/

/-- A write to FN_ACK (R588, R589): the ball is released now or 1 µs after the assertion began, and with FN_PENDING set it is to
assert again 1 µs later; during that 1 µs the acknowledgement is ignored. -/
def State.wrFnAck (s : State) (h : Nat) : State :=
  let f := s.faultN
  if bit (s.reg .FLT_CTL 0) 4 then s.count .FLT_IGNORED h 0
  else if f.reassert.isSome ∨ !f.asserted then s
  else
    let t := max (s.now 0) (f.since + 20000)
    { s with faultN :=
        if t ≤ s.now 0 then
          { f with asserted := false, pending := false, release := none, again := false, reassert := if f.pending then some (t + 20000) else none }
        else { f with pending := false, release := some t, again := f.again || f.pending } }

/-- An acknowledged ball is released once its assertion has lasted 1 µs (R588). -/
def State.settleFaultN (s : State) : State :=
  let f := s.faultN
  match f.release with
  | some t =>
    if t ≤ s.now 0 then
      { s with faultN :=
          { f with asserted := false, pending := false, release := none, again := false,
                   reassert := if f.again || f.pending then some (t + 20000) else none } }
    else s
  | none => s

/-- The release of 1 µs ends (R588). -/
def State.reassertFaultN (s : State) : State :=
  match s.faultN.reassert with
  | some t => if t ≤ s.now 0 then { s with faultN := { asserted := true, since := s.now 0 } } else s
  | none => s

/-- FAULT_N_REASSERT. -/
def execFaultNReassert (s : State) : Res := .next s.reassertFaultN

/-- A write to FLT_CTL, which acts on both halves (R587, R589). -/
def State.wrFltCtl (s : State) (v : Word) : State :=
  let old := bit (s.reg .FLT_CTL 0) 4
  let s := s.setReg .FLT_CTL 0 0 0 (v &&& 0x1F)
  if bit v 4 then s.refreshFaultN
  else if old then { s with faultN := { asserted := s.compatLevel, since := s.now 0 } }
  else s

/-! ### Sources and the capture -/

/-- A write to SRC_CFG: EN and CLASS of a source that exists, unless it is locked (R578). -/
def State.wrSrcCfg (s : State) (h i : Nat) (v : Word) : State :=
  match sourceRow i with
  | none => s
  | some (_, true) => s.count .FLT_IGNORED h 0
  | some (_, false) => (s.setReg .SRC_CFG h i 0 (v &&& 0xE0000000)).refreshFaultN

/-- A write of 1 to SRC_STATUS.LATCHED clears the latch (R580, R589). -/
def State.wrSrcStatus (s : State) (h i : Nat) (v : Word) : State :=
  if bit v 1 then (s.regBit .SRC_STATUS h i 1 false).refreshFaultN else s

/-- A write of 1 to SRC_FORCE: the occurrence comes at the next row boundary (R581). -/
def State.wrSrcForce (s : State) (h i : Nat) (v : Word) : State :=
  if bit v 0 ∧ (sourceRow i).isSome then { s with forced := s.forced ++ [(h, i)] } else s

/-- The forced occurrences of a half at a row boundary, in ascending local index (R581, R583). -/
def State.forceDue (s : State) (h : Nat) : State :=
  let due := s.forced.filter fun e => e.1 == h
  let s := { s with forced := s.forced.filter fun e => e.1 != h }
  s.forEach (List.range 512) fun s i =>
    s.forEach (due.filter fun e => e.2 == i) fun s _ => s.occur h i { forced := true }

/-- A write of 1 to FIRST_CLR clears VALID, FIRST_T and OVERFLOW (R582). -/
def State.wrFirstClr (s : State) (h : Nat) (v : Word) : State :=
  if bit v 0 then
    { ((s.regBit .FIRST_ID h 0 31 false).setPair .FIRST_T_LO .FIRST_T_HI h 0 0).regBit .FLT_STATUS h 0 30 false with
      firstRow := mset none s.firstRow h none }
  else s

/-- A W1C write to FLT_PSUM acts on both halves' copies while the link is up (R590, R596). -/
def State.wrPsum (s : State) (h k : Nat) (v : Word) : State :=
  s.forEach (s.reached h) fun s g => s.setReg .FLT_PSUM g k 0 (s.reg .FLT_PSUM g k &&& ~~~ v)

/-- SHADOW_END: the n-th shadow has reached its end (R584). -/
def execShadowEnd (h : Half) (n : Nat) (s : State) : Res :=
  .next (match s.shadowsF[n]? with
    | some x => if x.half = h.val ∧ x.until_ ≤ s.now h then { s with shadowsF := s.shadowsF.eraseIdx n } else s
    | none => s)

/-- FW_WATCHDOG: a half's management firmware has not serviced its watchdog for 10 ms (R599). -/
def execFwWatchdog (h : Half) (s : State) : Res := .next (s.occur h 0x1E0)

/-! ### Leaving quiet mode -/

/-- Whether some source of a half with class FATAL is LATCHED or LIVE (R594). -/
def State.fatalHolds (s : State) (h : Nat) : Bool :=
  sources.any fun e => s.srcClass h e.1 == 3 && (bit (s.reg .SRC_STATUS h e.1) 1 || s.live h e.1)

/-- Whether a request to leave quiet mode is granted (R72, R594). -/
def State.exitOk (s : State) (h : Nat) : Bool :=
  !s.fatalHolds 0 && !s.fatalHolds 1 &&
  bits (s.reg .CLK_STATUS 0) 2 1 == 3 && bits (s.reg .CLK_STATUS 1) 2 1 == 3 &&
  (s.dlkOf 0).st == .active && (s.dlkOf 1).st == .active &&
  (s.quietOf h).lastReq != some (s.row h)

/-- A write to QUIET_CTL: EXIT requests the exit of a half in quiet mode, BIND_OFF enters quiet mode and latches no fault
(R593, R594). -/
def State.wrQuietCtl (s : State) (h : Nat) (v : Word) : State :=
  let s :=
    if bit v 1 ∧ s.isQuiet h then
      let ok := s.exitOk h
      s.forEach (s.reached h) fun s g =>
        s.modQuiet g fun q => { q with lastReq := some (s.row g), granted := ok, exitResult := if ok then q.exitResult else 0x0A }
    else s
  if bit v 0 then s.enterQuiet h 2 0 else s

/-- The row boundary after a granted request has come, and both halves leave quiet mode (R594, R595, R598). -/
def State.quietExit (s : State) : State :=
  let due (h : Nat) : Bool := (s.quietOf h).granted && (match (s.quietOf h).lastReq with | some r => decide (r < s.row h) | none => false)
  if due 0 ∧ due 1 then
    let s := s.forEach [0, 1] fun s h => s.modQuiet h fun q => { q with on := false, granted := false, exitResult := 0 }
    s.notifyAll [0, 1] fun _ => true
  else s

/-- QUIET_EXIT (R594). -/
def execQuietExit (s : State) : Res := .next s.quietExit

end Sys2Proof.Machine
end

