-- ==== Sys2Proof/Machine/Power.lean ====
section
/-!
DEFINITION. The tension governor, the temperature sensors and the TAP (R607 to R613, R624, R626).
-/
namespace Sys2Proof.Machine

/-! ### The tension governor -/

def State.govOf (s : State) (h : Nat) : Gov := mget {} s.gov h
def State.modGov (s : State) (h : Nat) (f : Gov → Gov) : State := { s with gov := mmod {} s.gov h f }

/-- A field of GOV_CTL of which 0 is treated as 1. -/
def State.govField (s : State) (h hi lo : Nat) : Nat := max 1 (bits (s.reg .GOV_CTL h) hi lo)

/-- The level computed from the droop D (R607). -/
def State.govLevel (s : State) (h : Nat) (d : Int) : Nat :=
  let th : Int := s.govField h 7 0
  if d < th then 0 else min 8 (1 + (d - th).toNat / s.govField h 15 8)

/-- The level changes to n: an episode begins or ends, and GOV_ENTRIES counts rises from 0. -/
def State.setLevel (s : State) (h n : Nat) : State :=
  let g := s.govOf h
  let s := if g.level = 0 ∧ 0 < n then s.count .GOV_ENTRIES h 0 else s
  let s := s.modGov h fun g =>
    { g with level := n, since := if n = 0 then none else (match g.since with | some t => some t | none => some (s.now h)),
             sagged := g.sagged && n != 0 }
  s.setReg .GOV_STATUS h 0 0 (setBits (s.reg .GOV_STATUS h) 31 28 n)

/-- GOV_EVALUATE: VCORE_REF and the droop are formed, and the level rises to the computed one (R607, R608). -/
def execGovEvaluate (h : Half) (g : GovReading) (s : State) : Res :=
  let d : Int := (g.mean.toNat : Int) - g.low.toNat
  let n := s.govLevel h d
  let s := s.setReg .VCORE_REF h 0 0 (g.mean.zeroExtend 32)
  let s := s.setReg .GOV_STATUS h 0 0 (setBits (s.reg .GOV_STATUS h) 15 0 (BitVec.ofInt 16 d).toNat)
  let s := if (s.govOf h).level < n then s.setLevel h n else s
  .next (s.modGov h fun x =>
    { x with comp := n, below := if n < x.level then (match x.below with | some t => some t | none => some (s.now h)) else none })

/-- GOV_DESCENT: the computed level has stayed below the level for HOLD µs, and the level falls by one (R608). -/
def execGovDescent (h : Half) (s : State) : Res :=
  let g := s.govOf h
  .next (match g.below with
    | some t =>
      let e := t + 20000 * s.govField h 23 16
      if 0 < g.level ∧ e ≤ s.now h then
        (s.setLevel h (g.level - 1)).modGov h fun x => { x with below := if x.comp < x.level then some e else none }
      else s
    | none => s)

/-- SUPPLY_SAG: the level has been 1 or more for more than 100 µs; once for the episode (R612). -/
def execSupplySag (h : Half) (s : State) : Res :=
  let g := s.govOf h
  .next (match g.since with
    | some t =>
      if !g.sagged ∧ t + 2000000 < s.now h then
        ((s.modGov h fun g => { g with sagged := true }).count .SAG_COUNT h 0).occur h 0x172
      else s
    | none => s)

/-- A row spent at level 1 or more is counted in GOV_ROWS. -/
def State.govRow (s : State) (h : Nat) : State :=
  if (s.govOf h).level = 0 then s
  else s.setPair .GOV_ROWS_LO .GOV_ROWS_HI h 0 (s.pair .GOV_ROWS_LO .GOV_ROWS_HI h 0 + 1)

/-! ### Temperature -/

/-- The hottest of the readings, in Q8.8 °C. -/
def hottest (l : List (BitVec 16)) : Int := l.foldl (fun m t => max m t.toInt) (-32768)

/-- A temperature as TEMP, TEMP_MAX and SENSOR_TEMP show it. -/
def tempWord (t : Int) : Word := (BitVec.ofInt 16 t).zeroExtend 32

/-- THERMAL_SAMPLE: the 8 sensors of a half are read (R613). -/
def execThermalSample (h : Half) (temps : List (BitVec 16)) (s : State) : Res :=
  .next (if temps.length = 8 then
      let t := hottest temps
      let s := s.forEach (List.range 8) fun s i => s.setReg .SENSOR_TEMP h i 0 ((temps.getD i 0).zeroExtend 32)
      let s := s.setReg .TEMP h 0 0 (tempWord t)
      let top := ((s.reg .TEMP_MAX h).truncate 16).toInt
      let s := if top < t then s.setReg .TEMP_MAX h 0 0 (tempWord t) else s
      let limit := ((s.reg .TEMP_WARN h).truncate 16).toInt
      let s :=
        if !bit s.warm h ∧ limit ≤ t then { s with warm := setBit s.warm h true }.occur h 0x170
        else if bit s.warm h ∧ t ≤ limit - 512 then { s with warm := setBit s.warm h false }
        else s
      if !bit s.hot h ∧ 29440 ≤ t then { s with hot := setBit s.hot h true }.occur h 0x171
      else if bit s.hot h ∧ t < 26880 then { s with hot := setBit s.hot h false }
      else s
    else s)

/-! ### The TAP (IEEE 1149.1, which R624 names) -/

/-- The next state of the controller on a rising edge of TCK. -/
def TapSt.next (t : TapSt) (tms : Bool) : TapSt :=
  match t, tms with
  | .reset, true => .reset
  | .reset, false => .idle
  | .idle, true => .selectDr
  | .idle, false => .idle
  | .selectDr, true => .selectIr
  | .selectDr, false => .captureDr
  | .captureDr, true => .exit1Dr
  | .captureDr, false => .shiftDr
  | .shiftDr, true => .exit1Dr
  | .shiftDr, false => .shiftDr
  | .exit1Dr, true => .updateDr
  | .exit1Dr, false => .pauseDr
  | .pauseDr, true => .exit2Dr
  | .pauseDr, false => .pauseDr
  | .exit2Dr, true => .updateDr
  | .exit2Dr, false => .shiftDr
  | .updateDr, true => .selectDr
  | .updateDr, false => .idle
  | .selectIr, true => .reset
  | .selectIr, false => .captureIr
  | .captureIr, true => .exit1Ir
  | .captureIr, false => .shiftIr
  | .shiftIr, true => .exit1Ir
  | .shiftIr, false => .shiftIr
  | .exit1Ir, true => .updateIr
  | .exit1Ir, false => .pauseIr
  | .pauseIr, true => .exit2Ir
  | .pauseIr, false => .pauseIr
  | .exit2Ir, true => .updateIr
  | .exit2Ir, false => .shiftIr
  | .updateIr, true => .selectDr
  | .updateIr, false => .idle

/-- Whether FAULT_N is asserted: throughout SELFTEST and in FAILED, released otherwise before READY, and from READY as the
fault unit drives it (R502, R588, R589). -/
def State.faultBall (s : State) : Bool :=
  match s.boot.st with
  | .selftest => true
  | .failed => true
  | .ready => s.faultN.asserted
  | _ => false

/-- The level at a pin of the boundary register; SYNC_IN's is drawn free. -/
def State.pinLevel (s : State) (free : Bool) (n : Fin 38) : Bool :=
  if n.val < 16 then (s.marker n.val).level
  else if n.val < 32 then bit s.pins (n.val - 16)
  else if n.val = 32 then free
  else if n.val = 33 then !s.faultBall
  else !(s.port (n.val - 34)).perst

/-- The instruction in force: SAMPLE/PRELOAD and EXTEST act only while RESET_N is low (R624). -/
def State.tapInstr (s : State) : TapInstr := if s.boot.resetLow then s.tap.instr else .bypass

/-- What the boundary register drives at a MARK or FAULT_N ball under EXTEST; none where no cell drives the pin. -/
def State.tapDrives (s : State) (n : Fin 38) : Option Bool :=
  match s.tapInstr with
  | .extest => (Config.tapCells.zip s.tap.latch).lookup n
  | _ => none

/-- Shift one bit in at TDI's end. -/
def shiftIn (l : List Bool) (b : Bool) : List Bool := match l with | [] => [] | _ :: t => t ++ [b]

/-- TCK_EDGE (R624): on a rising edge the controller acts in its present state and moves on; on a falling edge TDO and the updates
change.  TRST_N low (`trst`) holds it in Test-Logic-Reset. -/
def execTckEdge (rising : Bool) (tms : Bool) (tdi : Bool) (trst : Bool) (s : State) : Res :=
  let t := s.tap
  .next (if trst then { s with tap := { t with st := .reset, instr := .bypass, tdo := none } }
    else if rising then
      let f : BitVec 1 × State := s.free 1
      let s := if t.st = .captureDr ∧ s.tapInstr ≠ .bypass then f.2 else s
      let t := match t.st with
        | .captureIr => { t with ir := true :: List.replicate (Config.tapLength - 1) false }
        | .shiftIr => { t with ir := shiftIn t.ir tdi }
        | .captureDr =>
          { t with dr := match s.tapInstr with
                    | .bypass => [false]
                    | _ => Config.tapCells.map (s.pinLevel (bit f.1 0)) }
        | .shiftDr => { t with dr := shiftIn t.dr tdi }
        | _ => t
      { s with tap := { t with st := t.st.next tms } }
    else
      let t := { t with tdo := match t.st with | .shiftDr => t.dr.head? | .shiftIr => t.ir.head? | _ => none }
      let t := match t.st with
        | .reset => { t with instr := .bypass }
        | .updateIr => { t with instr := if Config.tapCode t.ir = 1 then .sample else if Config.tapCode t.ir = 2 then .extest else .bypass }
        | .updateDr => if s.tapInstr = .bypass then t else { t with latch := t.dr }
        | _ => t
      { s with tap := t })

end Sys2Proof.Machine
end

