-- ==== Sys2Proof/Machine/Boot.lean ====
section
/-!
DEFINITION. Cast-on: rails and resets, SELFTEST, the arbiter of delivered images, their checks, zeroisation, the owner manifest,
READY and recast (R45, R52, R304, R311, R472 to R474, R483, R487 to R502, R605, R606).
-/
namespace Sys2Proof.Machine

/-! ### Rails, resets and zeroisation -/

/-- The registers that zeroisation leaves: CLK_STATUS, SYNC_LOAD and SYNC_PREV (R483), and PWR_STATUS, which the rail detectors
drive. -/
def keptRegs : List Nat :=
  [Reg.CLK_STATUS.info.num, Reg.SYNC_LOAD_LO.info.num, Reg.SYNC_LOAD_HI.info.num, Reg.SYNC_PREV_LO.info.num,
   Reg.SYNC_PREV_HI.info.num, Reg.PWR_STATUS.info.num]

/-- The entries of a register file that belong to the registers listed. -/
def keepRegs (l : List Nat) (m : FMap Word) : FMap Word := m.filter fun e => l.contains (e.1 / 256 / 2048 / 2)

/-- A port that keeps its link, with the configuration space and BAR2 of its function, through a cast-on (R501's table of resets). -/
def HostPort.linkOnly (x : HostPort) : HostPort :=
  { link := x.link, speed := x.speed, width := x.width, perst := x.perst, cfg := { x.cfg with pending := 0 } }

/-- Zeroisation (R483): memories zero, registers at reset but for R483's exceptions; the counters go on, and what is no register
of the part (links, pins, temperature comparisons, cast-on itself, fuses) stays. -/
def State.zeroise (s : State) : State :=
  { State.reset with
    pending := s.pending, freeCount := s.freeCount, c0 := s.c0, c1 := s.c1, regs := keepRegs keptRegs s.regs, out := s.out,
    boot := s.boot, spdm := s.spdm, fuses := s.fuses, tap := s.tap, dlk := s.dlk, pins := s.pins, warm := s.warm, hot := s.hot,
    ports := mmap {} (fun _ x => x.linkOnly) s.ports, ntLink := s.ntLink }

/-- COLD after a reset that stops everything (R606 and the table of resets): the fuses, the rails, the TAP, the levels at TRIG_IN and PERST_N stay. -/
def State.cold (s : State) (resetLow : Bool) : State :=
  { State.reset with
    pending := s.pending, freeCount := s.freeCount, regs := keepRegs [Reg.PWR_STATUS.info.num] s.regs, out := s.out,
    fuses := s.fuses, tap := s.tap, pins := s.pins, ports := mmap {} (fun _ x => ({ perst := x.perst } : HostPort)) s.ports,
    boot := { st := .cold, resetLow := resetLow } }

/-- PIN_RESET: RESET_N low for 1 µs (R52, R487). -/
def execPinReset (s : State) : Res := .next (s.cold true)

/-- Whether every rail of both halves is valid (R488, R605). -/
def State.railsValid (s : State) : Bool := s.reg .PWR_STATUS 0 == 0x1FF && s.reg .PWR_STATUS 1 == 0x1FF

/-- A flux channel without its rails: high impedance, and EN = 0 and RANGE = 0 when they return (R304, R311). -/
def State.fluxDead (s : State) (h c : Nat) : State :=
  let s := s.disableQueue (1536 + 64 * h + c)
  let s := s.setReg .FLX_CTL h c 0 (s.reg .FLX_CTL h c &&& 0xA)
  let s := (s.setReg .FLX_STATUS h c 0 (s.reg .FLX_STATUS h c &&& 0x7)).enSet (enFlux (64 * h + c)) none
  s.modFlux (64 * h + c) fun x => { tripped := x.tripped }

/-- RAIL_VALID (R304, R605): the rail's bit sets; from the moment both flux rails are valid every flux channel of the half has EN = 0 and
RANGE = 0. -/
def execRailValid (h : Half) (rail : Fin 9) (s : State) : Res :=
  let was := decide (bits (s.reg .PWR_STATUS h) 8 7 = 3)
  let s := s.regBit .PWR_STATUS h 0 rail.val true
  .next (if 7 ≤ rail.val ∧ !was ∧ bits (s.reg .PWR_STATUS h) 8 7 = 3 then s.forEach (List.range 64) fun s c => s.fluxDead h c else s)

/-- RAIL_INVALID (R606): a flux rail's loss raises FLUX_RAIL_LOSS and takes the half's flux outputs to high impedance (R311); any
other sends the part to COLD. -/
def execRailInvalid (h : Half) (rail : Fin 9) (s : State) : Res :=
  .next (if !bit (s.reg .PWR_STATUS h) rail.val then s
    else
      let both := decide (bits (s.reg .PWR_STATUS h) 8 7 = 3)
      let s := s.regBit .PWR_STATUS h 0 rail.val false
      if rail.val < 7 then s.cold s.boot.resetLow
      else if both then
        let s := s.occur h 0x0C4 { parts := ((List.range 8).filterMap fun g => s.ownFluxGroup (8 * h.val + g)).eraseDups }
        s.forEach (List.range 64) fun s c => s.fluxDead h c
      else s)

/-! ### Cast-on states -/

def State.bootPort (s : State) (p : Nat) : BootPort := mget {} s.boot.ports p
def State.modBoot (s : State) (f : Boot → Boot) : State := { s with boot := f s.boot }
def State.modBootPort (s : State) (p : Nat) (f : BootPort → BootPort) : State :=
  s.modBoot fun b => { b with ports := mmod {} b.ports p f }

/-- MSI-X vector 0 of every port, where it is enabled and unmasked (R499). -/
def State.bootNotice (s : State) : State := s.forEach [0, 1, 2, 3] fun s p => s.sendMsix p 0

/-- The image of a port is refused with a code (R498, R499). -/
def State.refuse (s : State) (p code : Nat) : State :=
  ((s.modBootPort p fun x => { st := .refused, err := code, got := x.got }).modBoot fun b => { b with queue := b.queue.filter (· ≠ p) }).bootNotice

/-- The port whose image is LOADING (R492). -/
def State.loading (s : State) : Option Nat := ([0, 1, 2, 3] : List Nat).find? fun p => (s.bootPort p).st == .loading

/-- The data of a port's last register read. -/
def State.answer (s : State) (p : Nat) (v : Word) : State := { s with lastRead := mset 0 s.lastRead p v }

/-- The messages that a half has formed and the far half has not received are lost (R570): far reads read all ones, far writes are
counted (R34). -/
def State.dropMsgs (s : State) (g : Nat) : State :=
  let s := s.forEach (s.dlkOf g).msgs fun s m => match m with
    | .regWrite p _ _ => s.count .FAR_WR_DISCARD (p / 2) 0
    | .go p _ => s.count .FAR_WR_DISCARD (p / 2) 0
    | .regRead p _ => s.answer p 0xFFFFFFFF
    | .regAnswer p _ => s.answer p 0xFFFFFFFF
    | _ => s
  s.modDlk g fun d => { d with msgs := [] }

/-- REFCLK, a PLL's lock or the die link is lost before READY: the part returns to SELFTEST and every image is refused with
0x19 (R489). -/
def State.backToSelftest (s : State) : State :=
  match s.boot.st with
  | .awaitImage | .verify | .start =>
    let l := ([0, 1, 2, 3] : List Nat).filter fun p =>
      match (s.bootPort p).st with | .queued | .loading | .won => true | _ => false
    let s := s.forEach l fun s p => s.refuse p 0x19
    let s := if s.boot.st = .start then s.zeroise else s
    let s := (s.dropMsgs 0).dropMsgs 1
    { s with dlk := [], boot := { s.boot with st := .selftest, winner := none, sect := 0, image := [] } }
  | _ => s

/-- SELFTEST_START (R488): the latest of every rail valid, RESET_N high and REFCLK present. -/
def execSelftestStart (s : State) : Res :=
  .next (if s.boot.st = .cold ∧ s.railsValid ∧ bit (s.reg .CLK_STATUS 0) 0 then s.modBoot fun b => { b with st := .selftest, resetLow := false } else s)

/-- The FAIL_CAUSE of a failed SELFTEST. -/
def failCause : SelfTest → Nat
  | .passed => 0
  | .pllFailed => 1
  | .memoryFailed => 2
  | .dieLinkFailed => 3
  | .fuseFailed => 4

/-! ### Delivering an image -/

/-- PSTATE as BOOT_STATUS shows it to a port (R492). -/
def State.pstate (s : State) (p : Nat) : Nat :=
  if s.ready ∧ s.boot.winner ≠ some p then 7
  else
    match (s.bootPort p).st with
    | .idle => if s.boot.st = .verify ∨ s.boot.st = .start then 3 else 0
    | .queued => 1
    | .loading => 2
    | .won => 4
    | .refused => 5
    | .dropped => 6

/-- Count an ignored write or GO (R491, R494, R500, R501). -/
def State.bootIgnored (s : State) : State := s.count .BOOT_IGNORED 0 0

/-- The chunks that a boot ring lists, where its entries are well formed. -/
def bootChunks (ring : List Byte) (n : Nat) : Option (List (Nat × Nat)) :=
  let es := (List.range n).map fun i => slice ring (16 * i) 16
  let chunk (e : List Byte) : Nat × Nat := (leField e 0 8, leField e 8 4)
  let ok (i : Nat) (e : List Byte) : Bool :=
    leField e 0 8 % 4096 == 0 && leField e 12 4 == 0 && leField e 8 4 % (if i + 1 = n then 64 else 4096) == 0
  if ring.length = 16 * n ∧ (es.zipIdx.all fun x => ok x.2 x.1) = true then some (es.map chunk) else none

/-- Whether a GO of a port is accepted: in AWAIT_IMAGE or VERIFY, with PSTATE IDLE, REFUSED or DROPPED (R491). -/
abbrev State.goOpen (s : State) (p : Nat) : Prop :=
  (s.boot.st = .awaitImage ∨ s.boot.st = .verify) ∧ (s.pstate p = 0 ∨ s.pstate p = 5 ∨ s.pstate p = 6)

/-- A write of 1 to BOOT_CTL.GO (R491): checks the length and the boot ring, whose bytes the part reads, and queues the port's image
or refuses it. -/
def State.bootGo (s : State) (p : Nat) (ring : List Byte) : State :=
  if s.goOpen p then
    let len := (s.reg .BOOT_LEN 0 p).toNat
    let n := (s.reg .BOOT_RING_COUNT 0 p).toNat
    match if len % 64 = 0 ∧ 3648 ≤ len ∧ len ≤ 33554432 ∧ 1 ≤ n ∧ n ≤ 1024 then bootChunks ring n else none with
    | some cs =>
      if cs.foldl (fun a c => a + c.2) 0 = len then
        (s.modBootPort p fun _ => { st := .queued, chunks := cs }).modBoot fun b => { b with queue := b.queue ++ [p] }
      else s.refuse p 0x15
    | none => s.refuse p 0x15
  else s.bootIgnored

/-- VERIFY_START (R492): the image at the head of the queue moves to LOADING. -/
def execVerifyStart (s : State) : Res :=
  .next (match s.boot.queue with
    | p :: q =>
      if (s.boot.st = .awaitImage ∨ s.boot.st = .verify) ∧ s.loading = none then
        (s.modBootPort p fun x => { x with st := .loading }).modBoot fun b => { b with st := .verify, queue := q }
      else s
    | [] => s)

/-- After a refusal in VERIFY: VERIFY goes on for the next queued GO, or the part waits for one (R487). -/
def State.afterRefusal (s : State) : State :=
  s.modBoot fun b => { b with st := if b.queue.isEmpty then .awaitImage else b.st }

/-- A write of 1 to BOOT_CTL.ABORT (R494). -/
def State.bootAbort (s : State) (p : Nat) : State :=
  match (s.bootPort p).st with
  | .queued =>
    let s := s.refuse p 0x16
    if s.loading.isSome then s else s.afterRefusal
  | .loading => (s.refuse p 0x16).afterRefusal
  | _ => s.bootIgnored

/-- A write to BOOT_CTL: a GO that is not accepted is ignored and counted, one that is comes as the row GO (log 8); ABORT acts
(R494). -/
def State.wrBootCtl (s : State) (p : Nat) (v : Word) : State :=
  let s := if bit v 0 ∧ ¬ s.goOpen p then s.bootIgnored else s
  if bit v 1 then s.bootAbort p else s

/-! ### The checks of an image -/

/-- Whether bytes [a, b) are zero. -/
def zeroBytes (l : List Byte) (a b : Nat) : Bool := (slice l a (b - a)).all (· == 0)

/-- The owner-key hash of a manifest (R472). -/
def ownerHash (m : List Byte) : BitVec 384 := Config.sha384 (slice m 24 96)

/-- The first failure among the header checks, in R498's order 1 to 4. -/
def State.headerFailure (s : State) (p : Nat) (img : List Byte) : Option Nat :=
  let len := (s.reg .BOOT_LEN 0 p).toNat
  let f (o n : Nat) : Nat := leField img o n
  let k := f 6 1
  let flags := f 7 1
  let revoke := flags / 2 % 16
  let entry (n : Nat) : List Byte := slice img (64 + 16 * n) 16
  let off (n : Nat) : Nat := leField (entry n) 4 4
  let size (n : Nat) : Nat := leField (entry n) 8 4
  let entryOk (n : Nat) : Bool :=
    leField (entry n) 0 1 == n + 1 && off n % 64 == 0 && decide (512 ≤ off n) && size n != 0 && (n != 4 || size n == 2880) && (n == 0 || decide (off (n - 1) + size (n - 1) ≤ off n))
  if f 0 4 ≠ 0x5A455154 ∨ f 4 2 ≠ 1 ∨ f 16 4 ≠ len ∨ f 20 1 ≠ 5 ∨ k / 4 ≠ 0 ∨ flags / 32 ≠ 0 ∨ !zeroBytes img 21 64 ∨
      !zeroBytes img 144 192 ∨ !zeroBytes img 384 512 ∨
      !((List.range 5).all fun n => zeroBytes (entry n) 1 4 && zeroBytes (entry n) 12 16) ∨ revoke / 2 ^ (k % 4) ≠ 0 then some 0x10
  else if bit s.fuses.revoked (k % 4) ∨ Config.sha384 (slice img 192 96) ≠ Config.romKey (Fin.ofNat 4 k) then some 0x12
  else if f 8 8 < s.fuses.count then some 0x14
  else if !((List.range 5).all entryOk) ∨ off 4 + size 4 ≠ len then some 0x11
  else none

/-- The length of the next read of a port's image: within its chunk, 512 bytes, the max read request size and a 4 KiB boundary
(R459, R493). -/
def State.nextPiece (s : State) (p : Nat) : Nat :=
  let x := s.bootPort p
  let walk := x.chunks.foldl (fun (a : Nat × Option (Nat × Nat)) c =>
    match a.2 with
    | some _ => a
    | none => if x.data.length < a.1 + c.2 then (a.1, some (c.1 + (x.data.length - a.1), a.1 + c.2 - x.data.length)) else (a.1 + c.2, none)) (0, none)
  match walk.2 with
  | some (addr, left) => min left (min (min 512 (s.port p).cfg.maxRead) (4096 - addr % 4096))
  | none => 0

/-- A read of the image completes during VERIFY (R492, R493, R498): the next bytes of the stream arrive, whose offset is `id`, or the read has
failed; once the header is there and fails its checks, nothing more is read. -/
def State.bootRead (s : State) (p id : Nat) (data : List Byte) : State :=
  let x := s.bootPort p
  if x.st = .loading ∧ !x.failed ∧ id = x.data.length ∧ 0 < s.nextPiece p ∧
      !(decide (512 ≤ x.data.length) && (s.headerFailure p x.data).isSome) then
    if data.length = s.nextPiece p then s.modBootPort p fun x => { x with data := x.data ++ data, got := x.got + data.length }
    else s.modBootPort p fun x => { x with failed := true }
  else s

/-- Entry i of a manifest, as it stands in PT_WINDOW. -/
def manifestEntry (m : List Byte) (i : Nat) : BitVec 4096 := BitVec.ofNat 4096 (leField m (192 + 512 * i) 512)

/-- The resource bits of an entry: bytes 16–32 and 40–495. -/
def resourceBits (e : BitVec 4096) : BitVec 4096 :=
  e &&& (BitVec.ofNat 4096 ((2 ^ 136 - 1) * 2 ^ 128) ||| BitVec.ofNat 4096 ((2 ^ 3648 - 1) * 2 ^ 320))

/-- The reserved bits of an entry. -/
def entryReserved (e : BitVec 4096) : Bool :=
  bits e 15 9 == 0 && bits e 31 20 == 0 && bits e 63 52 == 0 && bits e 95 85 == 0 && bits e 127 112 == 0 && bits e 263 260 == 0 &&
  bits e 319 264 == 0 && bits e 4095 3968 == 0

/-- Whether the layout of R474's code 0x46 is valid. -/
def layoutOk (e : Nat → BitVec 4096) : Bool :=
  let ids : List Nat := [0, 1, 2, 3, 8]
  let all5 : List Nat := [0, 1, 2, 3, 4]
  let pairs := all5.flatMap fun a => (all5.filter (a < ·)).map fun b => (a, b)
  let base (i : Nat) : Nat := bits (e i) 51 32
  let n (i : Nat) : Nat := bits (e i) 84 64
  (all5.all fun i => bits (e i) 7 0 == ids.getD i 0) &&
  ((List.range 4).all fun p => (all5.filter fun i => bit (e i) (16 + p)).length == 1) &&
  (pairs.all fun x => resourceBits (e x.1) &&& resourceBits (e x.2) == 0) &&
  resourceBits (e 4) == 0 &&
  (all5.all fun i => bits (e i) 19 16 != 0 || resourceBits (e i) == 0) &&
  (all5.all fun i => decide (base i + n i ≤ 1048576)) &&
  (pairs.all fun x => decide (n x.1 = 0 ∨ n x.2 = 0 ∨ base x.1 + n x.1 ≤ base x.2 ∨ base x.2 + n x.2 ≤ base x.1)) &&
  (all5.all fun i => decide (bits (e i) 111 96 ≤ 8192))

/-- The first failure among the manifest checks of R474. -/
def State.manifestFailure (s : State) (m : List Byte) : Option Nat :=
  let flags := leField m 6 1
  let bind := flags % 2 == 1
  let transfer := flags / 2 % 2 == 1
  let uid := leField m 8 8
  let cur := s.fuses.slots.length
  let hash := ownerHash m
  if leField m 0 4 ≠ 0x4D4F5154 ∨ leField m 4 2 ≠ 1 ∨ leField m 20 4 ≠ 2880 ∨ flags / 8 ≠ 0 ∨ !zeroBytes m 7 8 ∨
      !zeroBytes m 168 192 ∨ !zeroBytes m 2752 2784 ∨ ((List.range 5).all fun i => entryReserved (manifestEntry m i)) = false then some 0x40
  else if !Config.ecdsaVerify (slice m 24 96) (Config.sha384 (slice m 0 2784)) (slice m 2784 96) then some 0x41
  else if uid ≠ 0 ∧ uid ≠ (Config.uid 0).toNat then some 0x42
  else if bind ≠ (cur == 0) then some 0x43
  else if cur ≠ 0 ∧ (s.fuses.slots[cur - 1]? ≠ some hash ∨ s.fuses.bad.contains (cur - 1)) then some 0x44
  else if transfer ∧ (cur = 4 ∨ leField m 120 48 = 0) then some 0x45
  else if !layoutOk (manifestEntry m) then some 0x46
  else none

/-- The manifest section of an image. -/
def manifestOf (img : List Byte) : List Byte := slice img (img.length - 2880) 2880

/-- The first failure of an image that VERIFY finds, in R498's order. -/
def State.imageFailure (s : State) (p : Nat) (img : List Byte) (failed : Bool) (rep : VerifyReport) : Option Nat :=
  let early := if 512 ≤ img.length then s.headerFailure p img else none
  match early with
  | some c => some c
  | none =>
    if failed then some 0x15
    else if rep.stagedEcc then some 0x17
    else if !Config.ecdsaVerify (slice img 192 96) (Config.sha384 (img.take 288 ++ List.replicate 96 0 ++ img.drop 384)) (slice img 288 96) then
      some 0x13
    else s.manifestFailure (manifestOf img)

/-! ### START -/

/-- The fuses that START blows: revocations, anti-rollback up to min(SVN, 64), an owner slot (R472, R497); and whether a slot is
programmed. -/
def Fuses.program (f : Fuses) (img : List Byte) : Fuses × Bool :=
  let m := manifestOf img
  let flags := leField img 7 1
  let n := min (leField img 8 8) 64
  let f := { f with revoked := f.revoked ||| BitVec.ofNat 4 (flags / 2), count := if flags % 2 = 1 then max f.count n else f.count }
  if f.slots.isEmpty then ({ f with slots := [ownerHash m] }, true)
  else if leField m 6 1 / 2 % 2 = 1 then ({ f with slots := f.slots ++ [BitVec.ofNat 384 (ofBE (slice m 120 48))] }, true)
  else (f, false)

/-- The manifest is applied (R45, R442, R473, R571): the five entries are in force, the quotas take their initial values, DLK_LOSS
its class, and CAST_ON_ID is drawn (R484). -/
def State.applyManifest (s : State) (m : List Byte) : State :=
  let r : BitVec 64 × State := s.free 64
  let s := { r.2 with parts := (List.range 5).foldl (fun l i => mset 0 l i (manifestEntry m i)) [] }
  let s := s.forEach [0, 1] fun s h =>
    let s := (s.setPair .CAST_ON_ID_LO .CAST_ON_ID_HI h 0 r.1.toNat).setReg .MANIFEST_SEQ h 0 0 (BitVec.ofNat 32 (leField m 16 4))
    let s := if leField m 6 1 / 4 % 2 = 1 then s.setReg .SRC_CFG h 0x160 0 0xD0000000 else s
    s.forEach (List.range 5) fun s k => s.setReg .TAG_QUOTA h k 0 (BitVec.ofNat 32 (leField m (192 + 512 * k + 12) 2))
  s

/-- A refusal in START (R499): the memories and registers are zeroised again. -/
def State.refuseStart (s : State) (code : Nat) : State :=
  match s.boot.winner with
  | some p =>
    let s := s.zeroise.refuse p code
    s.modBoot fun b => { b with st := .awaitImage, winner := none, sect := 0, image := [], refusal := if 0x40 ≤ code then code else b.refusal }
  | none => s

/-- An image has passed (R492, R498): the other queued GOs are DROPPED, and START zeroises, programs fuses and applies the
manifest; a fuse read-back that differs refuses it with 0x47. -/
def State.winImage (s : State) (p : Nat) (img : List Byte) (rep : VerifyReport) : State :=
  let s := s.forEach s.boot.queue fun s q => s.modBootPort q fun _ => { st := .dropped }
  let s := s.modBootPort p fun x => { x with st := .won, err := 0, data := [], chunks := [] }
  let s := s.modBoot fun b => { b with st := .start, queue := [], winner := some p, image := img }
  let s := s.zeroise
  let f := s.fuses.program img
  let moved := decide (1 < f.1.slots.length) && f.2
  let s := { (s.modBoot fun b => { b with transferred := moved }) with fuses := f.1 }
  if f.2 ∧ rep.fuseDiffers then
    ({ s with fuses := { f.1 with bad := f.1.bad ++ [f.1.slots.length - 1] } }).refuseStart 0x47
  else s.applyManifest (manifestOf img)

/-- VERIFY_END (R498): the image has been read and is refused at its first failure, or passes. -/
def execVerifyEnd (rep : VerifyReport) (s : State) : Res :=
  .next (match s.loading with
    | none => s
    | some p =>
      let x := s.bootPort p
      let early := decide (512 ≤ x.data.length) && (s.headerFailure p x.data).isSome
      if s.boot.st = .verify ∧ (x.data.length = (s.reg .BOOT_LEN 0 p).toNat ∨ x.failed ∨ early) then
        match s.imageFailure p x.data x.failed rep with
        | some c => ((s.refuse p c).modBoot fun b => { b with refusal := if 0x40 ≤ c then c else b.refusal }).afterRefusal
        | none => s.winImage p x.data rep
      else s)

/-- FW_STARTED (R444, R487, R499): the part is READY. -/
def execFwStarted (s : State) : Res :=
  .next (if s.boot.st = .start then (s.modBoot fun b => { b with st := .ready, sect := b.sect ||| 1 }).bootNotice else s)

/-- FW_START_TIMEOUT (R498): management firmware has not reported started within 10 ms. -/
def execFwStartTimeout (s : State) : Res := .next (if s.boot.st = .start then s.refuseStart 0x18 else s)

/-- SECTION_START (R444): the next section of the image starts. -/
def execSectionStart (s : State) : Res :=
  .next (if s.ready then s.modBoot fun b => { b with sect := (b.sect <<< 1) ||| 1 } else s)

/-- A write of 1 to BOOT_RECAST (R501): in quiet mode with every flux channel's EN at 0 the part enters COLD, keeping sample time,
fuses and links; otherwise it is ignored. -/
def State.recast (s : State) : State :=
  let quiet := s.isQuiet 0 && s.isQuiet 1
  let flux := [0, 1].any fun h => (List.range 64).any fun c => bit (s.reg .FLX_CTL h c) 0
  if s.ready ∧ quiet ∧ !flux then
    let s := s.zeroise
    { s with dlk := [], spdm := [], boot := { st := .cold, recast := true, started := s.boot.started } }
  else s.bootIgnored

end Sys2Proof.Machine
end

