-- ==== Sys2Proof/Machine/AuxAdc.lean ====
section
/-!
DEFINITION. The auxiliary ADC of each half: scans, conversions, periodic starts (R328 to R334).
-/
namespace Sys2Proof.Machine

def State.auxOf (s : State) (h : Nat) : Aux := mget {} s.aux h
def State.modAux (s : State) (h : Nat) (f : Aux → Aux) : State := { s with aux := mmod {} s.aux h f }

/-- A scan starts at row k with the mask of that moment; `gen` is the generation of its SCAN_DONE.  A mask of zero powers up
nothing (R329, R330). -/
def State.scanStart (s : State) (h k gen : Nat) : State :=
  let mask := bits (s.reg .AUX_MASK h) 7 0
  let s := s.setPair .SCAN_T_LO .SCAN_T_HI h 0 (32 * k)
  if mask = 0 then
    let s := (s.modAux h fun a => { a with last := some k }).count .SCAN_COUNT h 0
    s.fireGen h 0x48 gen k
  else
    let s := s.setReg .AUX_STATUS h 0 0 (s.reg .AUX_STATUS h ||| 0xC0000000)
    s.modAux h fun a => { busy := true, mask := mask, k := k, gen := gen, last := some k, starts := a.starts }

/-- A write to AUX_START: the start registers at the next row boundary (R329). -/
def State.wrAuxStart (s : State) (h : Nat) (v : Word) : State :=
  if bit v 0 then s.modAux h fun a => { a with starts := a.starts + 1 } else s

/-- The register starts that register at the boundary just reached: with a scan in progress one is counted and starts nothing (R330,
R332). -/
def State.settleAux (s : State) (h : Nat) : State :=
  let n := (s.auxOf h).starts
  (s.modAux h fun a => { a with starts := 0 }).forEach (List.range n) fun s _ =>
    if (s.auxOf h).busy then s.count .AUX_IGNORED h 0 else s.scanStart h (s.row h) 0

/-- AUX_POWERUP_END: 1,250 rows after k (R329). -/
def execAuxPowerupEnd (h : Half) (s : State) : Res :=
  let a := s.auxOf h
  .next (if a.busy ∧ a.k + 1250 ≤ s.row h then s.modAux h fun a => { a with ready := true } else s)

/-- The channel that a scan converts next: the set bit of its mask above which `n` set bits lie lower. -/
def auxChannel (mask n : Nat) : Nat := ((List.range 8).filter fun i => mask.testBit i).getD n 0

/-- The number of channels of a scan. -/
def auxCount (mask : Nat) : Nat := ((List.range 8).filter fun i => mask.testBit i).length

/-- The code of a conversion of V microvolts and whether it clamped (R333). -/
def auxCode (v : Int) : BitVec 16 × Bool :=
  (BitVec.ofInt 16 (clampS 16 ((v * 65536 + 2500000) / 5000000)), decide (2500000 < v.natAbs))

/-- AUX_CONVERSION: the conversion in progress ends, 625 rows after it was sampled, and its result is written (R329, R333). -/
def execAuxConversion (h : Half) (microvolt : Int) (s : State) : Res :=
  let a := s.auxOf h
  .next (if a.busy ∧ a.ready ∧ a.k + 1250 + 625 * (a.done + 1) ≤ s.row h then
      let ch := auxChannel a.mask a.done
      let r := auxCode microvolt
      let row := a.k + 1250 + 625 * a.done
      let s := s.setReg .AUX_RESULT h ch 0 (bitW true 31 ||| bitW r.2 30 ||| BitVec.ofNat 32 r.1.toNat)
      let s := if r.2 then (s.regBit .AUX_STATUS h 0 ch true).occur h 0x0E8 { parts := [4] } else s
      let s := (s.capConv h ch row r.1 r.2).modAux h fun a => { a with done := a.done + 1 }
      if a.done + 1 < auxCount a.mask then s
      else
        let s := s.setReg .AUX_STATUS h 0 0 (s.reg .AUX_STATUS h &&& 0x3FFFFFFF)
        let s := (s.modAux h fun a => { a with busy := false, ready := false }).count .SCAN_COUNT h 0
        s.fireGen h 0x48 a.gen (s.row h)
    else s)

/-- AUX_PERIODIC_START: 625 × P rows after the last start; a scan in progress makes it skip (R331, R332). -/
def execAuxPeriodicStart (h : Half) (s : State) : Res :=
  let a := s.auxOf h
  let p := bits (s.reg .AUX_PERIOD h) 19 0
  .next (match a.last with
    | some k =>
      if p ≠ 0 ∧ k + 625 * p ≤ s.row h then
        if a.busy then
          ((s.modAux h fun a => { a with last := some (s.row h) }).count .AUX_SKIPPED h 0).occur h 0x0E9 { parts := [4] }
        else s.scanStart h (s.row h) 0
      else s
    | none => s)

end Sys2Proof.Machine
end

