-- ==== Sys2Proof/Machine/Events.lean ====
section
/-!
DEFINITION. The event router's pins, task inputs and registers (R411 to R424).
-/
namespace Sys2Proof.Machine

/-! ### Owners -/

/-- The owner of a group of 16 channels: the partition that owns all 16, otherwise PD (R419). -/
def State.ownEvGroup (s : State) (h g : Nat) : Option Nat :=
  let first := s.ownEvent (512 * h + 16 * g)
  if (List.range 16).all fun i => s.ownEvent (512 * h + 16 * g + i) == first then first else some 4

/-- Whether a task-input code exists on a half (R416's table). -/
def taskExists (h u : Nat) : Bool :=
  (h == 0 && decide (u < 0x40)) || decide (0x40 ≤ u ∧ u < 0x58) || decide (0x60 ≤ u ∧ u < 0x74) || u == 0x78 ||
  decide (0x80 ≤ u ∧ u < 0x98) || decide (0xA0 ≤ u ∧ u < 0xF8) || decide (0x100 ≤ u ∧ u < 0x160) || decide (0x180 ≤ u ∧ u < 0x1C0)

/-- The owner of a task input: of the resource that it acts on (R415). -/
def State.ownTask (s : State) (h u : Nat) : Option Nat :=
  if u < 0x40 then (if (s.runOf u).active then some (s.runOf u).owner else none)
  else if u < 0x60 then s.ownDac h (u - 0x40)
  else if u < 0x70 then s.ownFluxGroup (8 * h + (u - 0x60) % 8)
  else if u < 0x78 then s.ownEngine (2 * h + (u - 0x70) % 2)
  else if u < 0x80 then some 4
  else if u < 0x90 then s.ownLane (16 * h + (u - 0x80))
  else if u < 0xA0 then s.ownMark (8 * h + (u - 0x90))
  else if u < 0x100 then
    let g := u - 0xA0
    if g < 24 then s.ownDac h g else s.ownFluxGroup (8 * h + (g - 24) / 8)
  else if u < 0x180 then s.ownMon h (u - 0x100)
  else s.ownEvGroup h ((u - 0x180) % 32)

/-- The owner of a hardware producer code; none where the code is not in the table (R413). -/
def State.ownProducer (s : State) (h code : Nat) : Option Nat :=
  if 0x008 ≤ code ∧ code < 0x010 then s.ownTrig (8 * h + (code - 0x008))
  else if 0x018 ≤ code ∧ code < 0x020 then s.ownTrig (8 * h + (code - 0x018))
  else if 0x020 ≤ code ∧ code < 0x024 then some 4
  else if 0x040 ≤ code ∧ code < 0x044 then s.ownEngine (2 * h + code % 2)
  else if code = 0x048 ∨ code = 0x049 then some 4
  else if 0x050 ≤ code ∧ code < 0x060 then s.ownLane (16 * h + (code - 0x050))
  else if 0x100 ≤ code ∧ code < 0x200 then s.ownPair ((256 * h + (code - 0x100)) / 32)
  else if 0x200 ≤ code ∧ code < 0x260 then s.ownMon h (code - 0x200)
  else if 0x280 ≤ code ∧ code < 0x2D8 then
    let g := code - 0x280
    if g < 24 then s.ownDac h g else s.ownFluxGroup (8 * h + (g - 24) / 8)
  else if 0x300 ≤ code ∧ code < 0x304 then some 4
  else none

/-- Whether a SAFETY channel admits a producer code (R414). -/
def safetyCode (code : Nat) : Bool :=
  code == 0 || decide (0x008 ≤ code ∧ code < 0x020) || decide (0x200 ≤ code ∧ code < 0x260) || decide (0x300 ≤ code ∧ code < 0x304)

/-- Whether a channel of a class may have a producer (R413, R414). -/
def State.srcOk (s : State) (ch cls code : Nat) : Bool :=
  (code == 0 || ((s.ownProducer (ch / 512) code).isSome && s.ownProducer (ch / 512) code == s.ownEvent ch)) &&
  (cls != 2 || safetyCode code)

/-! ### Pins -/

/-- TRIG_IN_EDGE: an edge at a trigger input, `off` sixteenths of a sample into the row in progress (R347, R412, R420). -/
def execTrigInEdge (i : MarkIx) (rising : Bool) (off : Fin 512) (s : State) : Res :=
  let h := i.val / 8
  let k := i.val % 8
  .next (if bit s.pins i = rising then s
    else
      let t := 16 * s.now h + off.val
      let s := { s with pins := setBit s.pins i rising }
      let close := match mget none s.pinEdge i with | some x => decide (x ≤ t ∧ t < x + 1024) | none => false
      let s := if close then s else { s.capPin i rising t with pinEdge := mset none s.pinEdge i (some t) }
      s.fireProducer h ((if rising then 0x008 else 0x018) + k) 0 (s.row h))

/-! ### Task inputs -/

/-- A firing that finds its input busy (R416). -/
def State.taskDrop (s : State) (h u : Nat) : State := s.count .TASK_DROP h u

/-- A registered firing acts (R416's table), but in quiet mode at no MARK input (R592); `gen` is its generation. -/
def State.taskAct (s : State) (h u gen : Nat) : State :=
  let row := s.row h
  let sel := s.reg .TASK_SEL h u
  if u < 0x40 then
    let r := s.runOf u
    if r.st = .armed ∧ r.mode = .onEvent ∧ r.t0 = none then s.fixT0 u (leadTime (32 * row) (s.startLead r.threads)) else s.taskDrop h u
  else if u < 0x58 then (s.regBit .DAC_STATUS h (u - 0x40) 3 true).closeSwitch h (u - 0x40)
  else if u < 0x68 then { s with strobes := s.strobes ++ [⟨8 * h + (u - 0x60), 32 * (row + 20)⟩] }
  else if u < 0x70 then
    let s := s.regBit .TASK_SEL h u 29 true
    s.forEach (List.range 8) fun s i => s.tripFlux (64 * h + 8 * (u - 0x68) + i)
  else if u < 0x72 then
    let e := 2 * h + (u - 0x70)
    if (s.cap e).st = .armed ∧ (s.cap e).mode = 2 ∧ (s.cap e).ks = none then s.capArm e row else s.taskDrop h u
  else if u < 0x74 then
    let e := 2 * h + (u - 0x72)
    if (s.cap e).st = .opened then s.capEvent e row gen else s.taskDrop h u
  else if u = 0x78 then (if (s.auxOf h).busy then s.taskDrop h u else s.scanStart h row (gen + 1))
  else if u < 0x90 then
    let l := 16 * h + (u - 0x80)
    if s.laneCanStart l then s.laneStart l (some gen) else s.taskDrop h u
  else if u < 0x98 ∧ s.isQuiet h then s.taskDrop h u
  else if u < 0x98 then s.taskMarker (8 * h + (u - 0x90)) (bits sel 28 27) (max 1 (bits sel 26 19))
  else if u < 0x100 then s.requestJump h (u - 0xA0) none
  else if u < 0x160 then
    let m := u - 0x100
    let blank := s.reg .MON_BLANK h m
    if bits blank 31 30 = 1 ∧ bit (s.reg .MON_CFG h m) 0 then { s with blanks := s.blanks ++ [96 * h + m] } else s
  else if u < 0x1A0 then
    if mget none s.taskRow (512 * h + u + 0x20) = some row then s else s.regBit .EG_CTL h 0 (u - 0x180) true
  else s.regBit .EG_CTL h 0 (u - 0x1A0) false

/-- Whether an input is a core consumer: DSP START, GROUP_EN, GROUP_DIS; the others register through the resynchroniser (R420). -/
def taskCore (u : Nat) : Bool := decide (0x80 ≤ u ∧ u < 0x90) || decide (0x180 ≤ u)

/-- Whether a firing reaches an input by asynchronous logic: a SAFETY channel's firing a MUTE or TRIP input (R30, R420). -/
def State.taskAsync (s : State) (u ch : Nat) : Bool :=
  s.ecClass ch == 2 && (decide (0x40 ≤ u ∧ u < 0x58) || decide (0x68 ≤ u ∧ u < 0x70))

/-- Whether a firing under way can register at a task input now: asynchronously at any moment, at a core consumer from its own row
on, through the resynchroniser at a later row boundary (R420, R628). -/
def State.taskDue (s : State) (h : Half) (u : Nat) (f : Fire) : Bool :=
  f.dest == .task h u && (s.taskAsync u f.ch || decide (f.row < s.row h ∨ (taskCore u = true ∧ f.row = s.row h)))

/-- TASK_INPUT_REGISTRATION: the oldest firing on its way to a task input that can register does (R415, R416).  Of two firings that
register in one row, which is also one arbitration of a core consumer (log 80), the second is ignored and counted. -/
def execTaskInputRegistration (h : Half) (u : Fin 448) (s : State) : Res :=
  .next (match s.fires.find? fun f => s.taskDue h u f with
    | none => s
    | some f =>
      let s := { s with fires := s.fires.erase f }
      if !taskExists h u then s
      else if s.taskAsync u f.ch then s.taskAct h u f.gen
      else if mget none s.taskRow (512 * h + u) = some (s.row h) then s.taskDrop h u
      else { s with taskRow := mset none s.taskRow (512 * h + u) (some (s.row h)) }.taskAct h u f.gen)

/-! ### Writes of the EVR registers -/

def State.evrIgnored (s : State) (h : Nat) : State := s.count .EVR_IGNORED_WRITES h 0

/-- A write to EC_FIRE through a port of partition k (R412, R424). -/
def State.wrEcFire (s : State) (h : Nat) (k : Option Nat) (v : Word) : State :=
  let ch := bits v 9 0
  if ch / 512 ≠ h ∨ s.ownEvent ch ≠ k ∨ s.ecClass ch ≠ 0 then s.evrIgnored h else s.fire ch 0 (s.row h)

/-- The groups of a half that a partition owns, as a mask of EG_CTL (R419, R424). -/
def State.egMask (s : State) (h : Nat) (k : Option Nat) : Word :=
  BitVec.ofNat 32 ((List.range 32).foldl (fun a g => if s.ownEvGroup h g == k then a + 2 ^ g else a) 0)

/-- Whether a task input of the other half selects a channel. -/
def State.farSelects (s : State) (ch : Nat) : Bool :=
  let h := 1 - ch / 512
  (s.listed .TASK_SEL h).any fun u => bit (s.reg .TASK_SEL h u) 31 && bits (s.reg .TASK_SEL h u) 9 0 == ch

/-- A write to EC_CFG (R411 to R414): a CLASS of 3, a CLASS change while EN = 1, a SAFETY channel that a task input of the other
half selects, and a SRC that R413 or R414 refuses are ignored and counted. -/
def State.wrEcCfg (s : State) (ch : Nat) (v : Word) : State :=
  let h := ch / 512
  let old := s.ecCfg ch
  let ocls := bits old 30 29
  let osrc := bits old 11 0
  let cls := bits v 30 29
  let src := bits v 11 0
  let badCls := cls != ocls && (cls == 3 || bit old 31 || (cls == 2 && s.farSelects ch))
  let cls := if badCls then ocls else cls
  let badSrc := (src != osrc || cls != ocls) && !s.srcOk ch cls src
  let s := if badCls || badSrc then s.evrIgnored h else s
  let keep := badSrc && !s.srcOk ch cls osrc
  let cls := if keep then ocls else cls
  let src := if badSrc then osrc else src
  s.setReg .EC_CFG h (ch % 512) 0 (setBits (setBits (setBit old 31 (bit v 31)) 30 29 cls) 11 0 src)

/-- A write to TASK_SEL (R414, R415, R417, R421): CLR of a TRIP input releases it; a selection that breaks the rules is ignored
and counted. -/
def State.wrTaskSel (s : State) (h u : Nat) (v : Word) : State :=
  if u < 0x40 then s
  else
    let s := if 0x68 ≤ u ∧ u < 0x70 ∧ bit v 30 then s.regBit .TASK_SEL h u 29 false else s
    let old := s.reg .TASK_SEL h u
    let w := v &&& 0x9FF803FF
    if w = old &&& 0x9FF803FF then s
    else
      let ch := bits v 9 0
      if s.ownEvent ch ≠ s.ownTask h u ∨ (s.ecClass ch = 2 ∧ ch / 512 ≠ h) then s.evrIgnored h
      else s.setReg .TASK_SEL h u 0 (w ||| (old &&& 0x20000000))

end Sys2Proof.Machine
end

