-- ==== Sys2Proof/Machine/Cal.lean ====
section
/-!
DEFINITION. Calibration: the sequencers and their routines, plausibility, gradual application, background tracking, and the
blob (R390 to R409).
-/
namespace Sys2Proof.Machine

/-! ### Targets -/

/-- The half of a routine's target, given its global index (R393). -/
def calHalf (routine target : Nat) : Nat :=
  match routine with
  | 1 => target / 16
  | 2 => target / 8
  | 5 => target / 64
  | _ => target / 8

/-- The number of targets of a routine; none for a code that is not in the table. -/
def calCount (routine : Nat) : Option Nat :=
  match routine with
  | 1 => some 32
  | 2 => some 16
  | 3 => some 16
  | 4 => some 16
  | 5 => some 128
  | _ => none

/-- The owner of a routine's target. -/
def State.ownCal (s : State) (routine target : Nat) : Option Nat :=
  match routine with
  | 1 => s.ownDrive target
  | 5 => s.ownFluxGroup (target / 8)
  | _ => s.ownPair target

/-- Whether a target is assigned to an active run. -/
def State.calInRun (s : State) (routine target : Nat) : Bool :=
  match routine with
  | 1 => s.dacInRun (target / 16) (target % 16)
  | 2 => s.dacInRun (target / 8) (16 + target % 8)
  | 5 => s.inRun (fluxQ target)
  | _ => (inQueues target).any s.inRun

/-- Whether an input is the source of a swatch that is not FREE. -/
def State.calSwatch (s : State) (i : Nat) : Bool :=
  [2 * (i / 8), 2 * (i / 8) + 1].any fun e => (s.cap e).st != .free && s.capSrc e == 0 && s.capChan e / 32 == i

/-- Whether a target is enabled and READY. -/
def State.calReady (s : State) (routine target : Nat) : Bool :=
  let on (ctl st : Reg) (h i rdy : Nat) : Bool := bit (s.reg ctl h i) 0 && bit (s.reg st h i) rdy
  match routine with
  | 1 => on .DAC_CTL .DAC_STATUS (target / 16) (target % 16) 15
  | 2 => on .DAC_CTL .DAC_STATUS (target / 8) (16 + target % 8) 15
  | 5 => on .FLX_CTL .FLX_STATUS (target / 64) (target % 64) 14
  | _ => on .IN_CTL .IN_STATUS (target / 8) (target % 8) 15

/-- The checks of R394 for a partition, in their order: the status of the first failure. -/
def State.calCheck (s : State) (routine target : Nat) (part : Option Nat) : Option (BitVec 8) :=
  match calCount routine with
  | none => some 0x09
  | some n =>
    if n ≤ target then some 0x09
    else if s.ownCal routine target ≠ part then some 0x08
    else if !bit s.boot.sect 3 then some 0x16
    else if s.isQuiet (calHalf routine target) then some 0x11
    else if !s.calReady routine target || s.calInRun routine target || (routine == 5 && s.fluxChanging target) ||
      (decide (routine = 3 ∨ routine = 4) && s.calSwatch target) then some 0x0A
    else none

/-! ### The sequencer (R393 to R400) -/

/-- What the first measurement of a routine ends it with: an input that is not quiet, an open load (R396, R397). -/
def State.calBegins (s : State) (h : Nat) (j : CalJob) (obs : CalObservation) : Option (BitVec 8) :=
  if (j.routine = 3 ∨ j.routine = 4) ∧ (s.reg .CAL_QUIET_TH h).toInt < obs.power then some 0x0C
  else if j.routine = 5 ∧ obs.loadOpen then some 0x0D
  else none

/-- CAL_ROUTINE_START: the sequencer, free and not held back by the governor (R609), takes the oldest CAL_RUN waiting, checking it again
(R393 to R397). -/
def execCalRoutineStart (h : Half) (obs : CalObservation) (s : State) : Res :=
  let c := s.calOf h
  .next (match c.job, c.waiting with
    | none, j :: js =>
      if s.paced h 27 then s
      else
        let s := s.modCal h fun c => { c with waiting := js }
        match (s.calCheck j.routine j.target (s.ownCal j.routine j.target)).or (s.calBegins h j obs) with
        | some st => s.calDone h j.tag st
        | none =>
          let s := s.modCal h fun c => { c with job := some j }
          match j.routine with
          | 1 => s.closeSwitch h (j.target % 16)
          | 2 => s.closeSwitch h (16 + j.target % 8)
          | 5 =>
            let g := if bit (s.flxCtl j.target) 2 then 2 else 1
            s.modFlux j.target fun x =>
              { x with calSeq := [-24576, 0, x.code.toInt],
                       nextRamp := some ⟨.cal, 0, 24576, s.nextBoundary h + 640, (s.reg .FLX_SLEW h (j.target % 64)).toNat, g⟩ }
          | _ => s
    | _, _ => s)

/-- The plausibility limits of R399. -/
def plausible (routine : Nat) (r : CalResult) : Bool :=
  let within (x : BitVec 16) (lo hi : Int) : Bool := decide (lo ≤ x.toInt ∧ x.toInt ≤ hi)
  match routine with
  | 1 => decide (r.outside ≤ 4 ∧ r.cellErr ≤ 150)
  | 2 => decide (r.outside ≤ 4 ∧ r.cellErr ≤ 150)
  | 3 => decide (r.compOfs ≤ 3000) && within r.gain 15401 17367 && within r.gain2 15401 17367 && within r.ofs (-320) 320 && within r.ofs2 (-320) 320
  | 4 => decide (16 ≤ r.tap ∧ r.tap ≤ 112) && decide (r.skew ≤ 50) && decide (r.mismatch ≤ 200)
  | _ => decide (r.outside ≤ 3) && within r.gain 15892 16876 && within r.ofs (-256) 256

/-- Values to take effect at the next row boundary, and the target of tracking equal to them. -/
def State.trimNext (s : State) (h key : Nat) (t : Trim) : State :=
  s.modCal h fun c => { c with next := c.next ++ [(key, t)], target := mset none c.target key (some t) }

/-- A command completes OK at the next row boundary of half h, its values having taken effect. -/
def State.calPost (s : State) (h : Nat) (p : CalPost) : State := s.modCal h fun c => { c with posts := c.posts ++ [p] }

/-- The routine running has ended. -/
def State.calFree (s : State) (h : Nat) : State := s.modCal h fun c => { c with job := none }

/-- A result that passes is applied: of routines 1 to 4 at the next row boundary; of FLUX_CELLS step by step, the routine going on
(R393, R400). -/
def State.calApply (s : State) (h : Nat) (j : CalJob) (r : CalResult) : State :=
  let i := j.target
  let done (s : State) : State := (s.calFree h).calPost h { tag := j.tag, run := true }
  match j.routine with
  | 1 => done (s.trimNext h (i % 16) { s.trim h (i % 16) with cells := r.cells, valid := true })
  | 2 => done (s.trimNext h (16 + i % 8) { s.trim h (16 + i % 8) with cells := r.cells, valid := true })
  | 3 =>
    let e := coreKey (2 * (i % 8))
    let o := coreKey (2 * (i % 8) + 1)
    let s := s.trimNext h e { s.trim h e with cells := r.cells, gain := r.gain, ofs := r.ofs, valid := true }
    done (s.trimNext h o { s.trim h o with cells := r.cells2, gain := r.gain2, ofs := r.ofs2, valid := true })
  | 4 => done (s.trimNext h (pairKey (i % 8)) { s.trim h (pairKey (i % 8)) with tap := r.tap, valid := true })
  | _ =>
    let k := fluxKey (i % 64)
    let t := s.trim h k
    let r1 := bit (s.flxCtl i) 2
    let goal : Trim := if r1 then { t with cells := r.cells, gain1 := r.gain, ofs1 := r.ofs } else { t with cells := r.cells, gain := r.gain, ofs := r.ofs }
    s.modCal h fun c => { c with target := mset none c.target k (some goal), applying := some (r1, t) }

/-- CAL_ROUTINE_END: the routine running has its result (R396, R399, R400); a FLUX_CELLS whose result is being applied is over with its
last step. -/
def execCalRoutineEnd (h : Half) (res : CalResult) (s : State) : Res :=
  let c := s.calOf h
  .next (match c.job with
    | none => s
    | some j =>
      let x := s.fluxCh j.target
      if c.applying.isSome ∨ j.routine = 5 ∧ (!x.calSeq.isEmpty ∨ x.ramp.isSome ∨ x.nextRamp.isSome) then s
      else if (j.routine = 3 ∨ j.routine = 4) ∧ (s.reg .CAL_QUIET_TH h).toInt < res.power then (s.calFree h).calDone h j.tag 0x0C
      else if !plausible j.routine res then
        (((s.calFree h).count .CAL_IMPLAUSIBLE_COUNT h 0).calDone h j.tag 0x0B).occur h 0x110 { parts := (s.ownCal j.routine j.target).toList }
      else s.calApply h j res)

/-- At a row boundary the values that were to take effect there do, and the commands that wait for that complete OK (R400, R408). -/
def State.settleTrims (s : State) (h : Nat) : State :=
  let c := s.calOf h
  let s := (s.forEach c.next fun s x => s.setTrim h x.1 x.2).modCal h fun c => { c with next := [], posts := [] }
  s.forEach c.posts fun s p => if p.run then s.calDone h p.tag 0 else s.finish p.tag 0 p.result

/-! ### Gradual application (R401, R402) -/

/-- One LSB from x toward y. -/
def stepTo (x y : BitVec 16) : BitVec 16 := if x.toInt < y.toInt then x + 1 else if y.toInt < x.toInt then x - 1 else x

/-- One element exchange from the cells in force toward others. -/
def stepCells (x y : BitVec 67) : BitVec 67 :=
  let first (w : BitVec 67) : Option Nat := (List.range 67).find? fun i => bit w i
  let x := match first (x &&& ~~~ y) with | some i => setBit x i false | none => x
  match first (y &&& ~~~ x) with | some i => setBit x i true | none => x

/-- A field to step: the key of the values that hold it, and the change toward a target. -/
abbrev StepField := Nat × (Trim → Trim → Trim)

/-- The fields of an input in the order of R402. -/
def inputFields (i : Nat) : List StepField :=
  let e := coreKey (2 * i)
  let o := coreKey (2 * i + 1)
  [(pairKey i, fun t g => { t with tap := if t.tap < g.tap then t.tap + 1 else if g.tap < t.tap then t.tap - 1 else t.tap }),
   (e, fun t g => { t with gain := stepTo t.gain g.gain }), (o, fun t g => { t with gain := stepTo t.gain g.gain }),
   (e, fun t g => { t with ofs := stepTo t.ofs g.ofs }), (o, fun t g => { t with ofs := stepTo t.ofs g.ofs })]

/-- The fields of a flux channel in the order of R402. -/
def fluxFields (c : Nat) : List StepField :=
  let k := fluxKey c
  [(k, fun t g => { t with cells := stepCells t.cells g.cells }),
   (k, fun t g => { t with gain := stepTo t.gain g.gain, gain1 := if t.gain = g.gain then stepTo t.gain1 g.gain1 else t.gain1 }),
   (k, fun t g => { t with ofs := stepTo t.ofs g.ofs, ofs1 := if t.ofs = g.ofs then stepTo t.ofs1 g.ofs1 else t.ofs1 })]

/-- One step of a target's fields: the first from the turn on that differs from its target. -/
def State.stepFields (s : State) (h turnKey : Nat) (fields : List StepField) : State :=
  let n := fields.length
  let turn := mget 0 (s.calOf h).turn turnKey
  let change (j : Nat) : Option (Nat × Trim) :=
    (fields[(turn + j) % n]?).bind fun f =>
      match mget none (s.calOf h).target f.1 with
      | some g =>
        let t := s.trim h f.1
        let t' := f.2 t g
        if t' = t then none else some (f.1, t')
      | none => none
  match (List.range n).find? fun j => (change j).isSome with
  | some j =>
    match change j with
    | some x => (s.setTrim h x.1 x.2).modCal h fun c => { c with turn := mset 0 c.turn turnKey ((turn + j + 1) % n) }
    | none => s
  | none => s

/-- Whether an input's ADC_CORES and ADC_INTERLEAVE CAL_VALID bits are 1. -/
def State.inValid (s : State) (i : Nat) : Bool × Bool :=
  let h := i / 8
  ((s.trim h (coreKey (2 * (i % 8)))).valid && (s.trim h (coreKey (2 * (i % 8) + 1))).valid, (s.trim h (pairKey (i % 8))).valid)

/-- A FLUX_CELLS whose last step has been applied sets its CAL_VALID bit, completes and leaves the sequencer (R393, R400). -/
def State.fluxApplied (s : State) (h : Nat) : State :=
  match (s.calOf h).job, (s.calOf h).applying with
  | some j, some x =>
    let k := fluxKey (j.target % 64)
    match mget none (s.calOf h).target k with
    | some g =>
      let t := s.trim h k
      if t.cells = g.cells ∧ t.gain = g.gain ∧ t.ofs = g.ofs ∧ t.gain1 = g.gain1 ∧ t.ofs1 = g.ofs1 then
        let s := s.setTrim h k (if x.1 then { t with valid1 := true } else { t with valid := true })
        (s.modCal h fun c => { c with job := none, applying := none }).calDone h j.tag 0
      else s
    | none => s
  | _, _ => s

/-- Whether tracking of an input is active (R403). -/
def State.tracking (s : State) (i : Nat) : Bool :=
  let h := i / 8
  bit (s.reg .BG_CTL h) (i % 8) && bit (s.reg .IN_CTL h (i % 8)) 0 && (s.inValid i).1 && (s.inValid i).2 && !s.calOn h 3 i && !s.calOn h 4 i

/-- Whether a flux channel of a half moves toward its target: it is enabled, and under no routine but one whose result is being
applied (R400, R401). -/
def State.fluxMoves (s : State) (h c : Nat) : Bool :=
  bit (s.reg .FLX_CTL h c) 0 && (!s.calOn h 5 (64 * h + c) || (s.calOf h).applying.isSome)

/-- An interval boundary of a half: every input that is being tracked and every flux channel that moves takes one step (R401 to R403); a
flux channel that is not enabled takes its target whole (log 45). -/
def State.calStep (s : State) (h : Nat) : State :=
  let k := s.row h / 1024
  if s.row h % 1024 = 0 ∧ (s.calOf h).lastStep ≠ some k then
    let s := s.modCal h fun c => { c with lastStep := some k }
    let s := s.forEach ((List.range 8).filter fun i => s.tracking (8 * h + i)) fun s i => s.stepFields h (pairKey i) (inputFields i)
    let s := s.forEach ((List.range 64).filter fun c => s.fluxMoves h c) fun s c => s.stepFields h (fluxKey c) (fluxFields c)
    let s := s.forEach ((List.range 64).filter fun c => !bit (s.reg .FLX_CTL h c) 0) fun s c =>
      match mget none (s.calOf h).target (fluxKey c) with
      | some g => s.setTrim h (fluxKey c) { g with valid := (s.trim h (fluxKey c)).valid, valid1 := (s.trim h (fluxKey c)).valid1 }
      | none => s
    s.fluxApplied h
  else s

/-- CAL_STEP (R401 to R403). -/
def execCalStep (h : Half) (s : State) : Res := .next (s.calStep h)

/-! ### Background tracking (R403 to R405) -/

/-- Whether a ball row of an input is usable for tracking: no over-range row nor one of the two after one, and of a mean power above
−40 dBFS, 0 dBFS being the power of a full-scale tone (R404; log 89). -/
def State.bgUsable (s : State) (i row : Nat) : Bool :=
  !s.overAt i row &&
  match (s.adcRows i).find? fun r => r.row == row with
  | some r => decide (2 ^ 34 < 10000 * r.x.foldl (fun a x => a + x.toInt.natAbs * x.toInt.natAbs) 0)
  | none => false

/-- The ball row just finished counts toward the estimate of each input of the half that is tracked; tracking that is not active starts
over (R404). -/
def State.bgRow (s : State) (h row : Nat) : State :=
  s.modCal h fun c =>
    { c with usable := (List.range 8).foldl (fun m i =>
      if !s.tracking (8 * h + i) then mset 0 m i 0
      else if s.bgUsable (8 * h + i) row then mset 0 m i (mget 0 m i + 1)
      else m) c.usable }

/-- BG_ESTIMATE: an estimate from 2^24 samples of usable rows of an input that is tracked sets new targets, or is rejected (R404,
R405). -/
def execBgEstimate (i : InIx) (est : BgEstimate) (s : State) : Res :=
  let h := i.val / 8
  let p := pairKey (i.val % 8)
  let e := coreKey (2 * (i.val % 8))
  let o := coreKey (2 * (i.val % 8) + 1)
  let near (x y : BitVec 16) : Bool := decide ((x.toInt - y.toInt).natAbs ≤ 33)
  let r : CalResult := { gain := est.gain, ofs := est.ofs, gain2 := est.gain2, ofs2 := est.ofs2, tap := est.tap, skew := est.skew,
                         mismatch := est.mismatch }
  let ok := decide (((est.tap : Int) - (s.trim h p).tap).natAbs ≤ 4) && near est.gain (s.trim h e).gain && near est.gain2 (s.trim h o).gain &&
    plausible 3 r && plausible 4 r
  .next (if !s.tracking i ∨ mget 0 (s.calOf h).usable (i % 8) < 524288 then s
    else
    let s := s.modCal h fun c => { c with usable := mset 0 c.usable (i % 8) 0 }
    if !ok then (s.count .BG_REJECT h 0).occur h 0x111 { runs := s.inRuns i, parts := (s.ownPair i).toList }
    else
      s.modCal h fun c =>
        let t := mset none c.target p (some { s.trim h p with tap := est.tap })
        let t := mset none t e (some { s.trim h e with gain := est.gain, ofs := est.ofs })
        { c with target := mset none t o (some { s.trim h o with gain := est.gain2, ofs := est.ofs2 }) })

/-! ### The blob (R406 to R408) -/

/-- CRC-32C of bytes, bit by bit from the low end. -/
def crcBit : Nat → Word → Word
  | 0, c => c
  | n + 1, c => crcBit n (if bit c 0 then (c >>> 1) ^^^ 0x82F63B78 else c >>> 1)

def crc32c (bs : List Byte) : Word := ~~~ bs.foldl (fun c b => crcBit 8 (c ^^^ b.zeroExtend 32)) 0xFFFFFFFF

/-- A target of a half as the blob names it: TYPE and local INDEX, in the order of R406's table. -/
def blobTargets : List (Nat × Nat) :=
  (List.range 24).map (fun k => (1, k)) ++ (List.range 16).map (fun k => (2, k)) ++ (List.range 8).map (fun k => (3, k)) ++
  (List.range 64).map fun k => (4, k)

/-- The key of a blob target. -/
def blobKey (t : Nat × Nat) : Nat :=
  match t.1 with
  | 1 => t.2
  | 2 => coreKey t.2
  | 3 => pairKey t.2
  | _ => fluxKey t.2

/-- The owner of a blob target of a half. -/
def State.blobOwner (s : State) (h : Nat) (t : Nat × Nat) : Option Nat :=
  match t.1 with
  | 1 => s.ownDac h t.2
  | 2 => s.ownPair (8 * h + t.2 / 2)
  | 3 => s.ownPair (8 * h + t.2)
  | _ => s.ownFluxGroup (8 * h + t.2 / 8)

/-- A blob record. -/
def blobRecord (t : Nat × Nat) (v : Trim) : List Byte :=
  let flags := (if v.valid then 1 else 0) + (if t.1 = 4 ∧ v.valid1 then 2 else 0)
  let payload := match t.1 with
    | 1 => leBytes 9 v.cells.toNat ++ leBytes 15 0
    | 2 => leBytes 6 v.cells.toNat ++ leBytes 2 0 ++ leBytes 2 v.gain.toNat ++ leBytes 2 v.ofs.toNat ++ leBytes 12 0
    | 3 => leBytes 1 v.tap ++ leBytes 23 0
    | _ => leBytes 5 v.cells.toNat ++ leBytes 3 0 ++ leBytes 2 v.gain.toNat ++ leBytes 2 v.ofs.toNat ++ leBytes 2 v.gain1.toNat ++
        leBytes 2 v.ofs1.toNat ++ leBytes 8 0
  leBytes 1 t.1 ++ leBytes 1 0 ++ leBytes 2 t.2 ++ leBytes 1 flags ++ leBytes 3 0 ++ payload

/-- The blob of the targets of half h that partition k owns. -/
def State.blob (s : State) (h k : Nat) : List Byte :=
  let ts := blobTargets.filter fun t => s.blobOwner h t == some k
  let n := ts.length
  let head (crc : Nat) : List Byte :=
    leBytes 4 0x42435154 ++ leBytes 2 1 ++ leBytes 1 h ++ leBytes 1 0 ++ leBytes 4 (s.reg .REV h).toNat ++ leBytes 4 n ++
    leBytes 8 (Config.uid (if h = 0 then 0 else 1)).toNat ++ leBytes 8 (s.now h) ++ leBytes 2 (bits (s.reg .TEMP h) 15 0) ++ leBytes 2 0 ++
    leBytes 4 (64 + 32 * n) ++ leBytes 4 crc ++ leBytes 20 0
  let body := ts.flatMap fun t => blobRecord t (s.trim h (blobKey t))
  head (crc32c (head 0 ++ body)).toNat ++ body

/-- The records of a blob of n records. -/
def blobRecords (bs : List Byte) (n : Nat) : List (List Byte) := (List.range n).map fun i => slice bs (64 + 32 * i) 32

/-- The number of bits set. -/
def popcount (w : BitVec 67) : Nat := ((List.range 67).filter fun i => bit w i).length

/-- The target of a record, and its values. -/
def recordTarget (r : List Byte) : Nat × Nat := (leField r 0 1, leField r 2 2)

def recordTrim (r : List Byte) : Trim :=
  let w (o : Nat) : BitVec 16 := BitVec.ofNat 16 (leField r o 2)
  let f := leField r 4 1
  let valid := f % 2 == 1
  match leField r 0 1 with
  | 1 => { cells := BitVec.ofNat 67 (leField r 8 9), valid := valid }
  | 2 => { cells := BitVec.ofNat 67 (leField r 8 6), gain := w 16, ofs := w 18, valid := valid }
  | 3 => { cells := 0, tap := leField r 8 1, valid := valid }
  | _ => { cells := BitVec.ofNat 67 (leField r 8 5), gain := w 16, ofs := w 18, gain1 := w 20, ofs1 := w 22, valid := valid, valid1 := f / 2 % 2 == 1 }

/-- Whether a record's layout is valid (R406). -/
def recordOk (r : List Byte) : Bool :=
  let t := recordTarget r
  let v := recordTrim r
  let z (o n : Nat) : Bool := leField r o n == 0
  z 1 1 && z 5 3 && decide (leField r 4 1 < (if t.1 = 4 then 4 else 2)) &&
  match t.1 with
  | 1 => decide (t.2 < 24 ∧ leField r 8 9 < 2 ^ 67) && popcount v.cells == 63 && z 17 15
  | 2 => decide (t.2 < 16) && z 14 2 && z 20 12
  | 3 => decide (t.2 < 8 ∧ leField r 8 1 < 128) && z 9 23
  | 4 => decide (t.2 < 64 ∧ leField r 8 5 < 2 ^ 34) && popcount v.cells == 31 && z 13 3 && z 24 8
  | _ => false

/-- Whether a record's values lie within R399. -/
def recordPlausible (r : List Byte) : Bool :=
  let v := recordTrim r
  let within (x : BitVec 16) (lo hi : Int) : Bool := decide (lo ≤ x.toInt ∧ x.toInt ≤ hi)
  match leField r 0 1 with
  | 2 => within v.gain 15401 17367 && within v.ofs (-320) 320
  | 3 => decide (16 ≤ v.tap ∧ v.tap ≤ 112)
  | 4 => within v.gain 15892 16876 && within v.ofs (-256) 256 && within v.gain1 15892 16876 && within v.ofs1 (-256) 256
  | _ => true

/-- Whether a target of a half is busy for CAL_WRITE: in an active run or under a routine (R407). -/
def State.blobBusy (s : State) (h : Nat) (t : Nat × Nat) : Bool :=
  match t.1 with
  | 1 => s.dacInRun h t.2 || s.calDac h t.2
  | 2 => let i := 8 * h + t.2 / 2; (inQueues i).any s.inRun || s.calOn h 3 i || s.calOn h 4 i
  | 3 => let i := 8 * h + t.2; (inQueues i).any s.inRun || s.calOn h 3 i || s.calOn h 4 i
  | _ => s.inRun (fluxQ (64 * h + t.2)) || s.calOn h 5 (64 * h + t.2)

/-- The checks of R407 on a blob for half h from partition k: the status of the first failure. -/
def State.blobCheck (s : State) (h k : Nat) (bs : List Byte) : Option (BitVec 8) :=
  let n := leField bs 12 4
  let rs := blobRecords bs n
  let zeroed := bs.take 40 ++ leBytes 4 0 ++ bs.drop 44
  if leField bs 0 4 ≠ 0x42435154 ∨ leField bs 4 2 ≠ 1 ∨ 112 < n ∨ leField bs 36 4 ≠ 64 + 32 * n ∨ bs.length ≠ 64 + 32 * n ∨ leField bs 40 4 ≠ (crc32c zeroed).toNat ∨ !rs.all recordOk then some 0x06
  else if leField bs 16 8 ≠ (Config.uid (if h = 0 then 0 else 1)).toNat ∨ leField bs 8 4 ≠ (s.reg .REV h).toNat then some 0x0B
  else if rs.any fun r => s.blobOwner h (recordTarget r) != some k then some 0x08
  else if rs.any fun r => s.blobBusy h (recordTarget r) then some 0x0A
  else if !rs.all recordPlausible then some 0x0B
  else none

/-- A record of a blob that passed is applied: with VALID = 0 the defaults, and no CAL_VALID bit, otherwise its values (R408;
log 90). -/
def State.blobApply (s : State) (h : Nat) (r : List Byte) : State :=
  let t := recordTarget r
  let key := blobKey t
  let v := if (recordTrim r).valid then recordTrim r else trimDefault key
  if t.1 = 4 ∧ bit (s.reg .FLX_CTL h t.2) 0 then
    (s.setTrim h key { s.trim h key with valid := v.valid, valid1 := v.valid1 }).modCal h fun c => { c with target := mset none c.target key (some v) }
  else s.trimNext h key v

end Sys2Proof.Machine
end

