-- ==== Sys2Proof/Machine/Deflate.lean ====
section
/-!
DEFINITION. Skeins: the DEFLATE decoder, the sample-delta prefilter and the skein header (R503 to R508).  What RFC 1951 fixes is
PRESUMED from it (log 21).
-/
namespace Sys2Proof.Machine

/-! ### Bits and codes -/

/-- The bits of a body, each byte from its low end. -/
def bitsOf (bs : List Byte) : List Bool := bs.flatMap fun b => (List.range 8).map fun i => bit b i

/-- A number of n bits, low bit first, and what is left; none where the body ends first. -/
def takeNum : Nat → List Bool → Option (Nat × List Bool)
  | 0, l => some (0, l)
  | _ + 1, [] => none
  | n + 1, b :: l => (takeNum n l).map fun r => ((if b then 1 else 0) + 2 * r.1, r.2)

/-- A canonical Huffman code from code lengths: (length, code, symbol). -/
abbrev Huff := List (Nat × Nat × Nat)

def canonical (lens : List Nat) : Huff :=
  let count (n : Nat) : Nat := (lens.filter fun x => x == n).length
  let first : List Nat := (List.range 16).map fun n =>
    (List.range n).foldl (fun c k => 2 * (c + (if k = 0 then 0 else count k))) 0
  (lens.zipIdx.filter fun x => x.1 != 0).map fun x =>
    (x.1, first.getD x.1 0 + ((lens.take x.2).filter fun y => y == x.1).length, x.2)

/-- Whether a code set is complete; a distance code may also have a single code (R508). -/
def completeSet (lens : List Nat) (dist : Bool) : Bool :=
  let used := lens.filter fun x => x != 0
  let k := used.foldl (fun a n => a + 2 ^ (15 - n)) 0
  k == 32768 || (dist && used.length == 1 && decide (k ≤ 32768))

/-- The next symbol; `n` bits at most, `len` and `code` those read so far. -/
def symbol (h : Huff) : Nat → Nat → Nat → List Bool → Option (Nat × List Bool)
  | 0, _, _, _ => none
  | _ + 1, _, _, [] => none
  | n + 1, len, code, b :: l =>
    let len := len + 1
    let code := 2 * code + (if b then 1 else 0)
    match h.find? fun e => e.1 == len && e.2.1 == code with
    | some e => some (e.2.2, l)
    | none => symbol h n len code l

/-! ### DEFLATE (R508) -/

/-- Extra bits and base of a length code from 257 and of a distance code. -/
def lengthCode (c : Nat) : Nat × Nat :=
  let k := c - 257
  if k < 8 then (0, 3 + k) else if k = 28 then (0, 258) else ((k - 4) / 4, 3 + (4 + k % 4) * 2 ^ ((k - 4) / 4))

def distCode (c : Nat) : Nat × Nat := if c < 4 then (0, c + 1) else ((c - 2) / 2, 1 + (2 + c % 2) * 2 ^ ((c - 2) / 2))

/-- Copy n bytes from distance d back; the output is held last byte first. -/
def copyBack (d : Nat) : Nat → List Byte → List Byte
  | 0, out => out
  | n + 1, out => copyBack d n (out.getD (d - 1) 0 :: out)

/-- The symbols of a block up to its end; `fuel` symbols at most, `max` bytes of output. -/
def blockBody (max : Nat) (lit dist : Huff) : Nat → List Bool → List Byte → Option (List Bool × List Byte)
  | 0, _, _ => none
  | fuel + 1, l, out =>
    match symbol lit 15 0 0 l with
    | none => none
    | some (s, l) =>
      if s < 256 then
        if max ≤ out.length then none else blockBody max lit dist fuel l (BitVec.ofNat 8 s :: out)
      else if s = 256 then some (l, out)
      else if 286 ≤ s then none
      else
        match takeNum (lengthCode s).1 l with
        | none => none
        | some (x, l) =>
          match symbol dist 15 0 0 l with
          | none => none
          | some (c, l) =>
            if 30 ≤ c then none
            else
              match takeNum (distCode c).1 l with
              | none => none
              | some (y, l) =>
                let n := (lengthCode s).2 + x
                let d := (distCode c).2 + y
                if out.length < d ∨ max < out.length + n then none else blockBody max lit dist fuel l (copyBack d n out)

/-- The fixed codes. -/
def fixedLit : List Nat := List.replicate 144 8 ++ List.replicate 112 9 ++ List.replicate 24 7 ++ List.replicate 8 8
def fixedDist : List Nat := List.replicate 32 5

/-- The code lengths of a dynamic block, `want` of them, held last first. -/
def readLens (h : Huff) (want : Nat) : Nat → List Bool → List Nat → Option (List Bool × List Nat)
  | 0, _, _ => none
  | fuel + 1, l, acc =>
    if acc.length = want then some (l, acc)
    else
      match symbol h 7 0 0 l with
      | none => none
      | some (s, l) =>
        let rep (extra base v : Nat) : Option (List Bool × List Nat) :=
          match takeNum extra l with
          | some (x, l) => if want < acc.length + base + x then none else readLens h want fuel l (List.replicate (base + x) v ++ acc)
          | none => none
        if s < 16 then readLens h want fuel l (s :: acc)
        else if s = 16 then (match acc with | v :: _ => rep 2 3 v | [] => none)
        else if s = 17 then rep 3 3 0
        else rep 7 11 0

/-- The order of the code length codes. -/
def lenOrder : List Nat := [16, 17, 18, 0, 8, 7, 9, 6, 10, 5, 11, 4, 12, 3, 13, 2, 14, 1, 15]

/-- The two codes of a dynamic block. -/
def dynamicCodes (l : List Bool) : Option (List Nat × List Nat × List Bool) :=
  match takeNum 5 l with
  | none => none
  | some (hlit, l) =>
    match takeNum 5 l with
    | none => none
    | some (hdist, l) =>
      match takeNum 4 l with
      | none => none
      | some (hclen, l) =>
        let r := (List.range (hclen + 4)).foldl (fun (a : Option (List Nat × List Bool)) i =>
          a.bind fun a => (takeNum 3 a.2).map fun x => (a.1.set (lenOrder.getD i 0) x.1, x.2)) (some (List.replicate 19 0, l))
        match r with
        | none => none
        | some (lens, l) =>
          if !completeSet lens false then none
          else
            match readLens (canonical lens) (hlit + 257 + hdist + 1) (hlit + hdist + 259) l [] with
            | none => none
            | some (l, acc) =>
              let all := acc.reverse
              some (all.take (hlit + 257), all.drop (hlit + 257), l)

/-- A stored block: to a byte boundary of the body, then LEN, NLEN and the bytes. -/
def storedBlock (max : Nat) (l : List Bool) (out : List Byte) : Option (List Bool × List Byte) :=
  let l := l.drop (l.length - l.length / 8 * 8)
  match takeNum 16 l with
  | none => none
  | some (n, l) =>
    match takeNum 16 l with
    | none => none
    | some (m, l) =>
      if n + m ≠ 65535 ∨ l.length < 8 * n ∨ max < out.length + n then none
      else
        let bytes := (List.range n).map fun i => BitVec.ofNat 8 ((takeNum 8 (l.drop (8 * i))).getD (0, [])).1
        some (l.drop (8 * n), bytes.reverse ++ out)

/-- The blocks of a stream up to the final one. -/
def blocks (max : Nat) : Nat → List Bool → List Byte → Option (List Bool × List Byte)
  | 0, _, _ => none
  | fuel + 1, l, out =>
    match takeNum 1 l with
    | none => none
    | some (final, l) =>
      match takeNum 2 l with
      | none => none
      | some (typ, l) =>
        let r := match typ with
          | 0 => storedBlock max l out
          | 1 => blockBody max (canonical fixedLit) (canonical fixedDist) (l.length + 1) l out
          | 2 =>
            match dynamicCodes l with
            | some (lit, dist, l) =>
              if completeSet lit false && completeSet dist true then blockBody max (canonical lit) (canonical dist) (l.length + 1) l out else none
            | none => none
          | _ => none
        match r with
        | none => none
        | some (l, out) => if final = 1 then some (l, out) else blocks max fuel l out

/-- The n bytes that a raw DEFLATE body decodes to (R504, R508); none where it fails. -/
def inflate (n : Nat) (body : List Byte) : Option (List Byte) :=
  let l := bitsOf body
  match blocks n (l.length + 1) l [] with
  | some (rest, out) => if out.length = n ∧ rest.length < 8 then some out.reverse else none
  | none => none

/-- The bits that a block's symbols, up to its end, take under the fixed codes, and those left after the block; `fuel` symbols at most. -/
def fixedCost (lit dist : Huff) : Nat → List Bool → Nat → Option (Nat × List Bool)
  | 0, _, _ => none
  | fuel + 1, l, cost =>
    match symbol lit 15 0 0 l with
    | none => none
    | some (s, l) =>
      let cost := cost + fixedLit.getD s 0
      if s < 256 then fixedCost lit dist fuel l cost
      else if s = 256 then some (cost, l)
      else
        let x := (lengthCode s).1
        match symbol dist 15 0 0 (l.drop x) with
        | none => none
        | some (c, l) => fixedCost lit dist fuel (l.drop (distCode c).1) (cost + x + 5 + (distCode c).1)

/-- Whether a body has the form that the encoder writes: one block, with BFINAL = 1, fixed or dynamic, and dynamic only where it is
shorter than the fixed one of the same symbols (R509). -/
def encoderForm (body : List Byte) : Bool :=
  match bitsOf body with
  | true :: true :: false :: _ => true
  | true :: false :: true :: l =>
    match dynamicCodes l with
    | some (lit, dist, k) =>
      (match fixedCost (canonical lit) (canonical dist) (k.length + 1) k 0 with
      | some (cost, rest) => decide (l.length - rest.length < cost)
      | none => true)
    | none => true
  | _ => false

/-! ### The prefilter (R507) -/

/-- The words of the first part of a skein's bytes, and the bytes beyond. -/
def wordsOf (bs : List Byte) : List Nat := (List.range (2 * (bs.length / 4))).map fun i => leField bs (2 * i) 2
def tailOf (bs : List Byte) : List Byte := bs.drop (4 * (bs.length / 4))

def prefilter (bs : List Byte) : List Byte :=
  let w := wordsOf bs
  (w.zipIdx.flatMap fun x => leBytes 2 (if x.2 < 2 then x.1 else (x.1 + 65536 - w.getD (x.2 - 2) 0) % 65536)) ++ tailOf bs

/-- The running sums of the inverse: a and b are the two words before. -/
def undelta : Nat → Nat → List Nat → List Nat
  | _, _, [] => []
  | a, b, y :: l => let w := (y + a) % 65536; w :: undelta b w l

def unprefilter (bs : List Byte) : List Byte := ((undelta 0 0 (wordsOf bs)).flatMap (leBytes 2)) ++ tailOf bs

/-! ### Skeins (R503 to R505) -/

/-- The zero bytes up to the next multiple of 16. -/
def pad16 (bs : List Byte) : List Byte := bs ++ List.replicate (roundUp bs.length 16 - bs.length) 0

/-- A skein of original bytes: raw, or with the body that the encoder made. -/
def skeinOf (content seq : Nat) (orig : List Byte) (body : Option (List Byte)) (pre : Bool) : List Byte :=
  let b := body.getD orig
  let flags := if body.isNone then 1 else if pre then 2 else 0
  let h := leBytes 4 0x4B535154 ++ leBytes 2 1 ++ leBytes 1 flags ++ leBytes 1 content ++ leBytes 4 orig.length ++ leBytes 4 b.length ++
    leBytes 4 (crc32c orig).toNat ++ leBytes 4 seq ++ leBytes 4 0
  pad16 (h ++ leBytes 4 (crc32c h).toNat ++ b)

/-- The filler at the start of a skein stream, in bytes: groups of 16 zero bytes (R503). -/
def fillerLen : Nat → List Byte → Nat
  | 0, _ => 0
  | n + 1, bs => if 16 ≤ bs.length ∧ ((bs.take 16).all fun b => b == 0) = true then 16 + fillerLen n (bs.drop 16) else 0

/-- What stands at the start of a skein stream, after filler: its end, a header that fails, not yet all of a skein, or a skein with
its whole length, its original length, its body's length and its original bytes, none where they do not decode (R508, R515, R522). -/
inductive SkeinAt where
  | none
  | bad
  | more (orig : Nat)
  | skein (len orig body : Nat) (raw : Bool) (bytes : Option (List Byte))
deriving DecidableEq, Repr

/-- Read the skein at the start of bytes; `content` is the CONTENT it must have, none for any. -/
def skeinAt (bs : List Byte) (content : Option Nat) : SkeinAt :=
  if bs.isEmpty then .none
  else if bs.length < 32 then (if bs.all fun b => b == 0 then .none else .more 0)
  else
    let flags := leField bs 6 1
    let n := leField bs 8 4
    let m := leField bs 12 4
    let raw := flags % 2 == 1
    if leField bs 0 4 ≠ 0x4B535154 ∨ leField bs 4 2 ≠ 1 ∨ leField bs 28 4 ≠ (crc32c (bs.take 28)).toNat ∨ 4 ≤ flags ∨ 3 < leField bs 7 1 ∨
        n = 0 ∨ 65536 < n ∨ m = 0 ∨ 65536 < m ∨ (raw ∧ (n ≠ m ∨ flags = 3)) ∨
        (match content with | some c => c != leField bs 7 1 | none => false) = true then .bad
    else
      let len := 32 + roundUp m 16
      if bs.length < len then .more n
      else
        let body := slice bs 32 m
        let out := if raw then some body
          else (inflate n body).map fun b => if flags = 2 then unprefilter b else b
        .skein len n m raw (match out with | some o => if leField bs 16 4 = (crc32c o).toNat then some o else none | none => none)

end Sys2Proof.Machine
end

