-- ==== Sys2Proof/Machine/HostQ.lean ====
section
/-!
DEFINITION. Host ports: the region check, DMA requests and their arbitration, rings, doorbells, links (R426 to R440, R452, R458 to
R463, R481, R623).
-/
namespace Sys2Proof.Machine

/-! ### Ports and the region check (R458, R476) -/

/-- The half of a port, and its local number. -/
def portHalf (p : Nat) : Nat := p / 2
def portIx (p : Nat) : Nat := p % 2

/-- Whether partition k requires IDE (R480). -/
def State.requiresIde (s : State) (k : Nat) : Bool := bit (s.part k) 8

/-- Whether a port serves its rings: its link is up, in D0, it is bound, and a stream is Secure where its partition requires IDE (R426,
R428, R438, R480, R481). -/
def State.portOn (s : State) (p : Nat) : Bool :=
  s.ready && (s.port p).link && !(s.port p).cfg.d3hot &&
  match s.portPart p with
  | some k => !s.requiresIde k || (s.port p).secure != 0
  | none => false

/-- BASE and SIZE of region r of partition k (R476). -/
def State.regionBase (s : State) (k r : Nat) : Nat :=
  ((s.reg .RGN_BASE_LO 0 k r).toNat + 2 ^ 32 * (s.reg .RGN_BASE_HI 0 k r).toNat) / 4096 * 4096
def State.regionSize (s : State) (k r : Nat) : Nat :=
  ((s.reg .RGN_SIZE_LO 0 k r).toNat + 2 ^ 32 * (s.reg .RGN_SIZE_HI 0 k r).toNat) / 4096 * 4096

/-- Whether an access of n bytes at an address lies within one region of partition k whose permission covers it (R458). -/
def State.regionOk (s : State) (k addr n : Nat) (write : Bool) : Bool :=
  (List.range 256).any fun r =>
    let c := s.reg .RGN_CTL 0 k r
    bit c 31 && bit c (if write then 1 else 0) && decide (s.regionBase k r ≤ addr ∧ addr + n ≤ s.regionBase k r + s.regionSize k r)

/-- Split n bytes at an address into requests of at most `most` bytes, none across a 4 KiB boundary (R459; log 22). -/
def pieces (most : Nat) : Nat → Nat → Nat → List (Nat × Nat)
  | 0, _, _ => []
  | fuel + 1, addr, n =>
    if n = 0 then []
    else
      let m := min n (min most (4096 - addr % 4096))
      (addr, m) :: pieces most fuel (addr + m) (n - m)

/-- The requests of an access through port p: writes of at most the max payload size, reads of at most 512 bytes and the max read request
size (R459). -/
def State.requests (s : State) (p addr n : Nat) (write : Bool) : List (Nat × Nat) :=
  let c := (s.port p).cfg
  pieces (if write then c.maxPayload else min 512 c.maxRead) (n + 1) addr n

/-- How many bytes from an address on the region check lets pass, request by request. -/
def State.allowed (s : State) (p k addr n : Nat) (write : Bool) : Nat :=
  ((s.requests p addr n write).takeWhile fun x => s.regionOk k x.1 x.2 write).foldl (fun a x => a + x.2) 0

/-! ### DMA requests (R35, R460, R461) -/

/-- A command, changed. -/
def State.modCmd (s : State) (tag : Nat) (f : HostCmd → HostCmd) : State :=
  { s with cmds := mset none s.cmds tag ((mget none s.cmds tag).map f) }

/-- The tag is free again (R442). -/
def State.freeTag (s : State) (tag : Nat) : State := { s with cmds := mset none s.cmds tag none }

/-- A command whose host accesses fail ends with a status; what it has of them still to come is dropped (R458, R570). -/
def State.failCmd (s : State) (tag : Nat) (status : BitVec 8) : State :=
  let mine (q : DmaReq) : Bool := q.why == .data tag
  let s := s.modCmd tag fun c =>
    { c with done := some (status, match c.done with | some d => d.2 | none => if c.op = 0x20 then 0xFF00000000000000 else 0),
             order := s.cmdSeq, reading := false }
  { s with
    cmdSeq := s.cmdSeq + 1
    cmp := mmap {} (fun _ (c : CmpEng) => { c with jobs := c.jobs.filter fun j => j.tag != tag }) s.cmp
    ports := mmap {} (fun _ (x : HostPort) => { x with
      reqs := x.reqs.filter (!mine ·), reads := x.reads.map fun e => (e.1, if mine e.2 then { e.2 with why := .none } else e.2) }) s.ports }

/-- A request joins those that wait at a port; one that a resource of the other half makes crosses the die link first (R35), and with the
link down its command ends with LINK_DOWN (R570). -/
def State.request (s : State) (p : Nat) (q : DmaReq) : State :=
  if q.half = portHalf p then s.modPort p fun x => { x with reqs := x.reqs ++ [q] }
  else if s.linkUp then s.send q.half (.dma (.access p q))
  else match q.why with | .data tag => s.failCmd tag 0x14 | _ => s

/-- A write of bytes is to go out through a port for a resource of half h; the last of its requests carries `q`'s records, runs and
command. -/
def State.dmaWrite (s : State) (p : Nat) (q : DmaReq) (addr : Nat) (bytes : List Byte) : State :=
  s.forEach (s.requests p addr bytes.length true) fun s x =>
    let last := decide (x.1 + x.2 = addr + bytes.length)
    s.request p { q with act := .write x.1 (slice bytes (x.1 - addr) x.2), recs := if last then q.recs else 0,
                         tag := if last then q.tag else none }

/-- Reads of n bytes at an address are to go out through a port. -/
def State.dmaRead (s : State) (p : Nat) (q : DmaReq) (addr n : Nat) : State :=
  s.forEach (s.requests p addr n false) fun s x => s.request p { q with act := .read x.1 x.2 }

/-- The sources of the round robin: rings, commands, streams, the doorbell page. -/
def srcRing (r : Nat) : Nat := r
def srcCmd (tag : Nat) : Nat := 1048576 + tag
def srcStream (q : Nat) : Nat := 2097152 + q
def srcPage : Nat := 3145728

/-- Whether a host access that a condition picks waits at a port, is outstanding, or is on its way between the halves. -/
def State.accessWaits (s : State) (f : DmaReq → Bool) : Bool :=
  (s.ports.any fun e => e.2.reqs.any f || e.2.reads.any fun r => f r.2) ||
  [0, 1].any fun h => (s.dlkOf h).msgs.any fun m =>
    match m with
    | .dma (.access _ q) => f q
    | .dma (.response _ q _) => f q
    | _ => false

/-- Whether a record of ring r is on its way over the die link. -/
def State.recordCrosses (s : State) (r : Nat) : Bool :=
  [0, 1].any fun h => (s.dlkOf h).msgs.any fun m => match m with | .dma (.record _ _ x _) => x == r | _ => false

/-! ### Units, the context cache and write-backs (R429, R434, R439) -/

/-- Bytes of one entry unit, and the units that a ring holds (R429). -/
def Ring.unit (x : Ring) : Nat := if x.kind = 2 ∨ x.kind = 3 then 16 else 64
def Ring.units_ (x : Ring) : Nat := 2 ^ x.log2 / x.unit
/-- The units that the ring holds: P − C. -/
def Ring.held (x : Ring) : Nat := if x.kind = 2 ∨ x.kind = 3 then (x.own - x.host).toNat else (x.host - x.own).toNat
/-- The offset of unit i. -/
def Ring.at_ (x : Ring) (i : Word) : Nat := (i.toNat * x.unit) % 2 ^ x.log2
/-- Whether the part writes the ring's entries: a completion or record ring. -/
def Ring.written (x : Ring) : Bool := x.kind == 2 || x.kind == 3

/-- A request for ring r: of its half's own engine. -/
def State.ringReq (s : State) (r cls : Nat) (why : DmaWhy) : DmaReq :=
  { cls := cls, part := (s.ringOwner r).getD 5, src := srcRing r, why := why, act := .msix 0, half := portHalf (s.ring r).port }

/-- Where the context of ring r of partition k lies (R430). -/
def State.contextAt (s : State) (k r : Nat) : Nat := s.pair .CTX_BASE_LO .CTX_BASE_HI 0 k / 4096 * 4096 + 64 * (r - s.ridBase k)

/-- The contexts of a half's cache that belong to partition k, and those reserved for it: 512 where it holds a port (R482). -/
def State.cachedBy (s : State) (h k : Nat) : Nat :=
  (s.rings.filter fun e => e.2.resident && portHalf e.2.port == h && s.ringOwner e.1 == some k).length
def State.cacheReserve (s : State) (k : Nat) : Nat := if bits (s.part k) 19 16 = 0 then 0 else 512

/-- Whether a half's cache of 4,096 contexts has room for one more of partition k: beyond the reserves it is shared (R434, R482). -/
def State.cacheRoom (s : State) (h k : Nat) : Bool :=
  let spare := (List.range 5).foldl (fun a j => a + s.cacheReserve j) 0
  let taken := (List.range 5).foldl (fun a j => a + ((s.cachedBy h j + (if j = k then 1 else 0)) - s.cacheReserve j)) 0
  decide (taken + spare ≤ 4096)

/-- A context leaves the cache of half h to make room for one of partition k: of the partition itself or of one beyond its reserve, which
one is not specified; PART_STATE is written back (R434, R482; log 56). -/
def State.evict (s : State) (h k : Nat) : State :=
  let l := s.rings.filter fun e => e.2.resident && portHalf e.2.port == h &&
    (match s.ringOwner e.1 with | some j => j == k || decide (s.cacheReserve j < s.cachedBy h j) | none => false)
  let n : BitVec 32 × State := s.free 32
  match l[n.1.toNat % l.length]? with
  | some (r, x) =>
    let v : BitVec 64 × State := n.2.free 64
    (v.2.modRing r fun x => { x with resident := false }).dmaWrite x.port (s.ringReq r 3 (.ring r))
      (s.contextAt ((s.ringOwner r).getD 5) r + 48) (leBytes 8 v.1.toNat)
  | none => s

/-- A ring is served: its context is in the cache, fetched anew where it had been evicted (R434). -/
def State.touch (s : State) (r : Nat) : State :=
  let x := s.ring r
  if x.resident then s
  else
    let h := portHalf x.port
    let k := (s.ringOwner r).getD 5
    let s := if s.cacheRoom h k then s else s.evict h k
    (s.modRing r fun x => { x with resident := true }).dmaRead x.port (s.ringReq r 3 (.ring r)) (s.contextAt k r) 64

/-- The part's own index of a ring advances, and its write-back follows (R439). -/
def State.advance (s : State) (r n : Nat) : State :=
  let s := (s.touch r).modRing r fun x => { x with own := x.own + BitVec.ofNat 32 n }
  let x := s.ring r
  s.dmaWrite x.port (s.ringReq r (if x.written then 2 else 3) (.ring r)) x.wb (leBytes 4 x.own.toNat ++ leBytes 4 0)

/-! ### Errors of rings and refused accesses (R432, R458) -/

/-- A request for a ring is not carried out: the records that it brings are lost, the completion is (R432). -/
def State.dropReq (s : State) (q : DmaReq) : State :=
  let s := match q.tag with
    | some t =>
      let p := match mget none s.cmds t with | some c => c.port | none => 0
      (s.count .COMPL_LOST (portHalf p) (portIx p)).freeTag t
    | none => s
  match q.why with
  | .ring r => s.forEach (List.range q.recs) fun s _ => s.countLost q.half r
  | _ => s

/-- Whether a request is one for ring r itself. -/
def DmaWhy.ofRing (r : Nat) (w : DmaWhy) : Bool := w == .ring r || w == .desc r || w == .context r

/-- Ring r is served no further (R427, R432, R433): its requests are not carried out and its reads bring nothing more; its completions
and records that wait are discarded and counted; the streams attached to it lack what was not staged. -/
def State.ringCease (s : State) (r : Nat) : State :=
  let x := s.ring r
  let s := s.forEach [0, 1, 2, 3] fun s p =>
    let gone := (s.port p).reqs.filter fun q => q.why.ofRing r
    let s := s.modPort p fun x =>
      { x with reqs := x.reqs.filter (fun q => !q.why.ofRing r), reads := x.reads.map fun e => (e.1, if e.2.why.ofRing r then { e.2 with why := .none } else e.2) }
    s.forEach gone fun s q => s.dropReq q
  let s := s.forEach (s.strm.filterMap fun e => match e.2 with | some y => if y.ring = r then some e.1 else none | none => none) fun s q =>
    match s.stream q with
    | some y => (s.dropReads q).setStream q (some { y with fetched := min y.fetched y.staged })
    | none => s
  let recs := s.recs.filter fun b => b.ring == r
  let s := { s with recs := s.recs.filter fun b => b.ring != r }
  let s := s.forEach recs fun s b => s.countLost b.half r
  let n := x.pack.count + (match x.shut with | some p => p.count | none => 0)
  let s := s.forEach (List.range n) fun s _ => s.countLost (portHalf x.port) r
  let s := s.modRing r fun x => { x with firstUnit := none, pack := {}, shut := none, made := [], desc := [], fence := none }
  s.forEach [0, 1, 2, 3] fun s e =>
    let m := ((s.cap e).buf.filter fun b => b.1 == r).length
    let s := s.modCap e fun c => { c with buf := c.buf.filter fun b => b.1 != r }
    (s.forEach (List.range m) fun s _ => s.countLost (e / 2) r).capSettle e

/-- A ring enters ERROR (R431, R432). -/
def State.ringError (s : State) (r code : Nat) : State :=
  let s := (s.ringCease r).modRing r fun x => { x with st := .error, err := code }
  s.occur (portHalf (s.ring r).port) 0x130 { parts := (s.ringOwner r).toList, block := some (2, r), opens := true }

/-- A stream's data has arrived, or is missing, up to position n; positions missing from n on are passed over, and the ring's consumer
index follows (R429, R439; log 23). -/
def State.streamTo (s : State) (q n : Nat) : State :=
  match s.stream q with
  | some y =>
    let n := y.holes.foldl (fun m x => if x.1 = m then x.2 else m) n
    let d := n / 16 - y.staged / 16
    let s := s.setStream q (some { y with staged := n })
    if d = 0 ∨ (s.ring y.ring).st ≠ .enabled then s else s.advance y.ring d
  | none => s

/-- What is asked of a stream's ring from position pos on does not come (R109, R458, R570). -/
def State.streamMiss (s : State) (q pos : Nat) : State :=
  match s.stream q with
  | some y =>
    if (s.ring y.ring).skein then s.setStream q (some { y with dead := true })
    else
      let s := s.setStream q (some { y with holes := y.holes ++ [(pos, y.fetched)] })
      if y.staged = pos then s.streamTo q pos else s
  | none => s

/-- What follows from a refused access (R458). -/
def State.deniedFor (s : State) (p : Nat) (why : DmaWhy) : State :=
  let ring (s : State) (r : Nat) : State := if (s.ring r).st = .enabled ∨ (s.ring r).st = .draining then s.ringError r 3 else s
  match why with
  | .ring r | .desc r => ring s r
  | .context r => (s.modRing r fun _ => { port := p }).ringError r 3
  | .data tag => s.failCmd tag 0x07
  | .page | .line => s.regBit .PORT_CTL (portHalf p) (portIx p) 0 false
  | .words j =>
    (s.forEach ((s.rings.filter fun e => e.2.port == p && e.2.dbWord / 16 == j).map (·.1)) ring).regBit
      .PORT_CTL (portHalf p) (portIx p) 0 false
  | .stream q pos => s.streamMiss q pos
  | .none => s

/-- An access through port p fails the region check (R458). -/
def State.denied (s : State) (p k : Nat) (why : DmaWhy) : State :=
  let s := s.count .DENIED_COUNT (portHalf p) (portIx p)
  (s.occur (portHalf p) 0x131 { parts := [k] }).deniedFor p why

/-! ### Arbitration (R460, R461) -/

/-- The lowest stream position that is still to be played (R109). -/
def State.streamNeed (s : State) (q : Nat) (y : Stream) : Nat :=
  (s.pulses.filter fun p => p.q == q && p.spec.stream).foldl (fun m p =>
    min m (if p.missed then p.pos + p.spec.length else p.pos + p.taken.length)) y.pos

/-- The read that a stream's ring engine would issue next: units of 64 bytes that the ring holds, within 512 bytes and the max read
request size, the ring's end, a 4 KiB boundary and the room in the staging area; of a ring with SKEIN, the engine's room for skeins; none
while what it reads could not reach the stream's half (R429, R459, R522, R570). -/
def State.streamRead (s : State) (q : Nat) : Option DmaReq :=
  match s.stream q with
  | none => none
  | some y =>
    let x := s.ring y.ring
    if x.st ≠ .enabled ∨ x.kind ≠ 4 ∨ y.dead ∨ (qHalf q ≠ portHalf x.port ∧ !s.linkUp) then none
    else
      let out := (y.fetched - if x.skein then 0 else y.staged) / 16
      let out := if x.skein then ((s.port x.port).reads.filter fun e => match e.2.why with | .stream p _ => p == q | _ => false).foldl
          (fun a e => a + match e.2.act with | .read _ n => n / 64 | _ => 0) 0 else out
      let have_ := (x.host - x.own).toNat - out
      let room := if x.skein then (131072 - (y.raw.length + 64 * out)) / 64 else (s.streamNeed q y + y.size / 4 - y.fetched) / 16
      let at_ := ((x.own.toNat + out) * 64) % 2 ^ x.log2
      let most := min 512 (s.port x.port).cfg.maxRead / 64
      let n := min (min have_ room) (min most (min ((2 ^ x.log2 - at_) / 64) ((4096 - (x.base + at_) % 4096) / 64)))
      if n = 0 then none
      else
        some { cls := 1, part := (s.ringOwner y.ring).getD 5, src := srcStream q, why := .stream q y.fetched, act := .read (x.base + at_) (64 * n),
               half := qHalf q }

/-- The stream reads that wait at a port. -/
def State.streamReads (s : State) (p : Nat) : List DmaReq :=
  s.strm.filterMap fun e =>
    match e.2 with
    | some y => if (s.ring y.ring).port = p then s.streamRead e.1 else none
    | none => none

/-- The limit of R461 at a port. -/
def State.ageLimit (s : State) (p : Nat) : Nat := max 1 (s.reg .ARB_AGE_LIMIT (portHalf p)).toNat

/-- The next request of a list in round-robin order after source `last`. -/
def nextSource (l : List DmaReq) (last : Nat) : Option DmaReq :=
  let least (m : List DmaReq) : Option DmaReq :=
    m.foldl (fun (a : Option DmaReq) q => match a with | some x => if q.src < x.src then some q else a | none => some q) none
  match least (l.filter fun q => last < q.src) with
  | some q => some q
  | none => least l

/-- The request that a port grants next: an aged one, oldest first, otherwise the first class's next source (R460, R461). -/
def State.nextGrant (s : State) (p : Nat) : Option DmaReq :=
  let x := s.port p
  match x.reqs.find? fun q => decide (s.ageLimit p ≤ q.age) with
  | some q => some q
  | none =>
    let all := s.streamReads p ++ x.reqs
    ([1, 2, 3, 4] : List Nat).findSome? fun c => nextSource (all.filter fun q => q.cls == c) (mget 0 x.served c)

/-- Every request at the head of its source ages by a grant to another class (R461). -/
def age (cls : Nat) : List (Nat × Nat) → List DmaReq → List DmaReq
  | _, [] => []
  | seen, q :: l =>
    let head := !seen.contains (q.cls, q.src)
    (if head && q.cls != cls && decide (2 ≤ q.cls) then { q with age := q.age + 1 } else q) :: age cls ((q.cls, q.src) :: seen) l

/-- What a granted request does: a write goes out, and with an entry of a completion ring its command's tag is free; a read is
outstanding.  What the region check refuses is never issued (R442, R458), nor is what no Secure stream covers (R480; log 59). -/
def State.granted (s : State) (p : Nat) (q : DmaReq) : State :=
  let stop (s : State) (checked : Bool) : State := if checked then (s.dropReq q).deniedFor p q.why else (s.dropReq q).denied p q.part q.why
  match q.act with
  | .write a bs =>
    if !s.regionOk q.part a bs.length true then stop s false
    else
      match (s.port p).wayOut a with
      | some w =>
        let s := s.emit (.hostWrite p w a bs)
        match q.tag with | some t => s.freeTag t | none => s
      | none => stop s true
  | .msix v => s.sendMsix p v
  | .read a n =>
    let s := match q.why with
      | .stream k _ =>
        (match s.stream k with
        | some y => s.setStream k (some { y with fetched := y.fetched + n / 4 })
        | none => s)
      | _ => s
    if !s.regionOk q.part a n false then s.denied p q.part q.why
    else if ((s.port p).wayOut a).isNone then s.deniedFor p q.why
    else s.modPort p fun x => { x with reads := x.reads ++ [(x.readSeq, q)], readSeq := x.readSeq + 1 }

/-- DMA_GRANT: a port with its link up, whose ring engine the governor does not hold back (R609), grants its next request, which is of
class `cls` + 1; a read needs room among the 768 outstanding (R459 to R461). -/
def execDmaGrant (p : Port) (cls : Fin 4) (s : State) : Res :=
  .next (match s.nextGrant p with
    | some q =>
      let full := match q.act with | .read _ _ => decide (768 ≤ (s.port p).reads.length) | _ => false
      if s.portOn p ∧ !s.paced (portHalf p) 26 ∧ q.cls = cls.val + 1 ∧ !full then
        (s.modPort p fun x => { x with reqs := age q.cls [] (x.reqs.erase q), served := mset 0 x.served q.cls q.src }).granted p q
      else s
    | none => s)

/-! ### Interrupts and entries (R439, R452) -/

/-- The MSI-X message of a ring is sent behind what has been written (R452). -/
def State.ringMessage (s : State) (r : Nat) : State :=
  let x := s.ring r
  let s := s.modRing r fun x => { x with units := 0, firstUnit := none }
  s.request x.port { s.ringReq r 2 (.ring r) with act := .msix (x.irq % 64) }

/-- Units have been written to a completion or record ring (R439, R452). -/
def State.wrote (s : State) (r n : Nat) : State :=
  let s := s.advance r n
  let x := s.ring r
  if x.irq < 128 then s
  else
    let s := s.modRing r fun x =>
      { x with units := x.units + n, firstUnit := some (match x.firstUnit with | some t => t | none => s.now (portHalf x.port)) }
    if x.modCount ≤ x.units + n ∨ x.modTime = 0 then s.ringMessage r else s

/-- Write an entry at the own index of a completion or record ring: the records in it and their runs, the command that it ends. -/
def State.writeEntry (s : State) (r recs : Nat) (runs : List Nat) (tag : Option Nat) (bytes : List Byte) : State :=
  let x := s.ring r
  (s.dmaWrite x.port { s.ringReq r 2 (.ring r) with recs := recs, runs := runs, tag := tag } (x.base + x.at_ x.own) bytes).wrote r
    (bytes.length / 16)

/-- IRQ_MODERATION_TIMEOUT: MOD_TIME µs after the first unit since the last message (R452). -/
def execIrqModerationTimeout (r : RingIx) (s : State) : Res :=
  let x := s.ring r
  .next (match x.firstUnit with
    | some t => if x.st = .enabled ∧ t + 20000 * x.modTime ≤ s.now (portHalf x.port) then s.ringMessage r else s
    | none => s)

/-! ### Descriptors (R440) -/

/-- A command ring's next descriptors are fetched, up to 8 at a turn, once those before have been accepted (R440). -/
def State.settleFetch (s : State) (r : Nat) : State :=
  let x := s.ring r
  if x.st = .enabled ∧ x.kind = 1 ∧ x.desc.isEmpty ∧ 0 < x.held ∧ !s.accessWaits (fun q => q.why == .desc r) then
    let a := x.at_ x.own
    s.dmaRead x.port (s.ringReq r 3 (.desc r)) (x.base + a) (64 * min 8 (min x.held ((2 ^ x.log2 - a) / 64)))
  else s

/-- Descriptors have come. -/
def State.descIn (s : State) (r : Nat) (data : List Byte) : State :=
  s.modRing r fun x => { x with desc := x.desc ++ (List.range (data.length / 64)).map fun i => BitVec.ofNat 512 (leField data (64 * i) 64) }

/-! ### RING_OP (R430 to R434) -/

/-- A command of a ring is in execution. -/
def State.ringBusy (s : State) (r : Nat) : Bool :=
  s.cmds.any fun e => match e.2 with | some c => c.ring == r && !c.discard | none => false

/-- The context of a ring from its 64 bytes, in state ENABLED. -/
def ringOf (c : BitVec 512) : Ring :=
  let f := dField c
  { st := .enabled, base := f 0 8, wb := f 8 8, kind := f 16 1, log2 := f 17 1, dbWord := f 18 2, port := f 20 1, irq := f 21 1,
    modCount := f 22 1, modTime := f 23 1, cq := f 24 4, skein := f 28 1 % 2 == 1 }

/-- Whether a field of a context is invalid (error code 1). -/
def contextBad (c : BitVec 512) : Bool :=
  let x := ringOf c
  let both := x.kind == 2 || x.kind == 3
  x.base % 4096 != 0 || x.wb % 8 != 0 || x.kind == 0 || decide (4 < x.kind) || decide (x.log2 < 12) || decide (30 < x.log2) ||
  decide (1024 ≤ x.dbWord) || decide (4 ≤ x.port) || x.irq / 64 % 2 == 1 || (!both && x.irq != 0) ||
  (decide (128 ≤ x.irq) && x.modCount == 0) || decide (1048576 ≤ x.cq) || (x.kind != 1 && x.cq != 0) || decide (2 ≤ dField c 28 1) ||
  dField c 29 19 != 0 || dField c 56 8 != 0

/-- Whether a context names a port or completion ring that it may not (error code 2). -/
def State.contextForeign (s : State) (k : Nat) (x : Ring) : Bool :=
  s.portPart x.port != some k ||
  (x.kind == 1 && !(s.ringIn k x.cq && (s.ring x.cq).st == .enabled && (s.ring x.cq).kind == 2 && (s.ring x.cq).port == x.port))

/-- Show the outcome of a RING_OP of port q: RESULT and the ring; BUSY, STATE and ERR are read from the ring. -/
def State.opResult (s : State) (q r result : Nat) : State :=
  (s.modPort q fun x => { x with op := true }).setReg .RING_OP_STATUS (portHalf q) (portIx q) 0 (BitVec.ofNat 32 (result * 2 ^ 28 + r))

/-- A write that a port's view does not show is counted (R44). -/
def State.foreign (s : State) (p : Nat) : State := s.count .FOREIGN_WRITES (portHalf p) (portIx p)

/-- A RING_OP of port q on ring r, written through port p: refused where the ring is not the partition's (R430, R463), otherwise `k` of
the partition. -/
def State.ringOp (s : State) (p q r : Nat) (k : State → Nat → State) : State :=
  match s.portPart q with
  | none => s
  | some part => if s.ringIn part r then k s part else (s.foreign p).opResult q r 2

/-- A RING_OP ENABLE of port q on ring r (R431): the context is fetched. -/
def State.ringEnable (s : State) (p q r : Nat) : State :=
  s.ringOp p q r fun s k =>
    if (s.ring r).st ≠ .disabled then s.opResult q r 1
    else
      (s.opResult q r 0).dmaRead q { cls := 3, part := k, src := srcRing r, why := .context r, act := .msix 0, half := portHalf q }
        (s.contextAt k r) 64

/-- The context of a ring that port p is to enable has come: it is checked, and the ring is ENABLED or enters ERROR (R431). -/
def State.contextIn (s : State) (p k r : Nat) (data : List Byte) : State :=
  let ctx : BitVec 512 := BitVec.ofNat 512 (leField data 0 64)
  if (s.ring r).st ≠ .disabled then s
  else if contextBad ctx then (s.modRing r fun _ => { port := p }).ringError r 1
  else if s.contextForeign k (ringOf ctx) then (s.modRing r fun _ => { port := p }).ringError r 2
  else
    let h := portHalf (ringOf ctx).port
    (if s.cacheRoom h k then s else s.evict h k).modRing r fun _ => { ringOf ctx with resident := true }

/-- Leave a ring DISABLED. -/
def State.ringOff (s : State) (r : Nat) : State :=
  let s := s.ringCease r
  { s with rings := mset {} s.rings r {} }

/-- A RING_OP DISABLE of port q on ring r (R433). -/
def State.ringDisable (s : State) (p q r : Nat) : State :=
  s.ringOp p q r fun s _ =>
    let x := s.ring r
    let named := s.rings.any fun e => e.2.kind == 1 && e.2.cq == r && (e.2.st == .enabled || e.2.st == .draining)
    if x.kind = 2 ∧ named then s.opResult q r 1
    else
      let s := s.opResult q r 0
      if x.kind = 1 ∧ s.ringBusy r then (s.modRing r fun x => { x with st := .draining, desc := [] }) else s.ringOff r

/-- RING_DRAIN_END: the last accepted command of a DRAINING ring has completed (R433). -/
def execRingDrainEnd (r : RingIx) (s : State) : Res :=
  .next (if (s.ring r).st = .draining ∧ !s.ringBusy r then s.ringOff r else s)

/-! ### Doorbells (R435 to R437) -/

/-- The interval of a port's polls in ns: POLL_MIN, POLL_MAX. -/
def State.pollMin (s : State) (p : Nat) : Nat := max 200 (s.reg .POLL_MIN (portHalf p) (portIx p)).toNat
def State.pollMax (s : State) (p : Nat) : Nat := 1000 * max 1 (min 50 (s.reg .POLL_MAX (portHalf p) (portIx p)).toNat)

/-- A doorbell word of a port has changed to v: the ring it belongs to takes the host's index (R435; error code 4). -/
def State.doorbell (s : State) (p w : Nat) (v : Word) : State :=
  s.forEach ((s.rings.filter fun e => e.2.port == p && e.2.dbWord == w && e.2.st == .enabled).map (·.1)) fun s r =>
    let s := s.modRing r fun x => { x with host := v }
    let x := s.ring r
    if x.units_ < x.held then s.ringError r 4 else (s.touch r).settleFetch r

/-- The words of flag j of a port's page are read (R436): `words` are their 64 bytes. -/
def State.readWords (s : State) (p j : Nat) (words : List Byte) : State :=
  s.forEach (List.range 16) fun s i =>
    let w := 16 * j + i
    let v : Word := BitVec.ofNat 32 (leField words (4 * i) 4)
    if mget 0 (s.port p).words w = v then s
    else (s.modPort p fun x => { x with words := mset 0 x.words w v }).doorbell p w v

/-- Whether a port polls at POLL_MIN: it has a command in execution or an attached stream (R437). -/
def State.pollFast (s : State) (p : Nat) : Bool :=
  (s.cmds.any fun e => match e.2 with | some c => c.port == p | none => false) ||
  s.strm.any fun e => match e.2 with | some y => (s.ring y.ring).port == p | none => false

/-- The present interval of a port's polls, in ns. -/
def State.pollEvery (s : State) (p : Nat) : Nat := if s.pollFast p then s.pollMin p else (s.port p).interval

/-- The doorbell page of a port, and a request for it. -/
def State.pageAt (s : State) (p : Nat) : Nat := s.pair .DB_BASE_LO .DB_BASE_HI (portHalf p) (portIx p) / 4096 * 4096
def State.pageReq (s : State) (p : Nat) (why : DmaWhy) : DmaReq :=
  { cls := 3, part := (s.portPart p).getD 5, src := srcPage, why := why, act := .msix 0, half := portHalf p }

/-- Whether a poll of port p is under way. -/
def State.polling (s : State) (p : Nat) : Bool :=
  (s.port p).reqs.any (fun q => q.src == srcPage) || (s.port p).reads.any fun e => e.2.src == srcPage && e.2.why != .none

/-- DOORBELL_POLL: after a KICK or at the poll interval a port that polls reads its summary line (R436, R437); what the line brings
follows when it has come (`State.lineIn`). -/
def execDoorbellPoll (p : Port) (s : State) : Res :=
  let h := portHalf p
  let x := s.port p
  .next (if s.portOn p ∧ bit (s.reg .PORT_CTL h (portIx p)) 0 ∧ (x.kicked ∨ x.pollAt + 20 * s.pollEvery p ≤ s.now h) ∧ !s.polling p then
      (s.modPort p fun x => { x with kicked := false, pollAt := s.now h }).dmaRead p (s.pageReq p .line) (s.pageAt p + 4096) 64
    else s)

/-- The summary line has come (R436, R437): each flag found is cleared and its doorbell words are then read; the interval is POLL_MIN
where one was found, and doubles otherwise. -/
def State.lineIn (s : State) (p : Nat) (line : List Byte) : State :=
  let flags := (List.range 64).filter fun j => line.getD j 0 != 0
  let s := s.forEach flags fun s j =>
    (s.dmaWrite p (s.pageReq p .page) (s.pageAt p + 4096 + j) [0]).dmaRead p (s.pageReq p (.words j)) (s.pageAt p + 64 * j) 64
  s.modPort p fun x =>
    { x with interval := if !flags.isEmpty || s.pollFast p then s.pollMin p else min (s.pollMax p) (2 * x.interval) }

/-- A write to KICK of port q (R437). -/
def State.wrKick (s : State) (q : Nat) : State := s.modPort q fun x => { x with kicked := true, interval := s.pollMin q }

/-! ### Resets and links (R427, R428, R623) -/

/-- The registers of a port that a function level reset returns to reset. -/
def portRegs : List Reg :=
  [.PORT_CTL, .DB_BASE_LO, .DB_BASE_HI, .POLL_MIN, .POLL_MAX, .RING_OP_STATUS, .DENIED_COUNT, .RECORD_LOST, .COMPL_LOST,
   .FOREIGN_WRITES, .IDE_FAIL_COUNT]

/-- A function level reset of a port (R427): its rings are disabled, commands accepted go on and their completions will be discarded,
its registers and configuration are at reset. -/
def State.portReset (s : State) (p : Nat) : State :=
  let rs := (s.rings.filter fun e => e.2.port == p && e.2.st != .disabled).map (·.1)
  let s := { s with cmds := mmap none (fun _ (c : Option HostCmd) =>
    c.map fun (c : HostCmd) => if c.port = p ∧ rs.contains c.ring then { c with discard := true } else c) s.cmds }
  let s := s.forEach rs fun s r => s.ringOff r
  let s := s.forEach portRegs fun s x => s.setReg x (portHalf p) (portIx p) 0 (resetAt x (portHalf p) (portIx p) 0)
  let s := { s with staged := (List.range 4).foldl (fun m q => mset 0 m (4 * Reg.DB_BASE_LO.key (portHalf p) (portIx p) 0 + q) 0) s.staged }
  let data (q : DmaReq) : Bool := match q.why with | .data _ => true | _ => false
  s.modPort p fun x =>
    { link := x.link, speed := x.speed, width := x.width, perst := x.perst, secure := x.secure, readSeq := x.readSeq,
      cfg := { assoc := x.cfg.assoc },
      reqs := x.reqs.filter data, reads := x.reads.map fun e => (e.1, if data e.2 then e.2 else { e.2 with why := .none }) }

/-- FUNCTION_LEVEL_RESET (R427). -/
def execFunctionLevelReset (p : Port) (s : State) : Res := .next (s.portReset p)

/-- A port's link goes down (R428); the image that it delivers fails (R498). -/
def State.portDown (s : State) (p : Nat) : State :=
  if (s.port p).link then
    ((s.modBootPort p fun x => { x with failed := x.failed || x.st == .loading }).modPort p fun x => { x with link := false, speed := 0, width := 0 }).occur (portHalf p) 0x133 { parts := (s.portPart p).toList }
  else s

/-- PORT_LINK (R428). -/
def execPortLink (p : Port) (s : State) : Res := .next (s.portDown p)

/-- PERST (R623): low, the link goes down and the port is treated as at a function level reset. -/
def execPerst (p : Port) (low : Bool) (s : State) : Res :=
  let s := s.modPort p fun x => { x with perst := low }
  .next (if low then ((s.portDown p).portReset p).modPort p fun x => { x with cfg := {}, secure := 0 } else s)

/-- PORT_LINK_UP (R426, R428, R623): the link trains to a speed and width that the port supports. -/
def execPortLinkUp (p : Port) (speed : Fin 6) (width : Fin 5) (s : State) : Res :=
  .next (if !(s.port p).perst ∧ s.boot.st ≠ .cold ∧ 1 ≤ speed.val ∧ (width.val = 1 ∨ width.val = 2 ∨ width.val = 4) then
      (s.modPort p fun x => { x with link := true, speed := speed.val, width := width.val }).settleMsix p
    else s)

end Sys2Proof.Machine
end

