-- ==== Sys2Proof/Machine/Link.lean ====
section
/-!
DEFINITION. The die link: flits and their check bits, sequence and resend, credits, Rest and Dormant, training, loss and return
(R24, R26, R53, R550 to R574).
-/
namespace Sys2Proof.Machine

/-! ### Flits (R556 to R558) -/

/-- The positions of the body bits in the SEC-DED code: those of 1 to 265 that are no power of two (R557). -/
def bodyPositions : List Nat := ((List.range 265).map (· + 1)).filter fun n => !([1, 2, 4, 8, 16, 32, 64, 128, 256].contains n)

/-- The check bits 0 to 8 of a body (R557). -/
def checkBits (b : BitVec 256) : Nat :=
  (bodyPositions.zipIdx.filter fun x => bit b x.2).foldl (fun c x => c ^^^ x.1) 0

/-- The parity of a number's low n bits. -/
def parity (n v : Nat) : Bool := (List.range n).foldl (fun p i => p ^^ v.testBit i) false

/-- A flit's body after the check of its bits, and whether a single-bit error was corrected; none where the error is
uncorrectable (R557). -/
def flitBody (f : BitVec 272) : Option (BitVec 256 × Bool) :=
  let b : BitVec 256 := f.truncate 256
  let syn := checkBits b ^^^ bits f 264 256
  let odd := parity 266 f.toNat
  if syn = 0 ∧ !odd then some (b, false)
  else if !odd then none
  else if syn = 0 ∨ [1, 2, 4, 8, 16, 32, 64, 128, 256].contains syn then some (b, true)
  else
    match bodyPositions.findIdx? (· == syn) with
    | some i => some (b ^^^ BitVec.ofNat 256 (2 ^ i), true)
    | none => none

/-- The body as a flit with its check bits (R556, R557). -/
def flitOf (b : BitVec 256) : BitVec 272 :=
  let c := checkBits b
  let p := parity 256 b.toNat ^^ parity 9 c
  BitVec.ofNat 272 (b.toNat + 2 ^ 256 * c + (if p then 2 ^ 265 else 0))

/-- Field [hi:lo] of a body's payload. -/
def payload (b : BitVec 256) (hi lo : Nat) : Nat := bits b (16 + hi) (16 + lo)

/-- The token of a TOKEN flit (R248). -/
def tokenOf (b : BitVec 256) : Token :=
  { e := BitVec.ofNat 48 (payload b 127 80), shot := BitVec.ofNat 32 (payload b 79 48), run := payload b 47 42,
    table := payload b 41 41 == 1, src := payload b 40 32, value := BitVec.ofNat 16 (payload b 15 0) }

/-- The firings of an EVENT flit: channel and generation of every valid entry. -/
def eventsOf (b : BitVec 256) : List (Nat × Nat) :=
  ((List.range 12).filter fun n => payload b (20 * n + 13) (20 * n + 13) == 1).map fun n =>
    (payload b (20 * n + 9) (20 * n), payload b (20 * n + 12) (20 * n + 10))

/-- Whether a flit kind carries a sequence number (R557). -/
def sequencedKind (k : Nat) : Bool := decide (2 ≤ k ∧ k ≤ 8)

/-- The credit class of a flit kind, and the buffers of each class (R558, R559). -/
def kindClass (k : Nat) : Nat := match k with | 2 => 0 | 3 => 1 | 4 => 2 | 5 => 3 | 6 => 3 | 7 => 4 | _ => 5
def classBuffers (c : Nat) : Nat := match c with | 0 => 16 | 1 => 16 | 2 => 32 | 3 => 128 | 4 => 8 | _ => 56

/-- Credits of a class come back to a half's transmitter (R559). -/
def Dlk.credit (d : Dlk) (c n : Nat) : Dlk := if c < 6 then { d with spent := mmod 0 d.spent c (· - n) } else d

/-- One step of the generator of x^31 + x^28 + 1 (R551): the state moves up by one bit, and the new bit enters below. -/
def prbs31 (x : BitVec 31) : BitVec 31 := (x <<< 1) ||| (((x >>> 30) ^^^ (x >>> 27)) &&& 1)

/-- The scrambling generator of lane l after n flit bits: seeded at the end of a marker, advanced once a flit bit (R551). -/
def generator (l : Nat) : Nat → BitVec 31
  | 0 => BitVec.ofNat 31 (0x7FFFFFF0 + l)
  | n + 1 => prbs31 (generator l n)

/-- A flit brings each lane 34 bits, and the lanes' generators advance with them (R551, R556). -/
def Dlk.clocked (d : Dlk) : Dlk := { d with clock := (List.range 8).foldl (fun m l => mmod 0 m l (· + 34)) d.clock }

/-- The other half. -/
def far (h : Nat) : Nat := 1 - h

/-- A flit of one of the kinds named by `pick` is received on half h of an ACTIVE link: a corrected error is counted, a credit
returned, and the rest is `k`'s; the step has not occurred for any other flit. -/
def State.flitIn (s : State) (h : Nat) (f : BitVec 272) (pick : BitVec 256 → Bool) (k : State → BitVec 256 → Option State) : State :=
  if (s.dlkOf h).st ≠ .active ∨ (s.dlkOf (far h)).st ≠ .active then s
  else
    match flitBody f with
    | none => s
    | some (b, fixed) =>
      if !pick b then s
      else
        let s1 := (if fixed then s.count .CORR_COUNT h 0 else s).modDlk h Dlk.clocked
        let s1 := if bit b 0 then s1.modDlk h fun d => d.credit (bits b 3 1) 1 else s1
        match k s1 b with
        | some s2 => s2
        | none => s

/-- A sequenced flit with SEQ q can come from half g: it is one kept for resend, or a fresh one for which the transmitter has a
credit and room among its 64 kept flits (R559, R562). -/
def Dlk.canSend (d : Dlk) (c q : Nat) : Bool :=
  d.kept.contains q ||
    (decide (d.kept.length + (q + 256 - d.nextSeq) % 256 < 64) && decide (mget 0 d.spent c < classBuffers c))

/-- What the transmitter has done when its flit q arrives: flits up to q are kept until acknowledged, and a credit of its class is spent;
for a flit before it that has not arrived, once its resend shows its class. -/
def Dlk.sent (d : Dlk) (c q now : Nat) : Dlk :=
  if d.kept.contains q then
    if d.owed.contains q then { d with owed := d.owed.erase q, spent := mmod 0 d.spent c (· + 1) } else d
  else
    let n := (q + 256 - d.nextSeq) % 256
    let gap := (List.range n).map fun i => (d.nextSeq + i) % 256
    { d with kept := d.kept ++ gap ++ [q], owed := d.owed ++ gap, nextSeq := (q + 1) % 256,
             spent := mmod 0 d.spent c (· + 1), lastSeq := now, lastAck := if d.kept.isEmpty then now else d.lastAck }

/-- The receiver discards until the flit expected arrives; it is to send one NAK (R561). -/
def Dlk.refuses (d : Dlk) : Dlk := { d with nak := true, nakDue := d.nakDue || !d.nak }

/-- A sequenced flit is received on half h (R561): accepted where its SEQ is the one expected, and then `take` does what it brings;
otherwise discarded, with one NAK.  `take` answers none where the far half has formed no such message. -/
def State.sequenced (s : State) (h : Nat) (b : BitVec 256) (take : State → Option State) : Option State :=
  let q := bits b 11 4
  let c := kindClass (bits b 15 12)
  let g := s.dlkOf (far h)
  if !g.canSend c q then none
  else
    let s := s.modDlk (far h) fun d => d.sent c q (s.now (far h))
    if q = (s.dlkOf h).expect then take (s.modDlk h fun d => { d with expect := (q + 1) % 256, nak := false })
    else some (s.modDlk h Dlk.refuses)

/-- Take from half g's messages the first that `isClass` names, where it is m. -/
def State.takeMsg (s : State) (g : Nat) (isClass : DlkMsg → Bool) (m : DlkMsg) : Option State :=
  match (s.dlkOf g).msgs.find? isClass with
  | some x => if x = m then some (s.modDlk g fun d => { d with msgs := d.msgs.erase x }) else none
  | none => none

def DlkMsg.isToken : DlkMsg → Bool | .token _ => true | _ => false
def DlkMsg.isEvent : DlkMsg → Bool | .event _ _ => true | _ => false
def DlkMsg.isReg : DlkMsg → Bool
  | .regWrite _ _ _ => true | .regRead _ _ => true | .go _ _ => true | .regAnswer _ _ => true | _ => false
def DlkMsg.isMgmt : DlkMsg → Bool | .arrival _ _ => true | .quiet _ _ => true | .faultN => true | _ => false
def DlkMsg.isDma : DlkMsg → Bool | .dma _ => true | _ => false
def DlkMsg.isTime (typ : Nat) : DlkMsg → Bool | .time t _ => t == typ | _ => false

/-- IDLE (R558). -/
def execIdle (h : Half) (flit : BitVec 272) (s : State) : Res :=
  .next (s.flitIn h flit (fun b => bits b 15 12 == 0) fun s _ => some s)

/-- TOKEN (R558): the token is on its way to the half's subscribers. -/
def execToken (h : Half) (flit : BitVec 272) (s : State) : Res :=
  .next (s.flitIn h flit (fun b => bits b 15 12 == 2) fun s b =>
    s.sequenced h b fun s => (s.takeMsg (far h) DlkMsg.isToken (.token (tokenOf b))).map fun s => s.tokenOn h (tokenOf b))

/-- What a firing from the far half does: a channel of this half fires; a far channel's firing goes to this half's consumers
(R420, R423). -/
def State.eventIn (s : State) (h : Half) (ch gen : Nat) : State :=
  if ch / 512 = h.val then s.fire ch gen (s.row h) else s.fireTo h ch gen (s.row h)

/-- EVENT (R558): its valid entries, in order. -/
def execEvent (h : Half) (flit : BitVec 272) (s : State) : Res :=
  .next (s.flitIn h flit (fun b => bits b 15 12 == 3) fun s b =>
    s.sequenced h b fun s =>
      (eventsOf b).foldl (fun o e => o.bind fun s =>
        (s.takeMsg (far h) DlkMsg.isEvent (.event e.1 e.2)).map fun s => s.eventIn h e.1 e.2) (some s))

/-- What a half does with a management message: an arrival at a barrier has come (R95), quiet mode reaches the half (R590), an
occurrence of H1 signals at FAULT_N (R589). -/
def State.mgmtIn (s : State) (h : Nat) (m : DlkMsg) : State :=
  match m with
  | .quiet cause id => s.quietIn h cause id
  | .faultN => s.signalFaultN 0
  | _ => s

/-- MGMT (R558): the next management message of the far half arrives; how firmware spells it in the flit's 240 bits is its own (log
83). -/
def execMgmt (h : Half) (flit : BitVec 272) (s : State) : Res :=
  .next (s.flitIn h flit (fun b => bits b 15 12 == 8) fun s b =>
    s.sequenced h b fun s =>
      match (s.dlkOf (far h)).msgs.find? DlkMsg.isMgmt with
      | some m => (s.takeMsg (far h) DlkMsg.isMgmt m).map fun s => s.mgmtIn h m
      | none => none)

/-! ### Acknowledgement and resend (R561, R562) -/

/-- A resend of every kept flit (R562): counted, DLK_REPLAY raised, and resends that start at one flit counted together. -/
def State.resend (s : State) (h : Nat) : State :=
  match (s.dlkOf h).kept with
  | [] => s
  | q :: _ =>
    let s := s.modDlk h fun d =>
      { d with resends := if d.resendAt = some q then d.resends + 1 else 1, resendAt := some q, lastAck := s.now h }
    (s.count .REPLAY_COUNT h 0).occur h 0x161

/-- What an LCTL flit acknowledges and returns (R558, R559, R561, R562). -/
def State.control (s : State) (h : Nat) (b : BitVec 256) : State :=
  let a := payload b 7 0
  let d := s.dlkOf h
  let s :=
    if d.kept.contains a then
      s.modDlk h fun d => { d with kept := (d.kept.dropWhile (· ≠ a)).drop 1, lastAck := s.now h, resendAt := none, resends := 0 }
    else s
  let s := s.modDlk h fun d => d.credit (payload b 21 19) (payload b 18 11)
  if payload b 8 8 = 1 then s.resend h else s

/-- The far receiver g can have formed an LCTL flit: it acknowledges nothing that g has not accepted, and carries NAK only where g is to send one
(R561). -/
def Dlk.acks (d g : Dlk) (b : BitVec 256) : Bool :=
  (!d.kept.contains (payload b 7 0) || decide ((g.expect + 255 - payload b 7 0) % 256 < 128)) && (payload b 8 8 == 0 || g.nakDue)

/-- What an LCTL flit does on half h where the far half can have formed it. -/
def State.controlIn (s : State) (h : Nat) (b : BitVec 256) : Option State :=
  if (s.dlkOf h).acks (s.dlkOf (far h)) b then
    some ((if payload b 8 8 = 1 then s.modDlk (far h) fun g => { g with nakDue := false } else s).control h b)
  else none

/-- LCTL (R561, R562). -/
def execLctl (h : Half) (flit : BitVec 272) (s : State) : Res :=
  .next (s.flitIn h flit (fun b => bits b 15 12 == 1 && payload b 10 9 == 0) fun s b => s.controlIn h b)

/-- REPLAY_TIMEOUT (R562): no acknowledgement for 2 µs. -/
def execReplayTimeout (h : Half) (s : State) : Res :=
  let d := s.dlkOf h
  .next (if d.st = .active ∧ !d.kept.isEmpty ∧ d.lastAck + 40000 ≤ s.now h then s.resend h else s)

/-- UNCORRECTABLE_FLIT (R557, R558, R561): counted; sequenced flits are discarded until the one expected arrives again. -/
def execUncorrectableFlit (h : Half) (flit : BitVec 272) (s : State) : Res :=
  let bad : Bool := match flitBody flit with | none => true | some (b, _) => decide (9 ≤ bits b 15 12)
  .next (if (s.dlkOf h).st = .active ∧ bad then (s.count .UNCORR_COUNT h 0).modDlk h fun d => d.clocked.refuses else s)

/-! ### What is lost with the link (R34, R570) -/

/-- Host-memory traffic between the halves is lost with the link (R570): the command that it belongs to ends with LINK_DOWN, a stream's
samples are missing, a record is discarded (R571). -/
def State.forwardLost (s : State) (x : Forward) : State :=
  let lost (s : State) (q : DmaReq) : State := match q.why with
    | .data tag => s.failCmd tag 0x14
    | .stream q pos => s.streamMiss q pos
    | _ => s
  match x with
  | .access _ q => lost s q
  | .response _ q _ => lost s q
  | .record _ _ r w => s.strandRecord w.half r w.run w.bytes

/-- What half g has formed for the far half is lost. -/
def State.loseMsgs (s : State) (g : Nat) : State :=
  let gone := (s.dlkOf g).msgs
  (s.dropMsgs g).forEach gone fun s m => match m with | .dma x => s.forwardLost x | _ => s

/-! ### Rest and Dormant (R26, R566 to R568) -/

/-- Whether a route from a source to a thread of half h crosses the link. -/
def State.crosses (s : State) : Nat → Bool → Nat → Nat → Bool
  | 0, _, _, _ => false
  | _ + 1, false, src, h => src / 256 != h
  | n + 1, true, src, h =>
    src / 64 != h || (!bit (s.reg .DT_CFG (src / 64) (src % 64)) 30 && (List.range 8).any fun i =>
      let x := s.reg .DT_IN (src / 64) (src % 64) i
      bit (s.reg .DT_CFG (src / 64) (src % 64)) i && s.crosses n (bit x 31) (bits x 8 0) (src / 64))

/-- Whether a subscription of a thread or group of half h reaches the other half. -/
def State.subCrosses (s : State) (x : Word) (h : Nat) : Bool :=
  bit x 31 && (!bit x 30 || decide (bits x 8 0 < 128)) && s.crosses 129 (bit x 30) (bits x 8 0) h

/-- Whether a run uses the other half (R571): its threads, the subscriptions of its threads and of its resources' groups, its rings and
the stream rings attached to its resources. -/
def State.usesFar (s : State) (r : Nat) : Bool :=
  let u := s.runOf r
  let hs := (u.threads.map thrHalf).eraseDups
  match hs with
  | [h] =>
    (u.threads.any fun t => (List.range 8).any fun i => s.subCrosses (s.reg .THR_SUB h (t % 256) i) h) ||
    ((s.queuesOf r).any fun q => s.subCrosses (s.reg .PAT_SUB h (groupFirst (qGroup q))) h ||
      (match s.stream q with | some y => (s.ring y.ring).port / 2 != h | none => false)) ||
    (s.ring u.ring).port / 2 != h || (s.ring u.recRing).port / 2 != h
  | [] => false
  | _ => true

/-- Whether an enabled task input of a half selects a channel of the other (R26). -/
def State.taskFar (s : State) (h : Nat) : Bool :=
  (s.listed .TASK_SEL h).any fun u => bit (s.reg .TASK_SEL h u) 31 && bits (s.reg .TASK_SEL h u) 9 0 / 512 != h

/-- Whether Rest is inhibited (R26). -/
def State.restInhibited (s : State) : Bool := s.activeRuns.any s.usesFar || s.taskFar 0 || s.taskFar 1

/-- Whether a half is ready for Rest: REST_EN, nothing sequenced sent for REST_IDLE ns, everything acknowledged, not inhibited
(R566). -/
def State.restReady (s : State) (h : Nat) : Bool :=
  let d := s.dlkOf h
  d.st == .active && bit (s.reg .DLK_CTL h) 1 && d.kept.isEmpty && d.msgs.isEmpty &&
  decide (d.lastSeq + 20 * max 1 (s.reg .REST_IDLE h).toNat ≤ s.now h) && !s.restInhibited

/-- REST_IDLE_EXPIRY: the side sends REST_REQ (R566). -/
def execRestIdleExpiry (h : Half) (s : State) : Res :=
  .next (if s.restReady h ∧ (s.dlkOf (far h)).st = .active then s.modDlk h fun d => { d with asked := true } else s)

/-- REST_REQ: the other side has asked; this one answers if it is idle and not inhibited, and otherwise the request lapses. -/
def execRestReq (h : Half) (flit : BitVec 272) (s : State) : Res :=
  .next (s.flitIn h flit (fun b => bits b 15 12 == 1 && payload b 9 9 == 1) fun s b =>
    if !(s.dlkOf (far h)).asked then none
    else
      (s.controlIn h b).map fun s =>
        if s.restReady h then s.modDlk h fun d => { d with answered := true } else s.modDlk (far h) fun d => { d with asked := false })

/-- REST_ACK: the answer to this side's request; both sides enter Rest, unless Rest has become inhibited meanwhile (R26). -/
def execRestAck (h : Half) (flit : BitVec 272) (s : State) : Res :=
  .next (s.flitIn h flit (fun b => bits b 15 12 == 1 && payload b 10 10 == 1) fun s b =>
    if !(s.dlkOf h).asked ∨ !(s.dlkOf (far h)).answered then none
    else
      (s.controlIn h b).map fun s =>
        let s := s.forEach [0, 1] fun s g => s.modDlk g fun d => { d with asked := false, answered := false }
        if s.restInhibited then s
        else s.forEach [0, 1] fun s g => (s.modDlk g fun d => { d with st := .rest }).count .REST_COUNT g 0)

/-- REST_EXIT: a side has a flit to send, or detects the far side's burst (R567). -/
def execRestExit (h : Half) (s : State) : Res :=
  .next (if (s.dlkOf h).st = .rest ∧ (!(s.dlkOf h).msgs.isEmpty ∨ !(s.dlkOf (far h)).msgs.isEmpty) then
      s.forEach [0, 1] fun s g => s.modDlk g fun d => { d with st := .active }
    else s)

/-- Whether something is armed at network time: an NT_TRIG or scan arm, or a run or swatch that waits for a network time. -/
def State.ntArmed (s : State) : Bool :=
  [0, 1].any fun h => (List.range 5).any fun a => bit (s.reg .TRIG_STATE h a) 31

/-- Whether DORMANT may be entered (R568). -/
def State.dormantOk (s : State) : Bool :=
  s.linkUp && s.activeRuns.isEmpty && (s.caps.all fun e => e.2.st != .armed && e.2.st != .opened) && !s.ntArmed &&
  [0, 1].all fun h => (s.calOf h).job.isNone

/-- A write to DLK_CTL (R566, R568): REST_EN acts on both halves; DORMANT is entered where R568 allows it, and clearing it starts a
full training. -/
def State.wrDlkCtl (s : State) (h : Nat) (v : Word) : State :=
  let s := s.forEach (if s.linkUp then [0, 1] else [h]) fun s g => s.regBit .DLK_CTL g 0 1 (bit v 1)
  let was := bit (s.reg .DLK_CTL h) 0
  if bit v 0 ∧ !was then
    if s.dormantOk then
      ((s.loseMsgs 0).loseMsgs 1).forEach [0, 1] fun s g =>
        (s.regBit .DLK_CTL g 0 0 true).modDlk g fun d => { ({ } : Dlk) with st := .dormant, cause := d.cause }
    else s.count .DLK_IGNORED h 0
  else if !bit v 0 ∧ was then
    s.forEach [0, 1] fun s g =>
      (s.regBit .DLK_CTL g 0 0 false).modDlk g fun d => { ({ } : Dlk) with st := .training, wake := true, cause := d.cause }
  else s

/-! ### Loss of the link (R569 to R571) -/

/-- A record of a run that waits for a ring served by a port of the other half (R571). -/
def State.strands (s : State) (x : BufRec) : Bool := (s.ring x.ring).port / 2 != x.half

/-- The records of the runs listed that cannot cross are discarded, and the shot records of their shots carry RECLOST (R571). -/
def State.strand (s : State) (l : List Nat) : State :=
  let gone := s.recs.filter fun x => s.strands x && (match x.run with | some r => l.contains r | none => false)
  let s := { s with recs := s.recs.filter fun x => !(s.strands x && (match x.run with | some r => l.contains r | none => false)) }
  s.forEach gone fun s x => s.strandRecord x.half x.ring x.run x.bytes

/-- Half h declares a loss of the link (R569 to R571): DLK_LOSS, which concerns the runs that use the other half (log 77), and with
class RUN each of those stops with LINK_DOWN; before READY the part returns to SELFTEST (R489). -/
def State.loseLink (s : State) (h cause : Nat) : State :=
  let s := s.count .LOSS_COUNT h 0
  let s := (s.loseMsgs h).loseMsgs (far h)
  let s := (s.modDlk h fun d => { ({ } : Dlk) with st := .training, cause := cause, lost := true, markBad := d.markBad }).refreshFaultN
  if !s.ready then s.backToSelftest
  else
    let l := s.activeRuns.filter fun r => s.usesFar r
    let w : Names := { runs := l }
    let runClass := s.srcClass h 0x160 == 2 && !(s.shadowsF.any fun x => decide (s.now h < x.until_) && x.covers h false w)
    let s := s.occur h 0x160 w
    if runClass then (s.forEach l fun s r => s.stopRun r 0x14 false).strand l else s

/-- LINK_LOSS (R569): loss of signal (1), loss of lock (2), two consecutive marker errors on one lane (3), four resends that start
at one flit (4). -/
def execLinkLoss (h : Half) (cause : Fin 8) (s : State) : Res :=
  let d := s.dlkOf h
  let ok : Bool := match cause.val with
    | 1 => true
    | 2 => true
    | 3 => d.markBad.any fun e => decide (2 ≤ e.2)
    | 4 => decide (4 ≤ d.resends)
    | _ => false
  .next (if (d.st = .active ∨ d.st = .rest) ∧ ok then s.loseLink h cause.val else s)

/-! ### Training (R554, R555, R564, R572) -/

/-- The preset with the largest eye margin, the lower-numbered of equals (R554). -/
def bestPreset (eyes : List (BitVec 8)) : Nat × BitVec 8 :=
  eyes.zipIdx.foldl (fun a e => if a.2.toNat < e.1.toNat then (e.2, e.1) else a) (0, eyes.headD 0)

/-- TRAINING_ATTEMPT (R554, R555): success at SELFTEST or from Dormant makes the link ACTIVE; after a loss LINK_UP does; the third
failure at SELFTEST is FAILED with cause 3, after a loss attempts repeat, from Dormant a failure is a loss. -/
def execTrainingAttempt (h : Half) (res : TrainingResult) (s : State) : Res :=
  let d := s.dlkOf h
  .next (if d.st ≠ .training ∨ d.trained then s
    else
      let s := s.count .TRAIN_COUNT h 0
      if res.ok then
        let s := s.forEach (List.range 8) fun s l =>
          let p := bestPreset (res.eyes.getD l [])
          s.setReg .DLK_LANE_STATUS h l 0
            (BitVec.ofNat 32 (p.1 % 16 * 2 ^ 24 + p.2.toNat * 2 ^ 16 + (res.skews.getD l 0).toNat))
        if d.lost then s.modDlk h fun d => { d with trained := true }
        else s.modDlk h fun d => { d with st := .active, wake := false, attempts := 0, lastSeq := s.now h, lastAck := s.now h }
      else if d.wake then s.loseLink h 5
      else if d.lost then s.modDlk h fun d => { d with st := .down, retryAt := some (s.now h + 2000000) }
      else if s.boot.st = .selftest ∧ 2 ≤ d.attempts then s.modBoot fun b => { b with st := .failed, cause := 3 }
      else s.modDlk h fun d => { d with attempts := d.attempts + 1 })

/-- TRAINING_RETRY: 100 µs after a failed attempt (R555). -/
def execTrainingRetry (h : Half) (s : State) : Res :=
  .next (match (s.dlkOf h).retryAt with
    | some t => if (s.dlkOf h).st = .down ∧ t ≤ s.now h then s.modDlk h fun d => { d with st := .training, retryAt := none } else s
    | none => s)

/-- The copies of FLT_PSUM are combined by OR; a bit new to a half's copy notifies the partition's ports there (R597, R598). -/
def State.joinPsum (s : State) : State :=
  s.forEach (List.range 5) fun s k =>
    let v := s.reg .FLT_PSUM 0 k ||| s.reg .FLT_PSUM 1 k
    s.forEach [0, 1] fun s g =>
      if s.reg .FLT_PSUM g k = v then s
      else (s.setReg .FLT_PSUM g k 0 v).notifyAll (if k = 4 then [] else [g]) fun p => s.portPart p == some k

/-- The half whose first cause is the part's when the link returns: the one in quiet mode, or of two the one that entered first
(log 75). -/
def State.firstQuiet (s : State) : Nat :=
  if s.isQuiet 0 && (!s.isQuiet 1 || decide (s.pair .QUIET_T_LO .QUIET_T_HI 0 0 ≤ s.pair .QUIET_T_LO .QUIET_T_HI 1 0)) then 0 else 1

/-- When the link is ACTIVE again, a half that is not in quiet mode enters it if the other is, and both then read the same: the
state, the first cause and its sample time, the entries of the half that has the more (R590). -/
def State.rejoin (s : State) : State :=
  let s := s.joinPsum.refreshFaultN
  if !s.isQuiet 0 && !s.isQuiet 1 then s
  else
    let r := s.firstQuiet
    let q := s.quietOf r
    let s := s.quietIn (1 - r) q.cause q.id
    let n := max q.entries (s.quietOf (1 - r)).entries
    let s := s.forEach [0, 1] fun s g => s.modQuiet g fun _ => { q with entries := n }
    s.setPair .QUIET_T_LO .QUIET_T_HI (1 - r) 0 (s.pair .QUIET_T_LO .QUIET_T_HI r 0)

/-- Errors of a lane join a count of LANE_ERR, which stays at 0xFFFF (R573). -/
def State.laneErr (s : State) (h l hi lo n : Nat) : State :=
  let e := s.reg .LANE_ERR h l
  s.setReg .LANE_ERR h l 0 (setBits e hi lo (min 0xFFFF (bits e hi lo + n)))

/-- DESKEW_MARKER (R551 to R553): the 66-bit block on a lane at a marker's position, none where it is missing; a wrong one adds one to
MARK_ERR, a right one seeds the lane's generator.  The stuffing errors of the lane since the marker before are counted here (log
48). -/
def execDeskewMarker (h : Half) (lane : Fin 8) (block : Option (BitVec 66)) (stuff : Fin 65536) (s : State) : Res :=
  let l := lane.val
  let good := match block with
    | some b => bits b 1 0 == 1 && bits b 5 2 == l && bits b 9 6 == 15 - l && bits b 65 10 == 0xF0E1D2C3B4A596
    | none => false
  .next (if (s.dlkOf h).st ≠ .active then s
    else
      let s := s.laneErr h l 31 16 stuff
      if good then s.modDlk h fun d => { d with markBad := mset 0 d.markBad l 0, clock := mset 0 d.clock l 0 }
      else (s.laneErr h l 15 0 1).modDlk h fun d => { d with markBad := mmod 0 d.markBad l (· + 1) })

/-- PROBE (R564): a training half has received the far half's PROBE at sample `off` of its row; the ECHO is due 64 samples later. -/
def execProbe (h : Half) (flit : BitVec 272) (off : Fin 32) (s : State) : Res :=
  .next (match flitBody flit with
    | some (b, _) =>
      if bits b 15 12 = 7 ∧ payload b 161 160 = 1 ∧ (s.dlkOf h).st = .training then
        (s.modDlk (far h) fun d => { d with probe := some (payload b 63 0) }).modDlk h fun d =>
          { d.clocked with echoDue := some (s.now h + off.val + 64) }
      else s
    | none => s)

/-- ECHO (R564), which carries the sample of its own departure: the one-way latency is half of what lies between the PROBE's departure and the ECHO's arrival beyond the
turnaround of 64 samples; LINK_LAT of both halves holds it. -/
def execEcho (h : Half) (flit : BitVec 272) (off : Fin 32) (s : State) : Res :=
  .next (match flitBody flit, (s.dlkOf h).probe, (s.dlkOf (far h)).echoDue with
    | some (b, _), some p, some due =>
      if bits b 15 12 = 7 ∧ payload b 161 160 = 2 ∧ (s.dlkOf h).st = .training ∧ payload b 63 0 = due then
        let lat := (s.now h + off.val - p - 64) / 2
        let s := s.forEach [0, 1] fun s g => s.setReg .LINK_LAT g 0 0 (BitVec.ofNat 32 (lat % 65536))
        (s.modDlk h fun d => { d.clocked with probe := none }).modDlk (far h) fun d => { d with echoDue := none }
      else s
    | _, _, _ => s)

/-- HALF_ALIGN_SEND (R53): H0's counter is a multiple of 2^20, and H0 forms a PERIODIC flit with its value. -/
def execHalfAlignSend (s : State) : Res :=
  .next (if s.now 0 % 1048576 = 0 ∧ s.linkUp then s.send 0 (.time 0 (s.now 0)) else s)

end Sys2Proof.Machine
end

