-- ==== Sys2Proof/Machine/Engine.lean ====
section
/-!
DEFINITION. The compression engine of each half, what becomes of records and stream data, and completions (R450 to R457, R503 to
R524).
-/
namespace Sys2Proof.Machine

def State.cmpOf (s : State) (h : Nat) : CmpEng := mget {} s.cmp h
def State.modCmp (s : State) (h : Nat) (f : CmpEng → CmpEng) : State := { s with cmp := mmod {} s.cmp h f }

/-- CMP_CTL.EN of a half. -/
def State.cmpOn (s : State) (h : Nat) : Bool := bit (s.reg .CMP_CTL h) 0

/-- Whether the skein in progress is worked as with the engine enabled: EN is 1, or was when it began (R523). -/
def State.cmpLive (s : State) (h : Nat) : Bool := s.cmpOn h || (s.cmpOf h).late

/-! ### Sharing the engine (R517) -/

/-- Whether a stream has a skein for the engine: one whose header fails, or a whole one that its staging area has room for. -/
def State.streamWaits (s : State) (q : Nat) (y : Stream) : Bool :=
  (s.ring y.ring).skein && !y.dead &&
  match skeinAt (y.raw.drop (fillerLen y.raw.length y.raw)) (some 3) with
  | .bad => true
  | .skein _ n _ _ _ => decide (y.staged + n / 4 ≤ s.streamNeed q y + y.size / 4)
  | _ => false

/-- The next user of a half's engine. -/
def State.cmpNext (s : State) (h : Nat) : Option CmpUser :=
  let c := s.cmpOf h
  let stream := (s.strm.find? fun e => qHalf e.1 == h && (match e.2 with | some y => s.streamWaits e.1 y | none => false)).map fun e => CmpUser.stream e.1
  let pack := (s.rings.find? fun e => e.2.shut.isSome && e.2.made.isEmpty && portHalf e.2.port == h).map fun e => CmpUser.pack e.1
  let job := ((List.range 5).findSome? fun i => c.jobs.find? fun j => j.part == (c.last + 1 + i) % 5).map fun j => CmpUser.job j.tag
  if job.isSome && decide (7 ≤ c.streak) then job
  else match stream, pack with
    | some u, _ => some u
    | none, some u => some u
    | none, none => job

/-- The engine, when free and not held back by the governor (R609), takes its next user. -/
def State.cmpPick (s : State) (h : Nat) : State :=
  let c := s.cmpOf h
  if c.cur.isSome || s.paced h 24 then s
  else
    match s.cmpNext h with
    | none => s
    | some (.job tag) =>
      s.modCmp h fun c => { c with cur := some (.job tag), late := false, streak := 0, last := match c.jobs.find? fun (j : CmpJob) => j.tag == tag with | some j => j.part | none => c.last }
    | some u => s.modCmp h fun c => { c with cur := some u, late := false, streak := if c.jobs.isEmpty then 0 else c.streak + 1 }

/-! ### Class-3 jobs (R510 to R516, R523) -/

/-- BYTES_IN and BYTES_OUT advance. -/
def State.cmpBytes (s : State) (h orig body : Nat) : State :=
  let add (s : State) (lo hi : Reg) (n : Nat) : State := s.setPair lo hi h 0 (s.pair lo hi h 0 + n)
  add (add s .BYTES_IN_LO .BYTES_IN_HI orig) .BYTES_OUT_LO .BYTES_OUT_HI body

/-- A job ends with a status. -/
def State.jobEnd (s : State) (h : Nat) (j : CmpJob) (status : BitVec 8) : State :=
  let s := (s.modCmp h fun c => { c with jobs := c.jobs.filter fun k => k.tag != j.tag }).count .CMP_JOBS h 0
  s.finish j.tag status
    (match j.kind with
    | .load _ _ _ _ => BitVec.ofNat 64 j.written
    | _ => BitVec.ofNat 64 (j.consumed % 2 ^ 32 + 2 ^ 32 * j.written))

/-- A decoder's source fails a check (R515). -/
def State.decodeFail (s : State) (h : Nat) : State := s.count .DECODE_FAIL h 0

/-- The memory of a load's code. -/
def memOf (m : Nat) : Mem := match m with | 0 => .wave | 1 => .prog | 2 => .kernel | _ => .dsp

/-- Whether partition k owns every page of a range of an on-die memory (R40); a lane's memory goes with its lane. -/
def State.ownsRange (s : State) (k m h off n : Nat) : Bool :=
  match m with
  | 0 => pagesOwned (s.ownWavePage h) k 65536 768 off (off + n)
  | 1 => pagesOwned (s.ownProgPage h) k 65536 128 off (off + n)
  | 2 => pagesOwned (s.ownKernelPage h) k 65536 64 off (off + n)
  | _ => s.ownLane (16 * h + off / 262144) == some k

/-- Change a job. -/
def State.modJob (s : State) (h tag : Nat) (f : CmpJob → CmpJob) : State :=
  s.modCmp h fun c => { c with jobs := c.jobs.map fun j => if j.tag = tag then f j else j }

/-- A job joins those that wait for a half's engine, in the order in which their commands were accepted (R517). -/
def State.jobIn (s : State) (h : Nat) (j : CmpJob) : State :=
  let seq (k : CmpJob) : Nat := match mget none s.cmds k.tag with | some c => c.seq | none => 0
  s.modCmp h fun c => { c with jobs := (c.jobs.filter fun k => decide (seq k ≤ seq j)) ++ j :: c.jobs.filter fun k => decide (seq j < seq k) }

/-- What a job meets before its next skein: its end with a status, or the skein. -/
def State.jobSettle (s : State) (h tag : Nat) : State :=
  match (s.cmpOf h).jobs.find? fun j => j.tag == tag with
  | none => s
  | some j =>
    match j.kind with
    | .compress _ =>
      let n := min 65536 j.left
      if j.left = 0 then s.jobEnd h j (if j.shrunk then 0x00 else 0x03)
      else if j.cap < j.written + 32 + roundUp n 16 then s.jobEnd h j 0x04
      else if j.data.length < n then s.jobEnd h j 0x07
      else s
    | _ =>
      let f := fillerLen j.data.length j.data
      let s := s.modJob h tag fun j => { j with data := j.data.drop f, left := j.left - f, consumed := j.consumed + f }
      let j := { j with data := j.data.drop f, left := j.left - f, consumed := j.consumed + f }
      let short := decide (j.data.length < j.left)
      let fails (s : State) : State := if short then s.jobEnd h j 0x07 else (s.decodeFail h).jobEnd h j 0x06
      match skeinAt j.data none with
      | .none => if short then s.jobEnd h j 0x07 else s.jobEnd h { j with consumed := j.consumed + j.left } 0x00
      | .bad => (s.decodeFail h).jobEnd h j 0x06
      | .more _ => fails s
      | .skein _ n _ _ _ =>
        match j.kind with
        | .load m g off limit =>
          if limit < off + j.written + n then s.jobEnd h j 0x09
          else if !s.ownsRange j.part m g (off + j.written) n then s.jobEnd h j 0x08
          else s
        | _ => if j.cap < j.written + n then s.jobEnd h j 0x04 else s

/-- A request for the data of command tag, for a resource of half h. -/
def cmdReq (part tag h cls : Nat) : DmaReq := { cls := cls, part := part, src := srcCmd tag, why := .data tag, act := .msix 0, half := h }

/-- Bytes of a job go to host memory; what the region check refuses ends the job (R458, R516). -/
def State.jobWrite (s : State) (h : Nat) (j : CmpJob) (bytes : List Byte) (f : CmpJob → CmpJob) : State :=
  let a := j.dst + j.written
  if s.allowed j.port j.part a bytes.length true < bytes.length then
    ((s.count .DENIED_COUNT (portHalf j.port) (portIx j.port)).occur (portHalf j.port) 0x131 { parts := [j.part] }).jobEnd h j 0x07
  else
    ((s.dmaWrite j.port (cmdReq j.part j.tag h 4) a bytes).modJob h j.tag fun j =>
      { f j with written := j.written + bytes.length, started := true }).jobSettle h j.tag

/-- A skein of a job is worked: `body` is what the encoder made of the chunk, `ecc` an uncorrectable buffer error. -/
def State.jobStep (s : State) (h : Nat) (j : CmpJob) (body : List Byte) (ecc : Bool) : State :=
  match j.kind with
  | .compress pre =>
    let n := min 65536 j.left
    let orig := j.data.take n
    let raw := decide (n ≤ body.length)
    if !raw && (ecc || inflate n body != some (if pre then prefilter orig else orig)) || (raw && ecc) then
      ((s.count .VERIFY_FAIL h 0).occur h 0x150 { parts := [j.part] }).jobEnd h j 0x05
    else
      let b := if raw then none else some body
      let s := s.cmpBytes h n (if raw then n else body.length)
      let s := if raw then s.count .RAW_SKEINS h 0 else s
      s.jobWrite h j (skeinOf 0 j.seq orig b pre) fun j =>
        { j with data := j.data.drop n, left := j.left - n, consumed := j.consumed + n, seq := j.seq + 1, shrunk := j.shrunk || !raw }
  | k =>
    match skeinAt j.data none with
    | .skein len n m raw (some bytes) =>
      if ecc ∨ (!raw ∧ !s.cmpLive h ∧ !j.started) then (s.decodeFail h).jobEnd h j 0x06
      else
        let s := s.cmpBytes h n m
        let f (j : CmpJob) : CmpJob := { j with data := j.data.drop len, left := j.left - len, consumed := j.consumed + len, seq := j.seq + 1 }
        match k with
        | .load m g off _ =>
          ((s.write (memOf m) g (off + j.written) bytes).modJob h j.tag fun j =>
            { f j with written := j.written + n, started := true }).jobSettle h j.tag
        | _ => s.jobWrite h j bytes f
    | _ => (s.decodeFail h).jobEnd h j 0x06

/-! ### Packed records and streamed skeins (R519 to R524) -/

/-- The closed skein of a record ring is made (R519, R521, R523). -/
def State.packStep (s : State) (h r : Nat) (body : List Byte) (ecc : Bool) : State :=
  let x := s.ring r
  match x.shut with
  | none => s
  | some p =>
    let n := p.bytes.length
    let wrong := s.cmpLive h && (ecc || (decide (body.length < n) && inflate n body != some p.bytes))
    let raw := !s.cmpLive h || wrong || decide (n ≤ body.length)
    let s := if wrong then (s.count .VERIFY_FAIL h 0).occur h 0x150 { runs := p.runs, parts := (s.ringOwner r).toList } else s
    let s := if raw then s.count .RAW_SKEINS h 0 else s
    let s := s.cmpBytes h n (if raw then n else body.length)
    s.modRing r fun x => { x with made := skeinOf p.content x.seq p.bytes (if raw then none else some body) false, seq := x.seq + 1 }

/-- Bytes of a stream land in its staging area from a position on. -/
def State.stageWrite (s : State) (q : Nat) (y : Stream) (pos : Nat) (bytes : List Byte) : State :=
  s.forEach (List.range (bytes.length / 4)) fun s i =>
    s.write .wave (qHalf q) (y.stage + 4 * ((pos + i) % (y.size / 4))) (slice bytes (4 * i) 4)

/-- A streamed skein is unpacked, or fails and leaves its samples missing (R522). -/
def State.streamStep (s : State) (h q : Nat) (ecc : Bool) : State :=
  match s.stream q with
  | none => s
  | some y =>
    let f := fillerLen y.raw.length y.raw
    let raw := y.raw.drop f
    let names : Names := { runs := s.runOfQueue q, parts := (s.ringOwner y.ring).toList }
    match skeinAt raw (some 3) with
    | .bad => ((s.setStream q (some { y with dead := true, raw := [] })).decodeFail h).occur h 0x151 names
    | .skein len n m isRaw bytes =>
      let y := { y with raw := raw.drop len }
      match (if ecc ∨ (!isRaw ∧ !s.cmpLive h) then none else bytes) with
      | some b =>
        (((s.cmpBytes h n m).stageWrite q y y.staged b).setStream q (some { y with staged := y.staged + n / 4 }))
      | none =>
        ((s.setStream q (some { y with staged := y.staged + n / 4, holes := y.holes ++ [(y.staged, y.staged + n / 4)] })).decodeFail h).occur
          h 0x151 names
    | _ => s

/-- Whether a user's skein is one that the encoder makes: that of a record ring while the engine is enabled, or of a COMPRESS. -/
def State.encodes (s : State) (h : Nat) (u : CmpUser) : Bool :=
  match u with
  | .stream _ => false
  | .pack _ => s.cmpLive h
  | .job tag => (s.cmpOf h).jobs.any fun (j : CmpJob) => j.tag == tag && match j.kind with | .compress _ => true | _ => false

/-- SKEIN_DONE: the engine finishes a skein and takes the next waiting one (R517).  `body` is the DEFLATE body that its encoder made, in the
form of R509, `e` what the check of its buffers reported (R524). -/
def execSkeinDone (h : Half) (body : List Byte) (e : Ecc) (s : State) : Res :=
  let s1 := s.cmpPick h
  .next (match (s1.cmpOf h).cur with
    | none => s
    | some u =>
      if s1.encodes h u ∧ !encoderForm body then s
      else
      let s := s1.modCmp h fun c => { c with cur := none }
      let bad := e == .uncorrectable
      let s := if e = .corrected then s.count .CMP_ECC_CORRECTED h 0 else s
      let names : Names := match u with
        | .stream q => { runs := s.runOfQueue q, parts := (s.ownQueue q).toList }
        | .pack r => { runs := (match (s.ring r).shut with | some p => p.runs | none => []), parts := (s.ringOwner r).toList }
        | .job tag => { parts := ((s.cmpOf h).jobs.filter fun (j : CmpJob) => j.tag == tag).map (·.part) }
      let s := if bad then s.occur h 0x152 names else s
      let s := match u with
        | .stream q => s.streamStep h q bad
        | .pack r => s.packStep h r body bad
        | .job tag => match (s.cmpOf h).jobs.find? fun (j : CmpJob) => j.tag == tag with | some j => s.jobStep h j body bad | none => s
      s.cmpPick h)

/-- SKEIN_FLUSH_TIMEOUT: SKEIN_FLUSH µs after its first record an open skein closes (R519). -/
def execSkeinFlushTimeout (r : RingIx) (s : State) : Res :=
  let x := s.ring r
  let h := portHalf x.port
  .next (if 0 < x.pack.count ∧ x.shut = none ∧ x.pack.first + 20000 * max 1 (s.reg .SKEIN_FLUSH h).toNat ≤ s.now h then
      (s.shutPack r).cmpPick h
    else s)

/-- A write to CMP_CTL; clearing EN ends the COMPRESS and DECOMPRESS jobs not yet started (R523). -/
def State.wrCmpCtl (s : State) (h : Nat) (v : Word) : State :=
  let was := s.cmpOn h
  let s := s.setReg .CMP_CTL h 0 0 (v &&& 0x1F)
  if was ∧ !bit v 0 then
    let cur := (s.cmpOf h).cur
    let plain (j : CmpJob) : Bool := match j.kind with | .load _ _ _ _ => false | _ => true
    let l := (s.cmpOf h).jobs.filter fun j => !j.started && cur != some (CmpUser.job j.tag) && plain j
    let s := s.modCmp h fun c => { c with late := c.cur.isSome }
    s.forEach l fun s j => s.jobEnd h j 0x0A
  else s

/-! ### Records (R454 to R456) -/

/-- The first record that waits for a ring, or the first entry of an engine. -/
def State.waiting (s : State) (r : Nat) : Option Waiting :=
  match s.recs.find? fun x => x.ring == r with
  | some x => some ⟨x.half, x.run, none, x.bytes⟩
  | none =>
    s.caps.findSome? fun e => match e.2.buf with
      | x :: _ => if x.1 = r then some ⟨e.1 / 2, none, some e.1, x.2⟩ else none
      | [] => none

/-- It waits no longer. -/
def State.taken (s : State) (r : Nat) (w : Waiting) : State :=
  match w.engine with
  | some e => (s.modCap e fun c => { c with buf := c.buf.tail }).capSettle e
  | none => { s with recs := match s.recs.find? fun x => x.ring == r with | some x => s.recs.erase x | none => s.recs }

/-- A LOSS record (R454). -/
def lossRecord (x : Ring) : List Byte :=
  leBytes 1 6 ++ leBytes 1 (x.lostRun.getD 0xFF) ++ leBytes 2 0 ++ leBytes 4 (min x.lost 0xFFFFFFFF) ++ leBytes 8 0

/-- What fills a ring to its end: a PAD record, or filler where it holds skeins (R454, R519). -/
def padding (skein : Bool) (units : Nat) : List Byte :=
  if skein then List.replicate (16 * units) 0 else leBytes 2 0 ++ leBytes 2 units ++ List.replicate (16 * units - 4) 0

/-- Write `n` records, of the runs listed, to a ring, after padding where they do not fit before the ring's end; none where the ring lacks
room. -/
def State.putRecord (s : State) (r n : Nat) (runs : List Nat) (bytes : List Byte) : Option State :=
  let x := s.ring r
  let m := bytes.length / 16
  let left := x.units_ - x.own.toNat % x.units_
  let pad := if left < m then left else 0
  if x.units_ < x.held + pad + m then none
  else
    let s := if pad = 0 then s else s.writeEntry r 0 [] none (padding x.skein pad)
    some (s.writeEntry r n runs none bytes)

/-- Whether a record joins a ring's open skein, rather than have it close first (R519). -/
def Ring.joins (x : Ring) (w : Waiting) : Bool :=
  x.pack.count == 0 || !(decide (65536 < x.pack.bytes.length + w.bytes.length + (if x.lost = 0 then 0 else 16)) ||
    x.pack.content != (if w.engine.isSome then 2 else 1))

/-- A record enters the ring's open skein (R519). -/
def State.packRecord (s : State) (r : Nat) (w : Waiting) : State :=
  let x := s.ring r
  let h := portHalf x.port
  let loss := if x.lost = 0 then [] else lossRecord x
  s.modRing r fun x =>
    { x with lost := 0, lostRun := none,
             pack := { x.pack with first := if x.pack.count = 0 then s.now h else x.pack.first,
                                   content := if w.engine.isSome then 2 else 1,
                                   bytes := x.pack.bytes ++ loss ++ w.bytes, count := x.pack.count + 1,
                                   runs := x.pack.runs ++ (w.run.toList.filter fun k => !x.pack.runs.contains k),
                                   engines := x.pack.engines ++ (w.engine.toList.filter fun k => !x.pack.engines.contains k) } }

/-- A record goes into its ring, behind a LOSS record where some were lost; none where the ring lacks room (R454, R456). -/
def State.storeRecord (s : State) (r : Nat) (w : Waiting) : Option State :=
  let x := s.ring r
  if x.skein then some (s.packRecord r w)
  else
    let s1 := if x.lost = 0 then some s
      else (s.putRecord r 0 [] (lossRecord x)).map fun s => s.modRing r fun x => { x with lost := 0, lostRun := none }
    s1.bind fun s => s.putRecord r 1 w.run.toList w.bytes

/-- A record that has crossed the die link goes into its ring (R456). -/
def State.recordIn (s : State) (r : Nat) (w : Waiting) : State :=
  if (s.ring r).st ≠ .enabled then s.countLost w.half r
  else
    match s.storeRecord r w with
    | some s => s
    | none => s.loseRecord w.half r w.run

/-- The skein that the engine made of a ring's records has been written. -/
def State.madeWritten (s : State) (r : Nat) : State :=
  ((s.modRing r fun x => { x with made := [], shut := none }).forEach (List.range 4) fun s e => s.capSettle e).cmpPick
    (portHalf (s.ring r).port)

/-- A skein that the engine has made is written, where the ring has room. -/
def State.writeMade (s : State) (r : Nat) : State :=
  let x := s.ring r
  match s.putRecord r (match x.shut with | some p => p.count | none => 0) (match x.shut with | some p => p.runs | none => []) x.made with
  | some s => s.madeWritten r
  | none => s

/-- RECORD_WRITE: the next record of a ring is written, after a LOSS record where some were lost; in a ring with SKEIN it enters the
open skein, or a skein that the engine has made is written.  A record of the half without the ring's port crosses the die link first, and
nothing else is written to the ring meanwhile (R35, R456); it is discarded where it cannot cross and its run was stopped for that (R571),
and where the ring is not ENABLED (R432, R433).  The governor may hold the ring engine back (R609). -/
def execRecordWrite (r : RingIx) (s : State) : Res :=
  let x := s.ring r
  let near := portHalf x.port
  .next (match s.waiting r with
    | none => if x.st = .enabled ∧ !x.made.isEmpty ∧ s.portOn x.port ∧ !s.paced near 26 then s.writeMade r else s
    | some w =>
      if x.st ≠ .enabled then (s.countLost w.half r).taken r w
      else if w.half ≠ near ∧ !s.linkUp then
        match w.run with
        | some k => if (s.runOf k).stopped then (s.strandRecord w.half r w.run w.bytes).taken r w else s
        | none => s
      else if !s.portOn x.port ∨ s.paced near 26 ∨ s.recordCrosses r then s
      else if x.skein ∧ !x.made.isEmpty then s.writeMade r
      else if x.skein ∧ x.shut.isSome then s
      else if x.skein ∧ !x.joins w then (s.shutPack r).cmpPick near
      else
        match s.storeRecord r w with
        | none => s
        | some t =>
          if w.half = near then t.taken r w
          else
            let gap := if x.lost = 0 ∨ x.skein then 0 else 1
            let left := x.units_ - (x.own.toNat + gap) % x.units_
            let pad := if left < w.bytes.length / 16 then left else 0
            (s.send w.half (.dma (.record x.port (x.base + x.at_ (x.own + BitVec.ofNat 32 (gap + pad))) r w))).taken r w)

/-! ### Completions (R442, R450, R451) -/

/-- Whether a command's completion can be written: its work has ended and its data has been written. -/
def State.cmdReady (s : State) (tag : Nat) (c : HostCmd) : Bool :=
  c.done.isSome && !c.posted && !s.accessWaits fun q => q.why == .data tag

/-- A completion entry (R450). -/
def completion (c : HostCmd) (status : BitVec 8) (result : Word64) (phase : Bool) : List Byte :=
  leBytes 4 c.user.toNat ++ leBytes 1 status.toNat ++ leBytes 1 c.op ++ leBytes 2 (if phase then 0x8000 else 0) ++ leBytes 8 result.toNat

/-- Whether a stream's ring engine has fetched, and staged, all that it can: the staging area is full or the ring holds nothing more
(R447). -/
def State.prefilled (s : State) (q : Nat) : Bool :=
  match s.stream q with
  | none => true
  | some y =>
    (s.streamRead q).isNone && !s.streamWaits q y && !s.accessWaits fun a => match a.why with | .stream p _ => p == q | _ => false

/-- The work of a STRM_ATTACH with PREFILL ends once its stream is filled (R447); RESULT is the bytes staged. -/
def State.settlePrefill (s : State) (tag : Nat) : State :=
  match mget none s.cmds tag with
  | some c =>
    match c.prefill with
    | some q =>
      if c.done.isNone ∧ s.prefilled q then
        s.finish tag 0 (BitVec.ofNat 64 (match s.stream q with | some y => 4 * y.staged | none => 0))
      else s
    | none => s
  | none => s

/-- COMMAND_COMPLETION: a command's work has ended; its completion is written in the order of ending, unless NOCOMP and OK, and its tag
is free once the entry goes out (R442); it is discarded and counted where the ring was reset or the completion ring is not ENABLED
(R427, R432, R450, R451).  The governor may hold the ring engine back (R609). -/
def execCommandCompletion (tag : TagIx) (s : State) : Res :=
  let s := s.settlePrefill tag
  .next (match mget none s.cmds tag with
    | none => s
    | some c =>
      match c.done with
      | none => s
      | some (status, result) =>
        let cq := (s.ring c.ring).cq
        let x := s.ring cq
        let lost (s : State) (p : Nat) : State := (s.count .COMPL_LOST (portHalf p) (portIx p)).freeTag tag
        if !s.cmdReady tag c ∨ s.paced (portHalf c.port) 26 then s
        else if c.discard then lost s c.port
        else if c.nocomp ∧ status = 0 then s.freeTag tag
        else if x.st ≠ .enabled then lost s c.port
        else if x.units_ ≤ x.held ∨ !s.portOn x.port then s
        else if s.cmds.any fun e =>
            (match e.2 with | some d => (s.ring d.ring).cq == cq && decide (d.order < c.order) && s.cmdReady e.1 d && !d.discard | none => false) then s
        else (s.modCmd tag fun c => { c with posted := true }).writeEntry cq 0 [] (some tag)
          (completion c status result ((x.own.toNat / x.units_ + 1) % 2 == 1)))

end Sys2Proof.Machine
end

