-- ==== Sys2Proof/Machine/NetServo.lean ====
section
/-!
DEFINITION. Network time: PTP frames, the best master, the servo and its updates, forwarding with the transparent clock, and arms
(R527 to R548).  What IEEE 1588-2019 fixes is PRESUMED from that standard (log 16).
-/
namespace Sys2Proof.Machine

/-! ### Frames -/

/-- CRC-32 of IEEE 802.3, as the frame check sequence carries it. -/
def crc32Bit : Nat → Word → Word
  | 0, c => c
  | n + 1, c => crc32Bit n (if bit c 0 then (c >>> 1) ^^^ 0xEDB88320 else c >>> 1)

def crc32 (bs : List Byte) : Word := ~~~ bs.foldl (fun c b => crc32Bit 8 (c ^^^ b.zeroExtend 32)) 0xFFFFFFFF

/-- A frame without its FCS, where the FCS is right. -/
def frameBody (f : List Byte) : Option (List Byte) :=
  let n := f.length - 4
  if 18 ≤ f.length ∧ leField f n 4 = (crc32 (f.take n)).toNat then some (f.take n) else none

/-- A frame with its FCS. -/
def withFcs (b : List Byte) : List Byte := b ++ leBytes 4 (crc32 b).toNat

/-- A big-endian field of n bytes. -/
def beField (b : List Byte) (o n : Nat) : Nat := ofBE (slice b o n)

/-- The n bytes of a number, most significant first. -/
def beBytes (n v : Nat) : List Byte := (leBytes n v).reverse

/-- Where the PTP message of an untagged frame starts, and whether it is carried over UDP/IPv4 (R527, R530). -/
def ptpAt (b : List Byte) (o : Nat) : Option (Nat × Bool) :=
  if beField b o 2 = 0x88F7 then some (o + 2, false)
  else if beField b o 2 = 0x0800 ∧ beField b (o + 11) 1 = 17 then
    let ihl := 4 * (beField b (o + 2) 1 % 16)
    let port := beField b (o + 2 + ihl + 2) 2
    if port = 319 ∨ port = 320 then some (o + 2 + ihl + 8, true) else none
  else none

/-- A PTP message that the slave takes on the active port: its bytes from the header on, with the transport and domain that NT_CTL
names (R527). -/
def State.ptpIn (s : State) (port : Fin 2) (frame : List Byte) (typ : Nat) : Option (List Byte) :=
  let ctl := s.reg .NT_CTL 0
  match frameBody frame with
  | none => none
  | some b =>
    match ptpAt b 12 with
    | none => none
    | some (o, udp) =>
      let m := b.drop o
      let dst := if udp then beField b 30 4 == 0xE0000181 else beField b 0 6 == 0x011B19000000
      if bit ctl 31 ∧ (bit ctl 27 == (port.val == 1)) = true ∧ (bit ctl 26 == udp) = true ∧ dst = true ∧
          mget false s.ntLink port = true ∧ 44 ≤ m.length ∧ beField m 0 1 % 16 = typ ∧ beField m 1 1 % 16 = 2 ∧
          beField m 4 1 = bits ctl 7 0 then some m
      else none

/-- The counter's units in 2^-16 ns and in 2^-8 ns. -/
def unit16 : Int := 5242880
def unit8 : Int := 1342177280

/-- correctionField, in the counter's units. -/
def correction (m : List Byte) : Int := (BitVec.ofNat 64 (beField m 8 8)).toInt * unit16

/-- A 10-byte time stamp at byte 34, in the counter's units. -/
def stampOfMsg (m : List Byte) : Int := (beField m 34 6 * ntSec + beField m 40 4 * ntNs : Nat)

/-- sourcePortIdentity and sequenceId. -/
def sourceOf (m : List Byte) : List Byte := slice m 20 10
def seqOf (m : List Byte) : Nat := beField m 30 2

/-- The time stamp taken at sample j of the current row of half h (R533). -/
def State.stampAt (s : State) (h : Nat) (j : Fin 32) : Int := (s.ntOf h + s.ntRate h * (j.val / 4 * 4) / 32 : Nat)

/-- The active port, which is also its half (R37). -/
def State.activePort (s : State) : Nat := if bit (s.reg .NT_CTL 0) 27 then 1 else 0

/-- delayAsymmetry of the active port, in the counter's units (R528). -/
def State.asymmetry (s : State) : Int :=
  (if s.activePort = 0 then s.reg .ASYM0 0 else s.reg .ASYM1 0).toInt * unit8

def State.modServo (s : State) (f : Servo → Servo) : State := { s with servo := f s.servo }

/-! ### Updates (R536) -/

def State.ntQueue (s : State) (h : Nat) (u : NtUpdate) : State := { s with ntUpd := mmod [] s.ntUpd h (· ++ [u]) }

/-- The boundary at which an update formed now takes effect: at least 4 µs ahead (R565). -/
def State.updateTime (s : State) : Nat := s.now 0 + 80000

/-- A RATE within its limits (R534). -/
def clampRate (v : Word) : Word := BitVec.ofInt 32 (max (-3435973) (min 3435973 v.toInt))

/-- The RATE that the updates formed so far leave. -/
def State.comingRate (s : State) : Word :=
  match ((mget [] s.ntUpd 0).filterMap fun u => u.rate).getLast? with
  | some r => r
  | none => s.reg .NT_RATE 0

/-- A step of d × 2^-16 ns or a RATE change is formed (R536): H0 keeps it, and an NT_UPDATE flit carries it to H1. -/
def State.ntUpdate (s : State) (rate : Word) (d : Int) : State :=
  let t := s.updateTime
  let s := s.ntQueue 0 { t := t, rate := some rate, step := d * unit16 }
  s.send 0 (.time 3 (t + 2 ^ 64 * rate.toNat + 2 ^ 96 * (BitVec.ofInt 64 d).toNat))

/-- NT_UPDATE (R536, R565): the flit's update waits on H1 for its boundary. -/
def execNtUpdate (h : Half) (flit : BitVec 272) (s : State) : Res :=
  .next (s.flitIn h flit (fun b => bits b 15 12 == 7 && payload b 161 160 == 3) fun s b =>
    s.sequenced h b fun s =>
      (s.takeMsg (far h) (DlkMsg.isTime 3) (.time 3 (payload b 159 0))).map fun s =>
        s.ntQueue h
          { t := payload b 63 0, rate := some (BitVec.ofNat 32 (payload b 95 64)),
            step := (BitVec.ofNat 64 (payload b 159 96)).toInt * unit16 })

/-- The counter of a half has reached an update's boundary (R36, R536). -/
def State.ntApply (s : State) (h : Nat) : State :=
  match (mget [] s.ntUpd h).find? fun u => decide (u.t ≤ s.now h) with
  | some u =>
    let s := { s with ntUpd := mmod [] s.ntUpd h (·.erase u) }
    let s := s.ntAdd h u.step
    match u.rate with
    | some r => s.setReg .NT_RATE h 0 0 r
    | none => s
  | none => s

/-- NT_STEP_APPLY (R36, R536). -/
def execNtStepApply (h : Half) (s : State) : Res := .next (s.ntApply h)

/-! ### Arming (R537, R541, R543, R544) -/

/-- Whether anything is armed at network time (R541). -/
def State.anyArmed (s : State) : Bool :=
  s.ntArmed || (s.run.any fun e => e.2.st == .armed && e.2.mode == .networkTime && !e.2.stopped) ||
  (s.caps.any fun e => e.2.st == .armed && e.2.mode == 1)

/-- The status with which arming is refused in the servo's state (R537); none where it is accepted. -/
def State.ntRefusal (s : State) : Option (BitVec 8) :=
  if s.servo.st = 3 ∨ s.servo.st = 4 then none else if s.servo.st = 5 then some 0x17 else some 0x10

/-- The smallest d with N + d × I ≥ T on half h (R543). -/
def State.ntRows (s : State) (h : Nat) (t : Nat) : Nat := (t - s.ntOf h + s.ntRate h - 1) / s.ntRate h

/-- A network time in the counter's units: seconds, nanoseconds, 2^-16 ns. -/
def ntTime (sec ns frac : Nat) : Nat := sec * ntSec + ns * ntNs + frac * 5242880

/-- The counter reaches an armed row, and NT_TRIG fires or the auxiliary scan starts (R543, R544). -/
def State.armFire (s : State) (h a : Nat) : State :=
  let t := s.pair .TRIG_ST_LO .TRIG_ST_HI h a
  if bit (s.reg .TRIG_STATE h a) 31 ∧ t ≤ s.now h then
    let s := s.regBit .TRIG_STATE h a 31 false
    if a < 4 then s.fireProducer h (0x020 + a) 0 (rowOf t)
    else if (s.auxOf h).busy then s
    else s.scanStart h (rowOf t) 0
  else s

/-- NT_ARM_FIRE. -/
def execNtArmFire (h : Half) (a : Fin 5) (s : State) : Res := .next (s.armFire h a)

/-- A write of 1 to TRIG_STATE.DISARM (R544). -/
def State.wrTrigState (s : State) (h a : Nat) (v : Word) : State := if bit v 30 then s.regBit .TRIG_STATE h a 31 false else s

/-! ### The servo (R537 to R540) -/

/-- A master jump (R539). -/
def State.ntJump (s : State) : State := (s.modServo fun v => { v with st := 5, near := 0 }).occur s.activePort 0x046

/-- Firmware sets RATE after an offset while the servo's state corrects it and SERVO is 0 (R537, R540): to a value that the spec does
not state. -/
def State.firmwareRate (s : State) : State :=
  if !bit (s.reg .NT_CTL 0) 28 ∧ (s.servo.st = 2 ∨ s.servo.st = 3) then
    let r : Word × State := s.free 32
    r.2.ntUpdate (clampRate r.1) 0
  else s

/-- A new offset θ, given as 2θ so that it is exact (R537 to R540); OFFSET holds it rounded half up (R9). -/
def State.newOffset (s : State) (th2 : Int) : State :=
  let stepTh : Int := 2 * (s.reg .STEP_TH 0).toNat * ntNs
  let lockTh : Int := 2 * (s.reg .LOCK_TH 0).toNat * ntNs
  let a : Int := th2.natAbs
  let s := s.modServo fun v => { v with seq := v.seq + 1 }
  let s := s.forEach [0, 1] fun s h => s.setReg .OFFSET h 0 0 (BitVec.ofInt 32 (clampS 32 (divHalfUp th2 (2 * unit8))))
  let s := match s.servo.st with
    | 1 =>
      if !s.servo.stepped then (s.ntUpdate s.comingRate (divHalfUp (-th2) (2 * unit16))).modServo fun v => { v with st := 2, stepped := true, near := 0 }
      else if a ≤ stepTh then s.modServo fun v => { v with st := 2, near := 0 }
      else s.ntJump
    | 2 =>
      if stepTh < a then s.ntJump
      else if lockTh < a then s.modServo fun v => { v with near := 0 }
      else s.modServo fun v => { v with near := v.near + 1, st := if 16 ≤ v.near + 1 then 3 else 2 }
    | 3 => if stepTh < a then s.ntJump else s
    | 4 => if stepTh < a then s.ntJump else s.modServo fun v => { v with st := 3 }
    | 5 =>
      if stepTh < a then s.modServo fun v => { v with near := 0 }
      else s.modServo fun v => { v with near := if 16 ≤ v.near + 1 then 0 else v.near + 1, st := if 16 ≤ v.near + 1 then 2 else 5 }
    | _ => s
  s.firmwareRate

/-- PTP_SYNC (R527, R528): from the selected master; a one-step Sync gives the origin time, a two-step one awaits its Follow_Up. -/
def execPtpSync (port : Fin 2) (frame : List Byte) (off : Fin 32) (s : State) : Res :=
  .next (match s.ptpIn port frame 0 with
    | some m =>
      if s.servo.master = some (sourceOf m) then
        let t2 := s.stampAt port off
        let c := correction m + s.asymmetry
        let s := s.modServo fun v => { v with lastSync := s.now 0, gone := false }
        if beField m 6 1 / 2 % 2 = 1 then s.modServo fun v => { v with twoStep := some (seqOf m, c, t2) }
        else s.modServo fun v => { v with sync := some (stampOfMsg m + c, t2), twoStep := none }
      else s
    | none => s)

/-- FOLLOW_UP (R528): the precise origin time of a two-step Sync. -/
def execFollowUp (port : Fin 2) (frame : List Byte) (s : State) : Res :=
  .next (match s.ptpIn port frame 8, s.servo.twoStep with
    | some m, some (q, c, t2) =>
      if s.servo.master = some (sourceOf m) ∧ q = seqOf m then
        s.modServo fun v => { v with sync := some (stampOfMsg m + correction m + c, t2), twoStep := none }
      else s
    | _, _ => s)

/-- The part's own port identity on the active port: EUI-64 of NT_MAC and the port's number. -/
def State.ownIdentity (s : State) : List Byte :=
  let mac := beBytes 2 (s.reg .NT_MAC_HI 0).toNat ++ beBytes 4 (s.reg .NT_MAC_LO 0).toNat
  mac.take 3 ++ [0xFF, 0xFE] ++ mac.drop 3 ++ beBytes 2 (s.activePort + 1)

/-- The ones' complement sum that an IPv4 header or UDP checksum is made of. -/
def inetSum : List Byte → Nat
  | a :: b :: l => a.toNat * 256 + b.toNat + inetSum l
  | [a] => a.toNat * 256
  | [] => 0

def inetCheck (l : List Byte) : Nat :=
  let f (n : Nat) : Nat := n % 65536 + n / 65536
  65535 - f (f (f (inetSum l)))

/-- A Delay_Req frame of the slave (R527): NT_MAC and, for UDP, NT_IP as its source; correctionField the negative of
delayAsymmetry. -/
def State.delayReqFrame (s : State) (q : Nat) : List Byte :=
  let m : List Byte := [0x01, 0x12] ++ beBytes 2 44 ++ [BitVec.ofNat 8 (bits (s.reg .NT_CTL 0) 7 0), 0] ++ beBytes 2 0 ++
    beBytes 8 (BitVec.ofInt 64 (-(s.asymmetry / unit16))).toNat ++ beBytes 4 0 ++ s.ownIdentity ++ beBytes 2 q ++ [1, 0x7F] ++
    List.replicate 10 0
  let mac := beBytes 2 (s.reg .NT_MAC_HI 0).toNat ++ beBytes 4 (s.reg .NT_MAC_LO 0).toNat
  if bit (s.reg .NT_CTL 0) 26 then
    let addr := beBytes 4 (s.reg .NT_IP 0).toNat ++ beBytes 4 0xE0000181
    let udp := beBytes 2 319 ++ beBytes 2 319 ++ beBytes 2 52
    let sum := inetCheck (addr ++ [0, 17] ++ beBytes 2 52 ++ udp ++ beBytes 2 0 ++ m)
    let head : List Byte := [0x45, 0] ++ beBytes 2 72 ++ beBytes 4 0 ++ [1, 17]
    let ip := head ++ beBytes 2 (inetCheck (head ++ beBytes 2 0 ++ addr)) ++ addr
    withFcs (beBytes 6 0x01005E000181 ++ mac ++ beBytes 2 0x0800 ++ ip ++ udp ++ beBytes 2 (if sum = 0 then 0xFFFF else sum) ++ m)
  else
    withFcs (beBytes 6 0x011B19000000 ++ mac ++ beBytes 2 0x88F7 ++ m ++ List.replicate 2 0)

/-- DELAY_REQ (R527): the slave sends a Delay_Req on the active port, its time stamp point at sample `off` of the row. -/
def execDelayReq (off : Fin 32) (s : State) : Res :=
  let p := s.activePort
  let v := s.servo
  .next (if v.st ≠ 0 ∧ v.master.isSome ∧ mget false s.ntLink p ∧
        (match v.reqLast with | some t => decide (t + v.reqEvery ≤ s.now p) | none => true) = true then
      (s.emit (.frame p (s.delayReqFrame v.reqSeq))).modServo fun v =>
        { v with req := some (v.reqSeq, s.stampAt p off), reqSeq := (v.reqSeq + 1) % 65536, reqLast := some (s.now p) }
    else s)

/-- The samples of an interval given as a power of two seconds. -/
def logInterval (b : Nat) : Nat :=
  let n := (BitVec.ofNat 8 b).toInt
  if n < 0 then 20000000000 / 2 ^ n.natAbs else 20000000000 * 2 ^ n.natAbs

/-- DELAY_RESP (R528, R537 to R540): the answer to the Delay_Req under way; with the last Sync it gives the mean path delay and a new
offset. -/
def execDelayResp (port : Fin 2) (frame : List Byte) (s : State) : Res :=
  .next (match s.ptpIn port frame 9, s.servo.req, s.servo.sync with
    | some m, some (q, t3), some (t1, t2) =>
      if s.servo.master = some (sourceOf m) ∧ q = seqOf m ∧ slice m 44 10 = s.ownIdentity then
        let t4 := stampOfMsg m
        let mpd2 := (t2 - t3) + (t4 - t1) - correction m
        let s := s.modServo fun v => { v with req := none, reqEvery := logInterval (beField m 33 1) }
        let s := s.forEach [0, 1] fun s h => s.setReg .MPD h 0 0 (BitVec.ofInt 32 (clampS 32 (divHalfUp mpd2 (2 * unit8))))
        s.newOffset (2 * (t2 - t1) - mpd2)
      else s
    | _, _, _ => s)

/-- What BMCA of the default profile compares, in its order. -/
def announceData (m : List Byte) : List Nat :=
  [beField m 47 1, beField m 48 1, beField m 49 1, beField m 50 2, beField m 52 1, beField m 53 8, beField m 61 2, ofBE (sourceOf m)]

/-- Whether one comparison list precedes another. -/
def before : List Nat → List Nat → Bool
  | a :: l, b :: k => if a < b then true else if b < a then false else before l k
  | _, _ => false

/-- The master that BMCA selects: the best of those heard at least twice within four of their Announce intervals. -/
def bestMaster (l : List Foreign) (now : Nat) : Option (List Byte) :=
  let ok := l.filter fun f => decide (2 ≤ (f.seen.filter fun t => decide (now < t + 4 * f.interval)).length)
  (ok.foldl (fun (b : Option Foreign) f => match b with | some x => if before f.data x.data then some f else b | none => some f) none).map (·.id)

/-- ANNOUNCE (R527): the master is noted and BMCA selects anew. -/
def execAnnounce (port : Fin 2) (frame : List Byte) (s : State) : Res :=
  .next (match s.ptpIn port frame 11 with
    | some m =>
      let now := s.now 0
      let id := sourceOf m
      let old := s.servo.foreign.find? fun f => f.id == id
      let seen := (match old with | some f => f.seen | none => []) ++ [now]
      let f : Foreign := { id := id, data := announceData m, interval := logInterval (beField m 33 1), seen := seen.drop (seen.length - 4) }
      let l := (s.servo.foreign.filter fun f => f.id != id) ++ [f]
      let b := bestMaster l now
      s.modServo fun v =>
        if b = v.master then { v with foreign := l }
        else { v with foreign := l, master := b, sync := none, twoStep := none, req := none, lastSync := now }
    | none => s)

/-- MASTER_LOST (R537): no Sync for three Announce intervals of the selected master, or BMCA selects none; NT_LOST is raised once for a master
that has been heard, and an ACQUIRING or LOCKED servo leaves its state. -/
def execMasterLost (s : State) : Res :=
  let v := s.servo
  let late : Bool := match v.master with
    | none => true
    | some id =>
      match v.foreign.find? fun f => f.id == id with
      | some f => decide (v.lastSync + 3 * f.interval ≤ s.now 0)
      | none => true
  .next (if late ∧ (v.st = 2 ∨ v.st = 3 ∨ (v.st ≠ 0 ∧ !v.gone)) then
      (s.modServo fun v =>
        { v with st := if v.st = 2 then 1 else if v.st = 3 then 4 else v.st, near := 0, sync := none, twoStep := none, req := none,
                 gone := true }).occur s.activePort 0x047
    else s)

/-! ### Forwarding (R529, R530) -/

/-- FRAME_FORWARD (R529, R530): a frame received on one port, with its residence time in 2^-16 ns, is sent on the other or dropped; `full`:
the queue of its direction was full when it arrived (log 94). -/
def execFrameForward (port : Fin 2) (frame : List Byte) (residence : Nat) (full : Bool) (s : State) : Res :=
  let ctl := s.reg .NT_CTL 0
  .next (if !bit ctl 30 ∨ !mget false s.ntLink port then s
    else
      match frameBody frame with
      | none => s.count .FWD_DROPS port 0
      | some b =>
        if full ∨ 1536 < frame.length ∨ beField b 12 2 = 0x8808 then s.count .FWD_DROPS port 0
        else
          let s := s.count .FWD_FRAMES port 0
          let o := if beField b 12 2 = 0x8100 then 16 else 12
          match ptpAt b o with
          | some (k, udp) =>
            if bit ctl 29 ∧ beField b k 1 % 16 ≤ 3 then
              let c := beBytes 8 ((beField b (k + 8) 8 + residence) % 2 ^ 64)
              let b := b.take (k + 8) ++ c ++ b.drop (k + 16)
              let b := if udp then b.take (k - 2) ++ [0, 0] ++ b.drop k else b
              (s.count .TC_CORRECTED port 0).emit (.frame (1 - port.val) (withFcs b))
            else s.emit (.frame (1 - port.val) frame)
          | none => s.emit (.frame (1 - port.val) frame))

/-- NT_PORT_LINK and NT_PORT_LINK_UP (R548). -/
def execNtPortLink (port : Fin 2) (s : State) : Res :=
  .next (if mget false s.ntLink port then { s with ntLink := mset false s.ntLink port false }.occur port 0x049 else s)

def execNtPortLinkUp (port : Fin 2) (s : State) : Res := .next { s with ntLink := mset false s.ntLink port true }

/-! ### Writes -/

/-- A write to NT_CTL, which acts on both halves (R531, R537, R538, R542). -/
def State.wrNtCtl (s : State) (h : Nat) (v : Word) : State :=
  let old := s.reg .NT_CTL 0
  let v := v &&& 0xFC0000FF
  let guarded (w : Word) : Word := w &&& 0x8C0000FF
  let sets := bit v 31 && !bit old 31
  let noMac := s.reg .NT_MAC_LO 0 == 0 && s.reg .NT_MAC_HI 0 == 0
  let noIp := bit v 26 && s.reg .NT_IP 0 == 0
  if (s.anyArmed ∧ guarded v ≠ guarded old) ∨ (sets ∧ (noMac ∨ noIp)) ∨ (bit v 29 ∧ !bit old 29 ∧ !bit v 30) then s.count .NT_IGNORED h 0
  else
    let s := (s.setReg .NT_CTL 0 0 0 v).setReg .NT_CTL 1 0 0 v
    if sets then s.modServo fun x => { ({ } : Servo) with st := 1, seq := x.seq, stepped := x.stepped }
    else if bit old 31 ∧ !bit v 31 then s.modServo fun x => { ({ } : Servo) with seq := x.seq }
    else s

/-- A write to NT_RATE (R540): only with SERVO = 1 and outside DISABLED, HOLDOVER_LOST and HOLDOVER_JUMP. -/
def State.wrNtRate (s : State) (h : Nat) (v : Word) : State :=
  if !bit (s.reg .NT_CTL 0) 28 ∨ s.servo.st = 0 ∨ s.servo.st = 4 ∨ s.servo.st = 5 then s.count .NT_IGNORED h 0
  else s.ntUpdate (clampRate v) 0

end Sys2Proof.Machine
end

