-- ==== Sys2Proof/Machine/Reclock.lean ====
section
/-!
DEFINITION. The sample-time counters when they change other than by counting, SYNC_IN, reference loss and PLL lock, the end of
SELFTEST (R49, R64 to R71).  What is under way goes on through such a change: the times that the model holds for it move with the counter (log 20).
-/
namespace Sys2Proof.Machine

/-- A time, and a row, moved by d samples. -/
def moved (d : Int) (t : Nat) : Nat := ((t : Int) + d).toNat
def movedRow (d : Int) (r : Nat) : Nat := (moved d (32 * r) + 31) / 32

/-- An oscillator's history beside a counter that moves from `now`: what is in force stays so. -/
def movedOsc (d : Int) (now : Nat) (l : List Osc) : List Osc :=
  { oscAt l now with t := 0 } :: (l.filter fun o => decide (now < o.t)).map fun o => { o with t := moved d o.t }

def FluxCh.moved (d : Int) (c : FluxCh) : FluxCh :=
  let ramp (r : Ramp) : Ramp := { r with start := Machine.moved d r.start }
  { c with ramp := c.ramp.map ramp, nextRamp := c.nextRamp.map ramp, waitEnd := Machine.moved d c.waitEnd, zeroNext := c.zeroNext.map (Machine.moved d),
           parkNext := c.parkNext.map (Machine.moved d), writes := c.writes.map fun w => (Machine.moved d w.1, w.2) }

def Marker.moved (d : Int) (m : Marker) : Marker :=
  let change (c : MarkChange) : MarkChange := { c with t := Machine.moved d c.t }
  { m with pulseEnd := m.pulseEnd.map (Machine.moved d), changes := m.changes.map change, marked := m.marked.map change }

def CapEng.moved (d : Int) (c : CapEng) : CapEng :=
  { c with ks := c.ks.map (movedRow d), nextM := Machine.moved d (8 * c.nextM) / 8, prev := c.prev.map fun x => (x.1, Machine.moved d x.2),
           holdUntil := Machine.moved d c.holdUntil }

/-- The counter of half h changes to v: the times that the model holds beside it move by the difference from `now`. -/
def State.reclock (s : State) (h now v : Nat) : State :=
  let d : Int := (v : Int) - now
  let mv := moved d
  let mr := movedRow d
  let n0 : Bool := h == 0
  let s := if h = 0 then { s with c0 := BitVec.ofNat 64 v } else { s with c1 := BitVec.ofNat 64 v }
  let s := { s with
    osc := mmap [] (fun q (l : List Osc) => if qHalf q = h then movedOsc d now l else l) s.osc
    delays := mmap [] (fun k (l : List (Nat × Word)) => if k / 256 / 2048 % 2 = h then l.map fun (e : Nat × Word) => (mr e.1, e.2) else l) s.delays
    pulses := s.pulses.map fun (p : Pulse) =>
      if qHalf p.q = h then { p with t := mv p.t, zeroFrom := p.zeroFrom.map mv, cut := p.cut.map mv } else p
    wins := s.wins.map fun (w : Window) => if w.ch / 256 = h then { w with t := mv w.t } else w
    pat := mmap ({} : Pattern) (fun q (x : Pattern) => if qHalf q = h then { x with start := mv x.start, ended := x.ended.map mv } else x) s.pat
    flux := mmap ({} : FluxCh) (fun f (c : FluxCh) => if f / 64 = h then c.moved d else c) s.flux
    strobes := s.strobes.map fun (x : Strobe) => if x.group / 8 = h then { x with t := mv x.t } else x
    marks := mmap ({} : Marker) (fun m (x : Marker) => if m / 8 = h then x.moved d else x) s.marks
    caps := mmap ({} : CapEng) (fun e (c : CapEng) => if e / 2 = h then c.moved d else c) s.caps }
  let s := { s with
    enAt := mmap none (fun k (x : Option Nat) => if enHalf k = h then x.map mv else x) s.enAt
    fires := s.fires.map fun (f : Fire) => if f.dest.half = h then { f with row := mr f.row } else f
    evRow := mmap none (fun c (x : Option Nat) => if c / 1024 = h then x.map mr else x) s.evRow
    taskRow := mmap none (fun u (x : Option Nat) => if u / 512 = h then x.map mr else x) s.taskRow
    pinEdge := mmap none (fun i (x : Option Nat) => if i / 8 = h then x.map fun t => (((t : Int) + 16 * d).toNat) else x) s.pinEdge
    adc := s.adc.filter fun e => e.1 / 8 != h
    aux := mmap ({} : Aux) (fun g (a : Aux) => if g = h then { a with k := mr a.k, last := a.last.map mr } else a) s.aux
    cal := mmap ({} : Cal) (fun g (c : Cal) => if g = h then { c with lastStep := none } else c) s.cal
    quiet := mmap ({} : Quiet) (fun g (q : Quiet) => if g = h then { q with lastReq := q.lastReq.map mr } else q) s.quiet
    shadowsF := s.shadowsF.map fun (x : Shadow) => if x.half = h then { x with until_ := mv x.until_ } else x
    firstRow := mmap none (fun g (x : Option Nat) => if g = h then x.map mr else x) s.firstRow
    notified := mmap none (fun p (x : Option Nat) => if p / 2 = h then x.map mv else x) s.notified }
  let s := { s with
    faultN := if n0 then { s.faultN with since := mv s.faultN.since, release := s.faultN.release.map mv, reassert := s.faultN.reassert.map mv } else s.faultN
    dlk := mmap ({} : Dlk) (fun g (x : Dlk) => if g = h then
      { x with lastAck := mv x.lastAck, lastSeq := mv x.lastSeq, retryAt := x.retryAt.map mv, echoDue := x.echoDue.map mv } else x) s.dlk
    ports := mmap ({} : HostPort) (fun p (x : HostPort) => if p / 2 = h then { x with pollAt := mv x.pollAt } else x) s.ports
    rings := mmap ({} : Ring) (fun _ (x : Ring) => if x.port / 2 = h then { x with firstUnit := x.firstUnit.map mv } else x) s.rings
    ntUpd := mmap [] (fun g (l : List NtUpdate) => if g = h then l.map fun (u : NtUpdate) => { u with t := mv u.t } else l) s.ntUpd
    gov := mmap ({} : Gov) (fun g (x : Gov) => if g = h then { x with below := x.below.map mv, since := x.since.map mv } else x) s.gov }
  s.modServo fun x =>
    { x with lastSync := if n0 then mv x.lastSync else x.lastSync,
             foreign := if n0 then x.foreign.map fun (f : Foreign) => { f with seen := f.seen.map mv } else x.foreign,
             reqLast := if s.activePort = h then x.reqLast.map mv else x.reqLast }

/-- Both PLLs lock and the die link carries the time-align class: H1's counter is reloaded from H0's and ALIGNED returns to 1
(R71). -/
def State.realign (s : State) : State :=
  let locked (h : Nat) : Bool := bit (s.reg .CLK_STATUS h) 1
  let aligned (h : Nat) : Bool := bit (s.reg .CLK_STATUS h) 2
  if locked 0 ∧ locked 1 ∧ !(aligned 0 && aligned 1) ∧ s.linkUp ∧ s.boot.started then
    let s := s.reclock 1 (s.now 1) (s.now 0)
    s.forEach [0, 1] fun s h => s.regBit .CLK_STATUS h 0 2 true
  else s

/-! ### Synchronisation (R64 to R69) -/

/-- Whether SYNC_CTL.ARM takes effect (R66); a swatch counts as open until its engine is FREE again (log 82). -/
def State.syncIdle (s : State) : Bool :=
  s.activeRuns.isEmpty && (s.que.all fun e => e.2.cmds.isEmpty) && (s.caps.all fun e => e.2.st == .free) && !s.anyArmed

/-- A write to SYNC_CTL, which acts on both halves (R66, R67). -/
def State.wrSyncCtl (s : State) (v : Word) : State :=
  if !bit v 0 then { s.setReg .SYNC_CTL 0 0 0 0 with syncAt := none }
  else if s.syncIdle then s.setReg .SYNC_CTL 0 0 0 1
  else s.regBit .SYNC_STATUS 0 0 2 true

/-- SYNC_EDGE: while ARM is 1, SYNC_IN is sampled high after low at a REFCLK edge, a quarter row number `off` into the row in
progress (R64). -/
def execSyncEdge (off : Fin 4) (s : State) : Res :=
  .next (if bit (s.reg .SYNC_CTL 0) 0 ∧ s.syncAt = none then { s with syncAt := some (s.now 0 + 8 * off.val + 1600) } else s)

/-! ### Reference loss and PLL unlock (R70, R71) -/

/-- REF_LOSS: no REFCLK edge for 100 ns. -/
def execRefLoss (s : State) : Res :=
  .next (if s.boot.st = .cold ∨ !bit (s.reg .CLK_STATUS 0) 0 then s
    else
      let s := s.forEach [0, 1] fun s h => s.setReg .CLK_STATUS h 0 0 0
      let s := s.backToSelftest
      (s.occur 0 0x040).occur 1 0x040)

/-- PLL_UNLOCK: a half's PLL loses lock with REFCLK present. -/
def execPllUnlock (h : Half) (s : State) : Res :=
  let clk := s.reg .CLK_STATUS h
  .next (if s.boot.st = .cold ∨ !bit clk 0 ∨ !bit clk 1 then s
    else
      let s := s.regBit .CLK_STATUS h 0 1 false
      let s := s.forEach [0, 1] fun s g => s.setReg .CLK_STATUS g 0 0 (s.reg .CLK_STATUS g &&& 3)
      s.backToSelftest.occur h 0x041)

/-- PLL_RELOCK: the reference has returned, and where `locked` a half's PLL locks. -/
def execPllRelock (h : Half) (locked : Bool) (s : State) : Res :=
  .next (if s.boot.st = .cold ∧ !s.boot.recast then s
    else
      let s := s.forEach [0, 1] fun s g => s.regBit .CLK_STATUS g 0 0 true
      if locked then (s.regBit .CLK_STATUS h 0 1 true).realign else s)

/-! ### The end of SELFTEST (R49, R52, R53, R487) -/

/-- Whether both halves have their reference and a locked PLL (R49). -/
def State.clocked (s : State) : Bool := [0, 1].all fun h => bits (s.reg .CLK_STATUS h) 1 0 == 3

/-- SELFTEST_END: with the PLLs locked and the die link trained the part enters AWAIT_IMAGE, its counters aligned and, after power-on
or a pin reset, starting from zero, network time at zero (R534); or FAILED with the cause. -/
def execSelftestEnd (res : SelfTest) (s : State) : Res :=
  .next (if s.boot.st ≠ .selftest then s
    else
      match res with
      | .passed =>
        if s.linkUp ∧ s.clocked then
          let s := if s.boot.started then s.reclock 1 (s.now 1) (s.now 0) else { s with c0 := 0, c1 := 0 }
          let s := { s with nt := [], ntUpd := [] }
          let s := s.forEach [0, 1] fun s h =>
            s.setReg .CLK_STATUS h 0 0 (if s.boot.recast then s.reg .CLK_STATUS h ||| 0x7 else 0xF)
          s.modBoot fun b => { b with st := .awaitImage, recast := false, started := true }
        else s
      | r => s.modBoot fun b => { b with st := .failed, cause := failCause r })

end Sys2Proof.Machine
end

