-- ==== Sys2Proof/Machine/LinkTime.lean ====
section
/-!
DEFINITION. The die link and the counters: the periodic check of both, and the return of the link (R53, R71, R536, R565, R572).
-/
namespace Sys2Proof.Machine

/-- What half h's network-time counter held, or will hold, at sample t of its own (R534). -/
def State.ntAt (s : State) (h t : Nat) : Nat :=
  (((s.ntOf h : Int) + ((t : Int) - s.now h) * s.ntRate h / 32) % (ntWrap : Int)).toNat

/-- Two sample times within the 4 samples of R565. -/
def near4 (a b : Nat) : Bool := decide (a ≤ b + 4 ∧ b ≤ a + 4)

/-- H1's check of what H0's counters held at its sample t, at H1's own sample `stamp` less LINK_LAT (R536, R565); it is not made while
ALIGNED reads 0 (R71). -/
def State.alignCheck (s : State) (t nt stamp : Nat) : State :=
  if bit (s.reg .CLK_STATUS 1) 2 then
    let s := if near4 (t + (s.reg .LINK_LAT 1).toNat) stamp then s else s.occur 1 0x042
    if nt = s.ntAt 1 t then s else s.occur 1 0x048
  else s

/-- LINK_UP (R572): training has succeeded on both halves after a loss; one check of R565 is made, DLK_UP is raised and the link shows
ACTIVE; the time-align class then reloads H1's counter where a loss of lock had ended the alignment (R71). -/
def execLinkUp (h : Half) (s : State) : Res :=
  let d := s.dlkOf h
  let g := s.dlkOf (far h)
  .next (if d.lost ∧ d.trained ∧ (g.trained ∨ g.st = .active) then
      let s := s.modDlk h fun d => { ({ } : Dlk) with st := .active, cause := d.cause, lastSeq := s.now h, lastAck := s.now h, msgs := d.msgs }
      let s := if h.val = 1 then s.alignCheck (s.now 0) (s.ntOf 0) (s.now 1 + (s.reg .LINK_LAT 1).toNat) else s
      let s := s.occur h 0x162
      if s.linkUp then s.rejoin.realign else s
    else s)

/-- PERIODIC (R53, R536, R565): the flit that H0 formed carries its own departure sample t, LINK_LAT before it arrives, and H0's network
time there; H1 checks both against its counters at the sample of its arrival, `off` in the row in progress. -/
def execPeriodic (h : Half) (flit : BitVec 272) (off : Fin 32) (s : State) : Res :=
  .next (s.flitIn h flit (fun b => bits b 15 12 == 7 && payload b 161 160 == 0 && h.val == 1) fun s b =>
    s.sequenced h b fun s =>
      let t := payload b 63 0
      match (s.dlkOf 0).msgs.find? (DlkMsg.isTime 0) with
      | some (.time k v) =>
        if v ≤ t ∧ near4 (t + (s.reg .LINK_LAT 1).toNat) (s.now 0 + off.val) ∧
            (payload b 159 112, payload b 111 80, payload b 79 64) = ntParts (s.ntAt 0 t) then
          (s.takeMsg 0 (DlkMsg.isTime 0) (.time k v)).map fun s => s.alignCheck t (s.ntAt 0 t) (s.now 1 + off.val)
        else none
      | _ => none)

end Sys2Proof.Machine
end

