-- ==== Sys2Proof/Machine/Load.lean ====
section
/-!
DEFINITION. What a read of a register gives (R10, R41 to R46, R73 to R76 and the register tables): who may see it, its value, and
which registers a read captures with it.
-/
namespace Sys2Proof.Machine

/-! ### Visibility (R44 and the rules of each chapter) -/

/-- The partition that owns element i of a register of half h, for the registers whose visibility follows an owner. -/
def State.regOwner (s : State) (v : Vis) (h i : Nat) : Option Nat :=
  match v with
  | .all => none
  | .pd => some 4
  | .pdWrite => some 4
  | .chan => s.ownPair (8 * h + i / 32)
  | .input => s.ownPair (8 * h + i)
  | .kset => s.ownPair (8 * h + i / 128)
  | .coreTrim => s.ownPair (8 * h + i / 2)
  | .dac => s.ownDac h i
  | .slot => s.ownQueue (slotQ h i)
  | .queue => if i < 512 then s.ownQueue (slotQ h i) else s.ownFluxGroup (8 * h + (i - 512) / 8)
  | .engine => s.ownEngine (2 * h + i)
  | .event => s.ownEvent (512 * h + i)
  | .fgroup => s.ownFluxGroup (8 * h + i)
  | .flux => s.ownFluxGroup (8 * h + i / 8)
  | .lane => s.ownLane (16 * h + i)
  | .marker => s.ownMark (8 * h + i)
  | .monitor => s.ownMon h i
  | .part => some i
  | .port => s.portPart (2 * h + i)
  | .run => if (s.runOf i).active then some (s.runOf i).owner else none
  | .table => s.ownTable (64 * h + i)
  | .task => s.ownTask h i
  | .thread => s.ownThread (256 * h + i)

/-- Whether a port reads a register (R44). -/
def State.mayRead (s : State) (r : Reg) (h i p : Nat) : Bool :=
  match r.info.vis with
  | .all => true
  | .pdWrite => true
  | v => s.regOwner v h i == s.portPart p

/-- Whether a port writes a register (R44). -/
def State.mayWrite (s : State) (r : Reg) (h i p : Nat) : Bool :=
  match r.info.vis with
  | .all => true
  | v => s.regOwner v h i == s.portPart p

/-- The registers that answer before READY (R490). -/
def Reg.early : Reg → Bool
  | .PART_STATUS => true
  | .PORT_PART => true
  | .CLK_STATUS => true
  | r => decide (r.info.off < 0x2000)

/-! ### Values -/

/-- The bits below n that satisfy f, as a word. -/
def maskOf (n : Nat) (f : Nat → Bool) : Word :=
  BitVec.ofNat 32 ((List.range n).foldl (fun a i => if f i then a + 2 ^ i else a) 0)

def word (n : Nat) : Word := BitVec.ofNat 32 n

/-- The low or high word of a 64-bit value. -/
def wordOf (high : Bool) (n : Nat) : Word := BitVec.ofNat 32 (if high then n / 2 ^ 32 else n)

def ThrState.code : ThrState → Nat
  | .idle => 0 | .ready => 1 | .stalled => 2 | .ended => 3 | .halted => 4 | .faulted => 5

def Stall.code : Stall → Nat
  | .none => 0 | .fullQueue => 1 | .waittk => 2 | .waitev => 3 | .sync => 4 | .runAhead => 5 | .shotEnd => 6 | .strm => 7 | .runStart => 8

def RunSt.code : RunSt → Nat
  | .free => 0 | .armed => 1 | .running => 2 | .stopping => 3 | .committed => 4

def LaneSt.code : LaneSt → Nat
  | .idle => 0 | .running => 1 | .stalled => 2 | .fault => 3

def CapSt.code : CapSt → Nat
  | .free => 0 | .armed => 1 | .opened => 2 | .closing => 3

def RangePhase.code : RangePhase → Nat
  | .none => 0 | .rampDown => 1 | .wait => 2 | .rampUp => 3

def DlkState.code : DlkState → Nat
  | .training => 0 | .active => 1 | .rest => 2 | .dormant => 3 | .down => 4

def RingSt.code : RingSt → Nat
  | .disabled => 0 | .enabled => 1 | .draining => 2 | .error => 3

def BootSt.code : BootSt → Nat
  | .cold => 0 | .selftest => 1 | .awaitImage => 2 | .verify => 3 | .start => 4 | .ready => 5 | .failed => 15

/-- The queue of index i of the pattern registers of half h. -/
def patQ (h i : Nat) : Nat := if i < 512 then slotQ h i else 1536 + 64 * h + (i - 512)

/-- THR_STATE. -/
def State.thrWord (s : State) (t : Nat) : Word :=
  let x := s.thread t
  if x.st = .idle then 0
  else word (x.run * 2 ^ 26 + x.st.code * 2 ^ 23 + (if x.st = .stalled then x.stall.code else 0) * 2 ^ 19 + x.fault.toNat * 2 ^ 8)

/-- RUN_STATE. -/
def State.runWord (s : State) (r : Nat) : Word :=
  let u := s.runOf r
  word (u.st.code * 2 ^ 29 + u.status.toNat * 2 ^ 16 + u.threads.length)

/-- The entry being played at the ball by a queue in pattern play: that of the command which is to start it, while the ball has not
reached its stamp; then that of the first segment which the ball has not passed, so that a dead row counts as played by the segment
that follows it (R104); the player's own where no segment is at the ball. -/
def State.ballEntry (s : State) (q : Nat) : Nat :=
  match s.released.findSome? fun x => match x.cmd.act with | .pattern n _ => if x.q = q then some n else none | _ => none with
  | some n => n
  | none =>
    let l := s.pulses.filter fun p => p.q == q && p.entry.isSome && decide (s.now (qHalf q) < p.stop)
    match l.foldl (fun (a : Option Pulse) p => match a with | some b => if b.t ≤ p.t then a else some p | none => some p) none with
    | some p => p.entry.getD 0
    | none => (s.pattern q).entry

/-- PAT_STATUS; DEFERRED is stored. -/
def State.patWord (s : State) (h i : Nat) : Word :=
  let x := s.pattern (patQ h i)
  let t := match x.jump with | some j => j.target | none => 0
  bitW x.active 31 ||| bitW x.jump.isSome 30 ||| (s.reg .PAT_STATUS h i &&& 0x20000000) ||| word (t % 1024 * 2 ^ 12) |||
    (if x.active then word (s.ballEntry (patQ h i) % 1024) else 0)

/-- The first sample after those that a pulse occupies, whether it plays or is silent there (R98, R109, R179, R201). -/
def Pulse.occupied (p : Pulse) : Nat := match p.cut with | some c => min c p.stop | none => p.stop

/-- Whether a pulse or segment of a queue occupies the current ball row. -/
def State.playing (s : State) (q row : Nat) : Bool :=
  s.pulses.any fun p => p.q == q && p.live && decide (p.t < 32 * row + 32 ∧ 32 * row < p.occupied)

/-- FLX_STATUS; READY, PARKED and the flags are stored. -/
def State.fluxWord (s : State) (h i : Nat) : Word :=
  let c := s.fluxCh (64 * h + i)
  (s.reg .FLX_STATUS h i &&& 0x4407) ||| bitW (s.fluxRails h) 15 ||| word (c.phase.code * 2 ^ 12) ||| bitW c.ramp.isSome 11 ||| bitW c.tripped 9

/-- The trim words CORE_TRIM and FLX_TRIM. -/
def trimWord (ofs gain : BitVec 16) : Word := word (ofs.toNat * 2 ^ 16 + gain.toNat)

/-- IN_TAP: the tap in force and the one that R401 steps toward. -/
def State.tapWord (s : State) (h i : Nat) : Word :=
  let t := match mget none (s.calOf h).target (pairKey i) with | some x => x.tap | none => 0
  word ((s.trim h (pairKey i)).tap % 128 + t % 128 * 2 ^ 8)

/-- FLX_TRIM: the trims of the range in force. -/
def State.flxTrimWord (s : State) (h c : Nat) : Word :=
  let t := s.trim h (fluxKey c)
  if bit (s.reg .FLX_CTL h c) 2 then trimWord t.ofs1 t.gain1 else trimWord t.ofs t.gain

/-- CAL_STATUS. -/
def State.calWord (s : State) (h : Nat) : Word :=
  match (s.calOf h).job with
  | some j => word (2 ^ 31 + j.routine % 256 * 2 ^ 16 + j.target % 512)
  | none => 0

/-- The command tags that a partition holds, and the free ones (R442). -/
def State.tagsUsed (s : State) (k : Nat) : Nat :=
  (s.cmds.filter fun e => match e.2 with | some c => c.part == k | none => false).length
def State.tagsFree (s : State) : Nat := 8192 - s.cmds.length

/-- The contexts in a half's cache (R434). -/
def State.resident (s : State) (h : Nat) : Nat := (s.rings.filter fun e => e.2.resident && portHalf e.2.port == h).length

/-- The bytes of a partition's enabled regions (R476). -/
def State.regionTotal (s : State) (k : Nat) : Nat :=
  (List.range 256).foldl (fun a r => if bit (s.reg .RGN_CTL 0 k r) 31 then a + s.regionSize k r else a) 0

/-- PART_STATUS. -/
def State.partWord (s : State) : Word :=
  let n := s.fuses.slots.length
  bitW (!s.parts.isEmpty) 31 ||| bitW (n != 0) 30 ||| word ((n - 1) % 4 * 2 ^ 28) |||
    bitW (!s.parts.isEmpty && bits (s.reg .SRC_CFG 0 0x160) 30 29 == 2) 27 ||| word (s.boot.refusal % 256)

/-- BOOT_STATUS of a port. -/
def State.bootWord (s : State) (p : Nat) : Word := word (s.pstate p + (s.bootPort p).err % 256 * 2 ^ 8)

/-- BOOT_STATE. -/
def State.bootStateWord (s : State) : Word :=
  word (s.boot.sect.toNat * 2 ^ 12 + s.boot.cause * 2 ^ 8 + (match s.boot.winner with | some p => 2 ^ 7 + p * 2 ^ 4 | none => 0) + s.boot.st.code)

/-- RING_OP_STATUS: the ring's state and error are those it has now. -/
def State.ringOpWord (s : State) (h i : Nat) : Word :=
  let v := s.reg .RING_OP_STATUS h i
  if bits v 30 28 = 2 ∨ !(s.port (2 * h + i)).op then v
  else
    let x := s.ring (bits v 19 0)
    v ||| bitW (s.accessWaits fun q => q.why == .context (bits v 19 0)) 31 ||| word (x.st.code * 2 ^ 26 + x.err % 16 * 2 ^ 20)

/-- PORT_STATUS and IDE_STATUS of a port. -/
def State.portWord (s : State) (p : Nat) : Word :=
  let x := s.port p
  bitW (s.portPart p).isSome 31 ||| bitW x.link 30 ||| word (x.speed % 16 * 2 ^ 4 + x.width % 16)
def State.ideWord (s : State) (p : Nat) : Word :=
  bitW (s.portOn p) 3 ||| bitW (match s.portPart p with | some k => s.requiresIde k | none => false) 2 |||
    word (s.port p).secure.toNat

/-- CMP_STATUS. -/
def State.cmpWord (s : State) (h : Nat) : Word :=
  let x := s.cmpOf h
  let u : Nat := match x.cur with | none => 0 | some (.stream _) => 1 | some (.pack _) => 2 | some (.job _) => 3
  let q := (x.jobs.filter fun j => x.cur != some (CmpUser.job j.tag)).length
  bitW x.cur.isSome 31 ||| word (u * 2 ^ 29 + q % 65536)

/-- LANE_STATUS of a receive lane: LOS while the far half's lines are electrically idle, LOCK while the lane's CDR holds (R554, R567; log
48). -/
def State.laneStatus (s : State) (h l : Nat) : Word :=
  let d := s.dlkOf h
  let idle := match (s.dlkOf (far h)).st with | .rest => true | .dormant => true | .down => true | _ => false
  let lock := match d.st with | .active => true | .rest => true | _ => d.trained
  s.reg .DLK_LANE_STATUS h l ||| bitW idle 31 ||| bitW lock 30

/-- NT_STATUS. -/
def State.ntWord (s : State) : Word :=
  word (s.servo.st * 2 ^ 29) ||| bitW s.servo.stepped 28 ||| bitW (mget false s.ntLink 1) 27 ||| bitW (mget false s.ntLink 0) 26 |||
    bitW s.anyArmed 25 ||| word s.servo.seq.toNat

/-- DLK_STATUS. -/
def State.dlkWord (s : State) (h : Nat) : Word :=
  let d := s.dlkOf h
  word (d.st.code * 2 ^ 29) ||| bitW s.restInhibited 28 ||| word (d.cause % 16 * 2 ^ 24 + d.kept.length % 128)

/-- FLT_STATUS; OVERFLOW is stored. -/
def State.fltWord (s : State) (h : Nat) : Word :=
  bitW (s.isQuiet h) 31 ||| (s.reg .FLT_STATUS h &&& 0x40000000) |||
    bitW (if bit (s.reg .FLT_CTL 0) 4 then s.compatLevel else s.faultN.asserted) 29 ||| bitW s.faultN.pending 28

/-- QUIET_STATUS. -/
def State.quietWord (s : State) (h : Nat) : Word :=
  let q := s.quietOf h
  bitW q.on 31 ||| word (q.cause % 8 * 2 ^ 28 + q.id % 1024 * 2 ^ 16 + q.exitResult.toNat * 2 ^ 8 + min q.entries 255)

/-- The parts of a network time as registers: 0 and 1 the seconds, 2 the nanoseconds, 3 the fraction (R534). -/
def ntWordOf (n part : Nat) : Word :=
  let x := ntParts n
  match part with
  | 0 => word x.1
  | 1 => word (x.1 / 2 ^ 32)
  | 2 => word x.2.1
  | _ => word x.2.2

/-- A mask over a half's targets that shows only those that port p's partition owns (R205, R244, R310, R335, R409). -/
def State.ownedMask (s : State) (v : Vis) (h p lo n : Nat) (f : Nat → Bool) : Word :=
  maskOf n fun k => f (lo + k) && s.regOwner v h (lo + k) == s.portPart p

/-- The value of element (i, j) of register r of half h, as port p sees it.  A register with no line of its own reads as stored. -/
def State.load (s : State) (r : Reg) (h i j p : Nat) : Word :=
  match r with
  | .UID_LO => wordOf false (Config.uid (if h = 0 then 0 else 1)).toNat
  | .UID_HI => wordOf true (Config.uid (if h = 0 then 0 else 1)).toNat
  | .VIEW => word (partCode (s.portPart p) * 16 + p)
  | .ST_LO => wordOf false (s.now h)
  | .ST_HI => wordOf true (s.now h)
  | .SYNC_STATUS => (s.reg .SYNC_STATUS h &&& 6) ||| (s.reg .SYNC_CTL h &&& 1)
  | .THR_STATE => s.thrWord (256 * h + i)
  | .THR_PC => word (s.thread (256 * h + i)).pc
  | .THR_NOW_LO => wordOf false (s.thread (256 * h + i)).now.toNat
  | .THR_NOW_HI => wordOf true (s.thread (256 * h + i)).now.toNat
  | .RUN_STATE => s.runWord i
  | .RUN_SHOT_LO => wordOf false (s.shotsDone i)
  | .RUN_SHOT_HI => wordOf true (s.shotsDone i)
  | .RUN_T0_LO => wordOf false ((s.runOf i).t0.getD 0)
  | .RUN_T0_HI => wordOf true ((s.runOf i).t0.getD 0)
  | .RUN_NT_SEC_LO => s.reg .RUN_NT_SEC_LO 0 i
  | .RUN_NT_SEC_HI => s.reg .RUN_NT_SEC_HI 0 i
  | .RUN_NT_NS => s.reg .RUN_NT_NS 0 i
  | .RUN_NT_FRAC => s.reg .RUN_NT_FRAC 0 i
  | .PAT_STATUS => s.patWord h i
  | .DRV_SAT_SUM => s.ownedMask .dac h p 0 24 fun k => bits (s.reg .DAC_STATUS h k) 2 0 != 0
  | .DRV_MUTE_SUM => s.ownedMask .dac h p 0 24 fun k => bit (s.reg .DAC_STATUS h k) 14
  | .DAC_STATUS => (s.reg .DAC_STATUS h i &&& 0xC00F) ||| s.muteCauses h i
  | .DRV_FREQ_CUR_LO => wordOf false (oscAt (s.oscs (slotQ h i)) (s.now h)).f.toNat
  | .DRV_FREQ_CUR_HI => wordOf true (oscAt (s.oscs (slotQ h i)) (s.now h)).f.toNat
  | .DRV_PHASE_OFS => (oscAt (s.oscs (slotQ h i)) (s.now h)).p
  | .DRV_TREF_LO => wordOf false (oscAt (s.oscs (slotQ h i)) (s.now h)).tref.toNat
  | .DRV_TREF_HI => wordOf true (oscAt (s.oscs (slotQ h i)) (s.now h)).tref.toNat
  | .SLOT_STATUS => bitW (s.playing (slotQ h i) (s.row h)) 31 ||| bitW (s.stream (slotQ h i)).isSome 30 ||| (s.reg .SLOT_STATUS h i &&& 1)
  | .RDO_OVR_SUM => s.ownedMask .input h p 0 8 fun k => bit (s.reg .IN_STATUS h k) 0
  | .IN_STATUS =>
      (s.reg .IN_STATUS h i &&& 0x8001) ||| bitW (s.overAt (8 * h + i) (s.row h - 1)) 14 |||
        bitW (s.calOn h 3 (8 * h + i) || s.calOn h 4 (8 * h + i)) 13
  | .CH_STATUS =>
      bitW (s.wins.any fun w => w.ch == 256 * h + i && w.spans (s.row h)) 31 ||| (s.reg .CH_STATUS h i &&& 0xF)
  | .RDO_FREQ_CUR_LO => wordOf false (oscAt (s.oscs (1024 + 256 * h + i)) (s.now h)).f.toNat
  | .RDO_FREQ_CUR_HI => wordOf true (oscAt (s.oscs (1024 + 256 * h + i)) (s.now h)).f.toNat
  | .RDO_PHASE_OFS => (oscAt (s.oscs (1024 + 256 * h + i)) (s.now h)).p
  | .RDO_TREF_LO => wordOf false (oscAt (s.oscs (1024 + 256 * h + i)) (s.now h)).tref.toNat
  | .RDO_TREF_HI => wordOf true (oscAt (s.oscs (1024 + 256 * h + i)) (s.now h)).tref.toNat
  | .DT_STATUS =>
      bitW (s.tableUsed (64 * h + i)) 31 ||| word ((s.table (64 * h + i)).held.foldl (fun a e => a + 2 ^ (16 + e.1)) 0) |||
        (s.reg .DT_STATUS h i &&& 0xFFFF)
  | .COMPLY_SUM0 => s.ownedMask .flux h p 0 32 fun c => bit (s.reg .FLX_STATUS h c) 1
  | .COMPLY_SUM1 => s.ownedMask .flux h p 32 32 fun c => bit (s.reg .FLX_STATUS h c) 1
  | .FLX_STATUS => s.fluxWord h i
  | .FLX_LEVEL => (s.fluxBall (64 * h + i)).zeroExtend 32
  | .FLX_PENDING => (s.fluxCh (64 * h + i)).pending.zeroExtend 32
  | .TRIP_SUM0 => s.ownedMask .monitor h p 0 32 fun m => s.monTripped h m
  | .TRIP_SUM1 => s.ownedMask .monitor h p 32 32 fun m => s.monTripped h m
  | .TRIP_SUM2 => s.ownedMask .monitor h p 64 32 fun m => s.monTripped h m
  | .CAP_STATUS => word ((s.cap (2 * h + i)).st.code * 2 ^ 30) ||| (s.reg .CAP_STATUS h i &&& 1)
  | .CAP_INDEX_LO => wordOf false (s.cap (2 * h + i)).next
  | .CAP_INDEX_HI => wordOf true (s.cap (2 * h + i)).next
  | .DSP_LANE_STATUS =>
      let x := s.lane (16 * h + i)
      word (x.st.code * 2 ^ 29 + x.code % 256 * 2 ^ 16) ||| bitW (x.st == .fault) 1 ||| (s.reg .DSP_LANE_STATUS h i &&& 5)
  | .LANE_PC => word (s.lane (16 * h + i)).pc
  | .FAULT_PC => word (s.lane (16 * h + i)).faultPc
  | .Q_LEVEL => word (s.lane (16 * h + i)).queue.length
  | .CYCLES_LO => wordOf false (s.lane (16 * h + i)).cycles
  | .CYCLES_HI => wordOf true (s.lane (16 * h + i)).cycles
  | .CAL_STATUS => s.calWord h
  | .BG_CTL => s.ownedMask .input h p 0 8 fun k => bit (s.reg .BG_CTL h) k
  | .BG_STATUS =>
      s.ownedMask .input h p 0 8 (fun k => s.tracking (8 * h + k)) |||
        (s.ownedMask .input h p 0 8 fun k => bit (s.reg .BG_CTL h) k && !s.tracking (8 * h + k)) <<< 8
  | .CAL_VALID_DAC => s.ownedMask .dac h p 0 24 fun k => (s.trim h k).valid
  | .CAL_VALID_IN =>
      s.ownedMask .input h p 0 8 (fun k => (s.inValid (8 * h + k)).1) |||
        (s.ownedMask .input h p 0 8 fun k => (s.inValid (8 * h + k)).2) <<< 8
  | .CAL_VALID_FLX0 => s.ownedMask .flux h p 0 32 fun c => (s.trim h (fluxKey c)).valid
  | .CAL_VALID_FLX1 => s.ownedMask .flux h p 32 32 fun c => (s.trim h (fluxKey c)).valid
  | .CAL_VALID1_FLX0 => s.ownedMask .flux h p 0 32 fun c => (s.trim h (fluxKey c)).valid1
  | .CAL_VALID1_FLX1 => s.ownedMask .flux h p 32 32 fun c => (s.trim h (fluxKey c)).valid1
  | .CORE_TRIM => trimWord (s.trim h (coreKey i)).ofs (s.trim h (coreKey i)).gain
  | .IN_TAP => s.tapWord h i
  | .FLX_TRIM => s.flxTrimWord h i
  | .EG_CTL => s.reg .EG_CTL h &&& s.egMask h (s.portPart p)
  | .EC_CFG => setBits (s.reg .EC_CFG h i) 28 25 (partCode (s.ownEvent (512 * h + i)))
  | .HQ_STATUS => word (s.resident h)
  | .TAGS_FREE => word s.tagsFree
  | .RID_BASE => word (s.ridBase i)
  | .RID_COUNT => word (s.ridCount i)
  | .TAGS_USED => word (s.tagsUsed i)
  | .PORT_STATUS => s.portWord (2 * h + i)
  | .RING_OP_STATUS => s.ringOpWord h i
  | .OUTSTANDING_READS => word (s.port (2 * h + i)).reads.length
  | .PART_STATUS => s.partWord
  | .PORT_PART => word (partCode (s.portPart (2 * h + i)) * 16 + (2 * h + i))
  | .IDE_STATUS => s.ideWord (2 * h + i)
  | .RGN_TOTAL_LO => wordOf false (s.regionTotal i)
  | .RGN_TOTAL_HI => wordOf true (s.regionTotal i)
  | .PT_WINDOW => word (bits (s.part (i / 128)) (32 * (i % 128) + 31) (32 * (i % 128)))
  | .BOOT_RING_LO => s.reg .BOOT_RING_LO 0 p
  | .BOOT_RING_HI => s.reg .BOOT_RING_HI 0 p
  | .BOOT_RING_COUNT => s.reg .BOOT_RING_COUNT 0 p
  | .BOOT_LEN => s.reg .BOOT_LEN 0 p
  | .BOOT_STATUS => s.bootWord p
  | .BOOT_READ => word (s.bootPort p).got
  | .BOOT_STATE => s.bootStateWord
  | .BOOT_IGNORED => s.reg .BOOT_IGNORED 0
  | .CMP_STATUS => s.cmpWord h
  | .DLK_LANE_STATUS => s.laneStatus h i
  | .NT_STATUS => s.ntWord
  | .NT_SEC_LO => ntWordOf (s.ntOf h) 0
  | .NT_SEC_HI => ntWordOf (s.ntOf h) 1
  | .NT_NS => ntWordOf (s.ntOf h) 2
  | .NT_FRAC => ntWordOf (s.ntOf h) 3
  | .NT_ST_LO => wordOf false (s.now h)
  | .NT_ST_HI => wordOf true (s.now h)
  | .MARK_ST_LO => wordOf false (s.marker (8 * h + i)).stamp
  | .MARK_ST_HI => wordOf true (s.marker (8 * h + i)).stamp
  | .MARK_NT_SEC_LO => ntWordOf (s.marker (8 * h + i)).ntime 0
  | .MARK_NT_SEC_HI => ntWordOf (s.marker (8 * h + i)).ntime 1
  | .MARK_NT_NS => ntWordOf (s.marker (8 * h + i)).ntime 2
  | .MARK_NT_FRAC => ntWordOf (s.marker (8 * h + i)).ntime 3
  | .DLK_STATUS => s.dlkWord h
  | .FLT_STATUS => s.fltWord h
  | .QUIET_STATUS => s.quietWord h
  | .SRC_STATUS => (s.reg .SRC_STATUS h i &&& 2) ||| bitW ((sourceRow i).isSome && s.live h i) 0
  | r => s.reg r h i j

/-! ### Captures (R46, R73, R74, R238, R546) -/

/-- The registers that a read of r captures into the port's shadows (access code RS). -/
def Reg.captures : Reg → List Reg
  | .ST_LO => [.ST_HI]
  | .SYNC_PREV_LO => [.SYNC_PREV_HI]
  | .LATE_FIRST_T_LO => [.LATE_FIRST_T_HI]
  | .THR_NOW_LO => [.THR_NOW_HI]
  | .RUN_SHOT_LO => [.RUN_SHOT_HI]
  | .RUN_T0_LO => [.RUN_T0_HI]
  | .DRV_FREQ_CUR_LO => [.DRV_FREQ_CUR_HI]
  | .DRV_TREF_LO => [.DRV_TREF_HI]
  | .OVR_FIRST_LO => [.OVR_FIRST_HI]
  | .RDO_FREQ_CUR_LO => [.RDO_FREQ_CUR_HI]
  | .RDO_TREF_LO => [.RDO_TREF_HI]
  | .LAST_XI => [.LAST_XQ, .LAST_TOKEN]
  | .AVG_SUMI_LO => [.AVG_SUMI_HI]
  | .AVG_SUMQ_LO => [.AVG_SUMQ_HI]
  | .TRIP_T_LO => [.TRIP_T_HI]
  | .SCAN_T_LO => [.SCAN_T_HI]
  | .CAP_INDEX_LO => [.CAP_INDEX_HI]
  | .CYCLES_LO => [.CYCLES_HI]
  | .CAST_ON_ID_LO => [.CAST_ON_ID_HI]
  | .RGN_TOTAL_LO => [.RGN_TOTAL_HI]
  | .BYTES_IN_LO => [.BYTES_IN_HI]
  | .BYTES_OUT_LO => [.BYTES_OUT_HI]
  | .NT_SEC_LO => [.NT_SEC_HI, .NT_NS, .NT_FRAC, .NT_ST_LO, .NT_ST_HI]
  | .TRIG_ST_LO => [.TRIG_ST_HI]
  | .RUN_NT_SEC_LO => [.RUN_NT_SEC_HI, .RUN_NT_NS, .RUN_NT_FRAC]
  | .MARK_ST_LO => [.MARK_ST_HI, .MARK_NT_SEC_LO, .MARK_NT_SEC_HI, .MARK_NT_NS, .MARK_NT_FRAC]
  | .FIRST_T_LO => [.FIRST_T_HI]
  | .QUIET_T_LO => [.QUIET_T_HI]
  | .GOV_ROWS_LO => [.GOV_ROWS_HI]
  | _ => []

/-- The registers whose reads return the port's shadow. -/
def Reg.shadowed : Reg → Bool
  | .ST_HI | .SYNC_PREV_HI | .LATE_FIRST_T_HI | .THR_NOW_HI | .RUN_SHOT_HI | .RUN_T0_HI | .DRV_FREQ_CUR_HI | .DRV_TREF_HI => true
  | .OVR_FIRST_HI | .RDO_FREQ_CUR_HI | .RDO_TREF_HI | .LAST_XQ | .LAST_TOKEN | .AVG_SUMI_HI | .AVG_SUMQ_HI | .TRIP_T_HI => true
  | .SCAN_T_HI | .CAP_INDEX_HI | .CYCLES_HI | .CAST_ON_ID_HI | .RGN_TOTAL_HI | .BYTES_IN_HI | .BYTES_OUT_HI => true
  | .NT_SEC_HI | .NT_NS | .NT_FRAC | .NT_ST_LO | .NT_ST_HI | .TRIG_ST_HI | .RUN_NT_SEC_HI | .RUN_NT_NS | .RUN_NT_FRAC => true
  | .MARK_ST_HI | .MARK_NT_SEC_LO | .MARK_NT_SEC_HI | .MARK_NT_NS | .MARK_NT_FRAC | .FIRST_T_HI | .QUIET_T_HI | .GOV_ROWS_HI => true
  | _ => false

/-- The key of port p's shadow, or staging register, of a register. -/
def shadowKey (r : Reg) (h i j p : Nat) : Nat := 4 * r.key h i j + p

/-- A read of an element by a port that may read it: its captures go into the port's shadows at once. -/
def State.readReg (s : State) (r : Reg) (h i j p : Nat) : Word × State :=
  if r.shadowed then (mget 0 s.shadows (shadowKey r h i j p), s)
  else
    (s.load r h i j p,
      s.forEach r.captures fun t x => { t with shadows := mset 0 t.shadows (shadowKey x h i j p) (s.load x h i j p) })

/-! ### A read of BAR0 -/

/-- The half that an address of BAR0 belongs to, and the offset within the half (R13, R41). -/
def addrHalf (a : Nat) : Nat := a / 0x400000
def addrOff (a : Nat) : Nat := a % 0x400000

/-- A register that reads zero and ignores writes: one of H1's BOOT block (R23), or of a task input that does not exist on the half
(R22, R42, R424). -/
def Reg.inert (r : Reg) (h i : Nat) : Bool :=
  match r with
  | .TASK_SEL | .TASK_DROP => !taskExists h i
  | r => h == 1 && decide (0x1000 ≤ r.info.off ∧ r.info.off < 0x2000)

/-- A read at an address of half h, as that half answers it (R23, R42, R44, R490). -/
def State.readAt (s : State) (h off p : Nat) : Word × State :=
  match Reg.find off with
  | some (r, i, j) => if (s.ready || r.early) && !r.inert h i && s.mayRead r h i p then s.readReg r h i j p else (0, s)
  | none => (0, s)

/-- Whether some register at an offset answers in the cast-on state (R490). -/
def State.answers (s : State) (off : Nat) : Bool :=
  s.ready || match Reg.find off with | some (r, _, _) => r.early | none => false

/-- A port's request that arrives outside a Secure stream where its partition requires one: Unsupported Request (R480). -/
def State.unsecured (s : State) (p : Nat) : Bool :=
  s.ready && match s.portPart p with
  | some k => s.requiresIde k && (s.port p).secure == 0
  | none => false

/-- A host request of BAR0 or BAR2 arrives outside a Secure stream where the port's partition requires one (R480). -/
def State.outside (s : State) (p : Nat) (via : Via) : Bool :=
  s.ready && match s.portPart p with
  | some k => s.requiresIde k && !(match via with | some i => bit (s.port p).secure i.val | none => false)
  | none => false

/-- A host read of BAR0 (R32, R34, R42, R43): the near half answers at once, the far half over the die link. -/
def State.hostRead (s : State) (p a size : Nat) : State :=
  if (s.port p).cfg.d3hot then s.answer p 0xFFFFFFFF
  else if s.unsecured p then (s.foreign p).answer p 0xFFFFFFFF
  else if size ≠ 4 ∨ a % 4 ≠ 0 ∨ 2 ≤ addrHalf a then s.answer p 0
  else if addrHalf a = portHalf p then
    let r := s.readAt (portHalf p) (addrOff a) p
    r.2.answer p r.1
  else if !s.answers (addrOff a) then s.answer p 0
  else if s.linkUp then s.send (portHalf p) (.regRead p a)
  else s.answer p 0xFFFFFFFF

end Sys2Proof.Machine
end

