-- ==== Sys2Proof/Machine/Store.lean ====
section
/-!
DEFINITION. What a write of a register does (R10, R11, R33, R42 to R44, R75 and the register tables): who may write it, staged low
halves, and the effect of each register that does more than hold a value.
-/
namespace Sys2Proof.Machine

/-! ### Access codes and pairs -/

/-- The value that a write leaves in a register whose fields have only the codes RO, RW, W1C and W1S (R10, R11). -/
def written (d : RegDef) (old v : Word) : Word :=
  ((((old &&& ~~~ d.rw) ||| (v &&& d.rw)) &&& ~~~ (v &&& d.w1c)) ||| (v &&& d.w1s))

/-- A write by the access codes alone. -/
def State.plain (s : State) (r : Reg) (h i j : Nat) (v : Word) : State := s.setReg r h i j (written r.info (s.reg r h i j) v)

/-- The low half of a writable pair is staged for the port (R75). -/
def State.stage (s : State) (r : Reg) (h i j p : Nat) (v : Word) : State :=
  { s with staged := mset 0 s.staged (shadowKey r h i j p) v }

/-- A write to the high half commits the pair with the port's staged low half (R75). -/
def State.commit (s : State) (lo hi : Reg) (h i j p : Nat) (v : Word) : State :=
  (s.setReg lo h i j (mget 0 s.staged (shadowKey lo h i j p))).setReg hi h i j (v &&& hi.info.rw)

/-- The 48-bit value that a commit of FREQ_SET_HI gives. -/
def State.stagedFreq (s : State) (lo : Reg) (h i p : Nat) (v : Word) : BitVec 48 :=
  BitVec.ofNat 48 ((mget 0 s.staged (shadowKey lo h i 0 p)).toNat + v.toNat % 65536 * 2 ^ 32)

/-! ### Regions (R476) -/

def State.rgnIgnored (s : State) (k : Nat) : State := s.count .RGN_IGNORED 0 k

/-- A write to RGN_CTL of region r of partition k, judged on EN before the write and after it. -/
def State.wrRgnCtl (s : State) (k r : Nat) (v : Word) : State :=
  let old := s.reg .RGN_CTL 0 k r
  let new := v &&& 0x80000003
  if !bit v 31 then s.setReg .RGN_CTL 0 k r new
  else if bit old 31 then (if old = new then s else s.rgnIgnored k)
  else
    let n := s.regionSize k r
    if n = 0 ∨ 2 ^ 64 < s.regionBase k r + n ∨ 2 ^ 41 < s.regionTotal k + n then s.rgnIgnored k
    else s.setReg .RGN_CTL 0 k r new

/-- A commit of BASE or SIZE, refused while the region is enabled. -/
def State.wrRgnPair (s : State) (lo hi : Reg) (k r p : Nat) (v : Word) : State :=
  if bit (s.reg .RGN_CTL 0 k r) 31 then s.rgnIgnored k else s.commit lo hi 0 k r p v

/-! ### Other registers -/

/-- A write to a banked BOOT register, ignored while the port's image is under way and in READY (R500). -/
def State.wrBanked (s : State) (p : Nat) (k : State → State) : State :=
  let st := s.pstate p
  if s.ready ∨ st = 1 ∨ st = 2 ∨ st = 4 then s.bootIgnored else k s

/-- A write to BG_CTL: the bits of inputs that are not the partition's are ignored, and counted where they are written 1 (R409;
log 24). -/
def State.wrBgCtl (s : State) (h p : Nat) (v : Word) : State :=
  let m := s.ownedMask .input h p 0 8 fun _ => true
  let s := if v &&& 0xFF &&& ~~~ m = 0 then s else s.foreign p
  s.setReg .BG_CTL h 0 0 ((s.reg .BG_CTL h &&& ~~~ m) ||| (v &&& m))

/-- A write to EG_CTL through port p: only the bits of its partition's groups change, and a write of 1 to a bit of another is ignored
and counted (R424; log 24). -/
def State.wrEgCtl (s : State) (h p : Nat) (v : Word) : State :=
  let m := s.egMask h (s.portPart p)
  let s := if v &&& ~~~ m = 0 then s else (s.foreign p).evrIgnored h
  s.setReg .EG_CTL h 0 0 ((s.reg .EG_CTL h &&& ~~~ m) ||| (v &&& m))

/-- A write to RING_OP of local port i of half h through port p (R431, R433). -/
def State.wrRingOp (s : State) (h i p : Nat) (v : Word) : State :=
  match bits v 31 28 with
  | 1 => s.ringEnable p (2 * h + i) (bits v 19 0)
  | 2 => s.ringDisable p (2 * h + i) (bits v 19 0)
  | _ => s

/-- The effect of a write of v through port p to element (i, j) of register r of half h.  A register with no line of its own follows
its access codes. -/
def State.store (s : State) (r : Reg) (h i j p : Nat) (v : Word) : State :=
  match r with
  | .CLK_STATUS => if bits (s.reg .CLK_STATUS h) 2 0 = 7 then s.plain r h i j v else s
  | .SYNC_CTL => s.wrSyncCtl v
  | .SYNC_LOAD_LO => s.stage r h i j p v
  | .SYNC_LOAD_HI => s.commit .SYNC_LOAD_LO r h i j p v
  | .LATE_COUNT => (s.plain r h i j v).regBit .LATE_FIRST_Q h 0 15 false
  | .START_LEAD => s.setReg r h i j (word (max 64 (v.toNat % 65536)))
  | .DAC_CTL => s.wrDacCtl h i v
  | .DAC_SCALE => s.wrDacScale h i v
  | .SLOT_CTL => s.wrSlotCtl h i v
  | .DRV_FREQ_SET_LO => s.stage r h i j p v
  | .DRV_FREQ_SET_HI =>
      if s.slotInRun h i then s.count .DRV_IGNORED_WRITES h 0
      else (s.commit .DRV_FREQ_SET_LO r h i j p v).wrSlotOsc h i fun o => { o with f := s.stagedFreq .DRV_FREQ_SET_LO h i p v }
  | .DRV_PHASE_OFS => s.wrSlotOsc h i fun o => { o with p := v }
  | .IN_CTL => s.wrInCtl (8 * h + i) v
  | .CH_CTL => s.wrChCtl (256 * h + i) v
  | .RDO_FREQ_SET_LO => s.stage r h i j p v
  | .RDO_FREQ_SET_HI =>
      if s.inRun (1024 + 256 * h + i) then s.count .RDO_IGNORED_WRITES h 0
      else (s.commit .RDO_FREQ_SET_LO r h i j p v).wrChOsc (256 * h + i) fun o => { o with f := s.stagedFreq .RDO_FREQ_SET_LO h i p v }
  | .RDO_PHASE_OFS => s.wrChOsc (256 * h + i) fun o => { o with p := v }
  | .KS_CFG | .KS_KADDR | .KS_MAP | .KS_AB0 | .KS_C0 | .KS_AB1 | .KS_C1 | .KS_AB2 | .KS_C2 => s.wrKernelSet r h i v
  | .ASAP_MARGIN => s.setReg r h i j (word (max 6 (v.toNat % 64)))
  | .DT_CFG | .DT_LUT => s.wrTable r h i j v
  | .DT_IN => s.wrTableIn h i j v
  | .FG_STROBE => s.wrFgStrobe (8 * h + i) v
  | .FLX_CTL => s.wrFlxCtl (64 * h + i) v
  | .FLX_LEVEL => s.wrFlxLevel (64 * h + i) v
  | .FLX_SLEW | .FLX_RANGE_TGT => s.wrFlxGuarded r (64 * h + i) v
  | .MON_CFG => s.wrMonCfg h i v
  | .MON_TH | .MON_HYST | .MON_BLANK => s.wrMonPlain r h i v
  | .MON_STATUS => s.wrMonStatus h i v
  | .AUX_START => s.wrAuxStart h v
  | .CAP_CTL | .CAP_TRIG | .CAP_LEVEL | .CAP_HOLDOFF | .CAP_LEAD | .REC_SEL => s.wrCap r h i j v
  | .TRIG_MASK_LO => if (s.cap (2 * h + i)).st ≠ .free then s.count .CAP_IGNORED_WRITES h 0 else s.stage r h i j p v
  | .TRIG_MASK_HI =>
      if (s.cap (2 * h + i)).st ≠ .free then s.count .CAP_IGNORED_WRITES h 0 else s.commit .TRIG_MASK_LO r h i j p v
  | .LANE_CTL => s.wrLaneCtl (16 * h + i) v
  | .DSP_LANE_STATUS => s.wrLaneStatus (16 * h + i) v
  | .BG_CTL => s.wrBgCtl h p v
  | .EC_FIRE => s.wrEcFire h (s.portPart p) v
  | .EG_CTL => s.wrEgCtl h p v
  | .EC_CFG => s.wrEcCfg (512 * h + i) v
  | .TASK_SEL => s.wrTaskSel h i v
  | .CTX_BASE_LO => s.stage r h i j p v
  | .CTX_BASE_HI => s.commit .CTX_BASE_LO r h i j p v
  | .DB_BASE_LO => s.stage r h i j p v
  | .DB_BASE_HI => s.commit .DB_BASE_LO r h i j p v
  | .POLL_MIN => s.setReg r h i j (word (max 200 (v.toNat % 65536)))
  | .POLL_MAX => s.setReg r h i j (word (max 1 (min 50 (v.toNat % 64))))
  | .KICK => s.wrKick (2 * h + i)
  | .RING_OP => s.wrRingOp h i p v
  | .RGN_BASE_LO => s.stage r h i j p v
  | .RGN_BASE_HI => s.wrRgnPair .RGN_BASE_LO r i j p v
  | .RGN_SIZE_LO => s.stage r h i j p v
  | .RGN_SIZE_HI => s.wrRgnPair .RGN_SIZE_LO r i j p v
  | .RGN_CTL => s.wrRgnCtl i j v
  | .BOOT_RING_LO => s.wrBanked p fun s => s.stage r 0 p 0 p v
  | .BOOT_RING_HI => s.wrBanked p fun s => s.commit .BOOT_RING_LO r 0 p 0 p v
  | .BOOT_RING_COUNT => s.wrBanked p fun s => s.plain r 0 p 0 v
  | .BOOT_LEN => s.wrBanked p fun s => s.plain r 0 p 0 v
  | .BOOT_STATUS | .BOOT_READ => s.wrBanked p fun s => s
  | .BOOT_CTL => s.wrBootCtl p v
  | .BOOT_RECAST => if !bit v 0 then s else if s.portPart p = some 4 then s.recast else s.bootIgnored
  | .CMP_CTL => s.wrCmpCtl h v
  | .NT_MAC_LO => s.stage r h i j p v
  | .NT_MAC_HI => s.commit .NT_MAC_LO r h i j p v
  | .NT_CTL => s.wrNtCtl h v
  | .NT_RATE => s.wrNtRate h v
  | .TRIG_STATE => s.wrTrigState h i v
  | .DLK_CTL => s.wrDlkCtl h v
  | .FLT_CTL => s.wrFltCtl v
  | .FN_ACK => s.wrFnAck h
  | .FIRST_CLR => s.wrFirstClr h v
  | .QUIET_CTL => s.wrQuietCtl h v
  | .FLT_PSUM => s.wrPsum h i v
  | .SRC_CFG => s.wrSrcCfg h i v
  | .SRC_STATUS => s.wrSrcStatus h i v
  | .SRC_FORCE => s.wrSrcForce h i v
  | r => s.plain r h i j v

/-! ### A write of BAR0 -/

/-- The registers of the EVR block (R424). -/
def Reg.evr : Reg → Bool
  | .EVR_IGNORED_WRITES | .LOOP_COUNT | .EC_FIRE | .EG_CTL | .EC_CFG | .EC_FIRES | .EC_DROPS | .TASK_SEL | .TASK_DROP => true
  | _ => false

/-- The registers of a monitor that LOCK guards (R336). -/
def Reg.lockable : Reg → Bool
  | .MON_CFG | .MON_TH | .MON_HYST | .MON_BLANK => true
  | _ => false

/-- A write that the port's partition may not make: ignored and counted (R44), and in the block's own counter where its rules say so
(R336, R361, R424). -/
def State.foreignWrite (s : State) (r : Reg) (h i p : Nat) : State :=
  let s := s.foreign p
  if r.evr then s.evrIgnored h
  else if r.lockable && bit (s.reg .MON_CFG h i) 2 then s.count .MON_IGNORED_WRITES h 0
  else if r.info.vis == .engine then s.count .CAP_IGNORED_WRITES h 0
  else s

/-- A write at an address of half h, as that half takes it (R23, R42, R44, R490, R501). -/
def State.writeAt (s : State) (h off p : Nat) (v : Word) : State :=
  match Reg.find off with
  | some (r, i, j) =>
    if !(s.ready || r.early) || r.inert h i then s
    else if r == .BOOT_RECAST || s.mayWrite r h i p then s.store r h i j p v
    else s.foreignWrite r h i p
  | none => s

/-- A host write of BAR0 (R32, R34, R42, R43, R480): to the near half at once, to the far half over the die link. -/
def State.hostWrite (s : State) (p a size : Nat) (v : Word) : State :=
  if (s.port p).cfg.d3hot then s
  else if s.unsecured p then s.foreign p
  else if size ≠ 4 ∨ a % 4 ≠ 0 ∨ 2 ≤ addrHalf a then s
  else if addrHalf a = portHalf p then s.writeAt (portHalf p) (addrOff a) p v
  else if !s.answers (addrOff a) then s
  else if s.linkUp then s.send (portHalf p) (.regWrite p a v)
  else s.count .FAR_WR_DISCARD (portHalf p) 0

/-- The address of element (i, j) of a register of half h (R13). -/
def Reg.addr (r : Reg) (h i j : Nat) : Nat := 0x400000 * h + r.offset i j

/-- A host write of v through port p to one register. -/
def State.wr (s : State) (p : Nat) (r : Reg) (h i j : Nat) (v : Word) : State := s.hostWrite p (r.addr h i j) 4 v

end Sys2Proof.Machine
end

