-- ==== Sys2Proof/Machine/Access.lean ====
section
/-!
DEFINITION. Register access as commands: reads and writes of BAR0, REG flits, and the rows of the table that are a write to one
register.  A row that names a register is the write of its operand to that register through its port, whatever the operand's bits:
the register's own rules decide what the write does.
-/
namespace Sys2Proof.Machine

/-! ### Reads and writes (R10, R73, R75, R238) -/

/-- A setting of a port's configuration space (R426, R459, R479). -/
def PortConfig.set (c : PortConfig) (x : PortSetting) : PortConfig :=
  match x with
  | .maxPayload n => { c with maxPayload := 128 * 2 ^ n.val }
  | .maxRead n => { c with maxRead := 128 * 2 ^ n.val }
  | .msixEnable on => { c with msix := on }
  | .msixMask on => { c with masked := on }
  | .power d3hot => { c with d3hot := d3hot }
  | .association i b valid base limit =>
    let floor := fun (a : Nat) => a / 2 ^ 20 * 2 ^ 20
    let block : IdeAssoc := { valid := valid, base := floor base.toNat, limit := floor limit.toNat + (2 ^ 20 - 1) }
    { c with assoc := mset {} c.assoc (2 * i.val + b.val) block }

/-- A host write of an aligned word of BAR2 (R426): the MSI-X table, vector v at 16 v; the PBA at 0x8000 is read only. -/
def PortConfig.bar2Write (c : PortConfig) (a : Nat) (v : Word) : PortConfig :=
  if a % 4 = 0 ∧ a < 1024 then
    let w := (setBits (c.vector (a / 16)) (8 * (a % 16) + 31) (8 * (a % 16)) v.toNat) &&& (BitVec.ofNat 128 (2 ^ 97 - 4))
    { c with vectors := mset (BitVec.ofNat 128 (2 ^ 96)) c.vectors (a / 16) w }
  else c

/-- A host read of BAR2. -/
def PortConfig.bar2Read (c : PortConfig) (a : Nat) : Word :=
  if a % 4 ≠ 0 then 0
  else if a < 1024 then word (bits (c.vector (a / 16)) (8 * (a % 16) + 31) (8 * (a % 16)))
  else if a = 0x8000 then word (bits c.pending 31 0)
  else if a = 0x8004 then word (bits c.pending 63 32)
  else 0

/-- REGISTER_WRITE (R10): a write of BAR0, of BAR2, or of the configuration space, which answers while the link is up. -/
def execRegisterWrite (p : Port) (target : Target) (via : Via) (v : Word) (s : State) : Res :=
  .next (match target with
    | .config x => if (s.port p).link then (s.modPort p fun y => { y with cfg := y.cfg.set x }).settleMsix p else s
    | .bar0 addr size => if s.outside p via then s.foreign p else s.hostWrite p addr.toNat size v
    | .bar2 addr => if s.outside p via ∨ (s.port p).cfg.d3hot then s
                    else (s.modPort p fun y => { y with cfg := y.cfg.bar2Write addr.toNat v }).settleMsix p)

/-- SNAPSHOT_READ (R73): a read of BAR0, where an RS register captures its group, or of BAR2. -/
def execSnapshotRead (p : Port) (bar2 : Bool) (addr : BitVec 24) (size : Nat) (via : Via) (s : State) : Res :=
  .next (if bar2 then s.answer p (if s.outside p via ∨ (s.port p).cfg.d3hot then 0xFFFFFFFF else (s.port p).cfg.bar2Read addr.toNat)
    else if s.outside p via then (s.foreign p).answer p 0xFFFFFFFF
    else s.hostRead p addr.toNat size)

/-- PAIR_COMMIT_WRITE (R75). -/
def execPairCommitWrite (p : Port) (addr : BitVec 24) (v : Word) (s : State) : Res := .next (s.hostWrite p addr.toNat 4 v)

/-- LAST_XI_READ (R238). -/
def execLastXiRead (p : Port) (c : ChIx) (s : State) : Res :=
  .next (s.hostRead p (Reg.LAST_XI.addr (c.val / 256) (c.val % 256) 0) 4)

/-! ### REG flits (R32, R558) -/

/-- What the half that receives a REG message does with it: a write acts, a read is answered over the link, an answer reaches its
port. -/
def State.regIn (s : State) (h : Nat) (m : DlkMsg) : State :=
  match m with
  | .regWrite p a v => s.writeAt h (addrOff a) p v
  | .go p ring => s.bootGo p ring
  | .regRead p a =>
    let r := s.readAt h (addrOff a) p
    r.2.send h (.regAnswer p r.1)
  | .regAnswer p v => s.answer p v
  | _ => s

/-- Whether a REG flit spells a message. -/
def regSpells (b : BitVec 256) (m : DlkMsg) : Bool :=
  let off := payload b 21 0
  let port := payload b 23 22
  let wr := payload b 24 24 == 1
  let rsp := payload b 25 25 == 1
  let data := payload b 67 36
  match m with
  | .regWrite p a v => wr && !rsp && port == p && off == addrOff a && data == v.toNat
  | .regRead p a => !wr && !rsp && port == p && off == addrOff a
  | .go p _ => wr && !rsp && port == p && off == Reg.BOOT_CTL.info.off && data == 1
  | .regAnswer p v => !wr && rsp && port == p && data == v.toNat
  | _ => false

/-- REG: the next register message of the far half arrives (R32, R33, R558). -/
def execReg (h : Half) (flit : BitVec 272) (s : State) : Res :=
  .next (s.flitIn h flit (fun b => bits b 15 12 == 4) fun s b =>
    s.sequenced h b fun s =>
      match (s.dlkOf (far h)).msgs.find? DlkMsg.isReg with
      | some m => if regSpells b m then (s.takeMsg (far h) DlkMsg.isReg m).map fun s => s.regIn h m else none
      | none => none)

/-! ### Clocks and synchronisation -/

/-- SYNC_ARM, SYNC_DISARM (R66, R67), TIME_VALID_SET (R77). -/
def execSyncArm (p : Port) (h : Half) (s : State) : Res := .next (s.wr p .SYNC_CTL h 0 0 1)
def execSyncDisarm (p : Port) (h : Half) (s : State) : Res := .next (s.wr p .SYNC_CTL h 0 0 0)
def execTimeValidSet (p : Port) (h : Half) (s : State) : Res := .next (s.wr p .CLK_STATUS h 0 0 8)

/-! ### Drive and readout -/

/-- The writes of DAC_CTL: EN (R197, R198), MODE (R189), MUTE (R192). -/
def execDacEnable (p : Port) (h : Half) (k : DacIx) (v : Word) (s : State) : Res := .next (s.wr p .DAC_CTL h k 0 v)
def execDacDisable (p : Port) (h : Half) (k : DacIx) (v : Word) (s : State) : Res := .next (s.wr p .DAC_CTL h k 0 v)
def execDacModeWrite (p : Port) (h : Half) (k : DacIx) (v : Word) (s : State) : Res := .next (s.wr p .DAC_CTL h k 0 v)
def execHostMute (p : Port) (h : Half) (k : DacIx) (v : Word) (s : State) : Res := .next (s.wr p .DAC_CTL h k 0 v)

/-- EV_MUTE_CLEAR (R193), SLOT_MUTE (R200), SLOT_RSTPH (R206), DAC_SCALE_WRITE (R185). -/
def execEvMuteClear (p : Port) (h : Half) (k : DacIx) (v : Word) (s : State) : Res := .next (s.wr p .DAC_STATUS h k 0 v)
def execSlotMute (p : Port) (h : Half) (i : SlotIx) (v : Word) (s : State) : Res := .next (s.wr p .SLOT_CTL h i 0 v)
def execSlotRstph (p : Port) (h : Half) (i : SlotIx) (v : Word) (s : State) : Res := .next (s.wr p .SLOT_CTL h i 0 v)
def execDacScaleWrite (p : Port) (h : Half) (k : DacIx) (v : Word) (s : State) : Res := .next (s.wr p .DAC_SCALE h k 0 v)

/-- IN_ENABLE (R240), IN_DISABLE (R241). -/
def execInEnable (p : Port) (i : InIx) (v : Word) (s : State) : Res := .next (s.wr p .IN_CTL (i / 8) (i % 8) 0 v)
def execInDisable (p : Port) (i : InIx) (v : Word) (s : State) : Res := .next (s.wr p .IN_CTL (i / 8) (i % 8) 0 v)

/-- AVG_CLR (R235), CH_RSTPH (R245). -/
def execAvgClr (p : Port) (c : ChIx) (v : Word) (s : State) : Res := .next (s.wr p .CH_CTL (c / 256) (c % 256) 0 v)
def execChRstph (p : Port) (c : ChIx) (v : Word) (s : State) : Res := .next (s.wr p .CH_CTL (c / 256) (c % 256) 0 v)

/-! ### Flux -/

/-- The writes of FLX_CTL: EN (R305, R306), RANGE (R293), MODE (R308). -/
def execFluxEnable (p : Port) (f : FluxIx) (v : Word) (s : State) : Res := .next (s.wr p .FLX_CTL (f / 64) (f % 64) 0 v)
def execFluxDisable (p : Port) (f : FluxIx) (v : Word) (s : State) : Res := .next (s.wr p .FLX_CTL (f / 64) (f % 64) 0 v)
def execRangeChangeStart (p : Port) (f : FluxIx) (v : Word) (s : State) : Res := .next (s.wr p .FLX_CTL (f / 64) (f % 64) 0 v)
def execFluxModeWrite (p : Port) (f : FluxIx) (v : Word) (s : State) : Res := .next (s.wr p .FLX_CTL (f / 64) (f % 64) 0 v)

/-- FLX_LEVEL_WRITE (R307), FG_STROBE (R286). -/
def execFlxLevelWrite (p : Port) (f : FluxIx) (v : Word) (s : State) : Res := .next (s.wr p .FLX_LEVEL (f / 64) (f % 64) 0 v)
def execFgStrobe (p : Port) (g : GroupIx) (v : Word) (s : State) : Res := .next (s.wr p .FG_STROBE (g / 8) (g % 8) 0 v)

/-! ### Monitors, auxiliary inputs, lanes -/

/-- MON_CLR (R317), MON_LOCK (R336), MON_DISABLE (R323), MON_TEST_WRITE (R326). -/
def execMonClr (p : Port) (m : MonIx) (v : Word) (s : State) : Res := .next (s.wr p .MON_STATUS (m / 96) (m % 96) 0 v)
def execMonLock (p : Port) (m : MonIx) (v : Word) (s : State) : Res := .next (s.wr p .MON_CFG (m / 96) (m % 96) 0 v)
def execMonDisable (p : Port) (m : MonIx) (v : Word) (s : State) : Res := .next (s.wr p .MON_CFG (m / 96) (m % 96) 0 v)
def execMonTestWrite (p : Port) (m : MonIx) (v : Word) (s : State) : Res := .next (s.wr p .MON_CFG (m / 96) (m % 96) 0 v)

/-- AUX_START (R329). -/
def execAuxStart (p : Port) (h : Half) (v : Word) (s : State) : Res := .next (s.wr p .AUX_START h 0 0 v)

/-- LANE_START (R366), LANE_ABORT (R370), LANE_DISABLE (R371), LANE_FAULT_CLEAR (R385). -/
def execLaneStart (p : Port) (l : LaneIx) (v : Word) (s : State) : Res := .next (s.wr p .LANE_CTL (l / 16) (l % 16) 0 v)
def execLaneAbort (p : Port) (l : LaneIx) (v : Word) (s : State) : Res := .next (s.wr p .LANE_CTL (l / 16) (l % 16) 0 v)
def execLaneDisable (p : Port) (l : LaneIx) (v : Word) (s : State) : Res := .next (s.wr p .LANE_CTL (l / 16) (l % 16) 0 v)
def execLaneFaultClear (p : Port) (l : LaneIx) (v : Word) (s : State) : Res := .next (s.wr p .DSP_LANE_STATUS (l / 16) (l % 16) 0 v)

/-! ### Events, ports, partitions -/

/-- EC_FIRE (R412), TASK_SEL_CLR (R421). -/
def execEcFire (p : Port) (h : Half) (v : Word) (s : State) : Res := .next (s.wr p .EC_FIRE h 0 0 v)
def execTaskSelClr (p : Port) (h : Half) (u : Fin 448) (v : Word) (s : State) : Res := .next (s.wr p .TASK_SEL h u 0 v)

/-- KICK (R437), RGN_CTL_WRITE (R476), CMP_DISABLE (R523). -/
def execKick (p : Port) (h : Half) (i : Fin 2) (s : State) : Res := .next (s.wr p .KICK h i 0 0)
def execRgnCtlWrite (p : Port) (h : Half) (k : Fin 5) (r : Fin 256) (v : Word) (s : State) : Res := .next (s.wr p .RGN_CTL h k r v)
def execCmpDisable (p : Port) (h : Half) (v : Word) (s : State) : Res := .next (s.wr p .CMP_CTL h 0 0 v)

/-- The local port whose RING_OP a port of half h's own partition writes: its own, or on the other half the first bound to its
partition. -/
def State.opIx (s : State) (p h : Nat) : Nat :=
  if portHalf p = h then portIx p
  else if s.portPart (2 * h) == s.portPart p then 0 else 1

/-- RING_ENABLE (R431), RING_DISABLE (R433): writes to RING_OP. -/
def execRingEnable (p : Port) (h : Half) (r : RingIx) (s : State) : Res := .next (s.wr p .RING_OP h (s.opIx p h) 0 (0x10000000#32 ||| word r.val))
def execRingDisable (p : Port) (h : Half) (r : RingIx) (s : State) : Res := .next (s.wr p .RING_OP h (s.opIx p h) 0 (0x20000000#32 ||| word r.val))

/-- GO (R491): through a port of H0 at once, through one of H1 over the die link (R32, R34); `ring` is what the part's reads of the boot
ring return. -/
def execGo (p : Port) (ring : List Byte) (s : State) : Res :=
  .next (if (s.port p).cfg.d3hot then s
    else if s.unsecured p then s.foreign p
    else if portHalf p = 0 then s.bootGo p ring
    else if s.linkUp then s.send 1 (.go p ring)
    else s.count .FAR_WR_DISCARD 1 0)

/-- BOOT_ABORT (R494) and RECAST (R501), in H0's BOOT block (R23). -/
def execBootAbort (p : Port) (s : State) : Res := .next (s.wr p .BOOT_CTL 0 0 0 2)
def execRecast (p : Port) (s : State) : Res := .next (s.wr p .BOOT_RECAST 0 0 0 1)

/-! ### Network time and the die link -/

/-- NT_RATE_WRITE (R540), NT_CTL_WRITE (R542), TRIG_DISARM (R544). -/
def execNtRateWrite (p : Port) (h : Half) (v : Word) (s : State) : Res := .next (s.wr p .NT_RATE h 0 0 v)
def execNtCtlWrite (p : Port) (h : Half) (v : Word) (s : State) : Res := .next (s.wr p .NT_CTL h 0 0 v)
def execTrigDisarm (p : Port) (h : Half) (a : Fin 5) (v : Word) (s : State) : Res := .next (s.wr p .TRIG_STATE h a 0 v)

/-- DORMANT_ENTER, DORMANT_EXIT (R568). -/
def execDormantEnter (p : Port) (h : Half) (v : Word) (s : State) : Res := .next (s.wr p .DLK_CTL h 0 0 v)
def execDormantExit (p : Port) (h : Half) (v : Word) (s : State) : Res := .next (s.wr p .DLK_CTL h 0 0 v)

/-! ### Faults and quiet mode -/

/-- SRC_FORCE (R581), LATCHED_CLEAR (R580), FIRST_CLR (R582), FN_ACK (R588), FN_MODE_WRITE (R589). -/
def execSrcForce (p : Port) (h : Half) (i : Fin 512) (v : Word) (s : State) : Res := .next (s.wr p .SRC_FORCE h i 0 v)
def execLatchedClear (p : Port) (h : Half) (i : Fin 512) (v : Word) (s : State) : Res := .next (s.wr p .SRC_STATUS h i 0 v)
def execFirstClr (p : Port) (h : Half) (v : Word) (s : State) : Res := .next (s.wr p .FIRST_CLR h 0 0 v)
def execFnAck (p : Port) (h : Half) (v : Word) (s : State) : Res := .next (s.wr p .FN_ACK h 0 0 v)
def execFnModeWrite (p : Port) (h : Half) (v : Word) (s : State) : Res := .next (s.wr p .FLT_CTL h 0 0 v)

/-- BIND_OFF (R593), EXIT (R594). -/
def execBindOff (p : Port) (h : Half) (v : Word) (s : State) : Res := .next (s.wr p .QUIET_CTL h 0 0 v)
def execExit (p : Port) (h : Half) (v : Word) (s : State) : Res := .next (s.wr p .QUIET_CTL h 0 0 v)

end Sys2Proof.Machine
end

