-- ==== Sys2Proof/Machine/Commands.lean ====
section
/-!
DEFINITION. Commands of the host's rings: their acceptance and checks, NOP and FENCE, loads, CFG_BATCH, READ_STATE, COMPRESS and
DECOMPRESS, CAL_RUN, CAL_READ and CAL_WRITE (R101, R393 to R408, R440 to R446, R510 to R516, R630).
-/
namespace Sys2Proof.Machine

/-! ### Acceptance (R440, R442, R451) -/

/-- The opcodes of the command table. -/
def opcodes : List Nat :=
  [0x00, 0x01, 0x10, 0x11, 0x12, 0x13, 0x14, 0x20, 0x21, 0x22, 0x28, 0x29, 0x30, 0x31, 0x32, 0x38, 0x39, 0x40, 0x41, 0x48, 0x49]

/-- TAG_QUOTA of a partition. -/
def State.tagQuota (s : State) (k : Nat) : Nat := (s.reg .TAG_QUOTA 0 k).toNat

/-- Whether the part accepts the next command of a ring: it has its descriptor, no FENCE holds the ring, there is room for its completion,
a tag and quota (R440, R442, R451), and the governor does not hold the ring engine back (R609). -/
def State.canAccept (s : State) (r : Nat) : Bool :=
  let x := s.ring r
  let q := s.ring x.cq
  x.st == .enabled && x.kind == 1 && !x.desc.isEmpty && x.fence.isNone && s.portOn x.port && !s.paced (portHalf x.port) 26 &&
  !(q.st == .enabled && decide (q.units_ ≤ q.held)) &&
  match s.ringOwner r with
  | some k => decide (s.tagsUsed k < s.tagQuota k ∧ 0 < s.tagsFree)
  | none => false

/-- The lowest free command tag. -/
def State.lowestTag (s : State) : Nat :=
  ((List.range 8192).find? fun t => (mget none s.cmds t).isNone).getD 0

/-- The command of a ring's next descriptor d. -/
def State.commandOf (s : State) (r : Nat) (d : BitVec 512) : HostCmd :=
  { ring := r, port := (s.ring r).port, part := (s.ringOwner r).getD 5, op := dField d 0 1, nocomp := bit d 8,
    user := BitVec.ofNat 32 (dField d 4 4), seq := s.cmdSeq, desc := d }

/-- The state once descriptor d of ring r is accepted: the ring's consumer index has moved on, the command holds the lowest free tag, and
the next descriptors are fetched when none is left (R440, R442). -/
def State.accepted (s : State) (r : Nat) (d : BitVec 512) : State :=
  let s1 := ((s.modRing r fun x => { x with desc := x.desc.tail }).advance r 1).settleFetch r
  { s1 with cmds := mset none s1.cmds s.lowestTag (some (s.commandOf r d)), cmdSeq := s1.cmdSeq + 1 }

/-- The part accepts a ring's next descriptor, of opcode op, and does `f` for the command and its tag; an unknown opcode completes with
BAD_DESCRIPTOR (R440, R442, R443). -/
def State.accept (s : State) (r op : Nat) (f : State → HostCmd → Nat → State) : State :=
  match (s.ring r).desc with
  | [] => s
  | d :: _ =>
    let c := s.commandOf r d
    if !s.canAccept r ∨ (opcodes.contains c.op ∧ c.op ≠ op) then s
    else if opcodes.contains c.op then f (s.accepted r d) c s.lowestTag
    else (s.accepted r d).finish s.lowestTag 0x06 0

/-! ### Checks (R443, R444) -/

/-- Whether the bytes of a descriptor that it does not list are zero: FLAGS [7:1], bytes 2 and 3, and bytes 8 to 63 but for the
fields of `l`, each a first byte and a length. -/
def zeroBut (d : BitVec 512) (l : List (Nat × Nat)) : Bool :=
  dField d 1 1 / 2 == 0 && dField d 2 2 == 0 &&
  (List.range 56).all fun i => dField d (8 + i) 1 == 0 || l.any fun x => decide (x.1 ≤ 8 + i ∧ 8 + i < x.1 + x.2)

/-- The checks of a command, in their order (R443): whether each fails, and its status. -/
abbrev Checks : Type := List (Bool × BitVec 8)

/-- The status of the first check that fails. -/
def firstStatus (l : Checks) : Option (BitVec 8) := (l.find? fun x => x.1).map (·.2)

/-- The first check that fails ends the command with its status and the RESULT `fail`; otherwise the command does `k`. -/
def State.checked (s : State) (tag : Nat) (fail : Word64) (l : Checks) (k : State → State) : State :=
  match l.find? fun x => x.1 with
  | some x => s.finish tag x.2 fail
  | none => k s

/-- Whether a firmware section has not started (R444): 0 management, 1 DSP library, 2 default tables, 3 calibration routines. -/
def State.noSect (s : State) (l : List Nat) : Bool := l.any fun n => !bit s.boot.sect n

/-- Whether a half is out of a port's reach (R443, check 7). -/
def State.farDown (s : State) (c : HostCmd) (h : Nat) : Bool := h != portHalf c.port && !s.linkUp

/-! ### Host memory (R35, R458) -/

/-- A command begins to read n bytes of host memory for a resource of half h, as far as the region check lets it; what it does with them
follows when they have come (`State.resume`).  Where the first request is refused it ends (R458). -/
def State.source (s : State) (c : HostCmd) (tag addr n h cls : Nat) (fail : Word64) : State :=
  let a := s.allowed c.port c.part addr n false
  let s := if a < n then s.denied c.port c.part .none else s
  if a = 0 then s.finish tag 0x07 fail
  else
    (s.modCmd tag fun c => { c with reading := true, short := decide (a < n) }).dmaRead c.port (cmdReq c.part tag h cls) addr a

/-- A command writes bytes of half h to host memory and ends. -/
def State.cmdWrite (s : State) (c : HostCmd) (tag addr h : Nat) (bytes : List Byte) (status : BitVec 8) : State :=
  let a := s.allowed c.port c.part addr bytes.length true
  let s := s.dmaWrite c.port (cmdReq c.part tag h 4) addr (bytes.take a)
  if a < bytes.length then (s.denied c.port c.part .none).finish tag 0x07 (BitVec.ofNat 64 a)
  else s.finish tag status (BitVec.ofNat 64 bytes.length)

/-! ### NOP and FENCE (R440, R443) -/

/-- The one check of NOP and FENCE. -/
def plainChecks (d : BitVec 512) : Checks := [(!zeroBut d [], 0x06)]

/-- CMD_NOP. -/
def execCmdNop (r : RingIx) (s : State) : Res :=
  .next (s.accept r 0x00 fun s c tag => s.checked tag 0 (plainChecks c.desc) fun s => s.finish tag 0 0)

/-- FENCE: the ring accepts nothing more until it completes. -/
def execFence (r : RingIx) (s : State) : Res :=
  .next (s.accept r 0x01 fun s c tag =>
    s.checked tag 0 (plainChecks c.desc) fun s => s.modRing c.ring fun x => { x with fence := some tag })

/-- The oldest FENCE of a ring that has not completed. -/
def State.firstFence (s : State) (r : Nat) : Option (Nat × HostCmd) :=
  s.cmds.foldl (fun (a : Option (Nat × HostCmd)) e => match e.2 with
    | some c =>
      if c.ring = r ∧ c.op = 1 ∧ c.done.isNone then
        (match a with | some b => if b.2.seq < c.seq then a else some (e.1, c) | none => some (e.1, c))
      else a
    | none => a) none

/-- FENCE_COMPLETE: every earlier command of the ring has completed. -/
def execFenceComplete (r : RingIx) (s : State) : Res :=
  .next (match s.firstFence r with
    | some (tag, c) =>
      if s.cmds.any fun e => match e.2 with | some b => b.ring == r.val && decide (b.seq < c.seq) | none => false then s
      else (s.finish tag 0 0).modRing r fun x => if x.fence = some tag then { x with fence := none } else x
    | none => s)

/-! ### Loads (R40, R445, R515, R523) -/

/-- The checks of a load of memory m (0 waveform, 1 thread program, 2 kernel, 3 DSP lane memory) into a half, and a lane. -/
def State.loadChecks (s : State) (c : HostCmd) (m h lane : Nat) (malformed outOfRange : Bool) (sects : List Nat) : Checks :=
  let d := c.desc
  let n := dField d 32 4
  let grain := if m = 1 then 8 else 4
  let window := if m = 3 then 262144 else (memOf m).size
  let dest := dField d 24 8
  let skein := dField d 12 1 == 1
  [(malformed || decide (2 ≤ dField d 12 1), 0x06),
   (outOfRange || decide (dField d 16 8 % 4 ≠ 0 ∨ dest % grain ≠ 0 ∨ n = 0 ∨ n % grain ≠ 0 ∨ window < dest + (if skein then 0 else n)), 0x09),
   (!s.ownsRange c.part m h ((if m = 3 then 262144 * lane else 0) + dest) (if skein then 0 else n), 0x08),
   (s.noSect sects, 0x16),
   (m == 3 && (s.lane (16 * h + lane)).st != .idle, 0x0A),
   (s.farDown c h, 0x14)]

/-- The fields of a load's descriptor, without those of LOAD_PROG. -/
def loadFields : List (Nat × Nat) := [(8, 1), (12, 1), (16, 8), (24, 8), (32, 4)]

/-- The memory that a load's descriptor names, and its lane. -/
def loadMem (d : BitVec 512) : Nat × Nat :=
  match dField d 0 1 with
  | 0x10 => (0, 0)
  | 0x12 => (2, 0)
  | _ => if dField d 9 1 = 1 then (3, dField d 10 1) else (1, dField d 10 1)

/-- A load reads its source. -/
def State.load_ (s : State) (c : HostCmd) (tag : Nat) (l : Checks) : State :=
  s.checked tag 0 l fun s => s.source c tag (dField c.desc 16 8) (dField c.desc 32 4) (dField c.desc 8 1) 4 0

/-- A load's source has come: the bytes go to the memory, or, with SKEIN = 1, a job of the half's compression engine unpacks them. -/
def State.loaded (s : State) (c : HostCmd) (tag : Nat) : State :=
  let m := (loadMem c.desc).1
  let h := dField c.desc 8 1
  let base := if m = 3 then 262144 * (loadMem c.desc).2 else 0
  let off := base + dField c.desc 24 8
  let window := if m = 3 then 262144 else (memOf m).size
  if dField c.desc 12 1 = 1 then
    let j : CmpJob := { tag := tag, part := c.part, port := c.port, kind := .load m h off (base + window), data := c.data, left := dField c.desc 32 4 }
    ((s.jobIn h j).jobSettle h tag).cmpPick h
  else (s.write (memOf m) h off c.data).finish tag (if c.short then 0x07 else 0x00) (BitVec.ofNat 64 c.data.length)

/-- The checks of LOAD_WAVE, LOAD_KERNEL and LOAD_PROG. -/
def State.loadWaveChecks (s : State) (c : HostCmd) : Checks :=
  s.loadChecks c 0 (dField c.desc 8 1) 0 (!zeroBut c.desc loadFields) (decide (2 ≤ dField c.desc 8 1)) [0]
def State.loadKernelChecks (s : State) (c : HostCmd) : Checks :=
  s.loadChecks c 2 (dField c.desc 8 1) 0 (!zeroBut c.desc loadFields) (decide (2 ≤ dField c.desc 8 1)) [0]
def State.loadProgChecks (s : State) (c : HostCmd) : Checks :=
  let h := dField c.desc 8 1
  let sel := dField c.desc 9 1
  let lane := dField c.desc 10 1
  s.loadChecks c (if sel = 1 then 3 else 1) h lane (!zeroBut c.desc ([(9, 1), (10, 1)] ++ loadFields) || (sel == 0 && lane != 0))
    (decide (2 ≤ h ∨ 2 ≤ sel ∨ 16 ≤ lane)) (if sel = 1 then [0, 1] else [0])

/-- LOAD_WAVE. -/
def execLoadWave (r : RingIx) (s : State) : Res := .next (s.accept r 0x10 fun s c tag => s.load_ c tag (s.loadWaveChecks c))

/-- LOAD_KERNEL. -/
def execLoadKernel (r : RingIx) (s : State) : Res := .next (s.accept r 0x12 fun s c tag => s.load_ c tag (s.loadKernelChecks c))

/-- LOAD_PROG: thread program memory, or with SEL 1 the memory of a DSP lane. -/
def execLoadProg (r : RingIx) (s : State) : Res := .next (s.accept r 0x11 fun s c tag => s.load_ c tag (s.loadProgChecks c))

/-! ### LOAD_TABLE (R261, R630) -/

/-- The word i of a table image: DT_CFG, DT_IN0–7, DT_LUT0–63. -/
def imageWord (data : List Byte) (i : Nat) : Word := BitVec.ofNat 32 (leField data (4 * i) 4)

/-- An accepted image is written, DT_CFG last. -/
def State.tableLoad (s : State) (t : Nat) (data : List Byte) : State :=
  let h := t / 64
  let i := t % 64
  let s := s.forEach (List.range 8) fun s n => s.setReg .DT_IN h i n (imageWord data (1 + n))
  let s := s.forEach (List.range 64) fun s n => s.setReg .DT_LUT h i n (imageWord data (9 + n))
  let cfg := imageWord data 0
  (s.setReg .DT_CFG h i 0 cfg).modTable t fun x => { held := if bit cfg 31 then x.held.filter fun y => bit cfg y.1 else [] }

/-- The checks of LOAD_TABLE before it reads the image, and of the image. -/
def State.tableChecks (s : State) (c : HostCmd) : Checks :=
  let d := c.desc
  let t := dField d 8 2
  [(!zeroBut d [(8, 2), (16, 8)], 0x06), (decide (128 ≤ t), 0x09), (s.ownTable t != some c.part, 0x08), (s.noSect [0, 2], 0x16)]

def State.imageChecks (s : State) (c : HostCmd) : Checks :=
  let t := dField c.desc 8 2
  let data := c.data
  let ins := (List.range 8).map fun n => imageWord data (1 + n)
  [(c.short, 0x07),
   (imageWord data 0 &&& ~~~ Reg.DT_CFG.info.rw != 0 || ins.any fun w => w &&& ~~~ Reg.DT_IN.info.rw != 0, 0x06),
   (ins.any fun w => bit w 31 && decide (t ≤ bits w 8 0), 0x09),
   (ins.any fun w => s.ownSource (bit w 31) (bits w 8 0) != some c.part, 0x08),
   (s.tableUsed t, 0x0A),
   (s.farDown c (t / 64), 0x14)]

/-- LOAD_TABLE reads its image; once it has come it is refused or written whole. -/
def execLoadTable (r : RingIx) (s : State) : Res :=
  .next (s.accept r 0x13 fun s c tag =>
    s.checked tag 0 (s.tableChecks c) fun s => s.source c tag (dField c.desc 16 8) 292 (dField c.desc 8 2 / 64) 4 0)

def State.tableLoaded (s : State) (c : HostCmd) (tag : Nat) : State :=
  s.checked tag 0 (s.imageChecks c) fun s => (s.tableLoad (dField c.desc 8 2) c.data).finish tag 0 0

/-! ### LOAD_SEGTAB (R101, R103, R295) -/

/-- The owner of a pattern group of a half. -/
def State.ownGroup (s : State) (h g : Nat) : Option Nat := if g < 24 then s.ownDac h g else s.ownFluxGroup (8 * h + (g - 24) / 8)

/-- Whether an entry that LOAD_SEGTAB writes is invalid. -/
def entryBad (x : BitVec 128) : Bool :=
  let e := entryOf x
  e.length == 0 || decide (10 ≤ e.gauge) || e.reserved != 0

/-- Entry i of those that LOAD_SEGTAB reads. -/
def segEntry (data : List Byte) (i : Nat) : BitVec 128 := BitVec.ofNat 128 (leField data (16 * i) 16)

/-- The checks of LOAD_SEGTAB before it reads the entries, and of the entries. -/
def State.segtabChecks (s : State) (c : HostCmd) : Checks :=
  let d := c.desc
  let h := dField d 8 1
  let g := dField d 9 1
  let n := dField d 12 2
  [(!zeroBut d [(8, 1), (9, 1), (10, 2), (12, 2), (16, 8)], 0x06),
   (decide (2 ≤ h ∨ 88 ≤ g ∨ n = 0 ∨ 1024 < n ∨ 1024 < dField d 10 2 + n), 0x09),
   (s.ownGroup h g != some c.part, 0x08),
   (s.noSect [0, 2], 0x16)]

def State.segChecks (s : State) (c : HostCmd) : Checks :=
  let h := dField c.desc 8 1
  let g := dField c.desc 9 1
  [(c.short, 0x07),
   ((List.range (dField c.desc 12 2)).any fun i => entryBad (segEntry c.data i), 0x06),
   (!(s.groupQueues h g).isEmpty || (decide (24 ≤ g) && s.fluxChanging (64 * h + (g - 24))), 0x0A),
   (s.farDown c h, 0x14)]

/-- LOAD_SEGTAB reads its entries; once they have come they are refused or written. -/
def execLoadSegtab (r : RingIx) (s : State) : Res :=
  .next (s.accept r 0x14 fun s c tag =>
    s.checked tag 0 (s.segtabChecks c)
      fun s => s.source c tag (dField c.desc 16 8) (16 * dField c.desc 12 2) (dField c.desc 8 1) 4 0)

def State.segtabLoaded (s : State) (c : HostCmd) (tag : Nat) : State :=
  let d := c.desc
  let n := dField d 12 2
  let at_ := 1024 * (88 * dField d 8 1 + dField d 9 1) + dField d 10 2
  s.checked tag 0 (s.segChecks c) fun s =>
    (s.forEach (List.range n) fun s i => { s with segtab := mset 0 s.segtab (at_ + i) (segEntry c.data i) }).finish tag 0 (BitVec.ofNat 64 n)

/-! ### CFG_BATCH (R446) and READ_STATE (R445) -/

/-- One entry of a batch: an aligned 32-bit write through the port's view, which takes effect at once on either half. -/
def State.batchWrite (s : State) (p a : Nat) (v : Word) : State :=
  if a % 4 ≠ 0 ∨ 2 ≤ addrHalf a then s
  else if addrHalf a = portHalf p ∨ s.linkUp then s.writeAt (addrHalf a) (addrOff a) p v
  else s.count .FAR_WR_DISCARD (portHalf p) 0

/-- The checks of CFG_BATCH. -/
def State.batchChecks (s : State) (c : HostCmd) : Checks :=
  let d := c.desc
  let n := dField d 24 4
  [(!zeroBut d [(16, 8), (24, 4)], 0x06), (decide (n = 0 ∨ 65536 < n), 0x09), (s.noSect [0], 0x16)]

/-- CFG_BATCH reads its entries; once they have come they are applied in order. -/
def execCfgBatch (r : RingIx) (s : State) : Res :=
  .next (s.accept r 0x40 fun s c tag =>
    s.checked tag 0 (s.batchChecks c)
      fun s => s.source c tag (dField c.desc 16 8) (8 * dField c.desc 24 4) (portHalf c.port) 3 0)

def State.batchLoaded (s : State) (c : HostCmd) (tag : Nat) : State :=
  let m := c.data.length / 8
  (s.forEach (List.range m) fun s i =>
    s.batchWrite c.port (leField c.data (8 * i) 4) (BitVec.ofNat 32 (leField c.data (8 * i + 4) 4))).finish tag
      (if c.short then 0x07 else 0x00) (BitVec.ofNat 64 m)

/-- n 32-bit reads of BAR0 from address a through a port's view. -/
def State.readBar (s : State) (p : Nat) : Nat → Nat → List Byte × State
  | 0, _ => ([], s)
  | n + 1, a =>
    let r := if 2 ≤ addrHalf a then (0, s) else if addrHalf a = portHalf p ∨ s.linkUp then s.readAt (addrHalf a) (addrOff a) p
      else (0xFFFFFFFF, s)
    let t := r.2.readBar p n (a + 4)
    (leBytes 4 r.1.toNat ++ t.1, t.2)

/-- The checks of READ_STATE. -/
def State.readStateChecks (s : State) (c : HostCmd) : Checks :=
  let d := c.desc
  let h := dField d 8 1
  let sel := dField d 9 1
  let lane := dField d 10 1
  let off := dField d 24 8
  let n := dField d 32 4
  let grain := if sel = 1 then 8 else 4
  let window := match sel with | 3 => 262144 | 4 => 16777216 | m => (memOf m).size
  let base := if sel = 3 then 262144 * lane else 0
  [(!zeroBut d [(8, 1), (9, 1), (10, 1), (16, 8), (24, 8), (32, 4)], 0x06),
   (decide (2 ≤ h ∨ 5 ≤ sel ∨ 16 ≤ lane ∨ dField d 16 8 % 4 ≠ 0 ∨ off % grain ≠ 0 ∨ n = 0 ∨ n % grain ≠ 0 ∨ window < off + n ∨
     (sel = 4 ∧ 65536 < n)), 0x09),
   (decide (sel ≠ 4) && !s.ownsRange c.part sel h (base + off) n, 0x08),
   (s.noSect [0], 0x16),
   (decide (sel ≠ 4) && s.farDown c h, 0x14)]

/-- The corrected errors that a READ_STATE met are counted where the memory's block counts them: the kernel memory's, a lane's (R223,
R386). -/
def State.readCorrected (s : State) (sel h n : Nat) : State :=
  match sel with
  | 2 => s.count .RDO_ECC_CORRECTED h 0 n
  | 3 => s.count .DSP_ECC_CORRECTED h 0 n
  | _ => s

/-- READ_STATE; where a word of the range has an uncorrectable error, the bytes before it are written (R445, R453). -/
def execReadState (r : RingIx) (de : Reads) (s : State) : Res :=
  .next (s.accept r 0x41 fun s c tag =>
    let d := c.desc
    let h := dField d 8 1
    let sel := dField d 9 1
    let dst := dField d 16 8
    let off := dField d 24 8
    let n := dField d 32 4
    s.checked tag 0 (s.readStateChecks c)
      fun s =>
        if sel = 4 then
          let x := s.readBar c.port (n / 4) off
          x.2.cmdWrite c tag dst (portHalf c.port) x.1 0x00
        else
          let bytes := s.read (memOf sel) h ((if sel = 3 then 262144 * dField d 10 1 else 0) + off) n
          let s := s.readCorrected sel h de.corrected
          match de.bad with
          | some k => s.cmdWrite c tag dst h (bytes.take k) (if k < n then 0x12 else 0x00)
          | none => s.cmdWrite c tag dst h bytes 0x00)

/-! ### COMPRESS and DECOMPRESS (R510 to R516) -/

/-- The checks of COMPRESS and DECOMPRESS. -/
def State.cmpChecks (s : State) (c : HostCmd) (malformed outOfRange : Bool) : Checks :=
  let d := c.desc
  let h := dField d 8 1
  [(malformed || !zeroBut d [(8, 1), (9, 1), (10, 1), (16, 8), (24, 4), (32, 8), (40, 4)] || decide (2 ≤ dField d 10 1), 0x06),
   (outOfRange || decide (2 ≤ h ∨ dField d 24 4 = 0 ∨ dField d 16 8 % 16 ≠ 0 ∨ dField d 32 8 % 16 ≠ 0), 0x09),
   (s.noSect [0], 0x16),
   (!s.cmpOn h, 0x0A),
   (s.farDown c h, 0x14)]

/-- The checks of COMPRESS, and of DECOMPRESS. -/
def State.compressChecks (s : State) (c : HostCmd) : Checks :=
  s.cmpChecks c false (decide (dField c.desc 9 1 = 0 ∨ 9 < dField c.desc 9 1))
def State.decompressChecks (s : State) (c : HostCmd) : Checks :=
  s.cmpChecks c (decide (dField c.desc 9 1 ≠ 0 ∨ dField c.desc 10 1 ≠ 0)) false

/-- A job reads its source. -/
def State.cmpCommand (s : State) (c : HostCmd) (tag : Nat) (l : Checks) : State :=
  s.checked tag 0 l fun s => s.source c tag (dField c.desc 16 8) (dField c.desc 24 4) (dField c.desc 8 1) 4 0

/-- COMPRESS. -/
def execCompress (r : RingIx) (s : State) : Res := .next (s.accept r 0x38 fun s c tag => s.cmpCommand c tag (s.compressChecks c))

/-- DECOMPRESS. -/
def execDecompress (r : RingIx) (s : State) : Res := .next (s.accept r 0x39 fun s c tag => s.cmpCommand c tag (s.decompressChecks c))

/-- A job's source has come: the job waits for its half's engine, unless the engine has been disabled meanwhile (R523). -/
def State.cmpLoaded (s : State) (c : HostCmd) (tag : Nat) : State :=
  let d := c.desc
  let h := dField d 8 1
  let j : CmpJob :=
    { tag := tag, part := c.part, port := c.port, kind := if c.op = 0x38 then .compress (dField d 10 1 == 1) else .decompress, data := c.data,
      left := dField d 24 4, dst := dField d 32 8, cap := dField d 40 4 }
  if !s.cmpOn h then s.finish tag 0x0A 0
  else ((s.jobIn h j).jobSettle h tag).cmpPick h

/-! ### Calibration (R393, R394, R400, R406 to R408) -/

/-- The check of a CAL_RUN's descriptor. -/
def calRunChecks (d : BitVec 512) : Checks := [(!zeroBut d [(8, 1), (10, 2)], 0x06)]

/-- The half whose CAL_DONE a CAL_RUN fires: its target's, or the command's port's where it names no target (R400; log 91). -/
def calDoneHalf (c : HostCmd) (routine target : Nat) : Nat :=
  match calCount routine with
  | some n => if target < n then calHalf routine target else portHalf c.port
  | none => portHalf c.port

/-- CAL_RUN: it joins the sequencer of its target's half, or ends with the first check of R394 that fails. -/
def execCalRun (r : RingIx) (s : State) : Res :=
  .next (s.accept r 0x30 fun s c tag =>
    let routine := dField c.desc 8 1
    let target := dField c.desc 10 2
    let h := calHalf routine target
    match ((firstStatus (calRunChecks c.desc)).or (s.calCheck routine target (some c.part))).or
        (if s.farDown c h then some 0x14 else none) with
    | some st => s.calDone (calDoneHalf c routine target) tag st
    | none => s.modCal h fun x => { x with waiting := x.waiting ++ [⟨tag, routine, target⟩] })

/-- The checks of CAL_READ and CAL_WRITE. -/
def State.calReadChecks (s : State) (c : HostCmd) : Checks :=
  let d := c.desc
  let h := dField d 8 1
  [(!zeroBut d [(8, 1), (16, 8), (24, 4)], 0x06), (decide (2 ≤ h ∨ dField d 24 4 < (s.blob h c.part).length), 0x09), (s.noSect [0, 3], 0x16),
   (s.farDown c h, 0x14)]

def State.calWriteChecks (s : State) (c : HostCmd) : Checks :=
  let d := c.desc
  let h := dField d 8 1
  let n := dField d 24 4
  [(!zeroBut d [(8, 1), (16, 8), (24, 4)] || decide (n < 64 ∨ 3648 < n), 0x06), (decide (2 ≤ h), 0x09), (s.noSect [0, 3], 0x16),
   (s.farDown c h, 0x14)]

/-- CAL_READ. -/
def execCalRead (r : RingIx) (s : State) : Res :=
  .next (s.accept r 0x31 fun s c tag =>
    let h := dField c.desc 8 1
    s.checked tag 0 (s.calReadChecks c) fun s => s.cmdWrite c tag (dField c.desc 16 8) h (s.blob h c.part) 0x00)

/-- A CAL_WRITE that ends with CAL_IMPLAUSIBLE is counted, and raises CAL_FAIL (R399, R407, R410). -/
def State.calImplausible (s : State) (h tag k : Nat) : State :=
  ((s.count .CAL_IMPLAUSIBLE_COUNT h 0).occur h 0x110 { parts := [k] }).finish tag 0x0B 0

/-- CAL_WRITE reads its blob; once it has come it is checked and applied. -/
def execCalWrite (r : RingIx) (s : State) : Res :=
  .next (s.accept r 0x32 fun s c tag =>
    s.checked tag 0 (s.calWriteChecks c)
      fun s => s.source c tag (dField c.desc 16 8) (dField c.desc 24 4) (dField c.desc 8 1) 4 0)

def State.calLoaded (s : State) (c : HostCmd) (tag : Nat) : State :=
  let h := dField c.desc 8 1
  if c.short then s.finish tag 0x07 0
  else
    match s.blobCheck h c.part c.data with
    | some st => if st = 0x0B then s.calImplausible h tag c.part else s.finish tag st 0
    | none =>
      let m := leField c.data 12 4
      (s.forEach (blobRecords c.data m) fun s x => s.blobApply h x).calPost h { tag := tag, run := false, result := BitVec.ofNat 64 m }

end Sys2Proof.Machine
end

