-- ==== Sys2Proof/Machine/Starts.lean ====
section
/-!
DEFINITION. Commands of the host's rings that start, stop and attach: START_RUN, STOP_RUN, STRM_ATTACH, SWATCH_START, SWATCH_STOP,
TIME_ARM, TIME_STEP (R83 to R87, R94, R235, R252, R340, R341, R358, R417, R443 to R449, R541, R543, R544).
-/
namespace Sys2Proof.Machine

/-! ### The run descriptor (R448) -/

/-- A thread entry: its thread, HALT policy, NSUB, entry point, the 8 subscription words. -/
structure ThreadEntry where
  thread : Nat
  halt : Bool
  nsub : Nat
  entry : Nat
  subs : List Nat
deriving DecidableEq, Repr

/-- A resource entry. -/
structure ResEntry where
  thread : Nat
  kind : Nat
  first : Nat
  count : Nat
deriving DecidableEq, Repr

/-- A barrier entry. -/
structure BarEntry where
  barrier : Nat
  members : List Nat
deriving DecidableEq, Repr

/-- A run descriptor. -/
structure RunDesc where
  threads : List ThreadEntry
  resources : List ResEntry
  barriers : List BarEntry
  gap : Nat
  count : Nat
  recRing : Nat
deriving DecidableEq, Repr

/-- Entry i of n bytes from offset off. -/
def entryAt (b : List Byte) (off n i : Nat) : List Byte := slice b (off + n * i) n

def threadEntry (e : List Byte) : ThreadEntry :=
  { thread := leField e 0 2, halt := leField e 2 1 == 1, nsub := leField e 3 1, entry := leField e 4 4,
    subs := (List.range 8).map fun i => leField e (8 + 2 * i) 2 }

def resEntry (e : List Byte) : ResEntry := { thread := leField e 0 2, kind := leField e 2 1, first := leField e 4 2, count := leField e 6 2 }

def barEntry (e : List Byte) : BarEntry :=
  { barrier := leField e 0 1, members := (List.range 512).filter fun n => (leField e 8 64).testBit n }

/-- Offsets of the resource and barrier entries, and the length. -/
def resAt (b : List Byte) : Nat := 64 + 32 * leField b 0 2
def barAt (b : List Byte) : Nat := resAt b + 8 * leField b 2 2
def runLength (b : List Byte) : Nat := barAt b + 72 * leField b 4 1

/-- The descriptor that bytes spell. -/
def runDesc (b : List Byte) : RunDesc :=
  { threads := (List.range (leField b 0 2)).map fun i => threadEntry (entryAt b 64 32 i)
    resources := (List.range (leField b 2 2)).map fun i => resEntry (entryAt b (resAt b) 8 i)
    barriers := (List.range (leField b 4 1)).map fun i => barEntry (entryAt b (barAt b) 72 i)
    gap := leField b 6 2, count := leField b 8 8, recRing := leField b 16 4 }

/-- Whether no element occurs twice. -/
def noRepeats (l : List Nat) : Bool := l.eraseDups.length == l.length

/-- Whether the layout of a descriptor is malformed: its length, reserved bits, a thread or barrier listed twice, a resource or a
barrier member whose thread is not listed. -/
def runMalformed (b : List Byte) : Bool :=
  b.length != runLength b || leField b 5 1 != 0 || leField b 20 44 != 0 || decide (1048576 ≤ leField b 16 4) ||
  ((List.range (leField b 0 2)).any fun i =>
    let e := entryAt b 64 32 i
    let x := threadEntry e
    decide (512 ≤ x.thread ∨ 2 ≤ leField e 2 1 ∨ 1048576 ≤ x.entry) || leField e 24 8 != 0 ||
      (x.subs.any fun y => y % 32768 / 512 != 0) || (x.subs.drop x.nsub).any fun y => y != 0) ||
  ((List.range (leField b 2 2)).any fun i => leField (entryAt b (resAt b) 8 i) 3 1 != 0) ||
  ((List.range (leField b 4 1)).any fun i => leField (entryAt b (barAt b) 72 i) 1 7 != 0) ||
  (let d := runDesc b
   let ts := d.threads.map (·.thread)
   !noRepeats ts || !noRepeats (d.barriers.map (·.barrier)) || (d.resources.any fun x => !ts.contains x.thread) ||
     d.barriers.any fun x => !x.members.all fun t => ts.contains t)

/-- The number of resources of a KIND. -/
def kindCount (k : Nat) : Nat := match k with | 0 => 512 | 1 => 512 | 2 => 512 | 3 => 128 | _ => 16

/-- The subscriptions of a thread entry, each SRCK and SRC. -/
def ThreadEntry.sources (x : ThreadEntry) : List (Bool × Nat) := (x.subs.take x.nsub).map fun y => (decide (32768 ≤ y), y % 512)

/-- Whether a value of a descriptor is out of range. -/
def RunDesc.outOfRange (d : RunDesc) : Bool :=
  decide (d.threads.length = 0 ∨ 512 < d.threads.length ∨ 4096 < d.resources.length ∨ 64 < d.barriers.length) ||
  (d.threads.any fun x => decide (8 < x.nsub) || x.sources.any fun y => y.1 && decide (128 ≤ y.2)) ||
  (d.resources.any fun x => decide (4 < x.kind ∨ x.count = 0 ∨ kindCount x.kind < x.first + x.count)) ||
  d.barriers.any fun x => decide (64 ≤ x.barrier)

/-- The queues that a descriptor assigns, each with its thread, and the markers. -/
def RunDesc.queues (d : RunDesc) : List (Nat × Nat) :=
  d.resources.flatMap fun x => if x.kind = 4 then [] else (List.range x.count).map fun i => (512 * x.kind + x.first + i, x.thread)
def RunDesc.markers (d : RunDesc) : List (Nat × Nat) :=
  d.resources.flatMap fun x => if x.kind = 4 then (List.range x.count).map fun i => (x.first + i, x.thread) else []

/-- Whether something is assigned to two threads. -/
def twice (l : List (Nat × Nat)) : Bool := !noRepeats (l.eraseDups.map (·.1))

/-- Whether the descriptor names something that partition k does not own (R85, R252). -/
def State.runForeign (s : State) (k : Nat) (d : RunDesc) : Bool :=
  (d.threads.any fun x => s.ownThread x.thread != some k || x.sources.any fun y => s.ownSource y.1 y.2 != some k) ||
  (d.queues.any fun x => s.ownQueue x.1 != some k) || (d.markers.any fun x => s.ownMark x.1 != some k) ||
  (d.barriers.any fun x => s.ownBarrier x.barrier != some k) || !s.ringIn k d.recRing

/-- Whether a queue's resource is the target of a calibration routine, or a flux channel in a range change (R295, R395). -/
def State.queueInCal (s : State) (q : Nat) : Bool :=
  match qKind q with
  | .chan => s.calOn (qHalf q) 3 (qIdx q / 32) || s.calOn (qHalf q) 4 (qIdx q / 32)
  | .flux => s.fluxChanging (qIdx q)
  | _ => s.calDac (qHalf q) (qDac q)

/-- The lowest free run number. -/
def State.freeRunNo (s : State) : Option Nat := (List.range 64).find? fun r => !(s.runOf r).active

/-- Whether SYNC_CTL.ARM is 1 (R67). -/
def State.syncArmed (s : State) : Bool := bit (s.reg .SYNC_CTL 0) 0

/-- Whether a START_RUN must be refused with BUSY (R67, R83, R84, R94, R295, R395). -/
def State.runBusy (s : State) (d : RunDesc) : Bool :=
  s.syncArmed || s.freeRunNo.isNone ||
  (d.threads.any fun x => s.activeRuns.any fun r => (s.runOf r).threads.contains x.thread) ||
  (d.queues.any fun x => s.inRun x.1 || s.queueInCal x.1) || twice d.queues ||
  (d.markers.any fun x => (s.marker x.1).owner.isSome) || twice d.markers ||
  d.barriers.any fun x => (s.barrier x.barrier).run.isSome

/-- The halves of what a descriptor names. -/
def RunDesc.halves (d : RunDesc) : List Nat :=
  let threads : List Nat := d.threads.flatMap fun x => thrHalf x.thread :: x.sources.map fun y => if y.1 then y.2 / 64 else y.2 / 256
  let queues : List Nat := d.queues.map fun x => qHalf x.1
  let markers : List Nat := d.markers.map fun x => x.1 / 8
  (threads ++ queues ++ markers).eraseDups

/-! ### START_RUN (R83 to R87, R94, R235, R252, R417, R448) -/

/-- The subscription word of a thread's entry (R252). -/
def subWord (y : Bool × Nat) : Word := bitW true 31 ||| bitW y.1 30 ||| BitVec.ofNat 32 y.2

/-- A run is set up in state ARMED as number r. -/
def State.setRun (s : State) (r : Nat) (c : HostCmd) (tag : Nat) (d : RunDesc) (mode : StartMode) : State :=
  let s := s.forEach d.threads fun s x =>
    let s := s.forEach (List.range 8) fun s i =>
      s.setReg .THR_SUB (thrHalf x.thread) (x.thread % 256) i (match x.sources[i]? with | some y => subWord y | none => 0)
    s.modThread x.thread fun _ => { run := r, entry := x.entry, pc := x.entry, st := .stalled, stall := .runStart }
  let s := s.forEach d.queues fun s x => s.modQueue x.1 fun q => { pat := q.pat, owner := some (x.2, r) }
  let s := s.forEach (d.queues.filter fun x => qKind x.1 == .chan && bit (s.reg .CH_CTL (qIdx x.1 / 256) (qIdx x.1 % 256)) 1) fun s x =>
    s.clearAvg (qIdx x.1)
  let s := s.forEach d.markers fun s x => s.modMarker x.1 fun m => { m with owner := some (x.2, r) }
  let s := s.forEach d.barriers fun s x => s.modBarrier x.barrier fun _ => { run := some r, members := x.members }
  s.modRun r fun _ =>
    { st := .armed, owner := c.part, port := c.port, ring := c.ring, user := c.user, tag := tag, threads := d.threads.map (·.thread),
      recRing := d.recRing, gap := d.gap, count := d.count, mode := mode,
      policy := (d.threads.filter (·.halt)).map (·.thread), seq := c.seq }

/-- RESULT of a START_RUN that is refused. -/
def refusedResult : Word64 := 0xFF00000000000000

/-- The longest descriptor that a header can spell. -/
def longestRun : Nat := 64 + 32 * 65535 + 8 * 65535 + 72 * 255

/-- The check of a START_RUN's own descriptor, before it reads the run's. -/
def startChecks (d : BitVec 512) : Checks :=
  [(!zeroBut d [(8, 1), (10, 2), (16, 8), (24, 4), (32, 6), (40, 4)] ||
     decide (1024 ≤ dField d 10 2 ∨ dField d 24 4 < 64 ∨ longestRun < dField d 24 4), 0x06)]

/-- The checks of a START_RUN once the run descriptor is read. -/
def State.runChecks (s : State) (c : HostCmd) : Checks :=
  let d := c.desc
  let mode := dField d 8 1
  let x := runDesc c.data
  [(c.short, 0x07),
   (runMalformed c.data, 0x06),
   (decide (3 ≤ mode) || (mode == 1 && decide (1000000000 ≤ dField d 40 4)) || x.outOfRange, 0x09),
   (s.runForeign c.part x || (mode == 2 && s.ownEvent (dField d 10 2) != some c.part), 0x08),
   (s.noSect [0, 2], 0x16),
   ((portHalf c.port :: x.halves).any s.isQuiet, 0x11),
   (s.runBusy x, 0x0A),
   (x.halves.any fun h => s.farDown c h, 0x14)]

/-- The checks of a start at network time, `rows` ahead, of which `lead` are needed. -/
def State.ntChecks (s : State) (rows lead : Nat) (late : BitVec 8) : Checks :=
  [(s.ntRefusal.isSome, s.ntRefusal.getD 0), (decide (2 ^ 41 < rows), 0x09), (decide (rows < lead), late)]

/-- The RUN_START input of run r is to select a channel (R417); a SAFETY channel of H1 feeds no input of H0, and the write is ignored and
counted (R414; log 81). -/
def State.selectStart (s : State) (r ch : Nat) : State :=
  if s.ecClass ch = 2 ∧ ch / 512 = 1 then s.evrIgnored 0
  else s.setReg .TASK_SEL 0 r 0 (bitW true 31 ||| BitVec.ofNat 32 ch)

/-- START_RUN reads its run descriptor (R448). -/
def execStartRun (r : RingIx) (s : State) : Res :=
  .next (s.accept r 0x20 fun s c tag =>
    s.checked tag refusedResult (startChecks c.desc)
      fun s => s.source c tag (dField c.desc 16 8) (dField c.desc 24 4) (portHalf c.port) 3 refusedResult)

/-- A START_RUN's run descriptor has come (R448): the run is accepted, with the lowest free run number, or refused. -/
def State.startLoaded (s : State) (c : HostCmd) (tag : Nat) : State :=
  let d := c.desc
  let x := runDesc c.data
  s.checked tag refusedResult (s.runChecks c)
    fun s =>
      let no := s.freeRunNo.getD 0
      let lead := s.startLead (x.threads.map (·.thread))
      match dField d 8 1 with
      | 0 => (s.setRun no c tag x .immediate).fixT0 no (leadTime (s.now 0) lead)
      | 1 =>
        let rows := s.ntRows 0 (ntTime (dField d 32 6) (dField d 40 4) 0)
        s.checked tag refusedResult (s.ntChecks rows lead 0x0F)
          fun s => (s.setRun no c tag x .networkTime).fixT0 no (32 * (s.row 0 + rows))
      | _ => (s.setRun no c tag x .onEvent).selectStart no (dField d 10 2)

/-! ### STOP_RUN (R112, R113, R449) -/

/-- The run that a STOP_RUN names: of the partition's active runs started with that USER_ID, the most recent. -/
def State.runByUser (s : State) (k : Nat) (user : Word) : Option Nat :=
  ((s.run.filter fun e => e.2.active && e.2.owner == k && e.2.user == user).foldl
    (fun (a : Option (Nat × Run)) e => match a with | some b => if b.2.seq < e.2.seq then some e else a | none => some e) none).map (·.1)

/-- The checks of STOP_RUN. -/
def State.stopChecks (s : State) (c : HostCmd) : Checks := [(!zeroBut c.desc [(8, 4)], 0x06), (s.noSect [0], 0x16)]

/-- STOP_RUN. -/
def execStopRun (r : RingIx) (s : State) : Res :=
  .next (s.accept r 0x21 fun s c tag =>
    s.checked tag 0 (s.stopChecks c) fun s =>
      match s.runByUser c.part (BitVec.ofNat 32 (dField c.desc 8 4)) with
      | some u => if s.committed u then s.finish tag 0x01 0 else (s.stopRun u 0x02 false).finish tag 0 0
      | none => s.finish tag 0x01 0)

/-! ### STRM_ATTACH (R168 to R170, R447) -/

/-- Whether a queue's resource is in a run that refuses STRM_ATTACH. -/
def State.attachBusy (s : State) (q : Nat) : Bool :=
  (s.queue q).pat || s.streaming q || (s.runOfQueue q).any fun r => (s.runOf r).st == .running || (s.runOf r).st == .stopping ||
    (s.runOf r).st == .committed

/-- The queue that a STRM_ATTACH names. -/
def attachQ (d : BitVec 512) : Nat :=
  let kind := dField d 8 1 % 4
  if kind = 2 then 1536 + dField d 10 2 else kindQ (kind == 1) (dField d 10 2)

/-- Whether it detaches. -/
def detaches (d : BitVec 512) : Bool := dField d 8 1 / 4 % 2 == 1

/-- The checks of STRM_ATTACH. -/
def State.attachChecks (s : State) (c : HostCmd) : Checks :=
  let d := c.desc
  let kind := dField d 8 1 % 4
  let det := detaches d
  let res := dField d 10 2
  let sz := dField d 12 1
  let stage := dField d 16 2
  let ring := dField d 20 4
  let named := decide (kind < 3 ∧ res < (if kind = 2 then 128 else 512))
  let q := attachQ d
  let h := qHalf q
  let area := 4096 * stage
  let size := 4096 * 2 ^ sz
  [(!zeroBut d [(8, 1), (9, 1), (10, 2), (12, 1), (16, 2), (20, 4)] || decide (8 ≤ dField d 8 1 ∨ 2 ≤ dField d 9 1), 0x06),
   (!named || (det && decide (sz ≠ 0 ∨ stage ≠ 0 ∨ ring ≠ 0)) ||
     (!det && (decide (8 < sz ∨ 1048576 ≤ ring) || decide (stage % 2 ^ sz ≠ 0) || decide (12288 < stage + 2 ^ sz) ||
       s.strm.any fun e => e.1 != q && qHalf e.1 == h &&
         (match e.2 with | some y => stagesMeet area size y.stage y.size | none => false))), 0x09),
   (s.ownQueue q != some c.part ||
     (!det && (!s.ringIn c.part ring || !pagesOwned (s.ownWavePage h) c.part 65536 768 area (area + size))), 0x08),
   (s.noSect [0], 0x16),
   ([portHalf c.port, h].any s.isQuiet, 0x11),
   (s.attachBusy q, 0x0A),
   (s.farDown c h, 0x14)]

/-- STRM_ATTACH. -/
def execStrmAttach (r : RingIx) (s : State) : Res :=
  .next (s.accept r 0x22 fun s c tag =>
    let d := c.desc
    let q := attachQ d
    s.checked tag 0 (s.attachChecks c)
      fun s =>
        let s := s.dropReads q
        if detaches d then (s.setStream q none).finish tag 0 0
        else
          let s := s.setStream q (some { ring := dField d 20 4, stage := 4096 * dField d 16 2, size := 4096 * 2 ^ dField d 12 1, ready := true })
          if dField d 9 1 = 1 then s.modCmd tag fun x => { x with prefill := some q } else s.finish tag 0 0)

/-! ### SWATCH_START and SWATCH_STOP (R340, R341, R358, R395, R520) -/

/-- Whether an engine's source, the signals it records or its ring are not partition k's. -/
def State.swatchForeign (s : State) (k e ring : Nat) : Bool :=
  s.ownEngine e != some k || !s.ringIn k ring ||
  match s.capSrc e with
  | 0 => s.ownPair (s.capChan e / 32) != some k
  | 1 => k != 4
  | _ => (List.range 64).any fun j => match s.recOwner (e / 2) (s.recSel e j) with | some o => o != some k | none => false

/-- Whether a register of an engine holds a value marked invalid, or its SKEIN differs from its ring's. -/
def State.swatchInvalid (s : State) (e ring : Nat) : Bool :=
  let v := s.capReg .CAP_CTL e
  s.capSrc e == 3 || decide (12 < bits v 19 16) || bit v 29 != (s.ring ring).skein

/-- Whether an engine's input is under a calibration routine (R395). -/
def State.swatchCal (s : State) (e : Nat) : Bool :=
  s.capSrc e == 0 && (s.calOn (e / 2) 3 (s.capChan e / 32) || s.calOn (e / 2) 4 (s.capChan e / 32))

/-- The checks of SWATCH_START. -/
def State.swatchChecks (s : State) (c : HostCmd) : Checks :=
  let d := c.desc
  let e := dField d 8 1
  let mode := dField d 9 1
  let ring := dField d 32 4
  [(!zeroBut d [(8, 1), (9, 1), (16, 6), (24, 4), (32, 4)], 0x06),
   (decide (4 ≤ e ∨ 3 ≤ mode ∨ (mode = 1 ∧ 1000000000 ≤ dField d 24 4) ∨ 1048576 ≤ ring) || s.swatchInvalid e ring, 0x09),
   (s.swatchForeign c.part e ring, 0x08),
   (s.noSect [0], 0x16),
   ((s.cap e).st != .free || s.syncArmed || s.swatchCal e, 0x0A),
   (s.farDown c (e / 2), 0x14)]

/-- An engine is ARMED by command tag (R340). -/
def State.swatchArm (s : State) (d : BitVec 512) (tag : Nat) (ks : Option Nat) : State :=
  s.modCap (dField d 8 1) fun x =>
    { st := .armed, ring := dField d 32 4, startTag := some tag, mode := dField d 9 1, ks := ks, buf := x.buf }

/-- SWATCH_START. -/
def execSwatchStart (r : RingIx) (s : State) : Res :=
  .next (s.accept r 0x28 fun s c tag =>
    let d := c.desc
    let h := dField d 8 1 / 2
    s.checked tag 0 (s.swatchChecks c)
      fun s =>
        match dField d 9 1 with
        | 0 => s.swatchArm d tag (some (leadTime (s.now h) 64 / 32))
        | 1 =>
          let rows := s.ntRows h (ntTime (dField d 16 6) (dField d 24 4) 0)
          s.checked tag 0 (s.ntChecks rows 64 0x09) fun s => s.swatchArm d tag (some (s.row h + rows))
        | _ => s.swatchArm d tag none)

/-- A SWATCH_STOP of an ARMED engine (R358): a START and an END mark at INDEX 0, and the engine is FREE; both commands complete. -/
def State.swatchCancel (s : State) (e tag : Nat) : State :=
  let c := s.cap e
  let k := c.ks.getD (s.row (e / 2))
  let s := (s.capPut e (startEntry e k)).capPut e (markEntry e 3 0 0 0 0 0 (32 * k) 0 {} 0)
  let s := match c.startTag with | some g => s.finish g 0 0 | none => s
  let s := (s.finish tag 0 0).modCap e fun c => { ({} : CapEng) with buf := c.buf }
  s.fireProducer (e / 2) (0x42 + e % 2) 0 (s.row (e / 2))

/-- The checks of SWATCH_STOP. -/
def State.swatchStopChecks (s : State) (c : HostCmd) : Checks :=
  let d := c.desc
  let e := dField d 8 1
  [(!zeroBut d [(8, 1)], 0x06), (decide (4 ≤ e), 0x09), (s.ownEngine e != some c.part, 0x08), (s.noSect [0], 0x16),
   (s.farDown c (e / 2), 0x14)]

/-- SWATCH_STOP. -/
def execSwatchStop (r : RingIx) (s : State) : Res :=
  .next (s.accept r 0x29 fun s c tag =>
    let e := dField c.desc 8 1
    s.checked tag 0 (s.swatchStopChecks c)
      fun s =>
        match (s.cap e).st with
        | .free => s.finish tag 0x01 0
        | .armed => s.swatchCancel e tag
        | .opened => s.capStop e 0 (some tag)
        | .closing => s.modCap e fun x => { x with stopTags := x.stopTags ++ [tag] })

/-! ### TIME_ARM and TIME_STEP (R67, R537, R541, R543, R544) -/

/-- The arm that a TIME_ARM names, and the rows to its time. -/
def armIx (d : BitVec 512) : Nat := if dField d 8 1 = 0 then dField d 10 1 else 4
def State.armRows (s : State) (d : BitVec 512) : Nat := s.ntRows (dField d 9 1) (ntTime (dField d 16 6) (dField d 24 4) (dField d 28 2))

/-- The checks of TIME_ARM. -/
def State.timeArmChecks (s : State) (c : HostCmd) : Checks :=
  let d := c.desc
  let h := dField d 9 1
  [(!zeroBut d [(8, 1), (9, 1), (10, 1), (16, 6), (24, 4), (28, 2)], 0x06),
   (decide (2 ≤ dField d 8 1 ∨ 2 ≤ h ∨ 4 ≤ dField d 10 1 ∨ 1000000000 ≤ dField d 24 4), 0x09),
   (c.part != 4, 0x08),
   (s.noSect [0], 0x16),
   (s.syncArmed || bit (s.reg .TRIG_STATE h (armIx d)) 31, 0x0A),
   (s.farDown c h, 0x14)] ++ s.ntChecks (s.armRows d) 64 0x09

/-- TIME_ARM. -/
def execTimeArm (r : RingIx) (s : State) : Res :=
  .next (s.accept r 0x48 fun s c tag =>
    let h := dField c.desc 9 1
    let a := armIx c.desc
    let rows := s.armRows c.desc
    s.checked tag 0 (s.timeArmChecks c)
      fun s => ((s.regBit .TRIG_STATE h a 31 true).setPair .TRIG_ST_LO .TRIG_ST_HI h a (32 * (s.row h + rows))).finish tag 0 0)

/-- The checks of TIME_STEP. -/
def State.timeStepChecks (s : State) (c : HostCmd) : Checks :=
  let d := c.desc
  [(!zeroBut d [(16, 8), (24, 2)], 0x06), (c.part != 4, 0x08), (s.noSect [0], 0x16), (s.anyArmed, 0x0A),
   (s.farDown c (1 - portHalf c.port), 0x14)]

/-- The step that it names. -/
def stepOf (d : BitVec 512) : Int :=
  (BitVec.ofNat 64 (dField d 16 8)).toInt * ntNs + (BitVec.ofNat 16 (dField d 24 2)).toInt * 5242880

/-- TIME_STEP: both counters step at the next row boundary; the servo is ACQUIRING and STEPPED. -/
def execTimeStep (r : RingIx) (s : State) : Res :=
  .next (s.accept r 0x49 fun s c tag =>
    s.checked tag 0 (s.timeStepChecks c)
      fun s =>
        let s := s.forEach [0, 1] fun s h => s.ntQueue h { t := s.nextBoundary h, step := stepOf c.desc }
        (s.modServo fun v => { v with st := if v.st = 0 then 0 else 2, stepped := true, near := 0 }).finish tag 0 0)

end Sys2Proof.Machine
end

