-- ==== Sys2Proof/Machine/Landed.lean ====
section
/-!
DEFINITION. Where the data of host reads goes, on the half whose port read it and over the die link, and the DMA_HDR and DMA_DATA flits
that carry host-memory traffic between the halves (R35, R436, R440, R443, R456, R458, R459, R558).
-/
namespace Sys2Proof.Machine

/-! ### What a read's data does -/

/-- A command's data has all come: it does what it read the data for. -/
def State.resume (s : State) (tag : Nat) : State :=
  match mget none s.cmds tag with
  | some c =>
    let s := s.modCmd tag fun c => { c with reading := false, data := [] }
    match c.op with
    | 0x10 | 0x11 | 0x12 => s.loaded c tag
    | 0x13 => s.tableLoaded c tag
    | 0x14 => s.segtabLoaded c tag
    | 0x20 => s.startLoaded c tag
    | 0x32 => s.calLoaded c tag
    | 0x38 | 0x39 => s.cmpLoaded c tag
    | 0x40 => s.batchLoaded c tag
    | _ => s
  | none => s

/-- Data of a command has come. -/
def State.dataIn (s : State) (tag : Nat) (data : List Byte) : State :=
  let s := s.modCmd tag fun c => if c.reading then { c with data := c.data ++ data } else c
  let reading := match mget none s.cmds tag with | some c => c.reading | none => false
  if reading && !s.accessWaits (fun q => q.why == .data tag) then s.resume tag else s

/-- Data of a stream has come: it is staged, or with SKEIN = 1 waits for the engine (R108, R522). -/
def State.streamIn (s : State) (q pos : Nat) (data : List Byte) : State :=
  match s.stream q with
  | none => s
  | some y =>
    if (s.ring y.ring).skein then
      (((s.setStream q (some { y with raw := y.raw ++ data })).advance y.ring (data.length / 64))).cmpPick (qHalf q)
    else (s.stageWrite q y pos data).streamTo q (pos + data.length / 4)

/-- The data that a read of port p was made for is there. -/
def State.landed (s : State) (p : Nat) (q : DmaReq) (data : List Byte) : State :=
  match q.why with
  | .desc r => s.descIn r data
  | .context r => s.contextIn p q.part r data
  | .data tag => s.dataIn tag data
  | .line => s.lineIn p data
  | .words j => s.readWords p j data
  | .stream k pos => s.streamIn k pos data
  | _ => s

/-- DMA_READ_COMPLETION: a read's data arrives, the reads of one source in their order (log 23); data for a resource of the other half
crosses the die link (R35); before READY it is the image's (R459, R492). -/
def execDmaReadCompletion (p : Port) (id : Nat) (data : HostRead) (s : State) : Res :=
  .next (if s.boot.st = .verify then s.bootRead p id data
    else
      match (s.port p).reads.find? fun e => e.1 == id with
      | none => s
      | some e =>
        let len := match e.2.act with | .read _ n => n | _ => 0
        let first := e.2.why == .none || ((s.port p).reads.find? fun f => f.2.src == e.2.src && f.2.why != .none) == some e
        if data.length ≠ len ∨ !first then s
        else
          let s := s.modPort p fun x => { x with reads := x.reads.erase e }
          if e.2.half = portHalf p then s.landed p e.2 data
          else if s.linkUp then s.send (portHalf p) (.dma (.response p e.2 data))
          else s.forwardLost (.response p e.2 data))

/-! ### DMA_HDR and DMA_DATA (R35, R558) -/

/-- The fields of a DMA_HDR flit for a message: address, bytes, port, write, response; and the data that follows it. -/
def Forward.header (x : Forward) : Nat × Nat × Nat × Bool × Bool :=
  match x with
  | .access p q =>
    (match q.act with
    | .write a bs => (a, bs.length, p, true, false)
    | .read a n => (a, n, p, false, false)
    | .msix _ => (0, 0, p, false, false))
  | .response p q bs => (match q.act with | .read a _ => a | _ => 0, bs.length, p, false, true)
  | .record p a _ w => (a, w.bytes.length, p, true, false)
def Forward.data (x : Forward) : List Byte :=
  match x with
  | .access _ q => (match q.act with | .write _ bs => bs | _ => [])
  | .response _ _ bs => bs
  | .record _ _ _ w => w.bytes

/-- What a half does with forwarded traffic once it has it whole: an access joins those of the port, data is there, a record goes into
its ring. -/
def State.forwardIn (s : State) (x : Forward) : State :=
  match x with
  | .access p q => s.modPort p fun y => { y with reqs := y.reqs ++ [q] }
  | .response p q bs => s.landed p q bs
  | .record _ _ r w => s.recordIn r w

/-- DMA_HDR: the header of the far half's next forwarded access; without data it is whole (R35, R558).  The tag that it carries is the
halves' own. -/
def execDmaHdr (h : Half) (flit : BitVec 272) (s : State) : Res :=
  .next (s.flitIn h flit (fun b => bits b 15 12 == 5) fun s b =>
    s.sequenced h b fun s =>
      match (s.dlkOf (far h)).msgs.find? DlkMsg.isDma with
      | some (.dma x) =>
        let spells := (payload b 63 0, payload b 76 64, payload b 78 77, payload b 79 79 == 1, payload b 80 80 == 1) == x.header
        if !spells ∨ (s.dlkOf h).dataFlits ≠ 0 then none
        else if x.data.isEmpty then (s.takeMsg (far h) DlkMsg.isDma (.dma x)).map fun s => s.forwardIn x
        else some (s.modDlk h fun d => { d with dataFlits := (x.data.length + 29) / 30 })
      | _ => none)

/-- DMA_DATA: the next 30 bytes of the access in progress; with the last of them it is whole (R558). -/
def execDmaData (h : Half) (flit : BitVec 272) (s : State) : Res :=
  .next (s.flitIn h flit (fun b => bits b 15 12 == 6) fun s b =>
    s.sequenced h b fun s =>
      match (s.dlkOf (far h)).msgs.find? DlkMsg.isDma with
      | some (.dma x) =>
        let left := (s.dlkOf h).dataFlits
        let done := (x.data.length + 29) / 30 - left
        if left = 0 ∨ payload b 239 0 ≠ leField (slice x.data (30 * done) 30) 0 30 then none
        else
          let s := s.modDlk h fun d => { d with dataFlits := left - 1 }
          if left = 1 then (s.takeMsg (far h) DlkMsg.isDma (.dma x)).map fun s => s.forwardIn x else some s
      | _ => none)

end Sys2Proof.Machine
end

