-- ==== Sys2Proof/WellFormed.lean ====
section
/-!
DEFINITION. The commands that can occur: what the operand types of Instr do not already say.
-/
namespace Sys2Proof

/-- A queue of a flux channel is numbered 0 to 127 (R37). -/
def QId.wf (q : QId) : Bool := match q.kind with
  | .flux => decide (q.idx.val < 128)
  | _ => true

/-- A row of an input is 32 codes (R50, R211). -/
def RowInput.wf (b : RowInput) : Bool := b.adc.all fun e => e.2.length == 32

/-- An event that the part can meet. -/
def Instr.wf (i : Instr) : Bool :=
  match i with
  | .queueRelease q => q.wf
  | .timedCommandApply q _ => q.wf
  | .patternSegmentEnd q _ _ => q.wf
  | .patternJumpRequest q _ => q.wf
  | .streamDeadline q => q.wf
  | .rowBoundary b => b.wf
  | _ => true

end Sys2Proof
end

