-- ==== Sys2Proof/Machine/Row.lean ====
section
/-!
DEFINITION. The row boundary: the row just finished leaves the balls and enters the inputs, the counters advance, and what was to
take effect at the boundary does (R27, R51, R209 to R213, R534, R583, R628).
-/
namespace Sys2Proof.Machine

/-! ### What acts in the row

What is exact to the row has its own event, and takes place at the end of its row if that event has not come before (log 93): a check
reports no error then. -/

/-- What the queues of a half have due in the row: the takes of R62, the effects of R29, the player's work of R102, and the
streamed samples of R108. -/
def State.finishQueues (s : State) (h : Nat) : State :=
  let mine := (s.que.map (·.1)).filter fun q => qHalf q == h
  let s := s.forEach mine fun s q => s.forEach (s.queue q).cmds fun s _ => s.takeFront q
  let s := s.forEach (s.released.filter fun x => qHalf x.q == h) fun s x => s.actFront x.q .ok
  let s := s.forEach mine fun s q => s.forEach (List.range 32) fun s _ => s.patternStep q .ok .ok
  s.forEach (s.pulses.filter fun p => qHalf p.q == h) fun s p => s.deadline p.q

/-- What is due in the row in a half's own time: runs, waits, windows, markers, ramps, updates and arms of network time, swatches. -/
def State.finishRow (s : State) (h : Nat) : State :=
  let mine := (s.thr.map (·.1)).filter fun t => thrHalf t == h
  let s := s.quietExit
  let s := if h = 0 then s.forEach (List.range 64) fun s r => s.reachT0 r else s
  let s := s.forEach mine fun s t => (s.dueDefault t).evTimeout t
  let s := s.finishQueues h
  let s := s.forEach (List.range 8) fun s m => s.endPulse (8 * h + m)
  let s := s.forEach (List.range 64) fun s c => (s.rampEnd (64 * h + c)).rangeUp (64 * h + c)
  let s := s.forEach (s.wins.filter fun w => w.ch / 256 == h) fun s w => s.windowOver w.ch .ok
  let s := s.forEach (mget [] s.ntUpd h) fun s _ => s.ntApply h
  let s := s.forEach (List.range 5) fun s a => s.armFire h a
  let s := s.forEach [2 * h, 2 * h + 1] fun s e => s.capOpen e
  s.calStep h

/-! ### The row just finished -/

/-- The codes that the boundary's event brings for an input. -/
def rowCodes (b : RowInput) (i : Nat) : Option (List (BitVec 12)) := (b.adc.find? fun e => e.1.val == i).map (·.2)

/-- What a half's row does at its outputs: its DACs, its flux outputs and its strobes. -/
def State.playRow (s : State) (h row : Nat) : State :=
  let s := s.forEach (List.range 24) fun s k => s.playDac h k row
  let s := s.forEach (List.range 64) fun s c => s.playFlux (64 * h + c) row
  s.countStrobes h row

/-- What a half's row does at its inputs: their codes, the windows that span it, the capture engines. -/
def State.takeRow (s : State) (b : RowInput) (h row : Nat) : State :=
  let s := s.forEach (List.range 8) fun s i => s.readRow (8 * h + i) row (rowCodes b (8 * h + i))
  let s := s.markWindows h row
  s.forEach [2 * h, 2 * h + 1] fun s e => s.capRow e row

/-! ### The boundary -/

/-- The counters of a half advance: sample time by 32 (R51), network time by I (R534). -/
def State.tickCounters (s : State) (h : Nat) : State :=
  let s := if h = 0 then { s with c0 := s.c0 + 32 } else { s with c1 := s.c1 + 32 }
  s.ntAdd h (s.ntRate h)

/-- What was to take effect at the boundary that a half has reached. -/
def State.settleRow (s : State) (h : Nat) : State :=
  let s := s.forEach (List.range 8) fun s m => s.settleMarker (8 * h + m)
  let s := s.forEach (List.range 24) fun s k => s.settleSwitch h k
  let s := s.forEach (List.range 64) fun s c => s.fluxEdge (64 * h + c) (s.now h)
  let s := s.forEach (List.range 8) fun s i => s.settleInput (8 * h + i)
  let s := (s.settleCap h).settleAux h
  (((s.settleTrims h).forceDue h).govRow h).modQuiet h fun q => { q with drop := false }

/-- A half places a row boundary `part` samples into the row in progress, with its counter at v (R65): a row in progress ends there, and
what was due at its end is due at the boundary placed (log 20). -/
def State.placeRow (s : State) (h part v : Nat) : State :=
  let s := s.ntAdd h ((s.ntRate h * (part / 8) / 4 : Nat) : Int)
  if part = 0 then s.reclock h (s.now h) v else (s.reclock h (s.now h + 32) v).settleRow h

/-- SYNC_INSTANT (R65): both halves place a row boundary and load SYNC_LOAD; SYNC_PREV takes the value that the counter would have held.
The network-time counters have counted to the instant. -/
def execSyncInstant (s : State) : Res :=
  .next (match s.syncAt with
    | some t =>
      if t < s.now 0 + 32 then
        let v := s.pair .SYNC_LOAD_LO .SYNC_LOAD_HI 0 0 / 32 * 32
        let part := t - s.now 0
        let s := s.setPair .SYNC_PREV_LO .SYNC_PREV_HI 0 0 (t / 32 * 32)
        let s := { (s.setReg .SYNC_CTL 0 0 0 0).regBit .SYNC_STATUS 0 0 1 true with syncAt := none }
        (s.placeRow 0 part v).placeRow 1 part v
      else s
    | none => s)

/-! ### What nothing needs any more (the model's own housekeeping) -/

/-- The last entry that took effect by `t`, and those after it. -/
def fromLast {α : Type} (at_ : α → Nat) (t : Nat) : List α → List α
  | a :: b :: l => if at_ b ≤ t then fromLast at_ t (b :: l) else a :: b :: l
  | l => l

/-- Pulses that have passed the ball, samples and oscillator and register values that no row, window or swatch can need, go. -/
def State.pruneRow (s : State) (h row : Nat) : State :=
  let now := s.now h
  let keep (p : Pulse) : Bool := qHalf p.q != h || decide (now < match p.cut with | some c => min c p.stop | none => p.stop)
  let oldest (q : Nat) : Nat := s.wins.foldl (fun m w => if 1024 + w.ch = q then min m w.t else m) now - 256
  let s := { s with
    pulses := s.pulses.filter keep
    osc := mmap [] (fun q (l : List Osc) => if qHalf q = h then fromLast Osc.t (oldest q) l else l) s.osc
    delays := mmap [] (fun k (l : List (Nat × Word)) => if k / 256 / 2048 % 2 = h then fromLast Prod.fst (row + 1) l else l) s.delays }
  s.forEach (List.range 8) fun s i => s.pruneAdc (8 * h + i) row

/-- A row of one half ends. -/
def State.endRow (s : State) (b : RowInput) (h : Nat) : State :=
  let s := s.finishRow h
  let row := s.row h
  let s := ((s.playRow h row).takeRow b h row).bgRow h row
  let s := (s.tickCounters h).settleRow h
  s.pruneRow h row

/-- Whether the halves' counters are kept equal (R27, R71). -/
def State.aligned (s : State) : Bool := bit (s.reg .CLK_STATUS 0) 2 && bit (s.reg .CLK_STATUS 1) 2

/-- ROW_BOUNDARY (R51): the row of both halves ends; or of one alone, while their counters are not kept aligned (R27, R71).  Before the
counters start nothing happens (R52). -/
def execRowBoundary (b : RowInput) (s : State) : Res :=
  if !b.wf then .fault .illFormed
  else if !s.boot.started then .next s
  else
    .next (match b.only with
      | some h => if s.aligned then s else ((s.endRow b h).settleFaultN).reassertFaultN
      | none => (((s.endRow b 0).endRow b 1).settleFaultN).reassertFaultN)

end Sys2Proof.Machine
end

