-- ==== Sys2Proof/Machine/Spdm.lean ====
section
/-!
DEFINITION. The DOE mailbox of a port: discovery, the SPDM 1.2 subset, sessions, measurements and the attestation report, IDE keys and
streams (R467 to R471, R479 to R481, R484).  The layouts of data objects, SPDM messages and IDE_KM messages are those of the PCI-SIG
and DMTF standards that R469 and R479 name (PRESUMED, log 15).
-/
namespace Sys2Proof.Machine

/-! ### Data objects (R469) -/

/-- The type and content of a data object of vendor 0x0001: a header of two words, of at most 256 KiB in all. -/
def objectParts (m : List Byte) : Option (Nat × List Byte) :=
  if m.length < 8 ∨ 262144 < m.length ∨ m.length ≠ 4 * leField m 4 4 ∨ leField m 0 2 ≠ 1 then none else some (leField m 2 1, m.drop 8)

/-- A data object of a type. -/
def objectOf (typ : Nat) (body : List Byte) : List Byte :=
  let b := body ++ List.replicate (roundUp body.length 4 - body.length) 0
  leBytes 2 1 ++ leBytes 1 typ ++ leBytes 1 0 ++ leBytes 4 (2 + b.length / 4) ++ b

/-- Whether the responder runs (R470): from the end of SELFTEST on, over a port whose link is up. -/
def State.responds (s : State) (p : Nat) : Bool :=
  (s.port p).link && s.boot.st != .cold && s.boot.st != .selftest && s.boot.st != .failed

/-- DOE_DISCOVERY: the three protocols, by index. -/
def execDoeDiscovery (p : Port) (msg : List Byte) (s : State) : Res :=
  .next (match objectParts msg with
    | some (0, b) =>
      let i := leField b 0 1
      let rsp := if i < 3 then leBytes 2 1 ++ leBytes 1 i ++ leBytes 1 ((i + 1) % 3) else leBytes 2 0xFFFF ++ leBytes 2 0
      if s.responds p then s.emit (.object p (objectOf 0 rsp)) else s
    | _ => s)

/-! ### Requests and responses -/

def State.spdmOf (s : State) (p : Nat) : Spdm := mget {} s.spdm p
def State.modSpdm (s : State) (p : Nat) (f : Spdm → Spdm) : State := { s with spdm := mmod {} s.spdm p f }

/-- Change a session of a port. -/
def State.modSession (s : State) (p id : Nat) (f : Session → Session) : State :=
  s.modSpdm p fun x => { x with sessions := x.sessions.map fun y => if y.id = id then f y else y }

/-- A message: version, code, two parameters, the rest. -/
def spdmMsg (ver code p1 p2 : Nat) (rest : List Byte) : List Byte := leBytes 1 ver ++ leBytes 1 code ++ leBytes 1 p1 ++ leBytes 1 p2 ++ rest

/-- An ERROR response. -/
def spdmError (code data : Nat) : List Byte := spdmMsg 0x12 0x7F code data []

/-- The key of a session's direction in its present generation. -/
def Session.key (y : Session) (req : Bool) : List Byte :=
  Config.spdmKey y.secret y.transcript req (if req then y.reqGen else y.rspGen)

/-- The request that a data object carries, with the session over which it comes. -/
def State.requestIn (s : State) (p : Nat) (msg : List Byte) : Option (List Byte × Option Session) :=
  match objectParts msg with
  | some (1, b) => some (b, none)
  | some (2, b) =>
    (s.spdmOf p).sessions.findSome? fun y =>
      if y.id = leField b 0 4 then
        (Config.gcmOpen (y.key true) y.reqSeq (slice b 6 (leField b 4 2))).map fun m => (slice m 2 (leField m 0 2), some y)
      else none
  | _ => none

/-- A response leaves, in the session over which its request came. -/
def State.respond (s : State) (p : Nat) (y : Option Session) (rsp : List Byte) : State :=
  match y with
  | none => s.emit (.object p (objectOf 1 rsp))
  | some y =>
    let sealed := Config.gcmSeal (y.key false) y.rspSeq (leBytes 2 rsp.length ++ rsp)
    s.emit (.object p (objectOf 2 (leBytes 4 y.id ++ leBytes 2 sealed.length ++ sealed)))

/-- A request of a code over the mailbox of a port: `f` gives what it changes and the response; `early` says that the responder answers
it before READY (R470). -/
def State.onRequest (s : State) (p : Nat) (msg : List Byte) (ver code : Nat) (early : List Byte → Bool)
    (f : State → Option Session → List Byte → State × List Byte) : State :=
  match s.requestIn p msg with
  | some (m, y) =>
    if !s.responds p ∨ leField m 0 1 ≠ ver ∨ leField m 1 1 ≠ code then s
    else
      let s := match y with
        | some y => s.modSession p y.id fun y => { y with reqSeq := y.reqSeq + 1, rspSeq := y.rspSeq + 1 }
        | none => s
      if !s.ready ∧ !early m then s.respond p y (spdmError 0x03 0)
      else
        let r := f s y m
        r.1.respond p y r.2
  | none => s

/-- A request that needs an earlier one to have been answered. -/
def Spdm.staged (x : Spdm) (n : Nat) (s : State) (k : Unit → State × List Byte) : State × List Byte :=
  if x.stage < n then (s, spdmError 0x04 0) else k ()

/-! ### Negotiation -/

/-- GET_VERSION: version 1.2 alone; the connection and its sessions start anew. -/
def execGetVersion (p : Port) (msg : List Byte) (s : State) : Res :=
  .next (s.onRequest p msg 0x10 0x84 (fun _ => true) fun s _ m =>
    let rsp := spdmMsg 0x10 0x04 0 0 (leBytes 1 0 ++ leBytes 1 1 ++ leBytes 2 0x1200)
    (s.modSpdm p fun x => { keys := x.keys, going := x.going, nextId := x.nextId, stage := 1, vca := m ++ rsp }, rsp))

/-- The CAPABILITIES response. -/
def capabilitiesRsp : List Byte :=
  spdmMsg 0x12 0x61 0 0 (leBytes 1 0 ++ [Config.ctExponent] ++ leBytes 2 0 ++ leBytes 4 0x62F6 ++ leBytes 4 262144 ++ leBytes 4 262144)

/-- GET_CAPABILITIES. -/
def execGetCapabilities (p : Port) (msg : List Byte) (s : State) : Res :=
  .next (s.onRequest p msg 0x12 0xE1 (fun _ => true) fun s _ m =>
    (s.spdmOf p).staged 1 s fun _ =>
      (s.modSpdm p fun x => { x with stage := max x.stage 2, vca := x.vca ++ m ++ capabilitiesRsp }, capabilitiesRsp))

/-- The ALGORITHMS response. -/
def algorithmsRsp : List Byte :=
  let alg (t v : Nat) : List Byte := leBytes 1 t ++ leBytes 1 0x20 ++ leBytes 2 v
  spdmMsg 0x12 0x63 4 0 (leBytes 2 52 ++ leBytes 1 1 ++ leBytes 1 0 ++ leBytes 4 4 ++ leBytes 4 0x80 ++ leBytes 4 2 ++
    leBytes 12 0 ++ leBytes 4 0 ++ alg 2 0x10 ++ alg 3 2 ++ alg 4 0 ++ alg 5 1)

/-- NEGOTIATE_ALGORITHMS: ECDSA P-384, SHA-384, secp384r1, AES-256-GCM, the SPDM key schedule. -/
def execNegotiateAlgorithms (p : Port) (msg : List Byte) (s : State) : Res :=
  .next (s.onRequest p msg 0x12 0xE3 (fun _ => true) fun s _ m =>
    (s.spdmOf p).staged 2 s fun _ =>
      (s.modSpdm p fun x => { x with stage := 3, vca := x.vca ++ m ++ algorithmsRsp }, algorithmsRsp))

/-! ### Certificates (R468) -/

/-- A digest as bytes. -/
def digest (b : List Byte) : List Byte := beBytes 48 (Config.sha384 b).toNat

/-- Slot 0's chain of three certificates with its length and the root's digest. -/
def certChain : List Byte :=
  let x := Config.ecdsa.val
  let c := x.root.bytes ++ x.product.bytes ++ x.device.bytes
  leBytes 2 (52 + c.length) ++ leBytes 2 0 ++ digest x.root.bytes ++ c

/-- GET_DIGESTS: slot 0 alone. -/
def execGetDigests (p : Port) (msg : List Byte) (s : State) : Res :=
  .next (s.onRequest p msg 0x12 0x81 (fun _ => true) fun s _ m =>
    (s.spdmOf p).staged 3 s fun _ =>
      let rsp := spdmMsg 0x12 0x01 0 1 (digest certChain)
      (s.modSpdm p fun x => { x with cert := x.cert ++ m ++ rsp }, rsp))

/-- GET_CERTIFICATE: a portion of slot 0's chain; slots 1 to 7 are empty. -/
def execGetCertificate (p : Port) (msg : List Byte) (s : State) : Res :=
  .next (s.onRequest p msg 0x12 0x82 (fun _ => true) fun s _ m =>
    (s.spdmOf p).staged 3 s fun _ =>
      let off := leField m 4 2
      let total := certChain.length
      if leField m 2 1 % 16 ≠ 0 ∨ total ≤ off then (s, spdmError 0x01 0)
      else
        let n := min (leField m 6 2) (total - off)
        let rsp := spdmMsg 0x12 0x02 0 0 (leBytes 2 n ++ leBytes 2 (total - off - n) ++ slice certChain off n)
        (s.modSpdm p fun x => { x with cert := x.cert ++ m ++ rsp }, rsp))

/-! ### Measurements (R471) and the attestation report (R484) -/

/-- A section of the image, from its table entry. -/
def imageSection (img : List Byte) (n : Nat) : List Byte := slice img (leField img (64 + 16 * n + 4) 4) (leField img (64 + 16 * n + 8) 4)

/-- The owner slot in use. -/
def State.ownerSlot (s : State) : Nat := s.fuses.slots.length - 1

/-- What an index measures; none for an index that has no measurement. -/
def State.measured (s : State) (i : Nat) : Option (List Byte) :=
  let img := s.boot.image
  match i with
  | 1 => some Config.romBytes
  | 2 => some (slice img 0 512)
  | 3 => some (imageSection img 0)
  | 4 => some (imageSection img 1)
  | 5 => some (imageSection img 2)
  | 6 => some (imageSection img 3)
  | 7 => some (manifestOf img)
  | 8 => some (leBytes 1 s.ownerSlot ++ beBytes 48 ((s.fuses.slots[s.ownerSlot]?).getD 0).toNat ++ leBytes 1 s.fuses.count)
  | 9 => some (leBytes 4 (s.reg .REV 0).toNat ++ leBytes 1 1)
  | _ => none

/-- The value of an index 1 to 9. -/
def State.measurement (s : State) (i : Nat) : List Byte := digest ((s.measured i).getD [])

/-- The attestation report. -/
def State.report (s : State) : List Byte :=
  let img := s.boot.image
  let m := manifestOf img
  let flags := 1 + 2 * (leField m 6 1 / 4 % 2) + 4 * (if s.boot.transferred then 1 else 0)
  leBytes 4 0x52415154 ++ leBytes 2 1 ++ leBytes 1 s.ownerSlot ++ leBytes 1 flags ++ leBytes 8 (Config.uid 0).toNat ++
  leBytes 8 (Config.uid 1).toNat ++ leBytes 8 (leField img 8 8) ++ leBytes 4 (s.reg .REV 0).toNat ++ leBytes 4 (leField m 16 4) ++
  digest ([1, 2, 3, 4, 5, 6].flatMap s.measurement) ++ s.measurement 7 ++
  beBytes 48 ((s.fuses.slots[s.ownerSlot]?).getD 0).toNat ++ leBytes 8 (s.pair .CAST_ON_ID_LO .CAST_ON_ID_HI 0 0) ++
  ([0, 1, 2, 3].flatMap fun p => leBytes 1 (partCode (s.portPart p))) ++
  ([0, 1, 2, 3].flatMap fun p => leBytes 1 ((if (s.port p).secure != 0 then 1 else 0) +
    (match s.portPart p with | some k => if s.requiresIde k then 2 else 0 | none => 0))) ++
  leBytes 56 0 ++ ([0, 1, 2, 3, 4].flatMap fun k => leBytes 512 (s.part k).toNat)

/-- The indices of the table. -/
def measurementIndices : List Nat := [1, 2, 3, 4, 5, 6, 7, 8, 9, 0x20]

/-- A DMTF measurement block: a digest, or of index 0x20 a raw bit stream. -/
def State.block (s : State) (i : Nat) : List Byte :=
  let v := if i = 0x20 then s.report else s.measurement i
  let kind := match i with | 1 => 0 | 7 => 3 | 8 => 2 | 9 => 2 | 0x20 => 0x83 | _ => 1
  leBytes 1 i ++ leBytes 1 1 ++ leBytes 2 (v.length + 3) ++ leBytes 1 kind ++ leBytes 2 v.length ++ v

/-- GET_MEASUREMENTS: the number of blocks, one block or all; signed over the requester's nonce where asked. -/
def execGetMeasurements (p : Port) (msg : List Byte) (s : State) : Res :=
  .next (s.onRequest p msg 0x12 0xE0 (fun m => leField m 3 1 == 1 || leField m 3 1 == 9) fun s _ m =>
    (s.spdmOf p).staged 3 s fun _ =>
      let op := leField m 3 1
      let signed := leField m 2 1 % 2 == 1
      let l := if op = 0 then [] else if op = 0xFF then measurementIndices else [op]
      if (signed ∧ leField m 36 1 % 16 ≠ 0) ∨ !l.all measurementIndices.contains then (s, spdmError 0x01 0)
      else
        let blocks := l.flatMap s.block
        let r : BitVec 256 × State := s.free 256
        let body := spdmMsg 0x12 0x60 (if op = 0 then measurementIndices.length else 0) 0
          (leBytes 1 l.length ++ leBytes 3 blocks.length ++ blocks ++ leBytes 32 r.1.toNat ++ leBytes 2 0)
        let x := s.spdmOf p
        let sign := beBytes 96 (Config.spdmSign "responder-measurements signing" (x.vca ++ x.meas ++ m ++ body) s.freeCount).toNat
        let rsp := if signed then body ++ sign else body
        (r.2.modSpdm p fun x => { x with meas := if signed then [] else x.meas ++ m ++ body }, rsp))

/-- The digest of every measurement block. -/
def State.summary (s : State) (typ : Nat) : List Byte := if typ = 0 then [] else digest (measurementIndices.flatMap s.block)

/-- The CHALLENGE_AUTH response to request m: the chain's digest, a nonce, the measurements' digest where asked, the signature over the
transcript of certificates. -/
def State.challengeRsp (s : State) (p : Nat) (m : List Byte) : List Byte :=
  let body := spdmMsg 0x12 0x03 0 1 (digest certChain ++ leBytes 32 (s.free 256).1.toNat ++ s.summary (leField m 3 1) ++ leBytes 2 0)
  let x := s.spdmOf p
  body ++ beBytes 96 (Config.spdmSign "responder-challenge_auth signing" (x.vca ++ x.cert ++ m ++ body) s.freeCount).toNat

/-- CHALLENGE. -/
def execChallenge (p : Port) (msg : List Byte) (s : State) : Res :=
  .next (s.onRequest p msg 0x12 0x83 (fun _ => true) fun s _ m =>
    (s.spdmOf p).staged 3 s fun _ =>
      if leField m 2 1 ≠ 0 then (s, spdmError 0x01 0)
      else ((s.free 256).2.modSpdm p fun x => { x with cert := [] }, s.challengeRsp p m))

/-! ### Sessions -/

/-- The session that KEY_EXCHANGE request m starts, and the KEY_EXCHANGE_RSP response: the part's random value and ephemeral public key,
the measurements' digest where asked, the signature over the transcript and the responder's verify data. -/
def State.newSession (s : State) (p : Nat) (m : List Byte) : Session × List Byte :=
  let x := s.spdmOf p
  let n := s.freeCount
  let body := spdmMsg 0x12 0x64 Config.heartbeat.toNat 0 (leBytes 2 x.nextId ++ leBytes 2 0 ++ leBytes 32 (s.free 256).1.toNat ++
    beBytes 96 (Config.ecdhPublic n).toNat ++ s.summary (leField m 2 1) ++ leBytes 2 0)
  let th := x.vca ++ digest certChain ++ m ++ body
  let secret := Config.ecdhShared n (slice m 40 96)
  let sign := beBytes 96 (Config.spdmSign "responder-key_exchange_rsp signing" th n).toNat
  let signed := th ++ sign
  ({ id := leField m 4 2 + 65536 * (x.nextId % 65536), transcript := signed, secret := secret },
    body ++ sign ++ beBytes 48 (Config.spdmVerify secret signed false).toNat)

/-- KEY_EXCHANGE: at most two sessions on a port. -/
def execKeyExchange (p : Port) (msg : List Byte) (s : State) : Res :=
  .next (s.onRequest p msg 0x12 0xE4 (fun _ => false) fun s _ m =>
    (s.spdmOf p).staged 3 s fun _ =>
      let x := s.spdmOf p
      if leField m 3 1 ≠ 0 then (s, spdmError 0x01 0)
      else if 2 ≤ x.sessions.length then (s, spdmError 0x0A 0)
      else
        ((s.free 256).2.modSpdm p fun x => { x with sessions := x.sessions ++ [(s.newSession p m).1], nextId := x.nextId + 1 },
          (s.newSession p m).2))

/-- A request of a session alone. -/
def inSession (y : Option Session) (s : State) (k : Session → State × List Byte) : State × List Byte :=
  match y with
  | some y => k y
  | none => (s, spdmError 0x0B 0)

/-- A session ends. -/
def State.dropSession (s : State) (p id : Nat) : State := s.modSpdm p fun x => { x with sessions := x.sessions.filter fun y => y.id != id }

/-- FINISH: the session is up when the requester's verify data is right, and ends when it is not. -/
def execFinish (p : Port) (msg : List Byte) (s : State) : Res :=
  .next (s.onRequest p msg 0x12 0xE5 (fun _ => false) fun s y m =>
    inSession y s fun y =>
      if y.up then (s, spdmError 0x04 0)
      else if slice m 4 48 = beBytes 48 (Config.spdmVerify y.secret (y.transcript ++ m.take 4) true).toNat then
        let rsp := spdmMsg 0x12 0x65 0 0 []
        (s.modSession p y.id fun y => { y with up := true, transcript := y.transcript ++ m ++ rsp, reqSeq := 0, rspSeq := 0 }, rsp)
      else (s.dropSession p y.id, spdmError 0x06 0))

/-- HEARTBEAT. -/
def execHeartbeat (p : Port) (msg : List Byte) (s : State) : Res :=
  .next (s.onRequest p msg 0x12 0xE8 (fun _ => false) fun s y _ =>
    inSession y s fun y => if y.up then (s, spdmMsg 0x12 0x68 0 0 []) else (s, spdmError 0x04 0))

/-- KEY_UPDATE: operation 1 the requester's key, 2 both, 3 verifies the new key. -/
def execKeyUpdate (p : Port) (msg : List Byte) (s : State) : Res :=
  .next (s.onRequest p msg 0x12 0xE9 (fun _ => false) fun s y m =>
    inSession y s fun y =>
      let op := leField m 2 1
      if !y.up then (s, spdmError 0x04 0)
      else if op = 0 ∨ 3 < op then (s, spdmError 0x01 0)
      else
        (s.modSession p y.id fun y =>
            { y with reqGen := if op ≤ 2 then y.reqGen + 1 else y.reqGen, reqSeq := if op ≤ 2 then 0 else y.reqSeq,
                     rspGen := if op = 2 then y.rspGen + 1 else y.rspGen, rspSeq := if op = 2 then 0 else y.rspSeq },
          spdmMsg 0x12 0x69 op (leField m 3 1) []))

/-- END_SESSION. -/
def execEndSession (p : Port) (msg : List Byte) (s : State) : Res :=
  .next (s.onRequest p msg 0x12 0xEC (fun _ => false) fun s y _ =>
    inSession y s fun y => (s.dropSession p y.id, spdmMsg 0x12 0x6C 0 0 []))

/-- The requests of the subset. -/
def spdmCodes : List Nat := [0x84, 0xE1, 0xE3, 0x81, 0x82, 0x83, 0xE0, 0xE4, 0xE5, 0xE8, 0xE9, 0xEC]

/-- Whether a VENDOR_DEFINED_REQUEST carries QUERY, KEY_PROG, K_SET_GO or K_SET_STOP: the standard PCI-SIG, protocol 0. -/
def isIdeKm (m : List Byte) : Bool :=
  leField m 1 1 == 0xFE && leField m 4 2 == 3 && leField m 6 1 == 2 && leField m 7 2 == 1 && leField m 11 1 == 0 &&
  ([0, 2, 4, 5] : List Nat).contains (leField m 12 1)

/-- UNSUPPORTED_SPDM_REQUEST: another version receives VersionMismatch, a request outside the subset UnsupportedRequest, or Busy before
READY (R469, R470). -/
def execUnsupportedSpdmRequest (p : Port) (msg : List Byte) (s : State) : Res :=
  .next (match s.requestIn p msg with
    | some (m, y) =>
      let code := leField m 1 1
      let known := spdmCodes.contains code || isIdeKm m
      let ver := leField m 0 1 == (if code = 0x84 then 0x10 else 0x12)
      if !s.responds p ∨ (known ∧ ver) then s
      else
        let s := match y with
          | some y => s.modSession p y.id fun y => { y with reqSeq := y.reqSeq + 1, rspSeq := y.rspSeq + 1 }
          | none => s
        s.respond p y (if !ver then spdmError 0x41 0 else if !s.ready then spdmError 0x03 0 else spdmError 0x07 code)
    | none => s)

/-! ### IDE (R479 to R481) -/

/-- The place of a key: stream, key set, direction, sub-stream. -/
def ideKey (stream sub : Nat) : Nat := 256 * stream + sub % 256

/-- The keys of a key set of a stream: three sub-streams in both directions. -/
def keySet (stream k : Nat) : List Nat := [0, 16, 32, 2, 18, 34].map fun n => ideKey stream (n + k)

/-- A VENDOR_DEFINED_RESPONSE that carries an IDE_KM object. -/
def ideRsp (object : List Byte) : List Byte :=
  spdmMsg 0x12 0x7E 0 0 (leBytes 2 3 ++ leBytes 1 2 ++ leBytes 2 1 ++ leBytes 2 (1 + object.length) ++ leBytes 1 0 ++ object)

/-- An IDE_KM object that answers a request about stream, sub-stream and port index of b. -/
def ideAck (code status : Nat) (b : List Byte) : List Byte :=
  leBytes 1 code ++ leBytes 3 0 ++ leBytes 1 (leField b 4 1) ++ leBytes 1 status ++ leBytes 1 (leField b 6 1) ++ leBytes 1 (leField b 7 1)

/-- An IDE_KM request over a session that is up; `f` gets the object from its first byte on. -/
def State.ideRequest (s : State) (p : Nat) (msg : List Byte) (object : Nat) (f : State → List Byte → State × List Byte) : State :=
  match s.requestIn p msg with
  | some (m, _) =>
    if !isIdeKm m ∨ leField m 12 1 ≠ object then s
    else
      s.onRequest p msg 0x12 0xFE (fun _ => false) fun s y m =>
        inSession y s fun y =>
          if !y.up then (s, spdmError 0x04 0)
          else
            let r := f s (m.drop 12)
            (r.1, ideRsp r.2)
  | none => s

/-- The registers of a port's IDE capability from IDE Capability on (R479): selective streams and IDE_KM, two streams; of each stream its
capability with two address-association blocks, its control, its status, no requester-ID association, and the blocks. -/
def HostPort.ideRegisters (x : HostPort) : List Byte :=
  let stream (i : Nat) : List Byte :=
    let on := if bit x.secure i then 1 else 0
    leBytes 4 2 ++ leBytes 4 (on + i * 2 ^ 24) ++ leBytes 4 (2 * on) ++ leBytes 8 0 ++
      ([0, 1].flatMap fun b =>
        let a := mget {} x.cfg.assoc (2 * i + b)
        leBytes 4 ((if a.valid then 1 else 0) + a.base / 2 ^ 20 % 2 ^ 12 * 2 ^ 8 + a.limit / 2 ^ 20 % 2 ^ 12 * 2 ^ 20) ++
          leBytes 4 (a.limit / 2 ^ 32) ++ leBytes 4 (a.base / 2 ^ 32))
  leBytes 4 0x10042 ++ leBytes 4 0 ++ stream 0 ++ stream 1

/-- QUERY: one port with two selective streams, and the registers of its IDE capability. -/
def execQuery (p : Port) (msg : List Byte) (s : State) : Res :=
  .next (s.ideRequest p msg 0x00 fun s b =>
    (s, leBytes 1 1 ++ leBytes 1 0 ++ leBytes 1 (leField b 2 1) ++ leBytes 4 0 ++ (s.port p).ideRegisters))

/-- KEY_PROG: a key is programmed, unless its stream or key set does not exist or is in force. -/
def execKeyProg (p : Port) (msg : List Byte) (s : State) : Res :=
  .next (s.ideRequest p msg 0x02 fun s b =>
    let stream := leField b 4 1
    let sub := leField b 6 1
    let place := ideKey stream sub
    let known := decide (stream < 2) && ((keySet stream 0) ++ keySet stream 1).contains place
    let bad := !known || (s.spdmOf p).going.contains place
    (if bad then s else s.modSpdm p fun x => { x with keys := mset [] x.keys place (slice b 8 40) }, ideAck 3 (if bad then 4 else 0) b))

/-- Whether a key set of a stream is in force in every direction and sub-stream. -/
def Spdm.inForce (x : Spdm) (stream : Nat) : Bool := [0, 1].any fun k => (keySet stream k).all x.going.contains

/-- K_SET_GO: a programmed key is in force; a stream with a whole key set in force is Secure. -/
def execKSetGo (p : Port) (msg : List Byte) (s : State) : Res :=
  .next (s.ideRequest p msg 0x04 fun s b =>
    let stream := leField b 4 1
    let place := ideKey stream (leField b 6 1)
    let known := decide (stream < 2) && mget [] (s.spdmOf p).keys place != []
    let s := if known then s.modSpdm p fun x => { x with going := (x.going.filter fun n => n != place) ++ [place] } else s
    let s := if known ∧ (s.spdmOf p).inForce stream then s.modPort p fun x => { x with secure := setBit x.secure stream true } else s
    (s, ideAck 6 0 b))

/-- A stream leaves the Secure state (R481). -/
def State.ideLeave (s : State) (p stream : Nat) : State :=
  if bit (s.port p).secure stream then
    ((s.modPort p fun x => { x with secure := setBit x.secure stream false }).count .IDE_FAIL_COUNT (portHalf p) (portIx p)).occur
      (portHalf p) 0x140 { parts := (s.portPart p).toList }
  else s

/-- K_SET_STOP: a key is out of force. -/
def execKSetStop (p : Port) (msg : List Byte) (s : State) : Res :=
  .next (s.ideRequest p msg 0x05 fun s b =>
    let stream := leField b 4 1
    let place := ideKey stream (leField b 6 1)
    let s := s.modSpdm p fun x => { x with going := x.going.filter fun n => n != place, keys := mset [] x.keys place [] }
    let s := if stream < 2 ∧ !(s.spdmOf p).inForce stream then s.ideLeave p stream else s
    (s, ideAck 6 0 b))

/-- IDE_STREAM_FAIL: an integrity failure; the stream's keys are out of force. -/
def execIdeStreamFail (p : Port) (stream : Fin 2) (s : State) : Res :=
  .next ((s.modSpdm p fun x => { x with going := x.going.filter fun n => n / 256 != stream.val }).ideLeave p stream)

end Sys2Proof.Machine
end

