-- ==== Sys2Proof/Machine/Dispatch.lean ====
section
/-!
DEFINITION. One arm per command: the call of its meaning.
-/
namespace Sys2Proof.Machine

def exec (i : Instr) (s : State) : Host.Outcome State Fault Refusal :=
  match i with
  | .registerWrite p target via v => Sys2Proof.Machine.execRegisterWrite p target via v s
  | .snapshotRead p bar2 addr size via => Sys2Proof.Machine.execSnapshotRead p bar2 addr size via s
  | .pairCommitWrite p addr v => Sys2Proof.Machine.execPairCommitWrite p addr v s
  | .lastXiRead p c => Sys2Proof.Machine.execLastXiRead p c s
  | .railValid h rail => Sys2Proof.Machine.execRailValid h rail s
  | .railInvalid h rail => Sys2Proof.Machine.execRailInvalid h rail s
  | .pinReset => Sys2Proof.Machine.execPinReset s
  | .selftestStart => Sys2Proof.Machine.execSelftestStart s
  | .selftestEnd res => Sys2Proof.Machine.execSelftestEnd res s
  | .go p ring => Sys2Proof.Machine.execGo p ring s
  | .bootAbort p => Sys2Proof.Machine.execBootAbort p s
  | .verifyStart => Sys2Proof.Machine.execVerifyStart s
  | .verifyEnd res => Sys2Proof.Machine.execVerifyEnd res s
  | .fwStarted => Sys2Proof.Machine.execFwStarted s
  | .fwStartTimeout => Sys2Proof.Machine.execFwStartTimeout s
  | .sectionStart => Sys2Proof.Machine.execSectionStart s
  | .recast p => Sys2Proof.Machine.execRecast p s
  | .syncArm p h => Sys2Proof.Machine.execSyncArm p h s
  | .syncDisarm p h => Sys2Proof.Machine.execSyncDisarm p h s
  | .syncEdge off => Sys2Proof.Machine.execSyncEdge off s
  | .syncInstant => Sys2Proof.Machine.execSyncInstant s
  | .refLoss => Sys2Proof.Machine.execRefLoss s
  | .pllUnlock h => Sys2Proof.Machine.execPllUnlock h s
  | .pllRelock h locked => Sys2Proof.Machine.execPllRelock h locked s
  | .timeValidSet p h => Sys2Proof.Machine.execTimeValidSet p h s
  | .halfAlignSend => Sys2Proof.Machine.execHalfAlignSend s
  | .queueRelease q => Sys2Proof.Machine.execQueueRelease q s
  | .timedCommandApply q w => Sys2Proof.Machine.execTimedCommandApply q w s
  | .markerPulseEnd m => Sys2Proof.Machine.execMarkerPulseEnd m s
  | .tNop t e => Sys2Proof.Machine.execTNop t e s
  | .tEnd t e => Sys2Proof.Machine.execTEnd t e s
  | .tHalt t e => Sys2Proof.Machine.execTHalt t e s
  | .tWait t e => Sys2Proof.Machine.execTWait t e s
  | .tWaituntil t e => Sys2Proof.Machine.execTWaituntil t e s
  | .tSync t e => Sys2Proof.Machine.execTSync t e s
  | .tPlay t e se => Sys2Proof.Machine.execTPlay t e se s
  | .tPlays t e => Sys2Proof.Machine.execTPlays t e s
  | .tMeas t e se => Sys2Proof.Machine.execTMeas t e se s
  | .tFlux t e se => Sys2Proof.Machine.execTFlux t e se s
  | .tSetf t e => Sys2Proof.Machine.execTSetf t e s
  | .tAddph t e => Sys2Proof.Machine.execTAddph t e s
  | .tSetph t e => Sys2Proof.Machine.execTSetph t e s
  | .tRstph t e => Sys2Proof.Machine.execTRstph t e s
  | .tWaittk t e => Sys2Proof.Machine.execTWaittk t e s
  | .tBtk t e => Sys2Proof.Machine.execTBtk t e s
  | .tWaitev t e => Sys2Proof.Machine.execTWaitev t e s
  | .tBev t e => Sys2Proof.Machine.execTBev t e s
  | .tSignal t e => Sys2Proof.Machine.execTSignal t e s
  | .tMark t e => Sys2Proof.Machine.execTMark t e s
  | .tLoop t e => Sys2Proof.Machine.execTLoop t e s
  | .tEndl t e => Sys2Proof.Machine.execTEndl t e s
  | .tBr t e => Sys2Proof.Machine.execTBr t e s
  | .tBcc t e => Sys2Proof.Machine.execTBcc t e s
  | .tCall t e => Sys2Proof.Machine.execTCall t e s
  | .tRet t e => Sys2Proof.Machine.execTRet t e s
  | .tLdi t e => Sys2Proof.Machine.execTLdi t e s
  | .tMov t e => Sys2Proof.Machine.execTMov t e s
  | .tAdd t e => Sys2Proof.Machine.execTAdd t e s
  | .tSub t e => Sys2Proof.Machine.execTSub t e s
  | .tAnd t e => Sys2Proof.Machine.execTAnd t e s
  | .tOr t e => Sys2Proof.Machine.execTOr t e s
  | .tXor t e => Sys2Proof.Machine.execTXor t e s
  | .tShl t e => Sys2Proof.Machine.execTShl t e s
  | .tShr t e => Sys2Proof.Machine.execTShr t e s
  | .tCmp t e => Sys2Proof.Machine.execTCmp t e s
  | .tRec t e => Sys2Proof.Machine.execTRec t e s
  | .tStrm t e => Sys2Proof.Machine.execTStrm t e s
  | .queueRoomResume t => Sys2Proof.Machine.execQueueRoomResume t s
  | .runAheadResume t => Sys2Proof.Machine.execRunAheadResume t s
  | .waittkDefault t => Sys2Proof.Machine.execWaittkDefault t s
  | .waitevFiring t => Sys2Proof.Machine.execWaitevFiring t s
  | .waitevTimeout t => Sys2Proof.Machine.execWaitevTimeout t s
  | .barrierComplete b => Sys2Proof.Machine.execBarrierComplete b s
  | .shotStart r => Sys2Proof.Machine.execShotStart r s
  | .strmReady t => Sys2Proof.Machine.execStrmReady t s
  | .runT0 r => Sys2Proof.Machine.execRunT0 r s
  | .runCommit r => Sys2Proof.Machine.execRunCommit r s
  | .runComplete r => Sys2Proof.Machine.execRunComplete r s
  | .shotRecordWrite r => Sys2Proof.Machine.execShotRecordWrite r s
  | .patternSegmentEnd q e w => Sys2Proof.Machine.execPatternSegmentEnd q e w s
  | .patternJumpRequest q compare => Sys2Proof.Machine.execPatternJumpRequest q compare s
  | .streamDeadline q => Sys2Proof.Machine.execStreamDeadline q s
  | .windowComplete c k => Sys2Proof.Machine.execWindowComplete c k s
  | .overRangeRow ix => Sys2Proof.Machine.execOverRangeRow ix s
  | .tokenDelivery sub e => Sys2Proof.Machine.execTokenDelivery sub e s
  | .dacEnable p h k v => Sys2Proof.Machine.execDacEnable p h k v s
  | .dacReady h k => Sys2Proof.Machine.execDacReady h k s
  | .dacNotReady h k => Sys2Proof.Machine.execDacNotReady h k s
  | .dacDisable p h k v => Sys2Proof.Machine.execDacDisable p h k v s
  | .dacModeWrite p h k v => Sys2Proof.Machine.execDacModeWrite p h k v s
  | .hostMute p h k v => Sys2Proof.Machine.execHostMute p h k v s
  | .evMuteClear p h k v => Sys2Proof.Machine.execEvMuteClear p h k v s
  | .muteStuck h k => Sys2Proof.Machine.execMuteStuck h k s
  | .slotMute p h ix v => Sys2Proof.Machine.execSlotMute p h ix v s
  | .slotRstph p h ix v => Sys2Proof.Machine.execSlotRstph p h ix v s
  | .dacScaleWrite p h k v => Sys2Proof.Machine.execDacScaleWrite p h k v s
  | .inEnable p ix v => Sys2Proof.Machine.execInEnable p ix v s
  | .adcReady ix => Sys2Proof.Machine.execAdcReady ix s
  | .adcNotReady ix => Sys2Proof.Machine.execAdcNotReady ix s
  | .inDisable p ix v => Sys2Proof.Machine.execInDisable p ix v s
  | .avgClr p c v => Sys2Proof.Machine.execAvgClr p c v s
  | .chRstph p c v => Sys2Proof.Machine.execChRstph p c v s
  | .fluxEnable p f v => Sys2Proof.Machine.execFluxEnable p f v s
  | .fluxReady f => Sys2Proof.Machine.execFluxReady f s
  | .fluxNotReady f => Sys2Proof.Machine.execFluxNotReady f s
  | .fluxDisable p f v => Sys2Proof.Machine.execFluxDisable p f v s
  | .rangeChangeStart p f v => Sys2Proof.Machine.execRangeChangeStart p f v s
  | .fluxRampEnd f => Sys2Proof.Machine.execFluxRampEnd f s
  | .rangeWaitEnd f => Sys2Proof.Machine.execRangeWaitEnd f s
  | .flxLevelWrite p f v => Sys2Proof.Machine.execFlxLevelWrite p f v s
  | .fluxModeWrite p f v => Sys2Proof.Machine.execFluxModeWrite p f v s
  | .fgStrobe p g v => Sys2Proof.Machine.execFgStrobe p g v s
  | .complyAssert f openLoad => Sys2Proof.Machine.execComplyAssert f openLoad s
  | .complyDeassert f => Sys2Proof.Machine.execComplyDeassert f s
  | .monTick m v => Sys2Proof.Machine.execMonTick m v s
  | .monClr p m v => Sys2Proof.Machine.execMonClr p m v s
  | .monLock p m v => Sys2Proof.Machine.execMonLock p m v s
  | .monDisable p m v => Sys2Proof.Machine.execMonDisable p m v s
  | .monTestWrite p m v => Sys2Proof.Machine.execMonTestWrite p m v s
  | .blankStart m => Sys2Proof.Machine.execBlankStart m s
  | .blankEnd m => Sys2Proof.Machine.execBlankEnd m s
  | .auxStart p h v => Sys2Proof.Machine.execAuxStart p h v s
  | .auxPowerupEnd h => Sys2Proof.Machine.execAuxPowerupEnd h s
  | .auxConversion h microvolt => Sys2Proof.Machine.execAuxConversion h microvolt s
  | .auxPeriodicStart h => Sys2Proof.Machine.execAuxPeriodicStart h s
  | .swatchStart r => Sys2Proof.Machine.execSwatchStart r s
  | .swatchStreamStart e => Sys2Proof.Machine.execSwatchStreamStart e s
  | .triggerMark e => Sys2Proof.Machine.execTriggerMark e s
  | .dataEntryWrite e => Sys2Proof.Machine.execDataEntryWrite e s
  | .gapMark e => Sys2Proof.Machine.execGapMark e s
  | .swatchStop r => Sys2Proof.Machine.execSwatchStop r s
  | .laneStart p l v => Sys2Proof.Machine.execLaneStart p l v s
  | .laneAbort p l v => Sys2Proof.Machine.execLaneAbort p l v s
  | .laneDisable p l v => Sys2Proof.Machine.execLaneDisable p l v s
  | .laneFaultClear p l v => Sys2Proof.Machine.execLaneFaultClear p l v s
  | .lanePopResume l => Sys2Proof.Machine.execLanePopResume l s
  | .lNop l e => Sys2Proof.Machine.execLNop l e s
  | .lHalt l e => Sys2Proof.Machine.execLHalt l e s
  | .lLdi l e => Sys2Proof.Machine.execLLdi l e s
  | .lLdih l e => Sys2Proof.Machine.execLLdih l e s
  | .lLd l e de => Sys2Proof.Machine.execLLd l e de s
  | .lSt l e => Sys2Proof.Machine.execLSt l e s
  | .lSetp l e => Sys2Proof.Machine.execLSetp l e s
  | .lAdd l e => Sys2Proof.Machine.execLAdd l e s
  | .lSub l e => Sys2Proof.Machine.execLSub l e s
  | .lAnd l e => Sys2Proof.Machine.execLAnd l e s
  | .lOr l e => Sys2Proof.Machine.execLOr l e s
  | .lXor l e => Sys2Proof.Machine.execLXor l e s
  | .lAddi l e => Sys2Proof.Machine.execLAddi l e s
  | .lShli l e => Sys2Proof.Machine.execLShli l e s
  | .lShri l e => Sys2Proof.Machine.execLShri l e s
  | .lShra l e => Sys2Proof.Machine.execLShra l e s
  | .lCmp l e => Sys2Proof.Machine.execLCmp l e s
  | .lCmpi l e => Sys2Proof.Machine.execLCmpi l e s
  | .lMul l e => Sys2Proof.Machine.execLMul l e s
  | .lMacr l e => Sys2Proof.Machine.execLMacr l e s
  | .lCmac l e de => Sys2Proof.Machine.execLCmac l e de s
  | .lRnd l e => Sys2Proof.Machine.execLRnd l e s
  | .lClra l e => Sys2Proof.Machine.execLClra l e s
  | .lMaxs l e de => Sys2Proof.Machine.execLMaxs l e de s
  | .lMins l e de => Sys2Proof.Machine.execLMins l e de s
  | .lRep l e => Sys2Proof.Machine.execLRep l e s
  | .lBr l e => Sys2Proof.Machine.execLBr l e s
  | .lBcc l e => Sys2Proof.Machine.execLBcc l e s
  | .lCall l e => Sys2Proof.Machine.execLCall l e s
  | .lRet l e => Sys2Proof.Machine.execLRet l e s
  | .lPop l e => Sys2Proof.Machine.execLPop l e s
  | .lTok l e => Sys2Proof.Machine.execLTok l e s
  | .lRec l e => Sys2Proof.Machine.execLRec l e s
  | .lSig l e => Sys2Proof.Machine.execLSig l e s
  | .calRoutineStart h obs => Sys2Proof.Machine.execCalRoutineStart h obs s
  | .calRoutineEnd h res => Sys2Proof.Machine.execCalRoutineEnd h res s
  | .calStep h => Sys2Proof.Machine.execCalStep h s
  | .bgEstimate ix est => Sys2Proof.Machine.execBgEstimate ix est s
  | .trigInEdge ix rising off => Sys2Proof.Machine.execTrigInEdge ix rising off s
  | .ecFire p h v => Sys2Proof.Machine.execEcFire p h v s
  | .taskInputRegistration h u => Sys2Proof.Machine.execTaskInputRegistration h u s
  | .taskSelClr p h u v => Sys2Proof.Machine.execTaskSelClr p h u v s
  | .functionLevelReset p => Sys2Proof.Machine.execFunctionLevelReset p s
  | .portLink p => Sys2Proof.Machine.execPortLink p s
  | .perst p low => Sys2Proof.Machine.execPerst p low s
  | .ringEnable p h r => Sys2Proof.Machine.execRingEnable p h r s
  | .ringDisable p h r => Sys2Proof.Machine.execRingDisable p h r s
  | .ringDrainEnd r => Sys2Proof.Machine.execRingDrainEnd r s
  | .doorbellPoll p => Sys2Proof.Machine.execDoorbellPoll p s
  | .kick p h ix => Sys2Proof.Machine.execKick p h ix s
  | .cmdNop r => Sys2Proof.Machine.execCmdNop r s
  | .fence r => Sys2Proof.Machine.execFence r s
  | .fenceComplete r => Sys2Proof.Machine.execFenceComplete r s
  | .loadWave r => Sys2Proof.Machine.execLoadWave r s
  | .loadProg r => Sys2Proof.Machine.execLoadProg r s
  | .loadKernel r => Sys2Proof.Machine.execLoadKernel r s
  | .loadTable r => Sys2Proof.Machine.execLoadTable r s
  | .loadSegtab r => Sys2Proof.Machine.execLoadSegtab r s
  | .startRun r => Sys2Proof.Machine.execStartRun r s
  | .stopRun r => Sys2Proof.Machine.execStopRun r s
  | .strmAttach r => Sys2Proof.Machine.execStrmAttach r s
  | .calRun r => Sys2Proof.Machine.execCalRun r s
  | .calRead r => Sys2Proof.Machine.execCalRead r s
  | .calWrite r => Sys2Proof.Machine.execCalWrite r s
  | .compress r => Sys2Proof.Machine.execCompress r s
  | .decompress r => Sys2Proof.Machine.execDecompress r s
  | .cfgBatch r => Sys2Proof.Machine.execCfgBatch r s
  | .readState r bad => Sys2Proof.Machine.execReadState r bad s
  | .timeArm r => Sys2Proof.Machine.execTimeArm r s
  | .timeStep r => Sys2Proof.Machine.execTimeStep r s
  | .commandCompletion tag => Sys2Proof.Machine.execCommandCompletion tag s
  | .irqModerationTimeout r => Sys2Proof.Machine.execIrqModerationTimeout r s
  | .recordWrite r => Sys2Proof.Machine.execRecordWrite r s
  | .dmaGrant p cls => Sys2Proof.Machine.execDmaGrant p cls s
  | .doeDiscovery p msg => Sys2Proof.Machine.execDoeDiscovery p msg s
  | .getVersion p msg => Sys2Proof.Machine.execGetVersion p msg s
  | .getCapabilities p msg => Sys2Proof.Machine.execGetCapabilities p msg s
  | .negotiateAlgorithms p msg => Sys2Proof.Machine.execNegotiateAlgorithms p msg s
  | .getDigests p msg => Sys2Proof.Machine.execGetDigests p msg s
  | .getCertificate p msg => Sys2Proof.Machine.execGetCertificate p msg s
  | .challenge p msg => Sys2Proof.Machine.execChallenge p msg s
  | .getMeasurements p msg => Sys2Proof.Machine.execGetMeasurements p msg s
  | .keyExchange p msg => Sys2Proof.Machine.execKeyExchange p msg s
  | .finish p msg => Sys2Proof.Machine.execFinish p msg s
  | .heartbeat p msg => Sys2Proof.Machine.execHeartbeat p msg s
  | .keyUpdate p msg => Sys2Proof.Machine.execKeyUpdate p msg s
  | .endSession p msg => Sys2Proof.Machine.execEndSession p msg s
  | .unsupportedSpdmRequest p msg => Sys2Proof.Machine.execUnsupportedSpdmRequest p msg s
  | .query p msg => Sys2Proof.Machine.execQuery p msg s
  | .keyProg p msg => Sys2Proof.Machine.execKeyProg p msg s
  | .kSetGo p msg => Sys2Proof.Machine.execKSetGo p msg s
  | .kSetStop p msg => Sys2Proof.Machine.execKSetStop p msg s
  | .ideStreamFail p stream => Sys2Proof.Machine.execIdeStreamFail p stream s
  | .rgnCtlWrite p h k r v => Sys2Proof.Machine.execRgnCtlWrite p h k r v s
  | .skeinDone h body e => Sys2Proof.Machine.execSkeinDone h body e s
  | .skeinFlushTimeout r => Sys2Proof.Machine.execSkeinFlushTimeout r s
  | .cmpDisable p h v => Sys2Proof.Machine.execCmpDisable p h v s
  | .ptpSync port frame off => Sys2Proof.Machine.execPtpSync port frame off s
  | .followUp port frame => Sys2Proof.Machine.execFollowUp port frame s
  | .delayReq off => Sys2Proof.Machine.execDelayReq off s
  | .delayResp port frame => Sys2Proof.Machine.execDelayResp port frame s
  | .announce port frame => Sys2Proof.Machine.execAnnounce port frame s
  | .frameForward port frame residence full => Sys2Proof.Machine.execFrameForward port frame residence full s
  | .masterLost => Sys2Proof.Machine.execMasterLost s
  | .ntRateWrite p h v => Sys2Proof.Machine.execNtRateWrite p h v s
  | .ntCtlWrite p h v => Sys2Proof.Machine.execNtCtlWrite p h v s
  | .ntArmFire h a => Sys2Proof.Machine.execNtArmFire h a s
  | .trigDisarm p h a v => Sys2Proof.Machine.execTrigDisarm p h a v s
  | .ntStepApply h => Sys2Proof.Machine.execNtStepApply h s
  | .ntPortLink port => Sys2Proof.Machine.execNtPortLink port s
  | .idle h flit => Sys2Proof.Machine.execIdle h flit s
  | .lctl h flit => Sys2Proof.Machine.execLctl h flit s
  | .restReq h flit => Sys2Proof.Machine.execRestReq h flit s
  | .restAck h flit => Sys2Proof.Machine.execRestAck h flit s
  | .token h flit => Sys2Proof.Machine.execToken h flit s
  | .event h flit => Sys2Proof.Machine.execEvent h flit s
  | .reg h flit => Sys2Proof.Machine.execReg h flit s
  | .dmaHdr h flit => Sys2Proof.Machine.execDmaHdr h flit s
  | .dmaData h flit => Sys2Proof.Machine.execDmaData h flit s
  | .periodic h flit off => Sys2Proof.Machine.execPeriodic h flit off s
  | .probe h flit off => Sys2Proof.Machine.execProbe h flit off s
  | .echo h flit off => Sys2Proof.Machine.execEcho h flit off s
  | .ntUpdate h flit => Sys2Proof.Machine.execNtUpdate h flit s
  | .mgmt h flit => Sys2Proof.Machine.execMgmt h flit s
  | .replayTimeout h => Sys2Proof.Machine.execReplayTimeout h s
  | .restIdleExpiry h => Sys2Proof.Machine.execRestIdleExpiry h s
  | .restExit h => Sys2Proof.Machine.execRestExit h s
  | .linkLoss h cause => Sys2Proof.Machine.execLinkLoss h cause s
  | .trainingAttempt h res => Sys2Proof.Machine.execTrainingAttempt h res s
  | .trainingRetry h => Sys2Proof.Machine.execTrainingRetry h s
  | .linkUp h => Sys2Proof.Machine.execLinkUp h s
  | .dormantEnter p h v => Sys2Proof.Machine.execDormantEnter p h v s
  | .dormantExit p h v => Sys2Proof.Machine.execDormantExit p h v s
  | .srcForce p h ix v => Sys2Proof.Machine.execSrcForce p h ix v s
  | .latchedClear p h ix v => Sys2Proof.Machine.execLatchedClear p h ix v s
  | .firstClr p h v => Sys2Proof.Machine.execFirstClr p h v s
  | .fnAck p h v => Sys2Proof.Machine.execFnAck p h v s
  | .faultNReassert => Sys2Proof.Machine.execFaultNReassert s
  | .fnModeWrite p h v => Sys2Proof.Machine.execFnModeWrite p h v s
  | .shadowEnd h n => Sys2Proof.Machine.execShadowEnd h n s
  | .bindOff p h v => Sys2Proof.Machine.execBindOff p h v s
  | .exit p h v => Sys2Proof.Machine.execExit p h v s
  | .quietExit => Sys2Proof.Machine.execQuietExit s
  | .fwWatchdog h => Sys2Proof.Machine.execFwWatchdog h s
  | .govEvaluate h g => Sys2Proof.Machine.execGovEvaluate h g s
  | .govDescent h => Sys2Proof.Machine.execGovDescent h s
  | .supplySag h => Sys2Proof.Machine.execSupplySag h s
  | .thermalSample h temps => Sys2Proof.Machine.execThermalSample h temps s
  | .rowBoundary b => Sys2Proof.Machine.execRowBoundary b s
  | .dmaReadCompletion p id data => Sys2Proof.Machine.execDmaReadCompletion p id data s
  | .portLinkUp p speed width => Sys2Proof.Machine.execPortLinkUp p speed width s
  | .ntPortLinkUp port => Sys2Proof.Machine.execNtPortLinkUp port s
  | .deskewMarker h lane block stuff => Sys2Proof.Machine.execDeskewMarker h lane block stuff s
  | .uncorrectableFlit h flit => Sys2Proof.Machine.execUncorrectableFlit h flit s
  | .tckEdge rising tms tdi trst => Sys2Proof.Machine.execTckEdge rising tms tdi trst s

end Sys2Proof.Machine
end

