-- ==== Sys2Proof/Machine/Pins.lean ====
section
/-!
DEFINITION. What the part's pins show (R190, R196, R239, R304, R334, R502, R625): each group from its own rails, the state of cast-on and,
from READY, the registers of its block.
-/
namespace Sys2Proof.Machine

/-- What a pin, or a differential pair, shows. -/
inductive PinState where
  /-- High impedance, or open, with no signal. -/
  | highZ
  /-- An RF output whose mute switch is closed: 100 Ω differential, no signal. -/
  | muted
  /-- A readout input with its cores unpowered: 100 Ω differential. -/
  | terminated
  /-- A flux output at zero current. -/
  | zero
  /-- A transmitter without traffic. -/
  | idle
  /-- A digital level. -/
  | level (high : Bool)
  /-- In use as its block says. -/
  | live
deriving DecidableEq, Repr

/-- Whether the rails listed, by their bits of PWR_STATUS, are valid on half h and no pin reset holds the part (R625). -/
def State.powered (s : State) (h : Nat) (rails : List Nat) : Bool :=
  !s.boot.resetLow && rails.all fun r => bit (s.reg .PWR_STATUS h) r

/-- An RF output DOj or POj by its DAC k (VDDA_CNV, VDDA_HV). -/
def State.rfPin (s : State) (h k : Nat) : PinState :=
  if !s.powered h [2, 3] then .highZ
  else if !s.ready || bit (s.reg .DAC_STATUS h k) 14 || !bit (s.reg .DAC_CTL h k) 0 then .muted else .live

/-- A readout input (VDDA_CNV, VDDA_HV). -/
def State.inPin (s : State) (h k : Nat) : PinState :=
  if !s.powered h [2, 3] then .highZ
  else if !s.ready || !bit (s.reg .IN_CTL h k) 0 then .terminated else .live

/-- A flux output (VFLX_P, VFLX_N): a pin reset steps it to zero current. -/
def State.fluxPin (s : State) (f : Nat) : PinState :=
  if !s.fluxRails (f / 64) then .highZ
  else if !s.ready || !s.fluxOn f then .zero else .live

/-- An auxiliary input (VDDA_HV): high impedance but for the bias current of AUX_BIAS, 1 a pull-up, 2 a pull-down. -/
def State.auxPin (s : State) (h c : Nat) : PinState :=
  let b := bits (s.reg .AUX_BIAS h) (2 * c + 1) (2 * c)
  if !s.powered h [3] || !s.ready || b = 0 || b = 3 then .highZ else .level (b = 1)

/-- A marker output (VDD_IO), which EXTEST may drive (R624). -/
def State.markPin (s : State) (m : Fin 16) : PinState :=
  if !bit (s.reg .PWR_STATUS (m / 8)) 6 then .highZ
  else
    match s.tapDrives (m.castLE (by decide)) with
    | some v => .level v
    | none => if s.boot.resetLow then .highZ else .level (s.ready && (s.marker m).level)

/-- FAULT_N (VDD_IO): open drain, low while it is asserted. -/
def State.faultPin (s : State) : PinState :=
  if s.powered 0 [6] && s.faultBall then .level false else .highZ

/-- The PCIe lanes of a port (VDD_SER, VDDH_SER): transmitters off, training from SELFTEST, or up. -/
def State.pciePin (s : State) (p : Nat) : PinState :=
  if !s.powered (p / 2) [4, 5] || s.boot.st == .cold then .highZ else if (s.port p).link then .live else .idle

/-- A network-time port: its transmitter is idle before READY. -/
def State.ntPin (s : State) (port : Nat) : PinState :=
  if !s.powered port [4, 5] then .highZ else if s.ready && mget false s.ntLink port then .live else .idle

/-- TDO: high impedance outside Shift-DR and Shift-IR (R620). -/
def State.tdoPin (s : State) : PinState :=
  if !bit (s.reg .PWR_STATUS 0) 6 then .highZ
  else match s.tap.tdo with | some b => .level b | none => .highZ

end Sys2Proof.Machine
end

