-- ==== Sys2Proof/Safety.lean ====
section
/-!
DEFINITION. What a step of this model may end in, and when an event can occur, in the terms that the statements use.
-/
namespace Sys2Proof.Machine

/-- The step answers a next state. -/
def completes (o : Host.Outcome State Fault Refusal) : Prop := ∃ t, o = .next t

/-- The state that an outcome answers, if it answers one. -/
def outState (o : Host.Outcome State Fault Refusal) : Option State :=
  match o with
  | .next t => some t
  | _ => none

/-- What holds in every state that a run reaches: the memory and the register file are in their canonical order, and the counters
stand at row boundaries (R51). -/
def State.inv (s : State) : Prop :=
  Memory.wf s.mem = true ∧ risingFrom 0 s.regs = true ∧ s.c0 &&& 31 = 0 ∧ s.c1 &&& 31 = 0

/-! ### Register writes -/

/-- A request of port p over stream `via` is admitted: the function is in D0 (R426), and the request is in a Secure stream where the port's
partition requires one (R480). -/
def State.admits (s : State) (p : Nat) (via : Via) : Prop :=
  (s.port p).cfg.d3hot = false ∧ s.unsecured p = false ∧ s.outside p via = false

/-- A write through port p to element i of register r of half h acts at once: h is the port's own half, the port's traffic is
admitted (R480), the register answers in the part's present state (R490), it is not in H1's BOOT block (R23), and the port's
partition may write it (R44). -/
def State.reaches (s : State) (p : Nat) (r : Reg) (h i : Nat) : Prop :=
  portHalf p = h ∧ (s.port p).cfg.d3hot = false ∧ s.unsecured p = false ∧ (s.ready || r.early) = true ∧ r.inert h i = false ∧
    (r == .BOOT_RECAST || s.mayWrite r h i p) = true

/-- A write of v through port p goes where the spec says. R32, R33, R34, R42, R43, R44, R75: where a write of BAR0 that the port admits goes. On the port's own half it acts on the register that
its address selects, if the port's partition may write that, and is counted and ignored if not; for a register of the far half that
answers (R490) it leaves over the die link, or is discarded and counted while the link is down; any other size or alignment, and an
address of no register, has no effect. -/
def State.WritesGo (p : Port) (v : Word) (s : State) (write : BitVec 24 → Nat → Instr) : Prop :=
  (∀ (r : Reg) (i j : Nat), i < r.info.cntI → j < r.info.cntJ → s.reaches p r (portHalf p) i →
    exec (write (BitVec.ofNat 24 (r.addr (portHalf p) i j)) 4) s = .next (s.store r (portHalf p) i j p v)) ∧
  (∀ (r : Reg) (i j : Nat), i < r.info.cntI → j < r.info.cntJ → (s.ready || r.early) = true → r.inert (portHalf p) i = false →
    r ≠ .BOOT_RECAST → s.mayWrite r (portHalf p) i p = false →
    exec (write (BitVec.ofNat 24 (r.addr (portHalf p) i j)) 4) s = .next (s.foreignWrite r (portHalf p) i p)) ∧
  (∀ a : BitVec 24, a.toNat % 4 = 0 → addrHalf a.toNat = far (portHalf p) →
    exec (write a 4) s =
      .next (if !s.answers (addrOff a.toNat) then s
        else if s.linkUp then s.send (portHalf p) (.regWrite p a.toNat v) else s.count .FAR_WR_DISCARD (portHalf p) 0)) ∧
  (∀ (a : BitVec 24) (size : Nat), size ≠ 4 ∨ a.toNat % 4 ≠ 0 ∨ 2 ≤ addrHalf a.toNat → exec (write a size) s = .next s) ∧
  (∀ a : BitVec 24, a.toNat % 4 = 0 → addrHalf a.toNat = portHalf p → Reg.find (addrOff a.toNat) = none → exec (write a 4) s = .next s)

/-- A read through port p of element i of register r of half h returns what the register holds: h is the port's own half, the port's
traffic is admitted, the register answers in the part's present state, and the port's partition may read it (R44, R480, R490). -/
def State.readable (s : State) (p : Nat) (r : Reg) (h i : Nat) : Prop :=
  portHalf p = h ∧ (s.port p).cfg.d3hot = false ∧ s.unsecured p = false ∧ (s.ready || r.early) = true ∧ r.inert h i = false ∧ s.mayRead r h i p = true

/-! ### Threads -/

/-- The cluster of thread t serves it next (R80, R81), and the instruction at its PC is the word w of opcode op, on a page of the run's partition (R118, R121). -/
def State.fetches (s : State) (t op : Nat) (w : BitVec 64) : Prop :=
  s.served (t / 32) = some t ∧ (s.thread t).pc < 1048576 ∧
    s.ownProgPage (thrHalf t) ((s.thread t).pc / 8192) = some (s.runOf (s.thread t).run).owner ∧
    s.progWord (thrHalf t) (s.thread t).pc = w ∧ bits w 63 56 = op

/-- What a push writes into its queues before it completes: their last stamps (R59) and free times (R100). -/
def State.recorded (s : State) (p : Push) : State :=
  (s.forEach p.cmds fun s qc => s.modQueue qc.1 fun x => x.passed qc.2.stamp).forEach p.free fun s qf =>
    s.modQueue qf.1 fun x => { x with free := some qf.2 }

/-- No check of R125's steps 4 to 7 stops a push of thread t: every stamp in range (R60) and within the run-ahead (R93), every queue
in order (R59) and with room (R61). -/
def State.pushes (s : State) (t : Nat) (p : Push) : Prop :=
  (∀ qc ∈ p.cmds, s.ahead qc.1 qc.2.stamp ≤ 2 ^ 46 ∧ s.ahead qc.1 qc.2.stamp ≤ s.runAhead (thrHalf t) ∧
    (s.queue qc.1).ordered qc.2.stamp = true) ∧
  (∀ qc ∈ p.cmds, ((s.recorded p).queue qc.1).cmds.length < 64)

/-- The instructions that a thread may issue, with their opcodes (R118's table). -/
def threadInstrs (t : ThrIx) (e se : Ecc) : List (Nat × Instr) :=
  [(0x00, .tNop t e), (0x01, .tEnd t e), (0x02, .tHalt t e), (0x08, .tWait t e), (0x09, .tWaituntil t e), (0x0A, .tSync t e),
   (0x10, .tPlay t e se), (0x11, .tPlays t e), (0x12, .tMeas t e se), (0x13, .tFlux t e se), (0x18, .tSetf t e), (0x19, .tAddph t e),
   (0x1A, .tSetph t e), (0x1B, .tRstph t e), (0x20, .tWaittk t e), (0x21, .tBtk t e), (0x28, .tWaitev t e), (0x29, .tBev t e),
   (0x2A, .tSignal t e), (0x2B, .tMark t e), (0x30, .tLoop t e), (0x31, .tEndl t e), (0x32, .tBr t e), (0x33, .tBcc t e),
   (0x34, .tCall t e), (0x35, .tRet t e), (0x40, .tLdi t e), (0x41, .tMov t e), (0x42, .tAdd t e), (0x43, .tSub t e), (0x44, .tAnd t e),
   (0x45, .tOr t e), (0x46, .tXor t e), (0x47, .tShl t e), (0x48, .tShr t e), (0x49, .tCmp t e), (0x50, .tRec t e), (0x58, .tStrm t e)]

/-- The arithmetic instructions of a thread, with their opcodes, their results and flags, and whether they write a register
(R163, R164). -/
def threadAlu (t : ThrIx) (e : Ecc) (w : BitVec 64) : List (Nat × Instr × (Word → Word → Alu) × Bool × Bool) :=
  [(0x42, .tAdd t e, aluAdd, true, false), (0x43, .tSub t e, aluSub, true, false),
   (0x44, .tAnd t e, fun a b => aluLogic (a &&& b), true, false), (0x45, .tOr t e, fun a b => aluLogic (a ||| b), true, false),
   (0x46, .tXor t e, fun a b => aluLogic (a ^^^ b), true, false), (0x47, .tShl t e, fun a b => aluShl a (bits b 4 0), true, false),
   (0x48, .tShr t e, fun a b => aluShr (bit w 46) a (bits b 4 0), true, true), (0x49, .tCmp t e, aluSub, false, false)]

/-! ### Lanes -/

/-- Lane l is running, not held back by the governor (R609), and the word at its PC is w, of opcode op (R364). -/
def State.laneFetches (s : State) (l op : Nat) (w : Word) : Prop :=
  (s.lane l).st = .running ∧ s.paced (laneHalf l) 25 = false ∧ s.laneWord l (s.lane l).pc = w ∧ bits w 31 26 = op

/-- The instructions that a lane may issue, with their opcodes (R377's table). -/
def laneInstrs (l : LaneIx) (e : Ecc) (de : Reads) : List (Nat × Instr) :=
  [(0x00, .lNop l e), (0x01, .lHalt l e), (0x02, .lLdi l e), (0x03, .lLdih l e), (0x04, .lLd l e de), (0x05, .lSt l e),
   (0x06, .lSetp l e), (0x08, .lAdd l e), (0x09, .lSub l e), (0x0A, .lAnd l e), (0x0B, .lOr l e), (0x0C, .lXor l e), (0x0D, .lAddi l e),
   (0x0E, .lShli l e), (0x0F, .lShri l e), (0x10, .lShra l e), (0x11, .lCmp l e), (0x12, .lCmpi l e), (0x13, .lMul l e),
   (0x18, .lMacr l e), (0x19, .lCmac l e de), (0x1A, .lRnd l e), (0x1B, .lClra l e), (0x1C, .lMaxs l e de), (0x1D, .lMins l e de),
   (0x20, .lRep l e), (0x21, .lBr l e), (0x22, .lBcc l e), (0x23, .lCall l e), (0x24, .lRet l e), (0x28, .lPop l e), (0x29, .lTok l e),
   (0x2A, .lRec l e), (0x2B, .lSig l e)]

/-- The instructions of a lane that put a result and its flags into a register, with their opcodes and results; `true` where the second
operand is a register, in which case the bits [10:0] are reserved (R379). -/
def laneAlu (l : LaneIx) (e : Ecc) (w : Word) : List (Nat × Instr × (Word → Word → Alu) × Bool) :=
  [(0x08, .lAdd l e, aluAdd, true), (0x09, .lSub l e, aluSub, true), (0x0A, .lAnd l e, fun a b => aluLogic (a &&& b), true),
   (0x0B, .lOr l e, fun a b => aluLogic (a ||| b), true), (0x0C, .lXor l e, fun a b => aluLogic (a ^^^ b), true),
   (0x13, .lMul l e, fun a b => aluLogic (BitVec.ofInt 32 (low16 a * low16 b)), true),
   (0x0D, .lAddi l e, fun a _ => aluAdd a (fSImm w), false), (0x0E, .lShli l e, fun a _ => aluShl a (bits w 4 0), false),
   (0x0F, .lShri l e, fun a _ => aluShr false a (bits w 4 0), false),
   (0x10, .lShra l e, fun a _ => aluLogic (BitVec.ofInt 32 (roundHalfUp a.toInt (bits w 4 0))), false)]

/-! ### Commands of the host's rings -/

/-- The part accepts descriptor d, of opcode op, from ring r (R440, R442, R451). -/
def State.takes (s : State) (r op : Nat) (d : BitVec 512) : Prop :=
  (s.ring r).desc.head? = some d ∧ s.canAccept r = true ∧ dField d 0 1 = op

/-- The commands of the rings, with their opcodes, the checks that each makes on its descriptor, and its RESULT where one fails (R443);
CAL_RUN is not among them (R394, R400). -/
def State.hostCommands (s : State) (r : RingIx) (c : HostCmd) (de : Reads) : List (Nat × Instr × Checks × Word64) :=
  [(0x00, .cmdNop r, plainChecks c.desc, 0), (0x01, .fence r, plainChecks c.desc, 0), (0x10, .loadWave r, s.loadWaveChecks c, 0),
   (0x11, .loadProg r, s.loadProgChecks c, 0), (0x12, .loadKernel r, s.loadKernelChecks c, 0), (0x13, .loadTable r, s.tableChecks c, 0),
   (0x14, .loadSegtab r, s.segtabChecks c, 0), (0x20, .startRun r, startChecks c.desc, refusedResult), (0x21, .stopRun r, s.stopChecks c, 0),
   (0x22, .strmAttach r, s.attachChecks c, 0), (0x28, .swatchStart r, s.swatchChecks c, 0), (0x29, .swatchStop r, s.swatchStopChecks c, 0),
   (0x31, .calRead r, s.calReadChecks c, 0), (0x32, .calWrite r, s.calWriteChecks c, 0), (0x38, .compress r, s.compressChecks c, 0),
   (0x39, .decompress r, s.decompressChecks c, 0), (0x40, .cfgBatch r, s.batchChecks c, 0), (0x41, .readState r de, s.readStateChecks c, 0),
   (0x48, .timeArm r, s.timeArmChecks c, 0), (0x49, .timeStep r, s.timeStepChecks c, 0)]

/-- A descriptor of opcode op is taken from ring r and passes the checks of its command. -/
def State.passes (s : State) (r : RingIx) (d : BitVec 512) (de : Reads) (op : Nat) : Prop :=
  s.takes r op d ∧ ∀ x ∈ (s.accepted r d).hostCommands r (s.commandOf r d) de, x.1 = op → firstStatus x.2.2.1 = none

/-- The last of the data that command `tag` reads comes to it, and c is the command with all of it (R440, R458). -/
def State.comes (s : State) (tag : Nat) (data : List Byte) (c : HostCmd) : Prop :=
  ∃ x, mget none s.cmds tag = some x ∧ x.reading = true ∧ s.accessWaits (fun q => q.why == .data tag) = false ∧
    c = { x with data := x.data ++ data }

/-- The state in which it goes on: it reads no more. -/
def State.came (s : State) (tag : Nat) (data : List Byte) : State :=
  (s.modCmd tag fun x => if x.reading then { x with data := x.data ++ data } else x).modCmd tag
    fun x => { x with reading := false, data := [] }

/-! ### Die link -/

/-- A flit of body b arrives on half h of an ACTIVE link (R557). -/
def State.receives (s : State) (h : Nat) (f : BitVec 272) (b : BitVec 256) (fixed : Bool) : Prop :=
  (s.dlkOf h).st = .active ∧ (s.dlkOf (far h)).st = .active ∧ flitBody f = some (b, fixed)

/-- The state once it has: the lanes' generators advanced, a corrected error counted, the credit it carries returned (R551,
R557, R559). -/
def State.received (s : State) (h : Nat) (b : BitVec 256) (fixed : Bool) : State :=
  let s := (if fixed then s.count .CORR_COUNT h 0 else s).modDlk h Dlk.clocked
  if bit b 0 then s.modDlk h fun d => d.credit (bits b 3 1) 1 else s

/-- A sequenced flit is the one that half h expects, and the far half's transmitter can have sent it (R559, R561, R562). -/
def State.expects (s : State) (h : Nat) (b : BitVec 256) : Prop :=
  (s.dlkOf (far h)).canSend (kindClass (bits b 15 12)) (bits b 11 4) = true ∧ bits b 11 4 = (s.dlkOf h).expect

/-- The state once it is accepted: the transmitter keeps it until acknowledged, the receiver expects the next (R561, R562). -/
def State.inOrder (s : State) (h : Nat) (b : BitVec 256) : State :=
  (s.modDlk (far h) fun d => d.sent (kindClass (bits b 15 12)) (bits b 11 4) (s.now (far h))).modDlk h fun d =>
    { d with expect := (bits b 11 4 + 1) % 256, nak := false }

/-! ### SPDM -/

/-- The responder of port p receives message m, of a version and code, over session y, and answers it (R469, R470). -/
def State.asked (s : State) (p : Nat) (msg m : List Byte) (y : Option Session) (ver code : Nat) (early : Bool) : Prop :=
  s.requestIn p msg = some (m, y) ∧ s.responds p = true ∧ leField m 0 1 = ver ∧ leField m 1 1 = code ∧ (s.ready = true ∨ early = true)

/-- The state once the request has come: the sequence numbers of its session advance. -/
def State.heard (s : State) (p : Nat) (y : Option Session) : State :=
  match y with
  | some y => s.modSession p y.id fun y => { y with reqSeq := y.reqSeq + 1, rspSeq := y.rspSeq + 1 }
  | none => s

end Sys2Proof.Machine
end

