-- ==== Sys2Proof/Certificates/Slice0/Obligations.lean ====
section
/-!
DEFINITION. The statements for the provers.  A statement about commands names them; where its conclusion is an equation with a next state,
that state is the whole effect, so the equation is the frame as well: what its updates do not name is unchanged.
-/
open Sys2Proof Sys2Proof.Machine

/-! ### The queue of commands and the whole machine -/

/-- A step with a command in front of the queue is that command's meaning on the state with the queue's rest. -/
def Obligations.StepRunsFront : Prop :=
  ∀ (c : Instr) (cs : List Instr) (s : State), step { s with pending := c :: cs } = exec c { s with pending := cs }

/-- A step takes one command from the queue and changes the queue in no other way; with nothing in the queue it changes nothing (the
model's choice, log 4). -/
def Obligations.StepTakesOneCommand : Prop :=
  (∀ s : State, s.pending = [] → step s = .next s) ∧
  (∀ s t : State, s.inv → step s = .next t → t.pending = s.pending.tail)

/-- Every event that can occur has a next state in every state; only an operand that no event can have ends in a fault, illFormed. -/
def Obligations.EveryEventAnswers : Prop :=
  ∀ (c : Instr) (s : State), (c.wf = true → ∃ t, exec c s = .next t) ∧ (c.wf = false → exec c s = .fault .illFormed)

/-- The invariant holds right after reset. -/
def Obligations.InvariantAtReset : Prop := State.reset.inv

/-- Every step keeps the invariant: on-die memory and the register file in canonical order, and both sample-time counters at row
boundaries, their low 5 bits zero (R51). -/
def Obligations.InvariantKept : Prop := ∀ s t : State, s.inv → step s = .next t → t.inv

/-- ROW_BOUNDARY advances the counter of each half that it concerns by 32 and leaves the other's as it is; a boundary of one half alone does
not occur while the counters are kept equal (R27). Whatever the event, the low 5 bits of both counters stay zero (R51). Only ROW_BOUNDARY,
SYNC_INSTANT, PLL_RELOCK, LINK_UP, SELFTEST_END, PIN_RESET and RAIL_INVALID change a sample-time counter; above all no network-time
correction does (R36). -/
def Obligations.CountersMoveByRowsAlone : Prop :=
  ((∀ (b : RowInput) (s : State), b.wf = true → s.inv → s.boot.started = true →
     (b.only ≠ none ∧ s.aligned = true → exec (.rowBoundary b) s = .next s) ∧
     (b.only = none ∨ s.aligned = false →
       ∃ t, exec (.rowBoundary b) s = .next t ∧ t.c0 = (if b.only = some 1 then s.c0 else s.c0 + 32) ∧
         t.c1 = (if b.only = some 0 then s.c1 else s.c1 + 32))) ∧
   (∀ (c : Instr) (s t : State), s.inv → exec c s = .next t → t.c0 &&& 31 = 0 ∧ t.c1 &&& 31 = 0)) ∧
  (∀ (c : Instr) (s t : State), s.inv → exec c s = .next t →
     (match c with
       | .rowBoundary _ => False | .syncInstant => False | .pllRelock _ _ => False | .linkUp _ => False | .selftestEnd _ => False
       | .pinReset => False | .railInvalid _ _ => False | _ => True) →
     t.c0 = s.c0 ∧ t.c1 = s.c1)

/-- Fuses only accumulate: whatever the event, the anti-rollback count never falls and no revoked key becomes valid again (R472,
R497). -/
def Obligations.FusesOnlyAccumulate : Prop :=
  ∀ s t : State, s.inv → step s = .next t →
    s.fuses.count ≤ t.fuses.count ∧ ∀ b : Nat, bit s.fuses.revoked b = true → bit t.fuses.revoked b = true

/-! ### Numbers, times and bytes -/

/-- R58: a 48-bit time extends to the 64-bit value whose low 48 bits equal it and which lies within −2^47 to 2^47 − 1 samples of the
counter; no other value within that distance has those low bits. -/
def Obligations.TimeExtendsNearTheCounter : Prop :=
  (∀ (c : Word64) (t : T48), (ext64 c.toNat t).truncate 48 = t ∧
    ∃ d : Int, -2 ^ 47 ≤ d ∧ d ≤ 2 ^ 47 - 1 ∧ ext64 c.toNat t = c + BitVec.ofInt 64 d) ∧
  (∀ (c : Word64) (t : T48) (d : Int), -2 ^ 47 ≤ d → d ≤ 2 ^ 47 - 1 → (c + BitVec.ofInt 64 d).truncate 48 = t →
    ext64 c.toNat t = c + BitVec.ofInt 64 d)

/-- R56: the signed difference of two 48-bit times lies in the range of a 48-bit two's-complement number and is congruent to a − b; the
later and the earlier of two times follow its sign, and for times less than 2^47 samples apart the order it gives is theirs (R57). R55: a
stamp is rounded up to the next multiple of its queue's grain, modulo 2^48. -/
def Obligations.TimesCompareAndRound : Prop :=
  ((∀ a b : T48, -2 ^ 47 ≤ sdiff48 a b ∧ sdiff48 a b < 2 ^ 47 ∧ (sdiff48 a b - ((a.toNat : Int) - b.toNat)) % 2 ^ 48 = 0) ∧
   (∀ a b : T48, sdiff48 b a > 0 → max48 a b = b ∧ min48 a b = a) ∧
   (∀ a b : T48, sdiff48 b a < 0 → max48 a b = a ∧ min48 a b = b) ∧
   (∀ x y : Nat, x < y → y - x < 2 ^ 47 → sdiff48 (t48 y) (t48 x) > 0)) ∧
  (∀ (t : T48) (q : Nat), ∃ n : Nat, t.toNat ≤ n ∧ n < t.toNat + qGrain q ∧ n % qGrain q = 0 ∧ grain48 t (qGrain q) = BitVec.ofNat 48 n)

/-- R9: a narrowing by n bits rounds half up, y = ⌊x / 2^n + ½⌋, and then saturates to the field; the flag says whether it did. -/
def Obligations.NarrowingRoundsHalfUp : Prop :=
  ∀ (w n : Nat) (x : Int), 1 ≤ w →
    ∃ y : Int, 2 ^ (n + 1) * y ≤ 2 * x + 2 ^ n ∧ 2 * x + 2 ^ n < 2 ^ (n + 1) * (y + 1) ∧
      (-2 ^ (w - 1) ≤ y ∧ y < 2 ^ (w - 1) → narrow w n x = (y, false)) ∧
      (y < -2 ^ (w - 1) → narrow w n x = (-2 ^ (w - 1), true)) ∧
      (2 ^ (w - 1) ≤ y → narrow w n x = (2 ^ (w - 1) - 1, true))

/-- R390: the trimmed sample of a converter code is ⌊((16 × code − OFS) × GAIN) / 2^14 + ½⌋ saturated to 16 bits, and a saturation makes
it over-range. R391: the converter of a flux channel receives t = ⌊4 × c × FGAIN / 2^14 + FOFS + ½⌋ of the range in force, and within the
plausibility limits of FGAIN and FOFS nothing of t is lost and t runs from −135,264 to 135,260. -/
def Obligations.TrimsFollowTheirFormulas : Prop :=
  (∀ (t : Trim) (code : BitVec 12), ∃ y : Int,
     2 ^ 14 * y ≤ (16 * code.toInt - t.ofs.toInt) * t.gain.toNat + 2 ^ 13 ∧
     (16 * code.toInt - t.ofs.toInt) * t.gain.toNat + 2 ^ 13 < 2 ^ 14 * (y + 1) ∧
     (trimCode t code).1.toInt = max (-32768) (min 32767 y) ∧ (y < -32768 ∨ 32767 < y → (trimCode t code).2 = true)) ∧
  (∀ (s : State) (f : Nat) (c : BitVec 16) (range : Bool),
     let x := s.trim (f / 64) (fluxKey (f % 64))
     let g := if range then x.gain1 else x.gain
     let o := if range then x.ofs1 else x.ofs
     let y := (s.fluxConv f (c, range)).toInt
     g.toNat ≤ 16876 → -256 ≤ o.toInt → o.toInt ≤ 256 →
     2 ^ 14 * (y - o.toInt) ≤ 4 * c.toInt * g.toNat + 2 ^ 13 ∧
       4 * c.toInt * g.toNat + 2 ^ 13 < 2 ^ 14 * (y - o.toInt + 1) ∧ -135264 ≤ y ∧ y ≤ 135260)

/-- R291: at its n-th flux sample a ramp from c0 toward c1 plays c0 + s × ⌊n × SLEW × 32,768 / (6,250,000 × G) + ½⌋ until that reaches or
passes c1, when it plays c1 and ends; a SLEW of 0 is treated as 1 (R292). -/
def Obligations.RampFollowsTheSlew : Prop :=
  ∀ (r : Ramp) (n : Nat), 0 < r.gain →
    ∃ k : Nat, 2 * (6250000 * r.gain * k) ≤ 2 * (n * max 1 r.slew * 32768) + 6250000 * r.gain ∧
      2 * (n * max 1 r.slew * 32768) + 6250000 * r.gain < 2 * (6250000 * r.gain * (k + 1)) ∧
      ((r.c1 - r.c0).natAbs ≤ k → r.code n = (r.c1, true)) ∧
      (r.c0 + k < r.c1 → r.code n = (r.c0 + k, false)) ∧ (r.c1 < r.c0 - k → r.code n = (r.c0 - k, false))

/-- R6: multi-byte values are little-endian: byte i of the n bytes of v is v's bits [8i + 7:8i], and the bytes spell v modulo 2^8n. The
on-die memories: a byte written reads back, every byte outside those written reads as before, the memories of the two halves and of each
kind do not meet (R40), and a write keeps the canonical form. -/
def Obligations.BytesAndMemoryReadBack : Prop :=
  ((∀ n v i : Nat, i < n → (leBytes n v)[i]? = some (BitVec.ofNat 8 (v / 2 ^ (8 * i)))) ∧
   (∀ n v : Nat, ofLE (leBytes n v) = v % 2 ^ (8 * n)) ∧
   (∀ bs : List Byte, leBytes bs.length (ofLE bs) = bs)) ∧
  (∀ (s : State) (k : Mem) (h off : Nat) (bs : List Byte), h < 2 → off + bs.length ≤ k.size →
     (s.write k h off bs).read k h off bs.length = bs ∧ (Memory.wf s.mem = true → Memory.wf (s.write k h off bs).mem = true) ∧
     (∀ (k' : Mem) (h' a : Nat), h' < 2 → a < k'.size → (k' ≠ k ∨ h' ≠ h ∨ a < off ∨ off + bs.length ≤ a) →
       (s.write k h off bs).read k' h' a 1 = s.read k' h' a 1))

/-- R165: the flags of register arithmetic. Z and N are those of the 32-bit result; C of ADD is the carry out of bit 31 and of SUB and CMP
that gA ≥ Y unsigned; V is the signed overflow; a shift's C is the last bit shifted out, 0 for a shift by 0, and its V is 0; AND, OR and
XOR clear C and V. R162: the conditions of BCC. -/
def Obligations.FlagsAndConditions : Prop :=
  ((∀ a b : Word, (aluAdd a b).r.toNat = (a.toNat + b.toNat) % 2 ^ 32 ∧ ((aluAdd a b).c = true ↔ 2 ^ 32 ≤ a.toNat + b.toNat) ∧
     ((aluAdd a b).v = true ↔ a.toInt + b.toInt < -2 ^ 31 ∨ 2 ^ 31 ≤ a.toInt + b.toInt)) ∧
   (∀ a b : Word, ((aluSub a b).r.toNat : Int) = ((a.toNat : Int) - b.toNat) % 2 ^ 32 ∧ ((aluSub a b).c = true ↔ b.toNat ≤ a.toNat) ∧
     ((aluSub a b).v = true ↔ a.toInt - b.toInt < -2 ^ 31 ∨ 2 ^ 31 ≤ a.toInt - b.toInt)) ∧
   (∀ (a : Word) (n : Nat), n < 32 → (aluShl a n).r.toNat = a.toNat * 2 ^ n % 2 ^ 32 ∧
     ((aluShl a n).c = true ↔ 0 < n ∧ a.toNat / 2 ^ (32 - n) % 2 = 1) ∧ (aluShl a n).v = false) ∧
   (∀ (a : Word) (n : Nat), n < 32 → (aluShr false a n).r.toNat = a.toNat / 2 ^ n ∧ (aluShr true a n).r.toInt = a.toInt / 2 ^ n ∧
     ∀ k, ((aluShr k a n).c = true ↔ 0 < n ∧ a.toNat / 2 ^ (n - 1) % 2 = 1) ∧ (aluShr k a n).v = false) ∧
   (∀ r : Word, (aluLogic r).r = r ∧ (aluLogic r).c = false ∧ (aluLogic r).v = false) ∧
   (∀ (a b : Word) (n : Nat) (k : Bool), ∀ x ∈ [aluAdd a b, aluSub a b, aluLogic a, aluShl a n, aluShr k a n],
     (x.z = true ↔ x.r = 0) ∧ x.n = bit x.r 31)) ∧
  (∀ z n c v : Bool,
     (condHolds 0 z n c v = true ↔ z) ∧ (condHolds 1 z n c v = true ↔ ¬ z) ∧ (condHolds 2 z n c v = true ↔ c) ∧
     (condHolds 3 z n c v = true ↔ ¬ c) ∧ (condHolds 4 z n c v = true ↔ n) ∧ (condHolds 5 z n c v = true ↔ ¬ n) ∧
     (condHolds 6 z n c v = true ↔ v) ∧ (condHolds 7 z n c v = true ↔ ¬ v) ∧ (condHolds 8 z n c v = true ↔ c ∧ ¬ z) ∧
     (condHolds 9 z n c v = true ↔ ¬ c ∨ z) ∧ (condHolds 10 z n c v = true ↔ (n ↔ v)) ∧
     (condHolds 11 z n c v = true ↔ ¬ (n ↔ v)) ∧ (condHolds 12 z n c v = true ↔ ¬ z ∧ (n ↔ v)) ∧
     (condHolds 13 z n c v = true ↔ z ∨ ¬ (n ↔ v)) ∧ condHolds 14 z n c v = true)

/-! ### Memory and registers -/

/-- R13: every element of every register has an offset of its own within its half: 32 bits wide, aligned, inside the half's 4 MiB, and the
address selects exactly that element. A register that is written reads back, and no other register changes: not another element, nor
another register, nor the other half's, but where the two halves hold one value. -/
def Obligations.RegistersHaveTheirAddresses : Prop :=
  ((∀ (r : Reg) (i j : Nat), i < r.info.cntI → j < r.info.cntJ →
     r.offset i j % 4 = 0 ∧ r.offset i j < 0x400000 ∧ Reg.find (r.offset i j) = some (r, i, j)) ∧
   (∀ (r r' : Reg) (i j i' j' : Nat), i < r.info.cntI → j < r.info.cntJ → i' < r'.info.cntI → j' < r'.info.cntJ →
     r.offset i j = r'.offset i' j' → r = r' ∧ i = i' ∧ j = j')) ∧
  (∀ (s : State) (r : Reg) (h i j : Nat) (v : Word), i < r.info.cntI → j < r.info.cntJ → h < 2 →
     (s.setReg r h i j v).reg r h i j = v ∧
     ∀ (r' : Reg) (h' i' j' : Nat), i' < r'.info.cntI → j' < r'.info.cntJ → h' < 2 →
       (r' ≠ r ∨ i' ≠ i ∨ j' ≠ j ∨ (h' ≠ h ∧ r.info.mirror = false)) → (s.setReg r h i j v).reg r' h' i' j' = s.reg r' h' i' j')

/-- R10, R11: what a write leaves in a register by its access codes, bit by bit: an RW bit takes the value written, a W1C bit written 1
clears, a W1S bit written 1 sets, and a bit of no code keeps its value whatever is written to it. -/
def Obligations.AccessCodesDecideEachBit : Prop :=
  ∀ (d : RegDef) (old v : Word) (b : Nat), b < 32 →
    (bit d.w1s b = true → bit d.w1c b = false → bit d.rw b = false → bit (written d old v) b = (bit old b || bit v b)) ∧
    (bit d.w1s b = false → bit d.w1c b = true → bit d.rw b = false → bit (written d old v) b = (bit old b && !bit v b)) ∧
    (bit d.w1s b = false → bit d.w1c b = false → bit d.rw b = true → bit (written d old v) b = bit v b) ∧
    (bit d.w1s b = false → bit d.w1c b = false → bit d.rw b = false → bit (written d old v) b = bit old b)

/-! ### Writes of registers -/

/-- R32, R33, R34, R42, R43, R44, R75: a write of BAR0 that the port admits goes where `State.WritesGo` says: on the port's own half it acts
on the register that its address selects, if the port's partition may write that, and is counted and ignored if not; for a register of the
far half that answers (R490) it leaves over the die link, or is discarded and counted while the link is down; any other size or alignment,
and an address of no register, has no effect. R480: a write that arrives outside a Secure stream where the
port's partition requires one is counted and has no other effect. R426: in D3hot a port takes no write of BAR0 or BAR2; a write of BAR2
goes to the MSI-X table, and a setting of the configuration space, with the link up, to that; either sends what messages it unmasks. -/
def Obligations.WritesOfBarGoToTheirRegister : Prop :=
  (∀ (p : Port) (via : Via) (v : Word) (s : State), s.admits p via →
     s.WritesGo p v (fun a size => .registerWrite p (.bar0 a size) via v) ∧
     ∀ a : BitVec 24, exec (.pairCommitWrite p a v) s = exec (.registerWrite p (.bar0 a 4) via v) s) ∧
  (∀ (p : Port) (via : Via) (a : BitVec 24) (size : Nat) (b : BitVec 16) (v : Word) (s : State),
     (s.outside p via = true → exec (.registerWrite p (.bar0 a size) via v) s = .next (s.foreign p) ∧
       exec (.registerWrite p (.bar2 b) via v) s = .next s) ∧
     ((s.port p).cfg.d3hot = false → s.unsecured p = true → exec (.pairCommitWrite p a v) s = .next (s.foreign p)) ∧
     ((s.port p).cfg.d3hot = true → s.outside p via = false →
       exec (.registerWrite p (.bar0 a size) via v) s = .next s ∧ exec (.registerWrite p (.bar2 b) via v) s = .next s ∧
       exec (.pairCommitWrite p a v) s = .next s)) ∧
  (∀ (p : Port) (via : Via) (b : BitVec 16) (x : PortSetting) (v : Word) (s : State),
     (s.admits p via → exec (.registerWrite p (.bar2 b) via v) s =
       .next ((s.modPort p fun y => { y with cfg := y.cfg.bar2Write b.toNat v }).settleMsix p)) ∧
     ((s.port p).link = true → exec (.registerWrite p (.config x) via v) s =
       .next ((s.modPort p fun y => { y with cfg := y.cfg.set x }).settleMsix p)) ∧
     ((s.port p).link = false → exec (.registerWrite p (.config x) via v) s = .next s))

/-- R75: a write of the low half of a writable pair is staged for the port alone, so that no other port's staged value and no register
changes; a write of the high half commits both halves, the low one being the value that the same port staged. -/
def Obligations.PairsCommitWithTheHighHalf : Prop :=
  ∀ (p : Port) (lo hi : Reg) (i : Nat) (v : Word) (s : State),
    (lo, hi) ∈ [(Reg.SYNC_LOAD_LO, Reg.SYNC_LOAD_HI), (.CTX_BASE_LO, .CTX_BASE_HI), (.DB_BASE_LO, .DB_BASE_HI),
      (.NT_MAC_LO, .NT_MAC_HI)] →
    i < lo.info.cntI →
    (s.reaches p lo (portHalf p) i →
      ∃ t, exec (.pairCommitWrite p (BitVec.ofNat 24 (lo.addr (portHalf p) i 0)) v) s = .next t ∧ t = { s with staged := t.staged } ∧
        mget 0 t.staged (shadowKey lo (portHalf p) i 0 p) = v ∧
        ∀ (r : Reg) (h' i' j' q : Nat), h' < 2 → i' < r.info.cntI → j' < r.info.cntJ → q < 4 →
          r ≠ lo ∨ i' ≠ i ∨ j' ≠ 0 ∨ q ≠ p.val ∨ (h' ≠ portHalf p ∧ lo.info.mirror = false) →
          mget 0 t.staged (shadowKey r h' i' j' q) = mget 0 s.staged (shadowKey r h' i' j' q)) ∧
    (s.reaches p hi (portHalf p) i →
      ∃ u, exec (.pairCommitWrite p (BitVec.ofNat 24 (hi.addr (portHalf p) i 0)) v) s = .next u ∧ u = { s with regs := u.regs } ∧
        u.reg lo (portHalf p) i 0 = mget 0 s.staged (shadowKey lo (portHalf p) i 0 p) ∧
        u.reg hi (portHalf p) i 0 = v &&& hi.info.rw)

/-- The writes of the drive registers: EN of a converter set and cleared (R197, R198), its MODE (R189) and its MUTE (R192), the clearing of
the event mute (R193), a slot's MUTE (R200) and phase reset (R206), and a converter's scale (R185). -/
def Obligations.DriveWritesAct : Prop :=
  ∀ (p : Port) (h : Half) (k : DacIx) (i : SlotIx) (v : Word) (s : State),
    (s.reaches p .DAC_CTL h k →
      (bit (s.reg .DAC_CTL h k) 0 = false → bit v 0 = true →
        exec (.dacEnable p h k v) s = .next (((s.setReg .DAC_CTL h k 0 (v &&& 7)).testOff h k).enSet (enDac h k) (some (s.now h)))) ∧
      (bit (s.reg .DAC_CTL h k) 0 = true → bit v 0 = false → bit v 1 = bit (s.reg .DAC_CTL h k) 1 →
        exec (.dacDisable p h k v) s =
          .next (let t := ((s.setReg .DAC_CTL h k 0 (v &&& 7)).forEach (dacQueues h k) fun s q => s.disableQueue q).enSet (enDac h k) none
            if t.calDac h k then t.endCal h 0x02 else t)) ∧
      (bit (s.reg .DAC_CTL h k) 0 = false → bit v 0 = false →
        exec (.dacModeWrite p h k v) s = .next (s.setReg .DAC_CTL h k 0 (v &&& 7))) ∧
      (bit v 0 = bit (s.reg .DAC_CTL h k) 0 → bit v 1 = bit (s.reg .DAC_CTL h k) 1 →
        exec (.hostMute p h k v) s = .next (s.setReg .DAC_CTL h k 0 (v &&& 7))) ∧
      (bit (s.reg .DAC_CTL h k) 0 = true → bit v 0 = true → bit v 1 ≠ bit (s.reg .DAC_CTL h k) 1 →
        exec (.dacModeWrite p h k v) s =
          .next ((s.count .DRV_IGNORED_WRITES h 0).setReg .DAC_CTL h k 0 (setBit v 1 (bit (s.reg .DAC_CTL h k) 1) &&& 7)))) ∧
    (s.reaches p .DAC_STATUS h k → exec (.evMuteClear p h k v) s = .next (s.plain .DAC_STATUS h k 0 v)) ∧
    (s.reaches p .SLOT_CTL h i →
      (bit v 1 = false → exec (.slotMute p h i v) s =
        .next ((s.setReg .SLOT_CTL h i 0 (v &&& 1)).delay (Reg.SLOT_CTL.key h i 0) (s.row h + 1) (v &&& 1))) ∧
      (bit v 1 = true → s.slotInRun h i = false → exec (.slotRstph p h i v) s =
        .next (((s.setReg .SLOT_CTL h i 0 (v &&& 1)).delay (Reg.SLOT_CTL.key h i 0) (s.row h + 1) (v &&& 1)).oscSet (slotQ h i)
          (s.nextBoundary h) fun o => { o with p := 0, tref := t48 (s.nextBoundary h) })) ∧
      (bit v 1 = true → s.slotInRun h i = true → exec (.slotRstph p h i v) s =
        .next (((s.setReg .SLOT_CTL h i 0 (v &&& 1)).delay (Reg.SLOT_CTL.key h i 0) (s.row h + 1) (v &&& 1)).count .DRV_IGNORED_WRITES h 0))) ∧
    (s.reaches p .DAC_SCALE h k → exec (.dacScaleWrite p h k v) s =
      .next ((s.setReg .DAC_SCALE h k 0 (v &&& 0xFFFF)).delay (Reg.DAC_SCALE.key h k 0) (s.row h + 29) (v &&& 0xFFFF)))

/-- The writes of the readout registers: EN of an input set and cleared (R240, R241), and of a channel CLR_AVG (R235) and RSTPH (R245). -/
def Obligations.ReadoutWritesAct : Prop :=
  ∀ (p : Port) (i : InIx) (c : ChIx) (v : Word) (s : State),
    (s.reaches p .IN_CTL (i / 8) (i % 8) →
      (bit (s.reg .IN_CTL (i / 8) (i % 8)) 0 = false → bit v 0 = true →
        exec (.inEnable p i v) s =
          .next (((s.setReg .IN_CTL (i / 8) (i % 8) 0 (v &&& 1)).testOff (i / 8) (88 + i % 8)).enSet (enInput i) (some (s.now (i / 8))))) ∧
      (bit (s.reg .IN_CTL (i / 8) (i % 8)) 0 = true → bit v 0 = false →
        exec (.inDisable p i v) s =
          .next (let t := (s.setReg .IN_CTL (i / 8) (i % 8) 0 (v &&& 1)).forEach (inQueues i) fun s q => s.disableQueue q
            let t := { t with wins := t.wins.filter fun w => w.ch / 32 ≠ i.val || decide (w.t + w.len ≤ s.nextBoundary (i / 8)) }
            let t := (t.capSourceOff i).enSet (enInput i) none
            if t.calOn (i / 8) 3 i || t.calOn (i / 8) 4 i then t.endCal (i / 8) 0x02 else t))) ∧
    (s.reaches p .CH_CTL (c / 256) (c % 256) →
      s.inRun (1024 + c) = false → (bit v 7 = true → s.ownLane (16 * (c / 256) + bits v 11 8) = s.ownPair (c / 32)) →
      (bit v 3 = true → bit v 2 = false →
        exec (.avgClr p c v) s = .next ((s.setReg .CH_CTL (c / 256) (c % 256) 0 (v &&& 0xF83)).clearAvg c)) ∧
      (bit v 3 = false → bit v 2 = true →
        exec (.chRstph p c v) s = .next ((s.setReg .CH_CTL (c / 256) (c % 256) 0 (v &&& 0xF83)).oscSet (1024 + c) (s.nextBoundary (c / 256))
          fun o => { o with p := 0, tref := t48 (s.nextBoundary (c / 256)) })))

/-- The writes of the flux registers: EN of a channel set (R305) and cleared (R306), RANGE at once while the channel is off and by a ramp
while it is on (R293, R294), MODE (R308), LEVEL (R307) and a group's strobe (R286). -/
def Obligations.FluxWritesAct : Prop :=
  ∀ (p : Port) (f : FluxIx) (g : GroupIx) (v : Word) (s : State),
    (s.reaches p .FLX_CTL (f / 64) (f % 64) → s.fluxChanging f = false →
      (bit (s.flxCtl f) 0 = false → bit v 0 = true → bit v 1 = bit (s.flxCtl f) 1 → bit v 2 = bit (s.flxCtl f) 2 →
        exec (.fluxEnable p f v) s =
          .next (((s.testOff (f / 64) (24 + f % 64)).enSet (enFlux f) (some (s.now (f / 64)))).setReg .FLX_CTL (f / 64) (f % 64) 0 (setBit (setBit (s.flxCtl f) 0 true) 3 (bit v 3)))) ∧
      (bit (s.flxCtl f) 0 = true → bit v 0 = true → bit v 1 = bit (s.flxCtl f) 1 → bit v 2 ≠ bit (s.flxCtl f) 2 → s.inRun (fluxQ f) = false →
        exec (.rangeChangeStart p f v) s =
          .next ((s.setReg .FLX_CTL (f / 64) (f % 64) 0 (setBit (setBit (s.flxCtl f) 0 true) 3 (bit v 3))).modFlux f fun c =>
            { c with phase := .rampDown, newRange := bit v 2,
                     nextRamp := some ⟨.rangeDown, 0, 0, s.nextBoundary (f / 64) + 640, (s.reg .FLX_SLEW (f / 64) (f % 64)).toNat,
                       if bit (s.flxCtl f) 2 then 2 else 1⟩ })) ∧
      (bit (s.flxCtl f) 0 = false → bit v 0 = false → bit v 1 = bit (s.flxCtl f) 1 → bit v 2 ≠ bit (s.flxCtl f) 2 →
        exec (.rangeChangeStart p f v) s =
          .next (s.setReg .FLX_CTL (f / 64) (f % 64) 0 (setBit (setBit (setBit (s.flxCtl f) 0 false) 3 (bit v 3)) 2 (bit v 2)))) ∧
      (bit (s.flxCtl f) 0 = false → bit v 0 = false → bit v 1 ≠ bit (s.flxCtl f) 1 → bit v 2 = bit (s.flxCtl f) 2 → s.fluxFree f = true →
        exec (.fluxModeWrite p f v) s =
          .next ((s.setReg .FLX_CTL (f / 64) (f % 64) 0 (setBit (setBit (setBit (s.flxCtl f) 0 false) 3 (bit v 3)) 1 (bit v 1))).modFlux f
            fun c => { c with pending := c.code })) ∧
      (bit (s.flxCtl f) 0 = true → bit v 0 = true → bit v 1 ≠ bit (s.flxCtl f) 1 → bit v 2 = bit (s.flxCtl f) 2 → s.fluxFree f = true →
        exec (.fluxModeWrite p f v) s =
          .next ((s.setReg .FLX_CTL (f / 64) (f % 64) 0 (setBit (setBit (s.flxCtl f) 0 true) 3 (bit v 3))).modFlux f
            fun c => { c with modeNext := some (bit v 1) }))) ∧
    (s.reaches p .FLX_CTL (f / 64) (f % 64) → s.fluxChanging f = false ∨ (s.fluxCh f).phase = .none →
      bit (s.flxCtl f) 0 = true → bit v 0 = false → bit v 1 = bit (s.flxCtl f) 1 → bit v 2 = bit (s.flxCtl f) 2 →
      exec (.fluxDisable p f v) s =
        .next ((s.setReg .FLX_CTL (f / 64) (f % 64) 0 (setBit (setBit (s.flxCtl f) 0 false) 3 (bit v 3))).fluxDisable f)) ∧
    (s.reaches p .FLX_CTL (f / 64) (f % 64) → s.fluxChanging f = true →
      bit (s.flxCtl f) 0 = false ∨ bit v 0 = true ∨ (s.fluxCh f).phase ≠ .none →
      exec (.rangeChangeStart p f v) s = .next (s.flxIgnored (f / 64))) ∧
    (s.reaches p .FLX_LEVEL (f / 64) (f % 64) →
      exec (.flxLevelWrite p f v) s =
        .next (if bit (s.flxCtl f) 0 && s.fluxFree f then s.levelAt f (s.nextBoundary (f / 64) + 640) (BitVec.ofNat 16 v.toNat)
          else s.flxIgnored (f / 64))) ∧
    (s.reaches p .FG_STROBE (g / 8) (g % 8) → bit v 0 = true → (∀ i < 8, s.inRun (fluxQ (8 * g + i)) = false) →
      exec (.fgStrobe p g v) s = .next { s with strobes := s.strobes ++ [⟨g, s.nextBoundary (g / 8) + 640⟩] })

/-- The writes of the monitors (R317, R323, R326, R336) and of AUX_START, whose start registers at the next row
boundary (R329). -/
def Obligations.MonitorWritesAct : Prop :=
  ∀ (p : Port) (h : Half) (m : MonIx) (v : Word) (s : State),
    (s.reaches p .MON_STATUS (m / 96) (m % 96) →
      (bit v 8 = true → bit v 0 = false → exec (.monClr p m v) s = .next (s.monInside (m / 96) (m % 96))) ∧
      (bit v 8 = false → bit v 0 = true → exec (.monClr p m v) s = .next (s.regBit .MON_STATUS (m / 96) (m % 96) 0 false)) ∧
      (bit v 8 = false → bit v 0 = false → exec (.monClr p m v) s = .next s)) ∧
    (s.reaches p .MON_CFG (m / 96) (m % 96) →
      let old := s.reg .MON_CFG (m / 96) (m % 96)
      let mask : Word := if 24 ≤ m.val % 96 ∧ m.val % 96 < 88 then 0xFF03001D else 0xFF03000D
      (bit old 2 = false → bits old 17 16 = 0 → bits v 17 16 = 0 → bit v 0 = true → bit v 2 = true →
        exec (.monLock p m v) s = .next (s.setReg .MON_CFG (m / 96) (m % 96) 0 (v &&& mask))) ∧
      (bit old 2 = false → bits old 17 16 = 0 → bits v 17 16 = 0 → bit v 0 = false →
        exec (.monDisable p m v) s =
          .next (let t := s.setReg .MON_CFG (m / 96) (m % 96) 0 (v &&& mask)
            let t := { t with blanks := t.blanks.filter fun x => x != 96 * (m.val / 96) + m.val % 96 }
            t.setReg .MON_STATUS (m / 96) (m % 96) 0 (setBit (setBit (t.reg .MON_STATUS (m / 96) (m % 96)) 31 false) 30 false))) ∧
      (bit old 2 = false → bits v 17 16 ≠ 0 → s.monWatchedOn (m / 96) (m % 96) = false → bit v 0 = true →
        exec (.monTestWrite p m v) s = .next (s.setReg .MON_CFG (m / 96) (m % 96) 0 (v &&& mask))) ∧
      (bit old 2 = false → bits old 17 16 ≠ 0 → bits v 17 16 = 0 → bit v 0 = true →
        exec (.monTestWrite p m v) s = .next ((s.setReg .MON_CFG (m / 96) (m % 96) 0 (v &&& mask)).monInside (m / 96) (m % 96))) ∧
      (bit old 2 = true → exec (.monLock p m v) s = .next (s.count .MON_IGNORED_WRITES (m / 96) 0) ∧
        exec (.monDisable p m v) s = .next (s.count .MON_IGNORED_WRITES (m / 96) 0) ∧
        exec (.monTestWrite p m v) s = .next (s.count .MON_IGNORED_WRITES (m / 96) 0))) ∧
    (s.reaches p .AUX_START h 0 → bit v 0 = true →
      exec (.auxStart p h v) s = .next (s.modAux h fun a => { a with starts := a.starts + 1 }))

/-- The writes of the lanes: START (R366), ABORT (R370), EN cleared (R371, R388) and a fault cleared (R385). -/
def Obligations.LaneWritesAct : Prop :=
  ∀ (p : Port) (l : LaneIx) (v : Word) (s : State),
    (s.reaches p .LANE_CTL (l / 16) (l % 16) →
      let t := s.setReg .LANE_CTL (l / 16) (l % 16) 0 (v &&& 1)
      (bit v 0 = true → bit v 1 = true → bit v 2 = false → t.laneCanStart l = true → exec (.laneStart p l v) s = .next (t.laneStart l none)) ∧
      (bit v 0 = true → bit v 1 = true → bit v 2 = false → t.laneCanStart l = false →
        exec (.laneStart p l v) s = .next (t.count .DSP_IGNORED_WRITES (l / 16) 0)) ∧
      (bit v 0 = true → bit v 1 = false → bit v 2 = true → exec (.laneAbort p l v) s = .next (t.modLane l abortLane)) ∧
      (bit v 0 = false → bit v 1 = false → bit v 2 = false →
        exec (.laneDisable p l v) s =
          .next ((t.count .QDROP (l / 16) (l % 16) (t.lane l).queue.length).modLane l fun x => { x with queue := [] }))) ∧
    (s.reaches p .DSP_LANE_STATUS (l / 16) (l % 16) → bit v 1 = true → (s.lane l).st = .fault →
      exec (.laneFaultClear p l v) s =
        .next ((s.setReg .DSP_LANE_STATUS (l / 16) (l % 16) 0 (s.reg .DSP_LANE_STATUS (l / 16) (l % 16) &&& ~~~ (v &&& 5))).modLane l
          fun x => { x with st := .idle, code := 0 }))

/-- The writes of the event registers (R412, R421), of KICK (R437), of a region's control (R476) and of the compressor's enable (R523). -/
def Obligations.EventAndRingWritesAct : Prop :=
  ∀ (p : Port) (h : Half) (v : Word) (s : State),
    (s.reaches p .EC_FIRE h 0 →
      (bits v 9 0 / 512 = h → s.ownEvent (bits v 9 0) = s.portPart p → s.ecClass (bits v 9 0) = 0 →
        exec (.ecFire p h v) s = .next (s.fire (bits v 9 0) 0 (s.row h))) ∧
      (bits v 9 0 / 512 ≠ h ∨ s.ownEvent (bits v 9 0) ≠ s.portPart p ∨ s.ecClass (bits v 9 0) ≠ 0 →
        exec (.ecFire p h v) s = .next (s.evrIgnored h))) ∧
    (∀ u : Fin 448, s.reaches p .TASK_SEL h u → 0x68 ≤ u.val → u.val < 0x70 → bit v 30 = true →
      v &&& 0x9FF803FF = (s.regBit .TASK_SEL h u 29 false).reg .TASK_SEL h u &&& 0x9FF803FF →
      exec (.taskSelClr p h u v) s = .next (s.regBit .TASK_SEL h u 29 false)) ∧
    (∀ i : Fin 2, s.reaches p .KICK h i →
      exec (.kick p h i) s = .next (s.modPort (2 * h + i) fun x => { x with kicked := true, interval := s.pollMin (2 * h + i) })) ∧
    (∀ (k : Fin 5) (r : Fin 256), s.reaches p .RGN_CTL h k →
      (bit v 31 = false → exec (.rgnCtlWrite p h k r v) s = .next (s.setReg .RGN_CTL 0 k r (v &&& 0x80000003))) ∧
      (bit v 31 = true → bit (s.reg .RGN_CTL 0 k r) 31 = false → s.regionSize k r ≠ 0 → s.regionBase k r + s.regionSize k r ≤ 2 ^ 64 →
        s.regionTotal k + s.regionSize k r ≤ 2 ^ 41 →
        exec (.rgnCtlWrite p h k r v) s = .next (s.setReg .RGN_CTL 0 k r (v &&& 0x80000003))) ∧
      (bit v 31 = true → bit (s.reg .RGN_CTL 0 k r) 31 = false →
        s.regionSize k r = 0 ∨ 2 ^ 64 < s.regionBase k r + s.regionSize k r ∨ 2 ^ 41 < s.regionTotal k + s.regionSize k r →
        exec (.rgnCtlWrite p h k r v) s = .next (s.rgnIgnored k))) ∧
    (s.reaches p .CMP_CTL h 0 → s.cmpOn h = true → bit v 0 = false →
      exec (.cmpDisable p h v) s =
        .next (let t := s.setReg .CMP_CTL h 0 0 (v &&& 0x1F)
          (t.modCmp h fun c => { c with late := c.cur.isSome }).forEach ((t.cmpOf h).jobs.filter fun j => !j.started && (t.cmpOf h).cur != some (CmpUser.job j.tag) &&
            (match j.kind with | .load _ _ _ _ => false | _ => true)) fun s j => s.jobEnd h j 0x0A))

/-- The writes of the boot and time registers: BOOT_ABORT (R494) and RECAST (R501), from HP2 and HP3 over the die link (R23, R32),
SYNC_CTL (R66, R67), TIME_VALID (R77), NT_RATE (R540), NT_CTL (R542) and the disarming of an action (R544). The writes of the die link's
and the faults' registers: DORMANT set and cleared (R568), SRC_FORCE (R581), LATCHED cleared (R580), FIRST_CLR (R582), FN_ACK (R588),
FN_MODE (R589), BIND_OFF (R593) and EXIT (R594). -/
def Obligations.ClockBootAndFaultWritesAct : Prop :=
  (∀ (p : Port) (h : Half) (v : Word) (s : State),
     (s.reaches p .BOOT_CTL 0 0 → exec (.bootAbort p) s = .next (s.bootAbort p)) ∧
     (s.reaches p .BOOT_RECAST 0 0 →
       (s.portPart p = some 4 → exec (.recast p) s = .next s.recast) ∧
       (s.portPart p ≠ some 4 → exec (.recast p) s = .next s.bootIgnored)) ∧
     (portHalf p = 1 → (s.port p).cfg.d3hot = false → s.unsecured p = false → s.linkUp = true →
       exec (.bootAbort p) s = .next (s.send 1 (.regWrite p (Reg.BOOT_CTL.addr 0 0 0) 2)) ∧
       exec (.recast p) s = .next (s.send 1 (.regWrite p (Reg.BOOT_RECAST.addr 0 0 0) 1))) ∧
     (s.reaches p .SYNC_CTL h 0 →
       (s.syncIdle = true → exec (.syncArm p h) s = .next (s.setReg .SYNC_CTL 0 0 0 1)) ∧
       (s.syncIdle = false → exec (.syncArm p h) s = .next (s.regBit .SYNC_STATUS 0 0 2 true)) ∧
       exec (.syncDisarm p h) s = .next { s.setReg .SYNC_CTL 0 0 0 0 with syncAt := none }) ∧
     (s.reaches p .CLK_STATUS h 0 →
       exec (.timeValidSet p h) s = .next (if bits (s.reg .CLK_STATUS h) 2 0 = 7 then s.plain .CLK_STATUS h 0 0 8 else s)) ∧
     (s.reaches p .NT_RATE h 0 →
       (bit (s.reg .NT_CTL 0) 28 = true → s.servo.st ≠ 0 → s.servo.st ≠ 4 → s.servo.st ≠ 5 →
         exec (.ntRateWrite p h v) s = .next (s.ntUpdate (clampRate v) 0)) ∧
       (bit (s.reg .NT_CTL 0) 28 = false → exec (.ntRateWrite p h v) s = .next (s.count .NT_IGNORED h 0))) ∧
     (s.reaches p .NT_CTL h 0 → s.anyArmed = false → bit v 31 = bit (s.reg .NT_CTL 0) 31 → (bit v 29 = true → bit v 30 = true) →
       exec (.ntCtlWrite p h v) s = .next ((s.setReg .NT_CTL 0 0 0 (v &&& 0xFC0000FF)).setReg .NT_CTL 1 0 0 (v &&& 0xFC0000FF))) ∧
     (∀ a : Fin 5, s.reaches p .TRIG_STATE h a → bit v 30 = true →
       exec (.trigDisarm p h a v) s = .next (s.regBit .TRIG_STATE h a 31 false))) ∧
  (∀ (p : Port) (h : Half) (i : Fin 512) (v : Word) (s : State),
     (s.reaches p .DLK_CTL h 0 →
       let t := s.forEach (if s.linkUp then [0, 1] else [h.val]) fun s g => s.regBit .DLK_CTL g 0 1 (bit v 1)
       (bit v 0 = true → bit (t.reg .DLK_CTL h) 0 = false → t.dormantOk = true →
         exec (.dormantEnter p h v) s =
           .next (((t.loseMsgs 0).loseMsgs 1).forEach [0, 1] fun s g =>
             (s.regBit .DLK_CTL g 0 0 true).modDlk g fun d => { ({ } : Dlk) with st := .dormant, cause := d.cause })) ∧
       (bit v 0 = true → bit (t.reg .DLK_CTL h) 0 = false → t.dormantOk = false →
         exec (.dormantEnter p h v) s = .next (t.count .DLK_IGNORED h 0)) ∧
       (bit v 0 = false → bit (t.reg .DLK_CTL h) 0 = true →
         exec (.dormantExit p h v) s =
           .next (t.forEach [0, 1] fun s g =>
             (s.regBit .DLK_CTL g 0 0 false).modDlk g fun d => { ({ } : Dlk) with st := .training, wake := true, cause := d.cause }))) ∧
     (s.reaches p .SRC_FORCE h i → bit v 0 = true → (sourceRow i).isSome = true →
       exec (.srcForce p h i v) s = .next { s with forced := s.forced ++ [(h.val, i.val)] }) ∧
     (s.reaches p .SRC_STATUS h i → bit v 1 = true →
       exec (.latchedClear p h i v) s = .next (s.regBit .SRC_STATUS h i 1 false).refreshFaultN) ∧
     (s.reaches p .FIRST_CLR h 0 → bit v 0 = true →
       exec (.firstClr p h v) s =
         .next { ((s.regBit .FIRST_ID h 0 31 false).setPair .FIRST_T_LO .FIRST_T_HI h 0 0).regBit .FLT_STATUS h 0 30 false with
           firstRow := mset none s.firstRow h none }) ∧
     (s.reaches p .FN_ACK h 0 → bit (s.reg .FLT_CTL 0) 4 = false → s.faultN.asserted = true → s.faultN.reassert = none →
       s.faultN.pending = false →
       (s.faultN.since + 20000 ≤ s.now 0 →
         exec (.fnAck p h v) s = .next { s with faultN := { s.faultN with asserted := false, release := none, again := false } }) ∧
       (s.now 0 < s.faultN.since + 20000 →
         exec (.fnAck p h v) s = .next { s with faultN := { s.faultN with release := some (s.faultN.since + 20000) } })) ∧
     (s.reaches p .FLT_CTL h 0 →
       (bit v 4 = true → exec (.fnModeWrite p h v) s = .next (s.setReg .FLT_CTL 0 0 0 (v &&& 0x1F)).refreshFaultN) ∧
       (bit v 4 = false → bit (s.reg .FLT_CTL 0) 4 = false → exec (.fnModeWrite p h v) s = .next (s.setReg .FLT_CTL 0 0 0 (v &&& 0x1F)))) ∧
     (s.reaches p .QUIET_CTL h 0 →
       (bit v 1 = false → bit v 0 = true → exec (.bindOff p h v) s = .next (s.enterQuiet h 2 0)) ∧
       (bit v 1 = true → bit v 0 = false → s.isQuiet h = true →
         exec (.exit p h v) s = .next (s.forEach (s.reached h) fun t g =>
           t.modQuiet g fun q => { q with lastReq := some (t.row g), granted := s.exitOk h,
                                          exitResult := if s.exitOk h then q.exitResult else 0x0A })) ∧
       (bit v 1 = true → bit v 0 = false → s.isQuiet h = false → exec (.exit p h v) s = .next s)))

/-! ### Rails, resets and cast-on -/

/-- Rails and resets (R304, R311, R487, R605, R606, R625): what a rail's coming and going does, what a pin reset and the loss of a supply
leave, what the pins show without their rails and in a pin reset, and when SELFTEST starts. -/
def Obligations.RailsAndResetsAct : Prop :=
  ∀ (h : Half) (r : Fin 9) (s : State),
    (r.val < 7 → exec (.railValid h r) s = .next (s.regBit .PWR_STATUS h 0 r true)) ∧
    (7 ≤ r.val → bits ((s.regBit .PWR_STATUS h 0 r true).reg .PWR_STATUS h) 8 7 ≠ 3 →
      exec (.railValid h r) s = .next (s.regBit .PWR_STATUS h 0 r true)) ∧
    (7 ≤ r.val → bits (s.reg .PWR_STATUS h) 8 7 ≠ 3 → bits ((s.regBit .PWR_STATUS h 0 r true).reg .PWR_STATUS h) 8 7 = 3 →
      exec (.railValid h r) s = .next ((s.regBit .PWR_STATUS h 0 r true).forEach (List.range 64) fun s c => s.fluxDead h c)) ∧
    (bit (s.reg .PWR_STATUS h) r = true → r.val < 7 →
      exec (.railInvalid h r) s = .next ((s.regBit .PWR_STATUS h 0 r false).cold s.boot.resetLow)) ∧
    (bit (s.reg .PWR_STATUS h) r = true → 7 ≤ r.val → bits (s.reg .PWR_STATUS h) 8 7 = 3 →
      exec (.railInvalid h r) s =
        .next (let t := s.regBit .PWR_STATUS h 0 r false
          let t := t.occur h 0x0C4 { parts := ((List.range 8).filterMap fun g => t.ownFluxGroup (8 * h.val + g)).eraseDups }
          t.forEach (List.range 64) fun s c => s.fluxDead h c)) ∧
    (∃ t, exec .pinReset s = .next t ∧ t.boot = { st := .cold, resetLow := true } ∧ t.mem = [] ∧ t.thr = [] ∧ t.run = [] ∧ t.que = [] ∧
      t.cmds = [] ∧ t.rings = [] ∧ t.spdm = State.reset.spdm ∧ t.fuses = s.fuses ∧ t.pending = s.pending ∧
      ∀ h' k, t.rfPin h' k = .highZ ∧ t.inPin h' k = .highZ ∧ t.auxPin h' k = .highZ ∧ t.faultPin = .highZ) ∧
    (∀ k, bit (s.reg .PWR_STATUS h) 2 = false ∨ bit (s.reg .PWR_STATUS h) 3 = false → s.rfPin h k = .highZ ∧ s.inPin h k = .highZ) ∧
    (∀ k, bit (s.reg .PWR_STATUS h) 3 = false → s.auxPin h k = .highZ) ∧
    (∀ k, s.fluxRails h = false → k < 64 → s.fluxPin (64 * h + k) = .highZ) ∧
    (s.boot.st = .cold → s.railsValid = true → bit (s.reg .CLK_STATUS 0) 0 = true →
      exec .selftestStart s = .next { s with boot := { s.boot with st := .selftest, resetLow := false } })

/-- Cast-on (R487 to R492, R494, R498, R499): SELFTEST_END, GO, VERIFY_START, VERIFY_END, FW_STARTED, FW_START_TIMEOUT and SECTION_START. -/
def Obligations.CastOnAdvances : Prop :=
  ∀ (p : Port) (ring : List Byte) (rep : VerifyReport) (s : State),
    (s.boot.st = .selftest → s.linkUp = true → s.clocked = true →
      ∃ t, exec (.selftestEnd .passed) s = .next t ∧ t.boot = { s.boot with st := .awaitImage, recast := false, started := true } ∧
        (s.boot.started = false → t.c0 = 0 ∧ t.c1 = 0) ∧ (s.boot.started = true → t.c0 = s.c0 ∧ t.c1 = s.c0) ∧ t.mem = s.mem ∧ t.nt = [] ∧
        t.ntUpd = []) ∧
    (s.boot.st = .selftest → ∀ r : SelfTest, r ≠ .passed →
      exec (.selftestEnd r) s = .next { s with boot := { s.boot with st := .failed, cause := failCause r } }) ∧
    ((s.port p).cfg.d3hot = false → s.unsecured p = false → portHalf p = 1 →
      exec (.go p ring) s = .next (if s.linkUp then s.send 1 (.go p ring) else s.count .FAR_WR_DISCARD 1 0)) ∧
    (∀ cs : List (Nat × Nat), (s.port p).cfg.d3hot = false → s.unsecured p = false → portHalf p = 0 →
      s.boot.st = .awaitImage ∨ s.boot.st = .verify → s.pstate p = 0 ∨ s.pstate p = 5 ∨ s.pstate p = 6 →
      (s.reg .BOOT_LEN 0 p).toNat % 64 = 0 → 3648 ≤ (s.reg .BOOT_LEN 0 p).toNat → (s.reg .BOOT_LEN 0 p).toNat ≤ 33554432 →
      1 ≤ (s.reg .BOOT_RING_COUNT 0 p).toNat → (s.reg .BOOT_RING_COUNT 0 p).toNat ≤ 1024 →
      bootChunks ring (s.reg .BOOT_RING_COUNT 0 p).toNat = some cs →
      cs.foldl (fun a c => a + c.2) 0 = (s.reg .BOOT_LEN 0 p).toNat →
      exec (.go p ring) s = .next ((s.modBootPort p fun _ => { st := .queued, chunks := cs }).modBoot fun b =>
        { b with queue := b.queue ++ [p.val] })) ∧
    ((s.port p).cfg.d3hot = false → s.unsecured p = false → portHalf p = 0 →
      s.boot.st = .awaitImage ∨ s.boot.st = .verify → s.pstate p = 0 ∨ s.pstate p = 5 ∨ s.pstate p = 6 →
      (s.reg .BOOT_LEN 0 p).toNat % 64 ≠ 0 ∨ (s.reg .BOOT_LEN 0 p).toNat < 3648 ∨ 33554432 < (s.reg .BOOT_LEN 0 p).toNat ∨
        (s.reg .BOOT_RING_COUNT 0 p).toNat = 0 ∨ 1024 < (s.reg .BOOT_RING_COUNT 0 p).toNat →
      exec (.go p ring) s = .next (s.refuse p 0x15)) ∧
    (∀ (q : Nat) (l : List Nat), s.boot.queue = q :: l → s.boot.st = .awaitImage ∨ s.boot.st = .verify → s.loading = none →
      exec .verifyStart s = .next ((s.modBootPort q fun x => { x with st := .loading }).modBoot fun b => { b with st := .verify, queue := l })) ∧
    (∀ q : Nat, s.loading = some q → s.boot.st = .verify →
      (s.bootPort q).data.length = (s.reg .BOOT_LEN 0 q).toNat ∨ (s.bootPort q).failed = true ∨
        (512 ≤ (s.bootPort q).data.length ∧ (s.headerFailure q (s.bootPort q).data).isSome = true) →
      exec (.verifyEnd rep) s = .next (match s.imageFailure q (s.bootPort q).data (s.bootPort q).failed rep with
        | some c => ((s.refuse q c).modBoot fun b => { b with refusal := if 0x40 ≤ c then c else b.refusal }).afterRefusal
        | none => s.winImage q (s.bootPort q).data rep)) ∧
    (s.boot.st = .start → exec .fwStarted s = .next (s.modBoot fun b => { b with st := .ready, sect := b.sect ||| 1 }).bootNotice) ∧
    (s.boot.st = .start → exec .fwStartTimeout s = .next (s.refuseStart 0x18)) ∧
    (s.ready = true → exec .sectionStart s = .next { s with boot := { s.boot with sect := (s.boot.sect <<< 1) ||| 1 } })

/-! ### Clocks, queues and markers -/

/-- Synchronisation and the clocks (R66 to R69, R489, R611): SYNC_EDGE, SYNC_INSTANT, REF_LOSS, PLL_UNLOCK, PLL_RELOCK and
HALF_ALIGN_SEND. -/
def Obligations.ClockEventsAct : Prop :=
  ∀ (h : Half) (off : Fin 4) (s : State),
    (bit (s.reg .SYNC_CTL 0) 0 = true → s.syncAt = none →
      exec (.syncEdge off) s = .next { s with syncAt := some (s.now 0 + 8 * off.val + 1600) }) ∧
    (∀ t : Nat, s.syncAt = some t → t < s.now 0 + 32 →
      ∃ u, exec .syncInstant s = .next u ∧
        (let v := s.pair .SYNC_LOAD_LO .SYNC_LOAD_HI 0 0 / 32 * 32
         let x := s.setPair .SYNC_PREV_LO .SYNC_PREV_HI 0 0 (t / 32 * 32)
         let x := { (x.setReg .SYNC_CTL 0 0 0 0).regBit .SYNC_STATUS 0 0 1 true with syncAt := none }
         u = (x.placeRow 0 (t - s.now 0) v).placeRow 1 (t - s.now 0) v ∧
           (s.inv → u.c0 = BitVec.ofNat 64 v ∧ u.c1 = BitVec.ofNat 64 v))) ∧
    (s.boot.st ≠ .cold → bit (s.reg .CLK_STATUS 0) 0 = true →
      exec .refLoss s =
        .next ((((s.forEach [0, 1] fun s h => s.setReg .CLK_STATUS h 0 0 0).backToSelftest).occur 0 0x040).occur 1 0x040)) ∧
    (s.boot.st ≠ .cold → bit (s.reg .CLK_STATUS h) 0 = true → bit (s.reg .CLK_STATUS h) 1 = true →
      exec (.pllUnlock h) s =
        .next ((((s.regBit .CLK_STATUS h 0 1 false).forEach [0, 1] fun s g =>
          s.setReg .CLK_STATUS g 0 0 (s.reg .CLK_STATUS g &&& 3)).backToSelftest).occur h 0x041)) ∧
    (s.boot.st ≠ .cold ∨ s.boot.recast = true → exec (.pllRelock h true) s =
      .next (((s.forEach [0, 1] fun s g => s.regBit .CLK_STATUS g 0 0 true).regBit .CLK_STATUS h 0 1 true).realign)) ∧
    (s.boot.st ≠ .cold ∨ s.boot.recast = true → exec (.pllRelock h false) s =
      .next (s.forEach [0, 1] fun s g => s.regBit .CLK_STATUS g 0 0 true)) ∧
    (s.now 0 % 1048576 = 0 → s.linkUp = true → exec .halfAlignSend s = .next (s.send 0 (.time 0 (s.now 0))))

/-- Queues (R62, R63, R64, R110, R111): the head of a queue that has come due leaves it, and takes effect in the row of its stamp. -/
def Obligations.QueuesReleaseAndApply : Prop :=
  ∀ (qi : QId) (c : Cmd) (cs : List Cmd) (w : WaveCheck) (x : Released) (m : MarkIx) (s : State), qi.kind ≠ .flux ∨ qi.idx.val < 128 →
    ((s.queue (qKey qi)).cmds = c :: cs → rowOf (s.ext (qHalf (qKey qi)) c.stamp) ≤ s.row (qHalf (qKey qi)) + qLead (qKey qi) →
      (∀ n p, c.act ≠ .pattern n p) → (∀ p, c.act = .pulse p → p.stream = false) →
      exec (.queueRelease qi) s =
        .next { s.modQueue (qKey qi) (fun y => { y with cmds := cs }) with released := s.released ++ [⟨qKey qi, c⟩] }) ∧
    (∀ n p, (s.queue (qKey qi)).cmds = c :: cs → rowOf (s.ext (qHalf (qKey qi)) c.stamp) ≤ s.row (qHalf (qKey qi)) + qLead (qKey qi) →
      c.act = .pattern n p →
      exec (.queueRelease qi) s =
        .next (let q := qKey qi
          let t := s.ext (qHalf q) c.stamp
          let u : State := { s.modQueue q (fun y => { y with cmds := cs }) with released := s.released ++ [⟨q, c⟩] }
          let u := u.modPattern q fun _ =>
            { active := true, entry := n, left := (u.entry q n).loops, start := t, dur := p.dur q, run := c.run, shot := c.shot }
          if p.stream then
            let r := u.streamPos { (u.segmentOf q n t c.run c.shot p).1 with live := false }
            r.1.addPulse r.2
          else u)) ∧
    (∀ p, (s.queue (qKey qi)).cmds = c :: cs → rowOf (s.ext (qHalf (qKey qi)) c.stamp) ≤ s.row (qHalf (qKey qi)) + qLead (qKey qi) →
      c.act = .pulse p → p.stream = true →
      exec (.queueRelease qi) s =
        .next (let q := qKey qi
          let t := s.ext (qHalf q) c.stamp
          let u : State := { s.modQueue q (fun y => { y with cmds := cs }) with released := s.released ++ [⟨q, c⟩] }
          let r := u.streamPos { q := q, t := t, spec := p, run := c.run, shot := c.shot, live := false }
          r.1.addPulse r.2)) ∧
    ((s.queue (qKey qi)).cmds = c :: cs → rowOf (s.ext (qHalf (qKey qi)) c.stamp) > s.row (qHalf (qKey qi)) + qLead (qKey qi) →
      exec (.queueRelease qi) s = .next s) ∧
    (s.released.find? (fun y => y.q == qKey qi) = some x → rowOf (s.ext (qHalf (qKey qi)) x.cmd.stamp) ≤ s.row (qHalf (qKey qi)) →
      exec (.timedCommandApply qi w) s =
        .next ({ s with released := s.released.erase x }.applyAct (qKey qi) x.cmd (s.ext (qHalf (qKey qi)) x.cmd.stamp) w)) ∧
    (∀ t : Nat, (s.marker m).pulseEnd = some t → t ≤ s.now (m / 8) →
      exec (.markerPulseEnd m) s = .next (s.changeMarker m ⟨s.now (m / 8), 0, 0⟩))

/-! ### Threads -/

/-- R118 to R121: what the issue of any instruction of a thread that its cluster serves (R80, R81) checks first: a PC past the program memory raises THR_RANGE, an
uncorrectable instruction word THR_ECC, a page of another partition THR_NOT_OWNER, an opcode outside the table THR_RANGE. -/
def Obligations.IssueChecksTheFetch : Prop :=
  ∀ (t : ThrIx) (e se : Ecc) (op : Nat) (c : Instr) (s : State), (op, c) ∈ threadInstrs t e se → s.served (t / 32) = some t.val →
    (1048576 ≤ (s.thread t).pc → exec c s = .next ((s.issued t).threadFault t .range)) ∧
    ((s.thread t).pc < 1048576 → e = .uncorrectable → exec c s = .next ((s.issued t).threadFault t .ecc)) ∧
    ((s.thread t).pc < 1048576 → e ≠ .uncorrectable →
      s.ownProgPage (thrHalf t) ((s.thread t).pc / 8192) ≠ some (s.runOf (s.thread t).run).owner →
      exec c s = .next ((s.issued t).threadFault t .notOwner)) ∧
    ((s.thread t).pc < 1048576 → e ≠ .uncorrectable →
      s.ownProgPage (thrHalf t) ((s.thread t).pc / 8192) = some (s.runOf (s.thread t).run).owner →
      threadOpcodes.contains (bits (s.progWord (thrHalf t) (s.thread t).pc) 63 56) = false →
      exec c s = .next ((s.issued t).threadFault t .range))

/-- The instructions of flow (R81, R88, R91, R139 to R141, R147, R148, R157 to R162): NOP, END, HALT, WAIT, WAITUNTIL, SYNC, BTK, BEV,
LOOP, ENDL, BR, BCC, CALL and RET. R160, R161: a second CALL before RET, and a RET without a CALL, raise THR_RANGE, as an END of loop
outside a loop (R158) and a fifth nested loop do (R157). -/
def Obligations.ThreadFlowActs : Prop :=
  (∀ (t : ThrIx) (e : Ecc) (w : BitVec 64) (s : State), e ≠ .uncorrectable →
     (s.fetches t 0x00 w → bits w 55 0 = 0 → exec (.tNop t e) s = .next ((s.issued t).next t)) ∧
     (s.fetches t 0x01 w → bits w 55 0 = 0 → exec (.tEnd t e) s = .next ((s.issued t).modThread t fun x => { x with st := .ended, stall := .shotEnd })) ∧
     (s.fetches t 0x02 w → bits w 55 0 = 0 →
       exec (.tHalt t e) s =
         .next (((s.issued t).modThread t fun x => { x with st := .halted, stall := .shotEnd }).finalShot ((s.issued t).thread t).run)) ∧
     (s.fetches t 0x08 w → bit w 55 = false → bits w 54 51 = 0 → bits w 50 40 = 0 →
       exec (.tWait t e) s = .next ((s.issued t).modThread t fun x => { x with now := plus x.now (bits w 39 0), pc := x.pc + 1 })) ∧
     (s.fetches t 0x08 w → bit w 55 = true → bits w 50 40 = 0 → bits w 39 0 = 0 →
       exec (.tWait t e) s = .next ((s.issued t).modThread t fun x =>
         { x with now := plus x.now (((s.issued t).thread t).reg (bits w 54 51)).toNat, pc := x.pc + 1 })) ∧
     (s.fetches t 0x09 w → bits w 53 48 = 0 →
       exec (.tWaituntil t e) s = .next ((s.issued t).modThread t fun x =>
         { x with now := BitVec.ofNat 48 (bits w 47 0) + (match bits w 55 54 with
                    | 0 => 0
                    | 1 => BitVec.ofInt 48 ((s.issued t).runOf ((s.issued t).thread t).run).start
                    | 2 => BitVec.ofNat 48 (((s.issued t).runOf ((s.issued t).thread t).run).t0.getD 0)
                    | _ => BitVec.ofNat 48 ((s.issued t).now (thrHalf t))),
                  pc := x.pc + 1 })) ∧
     (s.fetches t 0x0A w → bits w 49 0 = 0 → ((s.issued t).barrier (bits w 55 50)).run = some ((s.issued t).thread t).run →
       ((s.issued t).barrier (bits w 55 50)).members.contains t.val = true →
       exec (.tSync t e) s =
         .next (let u := ((s.issued t).modBarrier (bits w 55 50) fun y =>
             { y with arrived := y.arrived ++ [(t.val, ((s.issued t).thread t).now)] }).modThread t fun x =>
               { x with st := .stalled, stall := .sync, barrier := some (bits w 55 50) }
           if ((s.issued t).barrier (bits w 55 50)).members.any (fun m => thrHalf m != thrHalf t) then u.send (thrHalf t) (.arrival (bits w 55 50) t.val)
           else u)) ∧
     (s.fetches t 0x21 w → bits w 54 52 = 0 → bits w 35 20 &&& bits w 51 36 = bits w 35 20 →
       exec (.tBtk t e) s =
         .next (if decide (((s.issued t).thread t).tk.toNat &&& bits w 51 36 = bits w 35 20) != bit w 55
           then (s.issued t).goto t (bits w 19 0) else (s.issued t).next t)) ∧
     (s.fetches t 0x29 w → bits w 28 20 = 0 → (s.issued t).ownEvent (bits w 55 46) = some ((s.issued t).partOf t) →
       exec (.tBev t e) s =
         .next (if (match mget none (s.issued t).evRow (evKey (thrHalf t) (bits w 55 46)) with
             | some r => decide ((s.issued t).row (thrHalf t) ≤ r + bits w 44 29)
             | none => false) != bit w 45 then (s.issued t).goto t (bits w 19 0) else (s.issued t).next t)) ∧
     (∀ n : Word, s.fetches t 0x30 w → bits w 50 44 = 0 →
       (bit w 55 = false ∧ bits w 54 51 = 0 ∧ n = BitVec.ofNat 32 (bits w 43 20) ∨
         bit w 55 = true ∧ bits w 43 20 = 0 ∧ n = ((s.issued t).thread t).reg (bits w 54 51)) →
       (n = 0 → exec (.tLoop t e) s = .next ((s.issued t).goto t (bits w 19 0))) ∧
       (n ≠ 0 → ((s.issued t).thread t).depth < 4 →
         exec (.tLoop t e) s = .next ((s.issued t).modThread t fun x =>
           { (x.setLc x.depth n) with
             starts := mset 0 x.starts x.depth (x.pc + 1), depth := x.depth + 1, pc := x.pc + 1 }))) ∧
     (s.fetches t 0x31 w → bits w 55 0 = 0 → ((s.issued t).thread t).depth ≠ 0 →
       let l := ((s.issued t).thread t).depth - 1
       let n := ((s.issued t).thread t).loopc l - 1
       exec (.tEndl t e) s = .next ((s.issued t).modThread t fun x =>
         if n = 0 then { (x.setLc l n) with depth := l, pc := x.pc + 1 } else { (x.setLc l n) with pc := mget 0 x.starts l })) ∧
     (s.fetches t 0x32 w → bit w 55 = false → bits w 54 51 = 0 → bits w 50 20 = 0 →
       exec (.tBr t e) s = .next ((s.issued t).goto t (bits w 19 0))) ∧
     (s.fetches t 0x32 w → bit w 55 = true → bits w 50 20 = 0 → bits w 19 0 = 0 → bits (((s.issued t).thread t).reg (bits w 54 51)) 31 20 = 0 →
       exec (.tBr t e) s = .next ((s.issued t).goto t (bits (((s.issued t).thread t).reg (bits w 54 51)) 19 0))) ∧
     (s.fetches t 0x33 w → bits w 51 20 = 0 → bits w 55 52 ≠ 15 →
       exec (.tBcc t e) s =
         .next (if condHolds (bits w 55 52) ((s.issued t).thread t).z ((s.issued t).thread t).n ((s.issued t).thread t).c
             ((s.issued t).thread t).v
           then (s.issued t).goto t (bits w 19 0) else (s.issued t).next t)) ∧
     (s.fetches t 0x34 w → bit w 55 = false → bits w 54 51 = 0 → bits w 50 20 = 0 → ((s.issued t).thread t).call = false →
       exec (.tCall t e) s = .next ((s.issued t).modThread t fun x =>
         { x with link := (x.pc + 1) % 1048576, call := true, pc := bits w 19 0 })) ∧
     (s.fetches t 0x35 w → bits w 55 0 = 0 → ((s.issued t).thread t).call = true →
       exec (.tRet t e) s = .next ((s.issued t).modThread t fun x => { x with call := false, pc := x.link }))) ∧
  (∀ (t : ThrIx) (e : Ecc) (w : BitVec 64) (s : State), e ≠ .uncorrectable →
     (s.fetches t 0x34 w → ((s.issued t).thread t).call = true → exec (.tCall t e) s = .next ((s.issued t).threadFault t .range)) ∧
     (s.fetches t 0x35 w → ((s.issued t).thread t).call = false → exec (.tRet t e) s = .next ((s.issued t).threadFault t .range)) ∧
     (s.fetches t 0x31 w → ((s.issued t).thread t).depth = 0 → exec (.tEndl t e) s = .next ((s.issued t).threadFault t .range)) ∧
     (s.fetches t 0x30 w → bit w 55 = false → bits w 43 20 ≠ 0 → 4 ≤ ((s.issued t).thread t).depth →
       exec (.tLoop t e) s = .next ((s.issued t).threadFault t .range)))

/-- R163 to R166: ADD, SUB, AND, OR, XOR, SHL, SHR and CMP put their result into the destination register (CMP into none), take its flags
and go on at the next instruction; LDI and MOV write their destination and leave the flags; a word with a reserved bit set raises
THR_RANGE. The frame: of the thread nothing else changes but a priority turn (R81), of the machine nothing but the thread and its
cluster's service order (R80, R81). -/
def Obligations.ThreadDataActs : Prop :=
  ∀ (t : ThrIx) (e : Ecc) (w : BitVec 64) (s : State), e ≠ .uncorrectable →
    let u := s.issued t
    let x := u.thread t
    let g := x.reg (bits w 51 48)
    let y : Word := if bit w 47 then BitVec.ofNat 32 (bits w 31 0) else x.reg (bits w 35 32)
    let ok (wr sh : Bool) : Prop := bits w 45 36 = 0 ∧ (sh = false → bit w 46 = false) ∧ (wr = false → bits w 55 52 = 0) ∧
      (bit w 47 = true → bits w 35 32 = 0) ∧ (bit w 47 = false → bits w 31 0 = 0)
    let put (wr : Bool) (r : Alu) : Host.Outcome State Fault Refusal := .next (u.modThread t fun x =>
      { (if wr then x.setG (bits w 55 52) r.r else x) with z := r.z, n := r.n, c := r.c, v := r.v, pc := x.pc + 1 })
    (s.fetches t 0x42 w → ok true false → exec (.tAdd t e) s = put true (aluAdd g y)) ∧
    (s.fetches t 0x43 w → ok true false → exec (.tSub t e) s = put true (aluSub g y)) ∧
    (s.fetches t 0x44 w → ok true false → exec (.tAnd t e) s = put true (aluLogic (g &&& y))) ∧
    (s.fetches t 0x45 w → ok true false → exec (.tOr t e) s = put true (aluLogic (g ||| y))) ∧
    (s.fetches t 0x46 w → ok true false → exec (.tXor t e) s = put true (aluLogic (g ^^^ y))) ∧
    (s.fetches t 0x47 w → ok true false → exec (.tShl t e) s = put true (aluShl g (bits y 4 0))) ∧
    (s.fetches t 0x48 w → ok true true → exec (.tShr t e) s = put true (aluShr (bit w 46) g (bits y 4 0))) ∧
    (s.fetches t 0x49 w → ok false false → exec (.tCmp t e) s = put false (aluSub g y)) ∧
    (s.fetches t 0x40 w → bits w 51 32 = 0 → exec (.tLdi t e) s =
      .next (u.modThread t fun x => { x.setG (bits w 55 52) (BitVec.ofNat 32 (bits w 31 0)) with pc := x.pc + 1 })) ∧
    (∀ v, s.fetches t 0x41 w → bits w 45 0 = 0 → bits w 55 51 < 20 → u.movSrc t (bits w 50 46) = some v → exec (.tMov t e) s =
      .next (u.modThread t fun x =>
        { (if bits w 55 51 < 16 then x.setG (bits w 55 51) v else x.setLc (bits w 55 51 - 16) v) with pc := x.pc + 1 })) ∧
    (∀ op c f wr sh, (op, c, f, wr, sh) ∈ threadAlu t e w → s.fetches t op w → ¬ ok wr sh → exec c s = .next (u.threadFault t .range)) ∧
    (s.fetches t 0x40 w → bits w 51 32 ≠ 0 → exec (.tLdi t e) s = .next (u.threadFault t .range)) ∧
    (s.fetches t 0x41 w → u.movSrc t (bits w 50 46) = none ∨ bits w 45 0 ≠ 0 ∨ 20 ≤ bits w 55 51 →
      exec (.tMov t e) s = .next (u.threadFault t .range)) ∧
    (∀ f : Thread → Thread, let v := u.modThread t f
      v.thread t = f x ∧ x = { s.thread t with prio := (s.thread t).prio - 1 } ∧ (∀ t', t' ≠ t.val → v.thread t' = s.thread t') ∧
        v = { s with thr := v.thr, turn := v.turn, prioQ := v.prioQ }) ∧
    (∀ n m v, (x.setG n v).reg m = if m = n then v else x.reg m)

/-- The timed instructions (R123 to R138, R152 to R154): with none of an instruction's checks failing and nothing stopping its push, its
commands are in their queues and the thread goes on.  SIGNAL without T fires at once; the first check that fails is the thread's fault. -/
def Obligations.TimedInstructionsPush : Prop :=
  ∀ (t : ThrIx) (e se : Ecc) (w : BitVec 64) (s : State), e ≠ .uncorrectable →
    let u := s.issued t
    let done (u : State) (p : Push) : Host.Outcome State Fault Refusal := .next ((u.recorded p).completePush t p)
    (s.fetches t 0x10 w → firstFault (u.playChecks t se w) = none → (u.tableRead t true se).pushes t (u.playPush t w) →
      exec (.tPlay t e se) s = done (u.tableRead t true se) (u.playPush t w)) ∧
    (s.fetches t 0x11 w → firstFault (u.playsChecks t w) = none → u.pushes t (u.playsPush t w) →
      exec (.tPlays t e) s = done u (u.playsPush t w)) ∧
    (s.fetches t 0x12 w → firstFault (u.measChecks t se w) = none → (u.tableRead t (!bit w 54) se).pushes t (u.measPush t w) →
      exec (.tMeas t e se) s = done (u.tableRead t (!bit w 54) se) (u.measPush t w)) ∧
    (s.fetches t 0x13 w → firstFault (u.fluxChecks t se w) = none → u.pushes t (u.fluxPush t w) →
      exec (.tFlux t e se) s = done u (u.fluxPush t w)) ∧
    (s.fetches t 0x18 w → u.oscMine t w = true → bits w 43 40 % 2 = 0 → bits w 39 20 = 0 →
      let r := bits w 43 40
      let f : BitVec 48 := BitVec.ofNat 48 (((u.thread t).reg r).toNat + 2 ^ 32 * bits ((u.thread t).reg (r + 1)) 15 0)
      u.pushes t (u.oscPush t w (bit w 53) (.setf f)) → exec (.tSetf t e) s = done u (u.oscPush t w (bit w 53) (.setf f))) ∧
    (∀ v : Word, u.oscMine t w = true →
      (bit w 53 = true ∧ bits w 43 24 = 0 ∧ v = (u.thread t).reg (bits w 23 20) ∨
        bit w 53 = false ∧ v = BitVec.ofNat 32 (256 * bits w 43 20)) →
      (s.fetches t 0x19 w → u.pushes t (u.oscPush t w false (.addph v)) → exec (.tAddph t e) s = done u (u.oscPush t w false (.addph v))) ∧
      (s.fetches t 0x1A w → u.pushes t (u.oscPush t w false (.setph v)) →
        exec (.tSetph t e) s = done u (u.oscPush t w false (.setph v)))) ∧
    (s.fetches t 0x1B w → u.oscMine t w = true → bits w 43 20 = 0 → u.pushes t (u.oscPush t w (bit w 53) .rstph) →
      exec (.tRstph t e) s = done u (u.oscPush t w (bit w 53) .rstph)) ∧
    (s.fetches t 0x2A w → u.signalForeign t w = false → u.ecClass (bits w 55 46) ≠ 2 →
      (∀ q, bit w 45 = true → bits w 33 20 = 0 → carrierQ (bits w 44 43) (bits w 42 34) = some q → u.assigned t q = true →
        u.pushes t (u.signalPush t w q) → exec (.tSignal t e) s = done u (u.signalPush t w q)) ∧
      (bit w 45 = false → bits w 44 0 = 0 →
        exec (.tSignal t e) s = .next ((u.next t).fireFrom (thrHalf t) (bits w 55 46) (u.thread t).sigGen))) ∧
    (∀ q, s.fetches t 0x2B w → u.markForeign t w = false → bits w 30 20 = 0 → (bits w 51 50 = 2 → bits w 49 42 ≠ 0) →
      (bits w 51 50 ≠ 2 → bits w 49 42 = 0) → carrierQ (bits w 41 40) (bits w 39 31) = some q → u.assigned t q = true →
      u.pushes t (u.markPush t w q) → exec (.tMark t e) s = done u (u.markPush t w q)) ∧
    (∀ f, (s.fetches t 0x10 w → firstFault (u.playChecks t se w) = some f →
        exec (.tPlay t e se) s = .next ((u.tableRead t true se).threadFault t f)) ∧
      (s.fetches t 0x11 w → firstFault (u.playsChecks t w) = some f → exec (.tPlays t e) s = .next (u.threadFault t f)) ∧
      (s.fetches t 0x12 w → firstFault (u.measChecks t se w) = some f →
        exec (.tMeas t e se) s = .next ((u.tableRead t (!bit w 54) se).threadFault t f)) ∧
      (s.fetches t 0x13 w → firstFault (u.fluxChecks t se w) = some f → exec (.tFlux t e se) s = .next (u.threadFault t f)))

/-- The waits and what ends them (R62, R93, R95, R96, R142 to R150, R168, R267, R271): WAITTK, WAITEV, REC and STRM, a wait's default, a
firing and a timeout, a queue's room, the run-ahead, a barrier and a stream's readiness. -/
def Obligations.WaitsAndResumesAct : Prop :=
  ∀ (t : ThrIx) (e : Ecc) (w : BitVec 64) (b : BarIx) (s : State),
    let u := s.issued t
    (s.fetches t 0x20 w → e ≠ .uncorrectable → bits w 32 20 = 0 → (bit w 54 = true → bits w 53 45 < 128) →
      u.ownSource (bit w 54) (bits w 53 45) = some (u.partOf t) → ∀ i, u.subOf t (bit w 54) (bits w 53 45) = some i →
      exec (.tWaittk t e) s = .next (u.startWait t
        { sub := i, asap := bit w 55, table := bit w 54, src := bits w 53 45, lat := bits w 44 33, dtgt := bits w 19 0,
          x := (u.thread t).now })) ∧
    (s.fetches t 0x28 w → e ≠ .uncorrectable → bits w 17 0 = 0 → u.ownEvent (bits w 55 46) = some (u.partOf t) →
      exec (.tWaitev t e) s = .next (u.modThread t fun x => { x with
        st := .stalled, stall := .waitev, evwait := some ⟨bits w 55 46, bits w 45 34, bits w 33 18, u.row (thrHalf t)⟩ })) ∧
    (s.fetches t 0x50 w → e ≠ .uncorrectable → bits w 51 48 = 0 → bits w 31 0 = 0 →
      exec (.tRec t e) s =
        .next (let x := u.thread t
          let y := u.runOf x.run
          (u.next t).formRecord (thrHalf t) y.recRing (some x.run) true (threadRecord x.run t (bits w 47 32) y.shot (x.reg (bits w 55 52))))) ∧
    (s.fetches t 0x58 w → e ≠ .uncorrectable → exec (.tStrm t e) s = .next (u.strmCmd t w)) ∧
    (∀ y, (s.thread t).wait = some y → s.defaultRow t y ≤ (s.row (thrHalf t) : Int) → exec (.waittkDefault t) s = .next (s.defaultWait t y)) ∧
    (∀ f, s.nextFiring t = some f →
      exec (.waitevFiring t) s =
        .next (({ s with fires := s.fires.erase f, evRow := mset none s.evRow (evKey (thrHalf t) f.ch) (some (s.row (thrHalf t))) } : State).forEach
          (s.evWaiters (thrHalf t)) fun s t => s.firingAt t f.ch f.gen)) ∧
    (∀ t' ch gen y, (s.thread t').evwait = some y →
      (y.ec = ch → y.tmo = 0 ∨ s.row (thrHalf t') < y.row + y.tmo →
        s.firingAt t' ch gen = s.endWaitev t' y false (s.row (thrHalf t')) (some gen)) ∧
      (y.ec ≠ ch → s.firingAt t' ch gen = s)) ∧
    (∀ y, (s.thread t).evwait = some y → y.tmo ≠ 0 → y.row + y.tmo ≤ s.row (thrHalf t) →
      exec (.waitevTimeout t) s = .next (s.endWaitev t y true (y.row + y.tmo) none)) ∧
    (∀ p, (s.thread t).push = some p → (s.thread t).st = .stalled →
      ((s.thread t).stall = .fullQueue → (∀ qc ∈ p.cmds, (s.queue qc.1).cmds.length < 64) →
        exec (.queueRoomResume t) s = .next (s.completePush t p)) ∧
      ((s.thread t).stall = .runAhead → (∀ qc ∈ p.cmds, s.ahead qc.1 qc.2.stamp ≤ s.runAhead (thrHalf t)) →
        exec (.runAheadResume t) s =
          .next ((s.modThread t fun x => { x with st := .ready, stall := .none, push := none }).pushOrdered t p))) ∧
    (∀ a l, (s.barrier b).arrived = a :: l → (∀ m ∈ (s.barrier b).members, s.counted b m = true) → s.barrierHeard b = true →
      exec (.barrierComplete b) s =
        .next ((s.modBarrier b fun y => { y with arrived := [] }).forEach (s.barrier b).members fun s t =>
          if (s.thread t).barrier = some b.val then
            (s.modThread t fun x => { x with now := l.foldl (fun m x => max48 m x.2) a.2, st := .ready, stall := .none, barrier := none,
                                             pc := x.pc + 1 }).prioritise t
          else s)) ∧
    (∀ y, (s.thread t).st = .stalled → (s.thread t).stall = .strm →
      let v := s.progWord (thrHalf t) (s.thread t).pc
      let q := if bits v 55 54 = 2 then 1536 + bits v 52 44 % 128 else kindQ (bits v 55 54 == 1) (bits v 52 44)
      s.stream q = some y → (s.ring y.ring).st = .enabled → 0 < y.fetched →
      exec (.strmReady t) s =
        .next ((s.setStream q (some { y with ready := true })).modThread t fun x => { x with st := .ready, stall := .none, pc := x.pc + 1 }))

/-- R123, R126: a push that completes appends each command at the end of its queue, unless the command is late or its resource is
disabled, moves the thread to the next instruction and sets `now` where the instruction does. -/
def Obligations.PushesAppendTheirCommands : Prop :=
  ∀ (t : Nat) (p : Push) (s : State), (p.cmds.map (·.1)).Nodup →
    (∀ qc ∈ p.cmds, s.disabled qc.1 = false ∧ s.isLate qc.1 qc.2.stamp = false) →
    (∀ qc ∈ p.cmds, ((s.completePush t p).queue qc.1).cmds = (s.queue qc.1).cmds ++ [qc.2]) ∧
    (∀ q, q ∉ p.cmds.map (·.1) → (s.completePush t p).queue q = s.queue q) ∧
    ((s.completePush t p).thread t).pc = (s.thread t).pc + 1 ∧ ((s.completePush t p).thread t).st = .ready ∧
    ((s.completePush t p).thread t).now = p.newNow.getD (s.thread t).now ∧
    (s.completePush t p).regs = s.regs ∧ (s.completePush t p).mem = s.mem

/-! ### Runs, patterns, windows and tokens -/

/-- The events of a run (R85 to R92, R107 to R109): a shot's start, T0, COMMITTED, the run's completion and the record of a shot. -/
def Obligations.RunEventsAct : Prop :=
  ∀ (r : RunIx) (s : State),
    let u := s.runOf r
    (∀ t ts, u.threads = t :: ts → u.active = true → u.stopped = false → u.st ≠ .committed → s.shotOver r = true → u.isFinal = false →
      exec (.shotStart r) s =
        .next ((s.modRun r fun u => { u with done := u.done + 1 }).beginShot r (u.shot + 1)
          (roundUpI (s.extI (thrHalf t) (ts.foldl (fun m t => max48 m (s.thread t).now) (s.thread t).now) + 32 * u.gap) 32))) ∧
    (∀ t0, u.t0 = some t0 → u.st = .armed → u.stopped = false → t0 ≤ s.now 0 →
      exec (.runT0 r) s =
        .next (((s.leaveArmed r).stampRun r).modRun r fun u => { u with st := if u.final.isSome then .stopping else .running })) ∧
    (u.st = .running ∨ u.st = .stopping → s.committed r = true →
      exec (.runCommit r) s =
        .next ((s.forEach ((s.queuesOf r).filter fun q => (s.queue q).pat) fun s q => s.silence q false).modRun r
          fun u => { u with st := .committed })) ∧
    (u.st = .committed → u.shots = [] → (∀ w ∈ s.wins, w.run ≠ r.val) →
      let t := (s.avgRecords r).shutPack u.recRing
      (t.recWaits r = true → exec (.runComplete r) s = .next t) ∧
      (t.recWaits r = false →
        exec (.runComplete r) s =
          .next ((t.finish (t.runOf r).tag (t.runOf r).status (runResult (t.shotsDone r) (t.runOf r).discards r)).freeRun r))) ∧
    (∀ x xs, u.shots = x :: xs → u.active = true →
      (u.stopped = true ∨ (∃ y ys, xs = y :: ys ∧ y.s ≤ (s.now 0 : Int)) ∨ xs = [] ∧ u.st = .committed) → s.shotBusy r x.num = false →
      exec (.shotRecordWrite r) s =
        .next (let t := s.modRun r fun u => { u with shots := xs }
          t.formRecord (t.runHalf r) u.recRing (some r.val) true (shotRecord r x (xs.isEmpty && u.st == .committed))))

/-- Pattern play, streams, windows and tokens (R104 to R113, R171 to R177, R210, R215, R253): a segment's end, a jump, a stream's deadline, a
window, a row over range, and the delivery of a token. -/
def Obligations.PatternWindowAndTokenEventsAct : Prop :=
  ∀ (qi : QId) (e : Ecc) (w : WaveCheck) (k : KernelCheck) (c : ChIx) (i : InIx) (sub : Subscriber) (s : State),
    qi.kind ≠ .flux ∨ qi.idx.val < 128 →
    let q := qKey qi
    let h := qHalf q
    let p := s.pattern q
    (∀ b, s.segmentDue q = false → p.active = true → p.ended = some b → b ≤ s.now h →
      exec (.patternSegmentEnd qi e w) s =
        .next (((s.modPattern q fun _ => {}).modQueue q fun x =>
          { x with pat := false, free := if q < 1024 then some (t48 (p.start + p.dur + 32)) else x.free }).fireProducer h (0x280 + qGroup q) 0 (rowOf b))) ∧
    (p.active = true → p.ended = none → p.lastRow < s.row h + qLead q →
      (∀ j, p.jump = some j → j.wait = false →
        exec (.patternSegmentEnd qi e w) s = .next (s.nextSegment q j.target (s.entry q j.target).loops j.late e w)) ∧
      ((∀ j, p.jump = some j → j.wait = true) → 0 < p.left →
        exec (.patternSegmentEnd qi e w) s = .next (s.nextSegment q p.entry (p.left - 1) false e w)) ∧
      (p.left = 0 → (p.jump = none ∧ (s.entry q p.entry).last = false ∨ ∃ j, p.jump = some j ∧ j.wait = true) →
        exec (.patternSegmentEnd qi e w) s =
          .next (s.nextSegment q (s.entry q p.entry).next (s.entry q (s.entry q p.entry).next).loops false e w)) ∧
      (p.jump = none → p.left = 0 → (s.entry q p.entry).last = true → exec (.patternSegmentEnd qi e w) s = .next (s.patternOver q))) ∧
    (∀ (b : Bool) (j : JumpReq), s.jumps.find? (fun j => j.q == q && j.tok.isSome == b) = some j →
      let t : State := { s with jumps := s.jumps.erase j }
      let t := if t.segmentDue q then t.segmentOver q .ok .ok else t
      (j.tok = none → exec (.patternJumpRequest qi b) s = .next (if (t.queue q).pat then t.jump q false else t.jumpDropped q)) ∧
      (∀ k, j.tok = some k →
        ((t.queue q).pat = true → k.run ∈ t.runOfQueue q →
          ((t.runOf k.run).ballShot (32 * (t.row h + qLead q))).map (BitVec.ofNat 32) = some k.shot →
          bits k.value 1 0 = (t.entry q (t.patEntry q)).cmpState → exec (.patternJumpRequest qi b) s = .next (t.jump q true)) ∧
        ((t.queue q).pat = false ∨ k.run ∉ t.runOfQueue q ∨
          ((t.runOf k.run).ballShot (32 * (t.row h + qLead q))).map (BitVec.ofNat 32) ≠ some k.shot ∨
          bits k.value 1 0 ≠ (t.entry q (t.patEntry q)).cmpState → exec (.patternJumpRequest qi b) s = .next t))) ∧
    (∀ x, s.pulses.find? (fun p => p.q == q && p.spec.stream && !p.missed && decide (p.taken.length < s.dueSamples p)) = some x →
      (s.stream q = none → exec (.streamDeadline qi) s = .next (s.underrun x x.taken.length)) ∧
      (∀ y, s.stream q = some y → s.dueSamples x ≤ y.upTo (x.pos + x.taken.length) - x.pos →
        exec (.streamDeadline qi) s = .next (s.modPulses q x.t fun z =>
          { z with taken := z.taken ++ (List.range (s.dueSamples x - x.taken.length)).map fun i => s.stagedWord h y (x.pos + x.taken.length + i) }))) ∧
    (∀ x, s.wins.find? (fun x => x.ch == c.val) = some x → (x.t + x.len + 31) / 32 + 31 ≤ s.row (c.val / 256) →
      exec (.windowComplete c k) s = .next (s.completeWindow x k)) ∧
    (∀ x, (s.adcRows i).find? (fun r => r.ovr && !r.told) = some x →
      exec (.overRangeRow i) s =
        .next (let t : State := { s with adc := mmod [] s.adc i fun l => l.map fun (y : AdcRow) => if y.row = x.row then { y with told := true } else y }
          let t := if bit (t.reg .IN_STATUS (i.val / 8) (i.val % 8)) 0 then t
            else t.setPair .OVR_FIRST_LO .OVR_FIRST_HI (i.val / 8) (i.val % 8) (32 * x.row)
          let t := (t.regBit .IN_STATUS (i.val / 8) (i.val % 8) 0 true).count .OVR_ROWS (i.val / 8) (i.val % 8)
          t.occur (i.val / 8) 0x0A0 { runs := t.inRuns i, parts := (t.ownPair i).toList })) ∧
    (∀ x, s.deliveries.find? (fun x => x.sub == sub) = some x →
      exec (.tokenDelivery sub e) s =
        .next (let t : State := { s with deliveries := s.deliveries.erase x }
          match sub with
          | .thread n j => t.tokenToThread n j x.tok
          | .table d n => t.tokenToTable d n x.tok e
          | .group g => t.requestJump (g.val / 88) (g.val % 88) (some x.tok)))

/-! ### Outputs, inputs and monitors -/

/-- What comes of a converter's or an input's power-up or its lateness, a mute that sticks, and a flux channel's ramps, range changes and
compliance (R193 to R198, R240 to R243, R290 to R297, R303, R305, R312). -/
def Obligations.OutputEventsAct : Prop :=
  ∀ (h : Half) (k : DacIx) (i : InIx) (f : FluxIx) (s : State),
    (bit (s.reg .DAC_CTL h k) 0 = true → exec (.dacReady h k) s = .next ((s.regBit .DAC_STATUS h k 15 true).enSet (enDac h k) none)) ∧
    (bit (s.reg .DAC_CTL h k) 0 = true → bit (s.reg .DAC_STATUS h k) 15 = false → s.enLate (enDac h k) (s.now h) = true →
      exec (.dacNotReady h k) s =
        .next ((s.enSet (enDac h k) none).occur h 0x084 { runs := s.dacRuns h k, parts := (s.ownDac h k).toList, block := some (3, k), opens := true })) ∧
    (s.muted h k = true →
      exec (.muteStuck h k) s = .next (s.occur h 0x085 { runs := s.dacRuns h k, parts := (s.ownDac h k).toList, block := some (3, k) })) ∧
    (bit (s.reg .IN_CTL (i.val / 8) (i.val % 8)) 0 = true →
      exec (.adcReady i) s = .next ((s.regBit .IN_STATUS (i.val / 8) (i.val % 8) 15 true).enSet (enInput i) none) ∧
      (bit (s.reg .IN_STATUS (i.val / 8) (i.val % 8)) 15 = false → s.enLate (enInput i) (s.now (i.val / 8)) = true →
        exec (.adcNotReady i) s =
          .next ((s.enSet (enInput i) none).occur (i.val / 8) 0x0A3 { runs := s.inRuns i, parts := (s.ownPair i).toList }))) ∧
    (bit (s.flxCtl f) 0 = true →
      (s.fluxRails (f.val / 64) = true →
        exec (.fluxReady f) s = .next ((s.regBit .FLX_STATUS (f.val / 64) (f.val % 64) 14 true).enSet (enFlux f) none)) ∧
      (bit (s.reg .FLX_STATUS (f.val / 64) (f.val % 64)) 14 = false → s.enLate (enFlux f) (s.now (f.val / 64)) = true →
        exec (.fluxNotReady f) s =
          .next ((s.enSet (enFlux f) none).occur (f.val / 64) 0x0C3 { runs := s.fluxRuns f, parts := (s.ownQueue (fluxQ f)).toList }))) ∧
    (∀ r, (s.fluxCh f).ramp = some r → r.start < s.now (f.val / 64) → (r.code ((s.now (f.val / 64) - r.start + 7) / 8)).2 = true →
      (r.kind = .rangeDown → exec (.fluxRampEnd f) s =
        .next ((s.regBit .FLX_CTL (f.val / 64) (f.val % 64) 2 (s.fluxCh f).newRange).modFlux f fun c =>
          { c with code := 0, ramp := none, phase := .wait, waitEnd := s.now (f.val / 64) + 40000 })) ∧
      (r.kind = .rangeUp → exec (.fluxRampEnd f) s = .next (s.modFlux f fun c =>
        { c with code := BitVec.ofInt 16 r.c1, pending := BitVec.ofInt 16 r.c1, ramp := none, phase := .none })) ∧
      (r.kind = .cal → exec (.fluxRampEnd f) s = .next (s.modFlux f fun c =>
        match (s.fluxCh f).calSeq with
        | [] => { c with code := BitVec.ofInt 16 r.c1, ramp := none }
        | k :: ks => { c with code := BitVec.ofInt 16 r.c1, ramp := none, calSeq := ks,
                              nextRamp := some { r with c1 := k, start := s.nextBoundary (f.val / 64) + 640 } })) ∧
      (r.kind = .park → exec (.fluxRampEnd f) s =
        .next ((s.regBit .FLX_STATUS (f.val / 64) (f.val % 64) 10 true).modFlux f fun c =>
          { c with code := BitVec.ofInt 16 r.c1, pending := BitVec.ofInt 16 r.c1, ramp := none,
                   phase := if c.phase = .rampDown then .rampDown else .none, parkAfter := c.parkAfter && c.phase == .rampDown }))) ∧
    ((s.fluxCh f).phase = .wait → (s.fluxCh f).waitEnd ≤ s.now (f.val / 64) →
      exec (.rangeWaitEnd f) s =
        .next (let g := if bit (s.flxCtl f) 2 then 2 else 1
          let v (r : Reg) : Int := (BitVec.ofNat 16 (s.reg r (f.val / 64) (f.val % 64)).toNat).toInt
          let slew := (s.reg .FLX_SLEW (f.val / 64) (f.val % 64)).toNat
          s.modFlux f fun c => { c with
            phase := .rampUp, parkAfter := false,
            nextRamp := some (if (s.fluxCh f).parkAfter then ⟨.park, 0, v .FLX_PARK, (s.fluxCh f).waitEnd, slew, g⟩
              else ⟨.rangeUp, 0, v .FLX_RANGE_TGT, (s.fluxCh f).waitEnd, slew, g⟩) })) ∧
    (∀ l, bit (s.reg .FLX_STATUS (f.val / 64) (f.val % 64)) 1 = false → s.complyCan f l = true →
      exec (.complyAssert f l) s =
        .next (let t := s.setReg .FLX_STATUS (f.val / 64) (f.val % 64) 0 (s.reg .FLX_STATUS (f.val / 64) (f.val % 64) ||| 3)
          let t := t.count .COMPLY_COUNT (f.val / 64) (f.val % 64)
          let t := t.forEach (t.fluxRuns f) fun s r => s.flagBall r (s.now (f.val / 64)) 6
          t.occur (f.val / 64) 0x0C0 { runs := t.fluxRuns f, parts := (t.ownQueue (fluxQ f)).toList })) ∧
    exec (.complyDeassert f) s = .next (s.regBit .FLX_STATUS (f.val / 64) (f.val % 64) 1 false)

/-- Monitors and auxiliary inputs (R314 to R317, R320 to R322, R327 to R334): a tick, a blanking interval's start and end, a scan's power-up,
its conversions and its periodic start. -/
def Obligations.MonitorEventsAct : Prop :=
  ∀ (m : MonIx) (v : BitVec 16) (h : Half) (uv : Int) (s : State),
    (bit (s.reg .MON_CFG (monHalf m) (monLocal m)) 0 = true → s.monSees (monHalf m) (monLocal m) v.toInt = true →
      exec (.monTick m v) s =
        .next (let g := monHalf m
          let i := monLocal m
          let cfg := s.reg .MON_CFG g i
          let k := s.tick g i v.toInt
          let comply := decide (24 ≤ i ∧ i < 88) && bit cfg 4 && bit (s.reg .FLX_STATUS g (i - 24)) 1
          let st := s.reg .MON_STATUS g i
          let t := s.setReg .MON_STATUS g i 0 (setBit (setBit st 2 k.hi) 1 k.lo)
          if k.hi || k.lo || comply then (if bit st 31 || bit st 30 then t else t.trip g i)
          else if bit st 31 && bit cfg 3 && k.inside then t.monInside g i
          else t)) ∧
    (bit (s.reg .MON_CFG (monHalf m) (monLocal m)) 0 = false ∨ s.monSees (monHalf m) (monLocal m) v.toInt = false →
      exec (.monTick m v) s = .next s) ∧
    (s.blanks.contains m.val = true → bit (s.reg .MON_CFG (monHalf m) (monLocal m)) 0 = true →
      bits (s.reg .MON_BLANK (monHalf m) (monLocal m)) 15 0 ≠ 0 →
      exec (.blankStart m) s = .next ({ s with blanks := s.blanks.erase m.val }.regBit .MON_STATUS (monHalf m) (monLocal m) 30 true)) ∧
    exec (.blankEnd m) s = .next (s.regBit .MON_STATUS (monHalf m) (monLocal m) 30 false) ∧
    ((s.auxOf h).busy = true → (s.auxOf h).k + 1250 ≤ s.row h →
      exec (.auxPowerupEnd h) s = .next (s.modAux h fun a => { a with ready := true })) ∧
    ((s.auxOf h).busy = true → (s.auxOf h).ready = true → (s.auxOf h).k + 1250 + 625 * ((s.auxOf h).done + 1) ≤ s.row h →
      exec (.auxConversion h uv) s =
        .next (let a := s.auxOf h
          let ch := auxChannel a.mask a.done
          let r := auxCode uv
          let t := s.setReg .AUX_RESULT h ch 0 (bitW true 31 ||| bitW r.2 30 ||| BitVec.ofNat 32 r.1.toNat)
          let t := if r.2 then (t.regBit .AUX_STATUS h 0 ch true).occur h 0x0E8 { parts := [4] } else t
          let t := (t.capConv h ch (a.k + 1250 + 625 * a.done) r.1 r.2).modAux h fun a => { a with done := a.done + 1 }
          if a.done + 1 < auxCount a.mask then t
          else
            let t := t.setReg .AUX_STATUS h 0 0 (t.reg .AUX_STATUS h &&& 0x3FFFFFFF)
            let t := (t.modAux h fun a => { a with busy := false, ready := false }).count .SCAN_COUNT h 0
            t.fireGen h 0x48 a.gen (t.row h))) ∧
    (∀ k, (s.auxOf h).last = some k → bits (s.reg .AUX_PERIOD h) 19 0 ≠ 0 → k + 625 * bits (s.reg .AUX_PERIOD h) 19 0 ≤ s.row h →
      exec (.auxPeriodicStart h) s =
        .next (if (s.auxOf h).busy then
            ((s.modAux h fun a => { a with last := some (s.row h) }).count .AUX_SKIPPED h 0).occur h 0x0E9
              { parts := [4] }
          else s.scanStart h (s.row h) 0))

/-! ### Capture -/

/-- A swatch's events (R347, R350 to R356): the start of its stream, a trigger's mark, a data entry and a gap's mark. -/
def Obligations.CaptureEventsAct : Prop :=
  ∀ (e : CapIx) (s : State),
    (∀ k, (s.cap e).ks = some k → (s.cap e).st = .armed → k ≤ s.row (e.val / 2) →
      exec (.swatchStreamStart e) s =
        .next (let t := s.capPut e (startEntry e k)
          let t := match (s.cap e).startTag with | some g => t.finish g 0 0 | none => t
          t.modCap e fun c => { c with st := .opened, nextM := 4 * k, startTag := none })) ∧
    (∀ p l, ((s.capRun e).cap e).work = p :: l → ((s.capRun e).cap e).st = .opened → (s.capRun e).capTriggered e p = true →
      exec (.triggerMark e) s = .next (((s.capRun e).capTrigger e p).capRun e)) ∧
    (∀ x xs, ((s.capRun e).cap e).items = x :: xs → ((s.capRun e).cap e).st = .opened →
      let n := (entryItems ((s.capRun e).capFull e) (x :: xs)).length
      n = (s.capRun e).capFull e ∨ n < xs.length + 1 ∨ x.2.1 + 20000 ≤ s.now (e.val / 2) →
      exec (.dataEntryWrite e) s = .next ((s.capRun e).capEntry e)) ∧
    (∀ g, ((s.capRun e).cap e).gap = some g → ((s.capRun e).cap e).buf.length ≤ 2032 →
      exec (.gapMark e) s =
        .next (let c := (s.capRun e).cap e
          let t := (s.capRun e).capFlush e (c.items.length + 1)
          let last := match c.work with | p :: _ => p.n | [] => c.next
          let t := t.capPut e (markEntry e 1 0 c.suppressed 0 0 g.1 g.2 0 {} (last - g.1))
          let t := (t.modCap e fun c => { c with gap := none, suppressed := 0 }).regBit .CAP_STATUS (e.val / 2) (e.val % 2) 0 true
          (t.occur (e.val / 2) 0x0F0 { parts := (t.ownEngine e).toList }).capSettle e))

/-! ### Lanes -/

/-- R364, R377, R385, R386, R609: what the issue of any instruction of a running lane checks first: an uncorrectable word is fault 8, an
opcode outside the table fault 1; a lane that is not running, or that the governor holds back, issues nothing. -/
def Obligations.LaneIssueChecksTheFetch : Prop :=
  ∀ (l : LaneIx) (e : Ecc) (de : Reads) (op : Nat) (c : Instr) (s : State), (op, c) ∈ laneInstrs l e de →
    ((s.lane l).st ≠ .running ∨ s.paced (laneHalf l) 25 = true → exec c s = .next s) ∧
    ((s.lane l).st = .running → s.paced (laneHalf l) 25 = false → e = .uncorrectable → exec c s = .next (s.laneFault l 8)) ∧
    ((s.lane l).st = .running → s.paced (laneHalf l) 25 = false → e ≠ .uncorrectable → laneOpcodes.contains (bits (s.laneWord l (s.lane l).pc) 31 26) = false →
      exec c s = .next ((s.laneEcc l e).laneFault l 1))

/-- R379, R385: ADD, SUB, AND, OR, XOR, MUL, ADDI, SHLI, SHRI and SHRA of a lane put the result into register D, take its flags and go on
after one cycle under the repeats in force (R381); a word of the register form with a reserved bit set is fault 1.  The frame: of the lane
nothing else changes, nor of any other lane, and of the machine nothing but the count of a corrected instruction word (R386). -/
def Obligations.LaneArithmeticActs : Prop :=
  ∀ (l : LaneIx) (e : Ecc) (w : Word) (s : State), e ≠ .uncorrectable →
    let u := s.laneEcc l e
    let x := s.lane l
    let a := x.dr (bits w 20 16)
    let b := x.dr (bits w 15 11)
    let put (r : Alu) : Host.Outcome State Fault Refusal := .next (u.modLane l fun x =>
      { (x.setD (bits w 25 21) r.r) with z := r.z, n := r.n, c := r.c, v := r.v, reps := (Sys2Proof.Machine.advance x.reps x.pc).1,
                                         pc := (Sys2Proof.Machine.advance x.reps x.pc).2, cycles := x.cycles + 1 })
    (s.laneFetches l 0x08 w → bits w 10 0 = 0 → exec (.lAdd l e) s = put (aluAdd a b)) ∧
    (s.laneFetches l 0x09 w → bits w 10 0 = 0 → exec (.lSub l e) s = put (aluSub a b)) ∧
    (s.laneFetches l 0x0A w → bits w 10 0 = 0 → exec (.lAnd l e) s = put (aluLogic (a &&& b))) ∧
    (s.laneFetches l 0x0B w → bits w 10 0 = 0 → exec (.lOr l e) s = put (aluLogic (a ||| b))) ∧
    (s.laneFetches l 0x0C w → bits w 10 0 = 0 → exec (.lXor l e) s = put (aluLogic (a ^^^ b))) ∧
    (s.laneFetches l 0x13 w → bits w 10 0 = 0 → exec (.lMul l e) s =
      put (aluLogic (BitVec.ofInt 32 ((BitVec.ofNat 16 (bits a 15 0)).toInt * (BitVec.ofNat 16 (bits b 15 0)).toInt)))) ∧
    (s.laneFetches l 0x0D w → exec (.lAddi l e) s = put (aluAdd a ((BitVec.ofNat 16 (bits w 15 0)).signExtend 32))) ∧
    (s.laneFetches l 0x0E w → exec (.lShli l e) s = put (aluShl a (bits w 4 0))) ∧
    (s.laneFetches l 0x0F w → exec (.lShri l e) s = put (aluShr false a (bits w 4 0))) ∧
    (s.laneFetches l 0x10 w → exec (.lShra l e) s = put (aluLogic (BitVec.ofInt 32 (roundHalfUp a.toInt (bits w 4 0))))) ∧
    (∀ op c f, (op, c, f, true) ∈ laneAlu l e w → s.laneFetches l op w → bits w 10 0 ≠ 0 → exec c s = .next (u.laneFault l 1)) ∧
    (∀ f : Lane → Lane, let v := u.modLane l f
      v.lane l = f x ∧ (∀ l', l' ≠ l.val → v.lane l' = s.lane l') ∧ v = { s with lanes := v.lanes, regs := v.regs } ∧
        (e = .ok → v.regs = s.regs)) ∧
    (∀ n m v, (x.setD n v).dr m = if m = n then v else x.dr m)

/-- The other instructions of a lane on its registers, its memory and its accumulators (R378 to R380, R383). -/
def Obligations.LaneMemoryAndAccumulatorsAct : Prop :=
  ∀ (l : LaneIx) (e : Ecc) (de : Reads) (w : Word) (s : State), e ≠ .uncorrectable →
    let t := s.laneEcc l e
    let t' := t.count .DSP_ECC_CORRECTED (laneHalf l) 0 de.corrected
    let x := s.lane l
    (s.laneFetches l 0x02 w → bits w 20 16 = 0 →
      exec (.lLdi l e) s = .next (t.laneSet l false (x.setD (bits w 25 21) ((BitVec.ofNat 16 w.toNat).signExtend 32)) 1)) ∧
    (s.laneFetches l 0x03 w → bits w 20 16 = 0 →
      exec (.lLdih l e) s =
        .next (t.laneSet l false (x.setD (bits w 25 21) (setBits (x.dr (bits w 25 21)) 31 16 (BitVec.ofNat 16 w.toNat).toNat)) 1)) ∧
    (s.laneFetches l 0x04 w → bits w 13 0 = 0 → de.bad = none →
      exec (.lLd l e de) s =
        .next (t'.laneSet l false ((x.setD (bits w 25 21) (t.laneWord l (x.pr (bits w 20 18)).toNat)).post w) 1)) ∧
    (s.laneFetches l 0x04 w → bits w 13 0 = 0 → de.bad.isSome = true → exec (.lLd l e de) s = .next (t'.laneFault l 8)) ∧
    (s.laneFetches l 0x05 w → bits w 13 0 = 0 →
      exec (.lSt l e) s =
        .next ((t.setLaneWord l (x.pr (bits w 20 18)).toNat (x.dr (bits w 25 21))).laneSet l false (x.post w) 1)) ∧
    (s.laneFetches l 0x06 w →
      exec (.lSetp l e) s =
        .next (let v : BitVec 16 := if bit w 21 then BitVec.ofNat 16 (x.dr (bits w 20 16)).toNat else BitVec.ofNat 16 w.toNat
          t.laneSet l false (if bit w 25 then x.setM (bits w 24 22) v else x.setP (bits w 24 22) v) 1)) ∧
    (s.laneFetches l 0x11 w → bits w 25 21 = 0 → bits w 10 0 = 0 →
      exec (.lCmp l e) s = .next (t.laneSet l false (x.flags (aluSub (x.dr (bits w 20 16)) (x.dr (bits w 15 11)))) 1)) ∧
    (s.laneFetches l 0x12 w → bits w 25 21 = 0 →
      exec (.lCmpi l e) s =
        .next (t.laneSet l false (x.flags (aluSub (x.dr (bits w 20 16)) ((BitVec.ofNat 16 w.toNat).signExtend 32))) 1)) ∧
    (s.laneFetches l 0x18 w → bits w 22 21 = 0 → bits w 10 0 = 0 →
      exec (.lMacr l e) s =
        .next (let p := low16 (x.dr (bits w 20 16)) * low16 (x.dr (bits w 15 11))
          let r := accAdd (x.ar (bits w 25 24)) (if bit w 23 then -p else p)
          (t.laneSat l r.2).laneSet l false (x.setA (bits w 25 24) r.1) 1)) ∧
    (s.laneFetches l 0x19 w → bits w 25 24 % 2 = 0 → bits w 9 0 = 0 → de.bad = none →
      exec (.lCmac l e de) s =
        .next (let acc := bits w 25 24
          let a := t.laneWord l (x.pr (bits w 23 21)).toNat
          let b := t.laneWord l (x.pr (bits w 17 15)).toNat
          let sg : Int := if bit w 11 then -1 else 1
          let i := low16 a * low16 b - sg * (high16 a * high16 b)
          let q := sg * (low16 a * high16 b) + high16 a * low16 b
          let r0 := accAdd (x.ar acc) (if bit w 10 then -i else i)
          let r1 := accAdd (x.ar (acc + 1)) (if bit w 10 then -q else q)
          let y := x.setP (bits w 23 21) (x.pr (bits w 23 21) + x.mr (bits w 20 18))
          let y := y.setP (bits w 17 15) (y.pr (bits w 17 15) + y.mr (bits w 14 12))
          (t'.laneSat l (r0.2 || r1.2)).laneSet l false ((y.setA acc r0.1).setA (acc + 1) r1.1) 1)) ∧
    (s.laneFetches l 0x19 w → bits w 25 24 % 2 = 0 → bits w 9 0 = 0 → de.bad.isSome = true → exec (.lCmac l e de) s = .next (t'.laneFault l 8)) ∧
    (bits w 25 21 % 2 = 0 → bits w 14 0 ≠ 0 → de.bad.isSome = true →
      (s.laneFetches l 0x1C w → exec (.lMaxs l e de) s = .next (t'.laneFault l 8)) ∧
      (s.laneFetches l 0x1D w → exec (.lMins l e de) s = .next (t'.laneFault l 8))) ∧
    (s.laneFetches l 0x1A w → bits w 12 0 = 0 →
      exec (.lRnd l e) s =
        .next (let r := narrow 32 (bits w 18 13) (x.ar (bits w 20 19)).toInt
          (t.laneSat l r.2).laneSet l false (x.alu (bits w 25 21) (Alu.of (BitVec.ofInt 32 r.1) false r.2)) 1)) ∧
    (s.laneFetches l 0x1B w → bits w 21 0 = 0 →
      exec (.lClra l e) s =
        .next (t.laneSet l false ((List.range 4).foldl (fun x i => if bit w (22 + i) then x.setA i 0 else x) x) 1)) ∧
    (s.laneFetches l 0x1C w → bits w 25 21 % 2 = 0 → bits w 14 0 ≠ 0 → de.bad = none →
      ∀ v vs p, t'.searchWords l (bits w 14 0) (x.pr (bits w 20 18)) (x.mr (bits w 17 15)) = (v :: vs, p) →
      exec (.lMaxs l e de) s =
        .next (let b := bestOf (fun a b => decide (b < a)) vs 1 (v.toInt, 0)
          let y := BitVec.ofInt 32 b.1
          let x := ((x.setD (bits w 25 21) y).setD (bits w 25 21 + 1) (BitVec.ofNat 32 b.2)).setP (bits w 20 18) p
          t'.laneSet l false { x with z := decide (y = 0), n := bit y 31 } (bits w 14 0 + 1))) ∧
    (s.laneFetches l 0x1D w → bits w 25 21 % 2 = 0 → bits w 14 0 ≠ 0 → de.bad = none →
      ∀ v vs p, t'.searchWords l (bits w 14 0) (x.pr (bits w 20 18)) (x.mr (bits w 17 15)) = (v :: vs, p) →
      exec (.lMins l e de) s =
        .next (let b := bestOf (fun a b => decide (a < b)) vs 1 (v.toInt, 0)
          let y := BitVec.ofInt 32 b.1
          let x := ((x.setD (bits w 25 21) y).setD (bits w 25 21 + 1) (BitVec.ofNat 32 b.2)).setP (bits w 20 18) p
          t'.laneSet l false { x with z := decide (y = 0), n := bit y 31 } (bits w 14 0 + 1)))

/-- The instructions of a lane's flow (R368, R373, R374, R376, R381, R382, R384): NOP, HALT, REP, BR, BCC, CALL, RET, POP and its resumption,
TOK, REC and SIG. -/
def Obligations.LaneFlowActs : Prop :=
  ∀ (l : LaneIx) (e : Ecc) (w : Word) (s : State), e ≠ .uncorrectable →
    let t := s.laneEcc l e
    let x := s.lane l
    let h := laneHalf l
    (s.laneFetches l 0x00 w → bits w 25 0 = 0 → exec (.lNop l e) s = .next (t.laneSet l false x 1)) ∧
    (s.laneFetches l 0x01 w → bits w 25 0 = 0 →
      exec (.lHalt l e) s =
        .next (let u := t.modLane l fun x => { x with st := .idle, cycles := x.cycles + 1 }
          let u := (u.count .DSP_JOBS h (laneLocal l)).regBit .DSP_LANE_STATUS h (laneLocal l) 0 true
          u.fireGen h (0x50 + laneLocal l) x.outGen (u.row h))) ∧
    (∀ c, s.laneFetches l 0x20 w → bits w 19 12 ≠ 0 →
      (bit w 25 = true ∧ bits w 11 0 = 0 ∧ c = (x.dr (bits w 24 20)).toNat ∨ bit w 25 = false ∧ c = bits w 11 0) →
      x.pc + bits w 19 12 ≤ 65535 → (∀ o os, x.reps = o :: os → x.pc + bits w 19 12 ≤ o.last) →
      (c = 0 → exec (.lRep l e) s = .next (t.modLane l fun y => y.step (x.pc + bits w 19 12) 2)) ∧
      (0 < c → x.reps.length < 4 →
        exec (.lRep l e) s = .next (t.modLane l fun y =>
          { y with reps := ⟨y.pc + 1, x.pc + bits w 19 12, c - 1⟩ :: y.reps, pc := y.pc + 1, cycles := y.cycles + 1 }))) ∧
    (s.laneFetches l 0x21 w → bits w 25 16 = 0 → exec (.lBr l e) s = .next (t.modLane l fun _ => x.jump (bits w 15 0) 2)) ∧
    (s.laneFetches l 0x22 w → bits w 25 22 ≠ 15 → bits w 21 16 = 0 →
      exec (.lBcc l e) s =
        .next (if condHolds (bits w 25 22) x.z x.n x.c x.v then t.modLane l fun _ => x.jump (bits w 15 0) 2
          else t.laneSet l false x 1)) ∧
    (s.laneFetches l 0x23 w → bits w 25 16 = 0 →
      (x.call = false → exec (.lCall l e) s =
        .next (t.modLane l fun _ => { x.jump (bits w 15 0) 2 with link := (x.pc + 1) % 65536, call := true })) ∧
      (x.call = true → exec (.lCall l e) s = .next (t.laneFault l 3))) ∧
    (s.laneFetches l 0x24 w → bits w 25 0 = 0 →
      (x.call = true → exec (.lRet l e) s = .next (t.modLane l fun _ => { x.jump x.link 2 with call := false })) ∧
      (x.call = false → exec (.lRet l e) s = .next (t.laneFault l 3))) ∧
    (s.laneFetches l 0x28 w → bits w 19 0 = 0 → bits w 25 21 ≤ 26 →
      (∀ r q, x.queue = r :: q → exec (.lPop l e) s = .next (t.laneSet l false { x.pop (bits w 25 21) r with queue := q } 1)) ∧
      (x.queue = [] → bit w 20 = true → exec (.lPop l e) s = .next (t.laneSet l false { x with z := true } 1)) ∧
      (x.queue = [] → bit w 20 = false → bit (t.reg .LANE_CTL h (laneLocal l)) 0 = true →
        exec (.lPop l e) s =
          .next (t.modLane l fun x => { x with st := .stalled, popReg := bits w 25 21, cycles := x.cycles + 1 }))) ∧
    (x.st = .stalled →
      (∀ r q, x.queue = r :: q →
        exec (.lanePopResume l) s =
          .next (s.modLane l fun x => { x.pop x.popReg r with queue := q, st := .running }.step x.pc 0)) ∧
      (x.queue = [] → bit (s.reg .LANE_CTL h (laneLocal l)) 0 = false →
        exec (.lanePopResume l) s = .next (s.modLane l fun x => { x with z := true, st := .running }.step x.pc 0))) ∧
    (s.laneFetches l 0x29 w → bits w 14 0 = 0 → bits w 25 21 ≤ 26 →
      t.ownTable (64 * h + bits w 20 15) = t.ownLane l → bit (t.reg .DT_CFG h (bits w 20 15)) 31 = true →
      bit (t.reg .DT_CFG h (bits w 20 15)) 30 = true → bits (t.reg .DT_CFG h (bits w 20 15)) 11 8 = laneLocal l →
      exec (.lTok l e) s =
        .next (let k := x.token (bits w 25 21) (64 * h + bits w 20 15)
          ((t.setReg .DT_STATUS h (bits w 20 15) 0 (BitVec.ofNat 32 k.value.toNat)).emitToken h k).modLane l fun x => x.step x.pc 1)) ∧
    (s.laneFetches l 0x2A w → bits w 25 21 ≤ 26 → bits w 20 16 ≤ 28 →
      let u := t.runOf (bits (x.dr (bits w 25 21 + 4)) 15 10)
      (u.active = true → some u.owner = t.ownLane l →
        exec (.lRec l e) s =
          .next ((t.modLane l fun x => x.step x.pc 1).formRecord h u.recRing (some (bits (x.dr (bits w 25 21 + 4)) 15 10)) false (dspRecord x l (bits w 25 21) (bits w 20 16) (bits w 15 0)))) ∧
      (u.active = false →
        exec (.lRec l e) s = .next ((t.modLane l fun x => x.step x.pc 1).count .REC_DROP h (laneLocal l)))) ∧
    (s.laneFetches l 0x2B w → bits w 15 0 = 0 → t.ownEvent (bits w 25 16) = t.ownLane l → t.ecClass (bits w 25 16) ≠ 2 →
      exec (.lSig l e) s = .next ((t.modLane l fun x => x.step x.pc 1).fireFrom h (bits w 25 16) x.outGen))

/-! ### Calibration, trigger pins and task inputs -/

/-- Calibration (R391 to R410): a routine's start and end, a step of the gradual application, a background estimate; a trigger pin's edge
(R413) and what a firing does at a task input (R416, R421). -/
def Obligations.CalibrationAndTaskEventsAct : Prop :=
  ∀ (h : Half) (obs : CalObservation) (res : CalResult) (i : InIx) (est : BgEstimate) (s : State),
    (∀ j js, (s.calOf h).job = none → (s.calOf h).waiting = j :: js → s.paced h 27 = false →
      let t := s.modCal h fun c => { c with waiting := js }
      let check := t.calCheck j.routine j.target (t.ownCal j.routine j.target)
      (∀ st, check = some st → exec (.calRoutineStart h obs) s = .next (t.calDone h j.tag st)) ∧
      (check = none → j.routine = 3 ∨ j.routine = 4 → (t.reg .CAL_QUIET_TH h).toInt < obs.power →
        exec (.calRoutineStart h obs) s = .next (t.calDone h j.tag 0x0C)) ∧
      (check = none → j.routine = 5 → obs.loadOpen = true → exec (.calRoutineStart h obs) s = .next (t.calDone h j.tag 0x0D)) ∧
      (check = none → (j.routine = 3 ∨ j.routine = 4 → obs.power ≤ (t.reg .CAL_QUIET_TH h).toInt) → (j.routine = 5 → obs.loadOpen = false) →
        exec (.calRoutineStart h obs) s =
          .next (let u := t.modCal h fun c => { c with job := some j }
            match j.routine with
            | 1 => u.closeSwitch h (j.target % 16)
            | 2 => u.closeSwitch h (16 + j.target % 8)
            | 5 => u.modFlux j.target fun x =>
                { x with calSeq := [-24576, 0, x.code.toInt],
                         nextRamp := some ⟨.cal, 0, 24576, s.nextBoundary h + 640, (u.reg .FLX_SLEW h (j.target % 64)).toNat,
                           if bit (u.flxCtl j.target) 2 then 2 else 1⟩ }
            | _ => u))) ∧
    (∀ j, (s.calOf h).job = some j → (s.calOf h).applying = none →
      (j.routine = 5 → (s.fluxCh j.target).calSeq = [] ∧ (s.fluxCh j.target).ramp = none ∧ (s.fluxCh j.target).nextRamp = none) →
      let free := s.modCal h fun c => { c with job := none }
      (j.routine = 3 ∨ j.routine = 4 → (s.reg .CAL_QUIET_TH h).toInt < res.power →
        exec (.calRoutineEnd h res) s = .next (free.calDone h j.tag 0x0C)) ∧
      ((j.routine = 3 ∨ j.routine = 4 → res.power ≤ (s.reg .CAL_QUIET_TH h).toInt) →
        (plausible j.routine res = true → exec (.calRoutineEnd h res) s = .next (s.calApply h j res)) ∧
        (plausible j.routine res = false →
          exec (.calRoutineEnd h res) s =
            .next (((free.count .CAL_IMPLAUSIBLE_COUNT h 0).calDone h j.tag 0x0B).occur h 0x110
              { parts := (s.ownCal j.routine j.target).toList })))) ∧
    (s.row h % 1024 = 0 → (s.calOf h).lastStep ≠ some (s.row h / 1024) →
      exec (.calStep h) s =
        .next (let t := s.modCal h fun c => { c with lastStep := some (s.row h / 1024) }
          let t := t.forEach ((List.range 8).filter fun i => t.tracking (8 * h + i)) fun s i => s.stepFields h (pairKey i) (inputFields i)
          let t := t.forEach ((List.range 64).filter fun c => t.fluxMoves h c) fun s c => s.stepFields h (fluxKey c) (fluxFields c)
          let t := t.forEach ((List.range 64).filter fun c => !bit (t.reg .FLX_CTL h c) 0) fun s c =>
            match mget none (s.calOf h).target (fluxKey c) with
            | some g => s.setTrim h (fluxKey c) { g with valid := (s.trim h (fluxKey c)).valid, valid1 := (s.trim h (fluxKey c)).valid1 }
            | none => s
          t.fluxApplied h)) ∧
    (s.tracking i = true → 524288 ≤ mget 0 (s.calOf (i.val / 8)).usable (i.val % 8) →
      let p := pairKey (i.val % 8)
      let e := coreKey (2 * (i.val % 8))
      let o := coreKey (2 * (i.val % 8) + 1)
      let near (x y : BitVec 16) : Bool := decide ((x.toInt - y.toInt).natAbs ≤ 33)
      let r : CalResult := { gain := est.gain, ofs := est.ofs, gain2 := est.gain2, ofs2 := est.ofs2, tap := est.tap, skew := est.skew,
                             mismatch := est.mismatch }
      let ok := decide (((est.tap : Int) - (s.trim (i.val / 8) p).tap).natAbs ≤ 4) && near est.gain (s.trim (i.val / 8) e).gain &&
        near est.gain2 (s.trim (i.val / 8) o).gain && plausible 3 r && plausible 4 r
      let u := s.modCal (i.val / 8) fun c => { c with usable := mset 0 c.usable (i.val % 8) 0 }
      (ok = true → exec (.bgEstimate i est) s = .next (u.modCal (i.val / 8) fun c => { c with
        target := mset none (mset none (mset none c.target p (some { u.trim (i.val / 8) p with tap := est.tap })) e
          (some { u.trim (i.val / 8) e with gain := est.gain, ofs := est.ofs })) o
          (some { u.trim (i.val / 8) o with gain := est.gain2, ofs := est.ofs2 }) })) ∧
      (ok = false → exec (.bgEstimate i est) s =
        .next ((u.count .BG_REJECT (i.val / 8) 0).occur (i.val / 8) 0x111 { runs := u.inRuns i, parts := (u.ownPair i).toList }))) ∧
    (∀ (m : MarkIx) (rising : Bool) (off : Fin 512), bit s.pins m ≠ rising →
      exec (.trigInEdge m rising off) s =
        .next (let t := 16 * s.now (m.val / 8) + off.val
          let u : State := { s with pins := setBit s.pins m rising }
          let u := if (match mget none s.pinEdge m with | some x => decide (x ≤ t ∧ t < x + 1024) | none => false) then u
            else { u.capPin m rising t with pinEdge := mset none s.pinEdge m (some t) }
          u.fireProducer (m.val / 8) ((if rising then 0x008 else 0x018) + m.val % 8) 0 (u.row (m.val / 8)))) ∧
    (∀ (u : Fin 448) f, s.fires.find? (s.taskDue h u) = some f → taskExists h u = true →
      let t : State := { s with fires := s.fires.erase f }
      (s.taskAsync u f.ch = true → exec (.taskInputRegistration h u) s = .next (t.taskAct h u f.gen)) ∧
      (s.taskAsync u f.ch = false → mget none s.taskRow (512 * h + u) = some (s.row h) →
        exec (.taskInputRegistration h u) s = .next (t.taskDrop h u)) ∧
      (s.taskAsync u f.ch = false → mget none s.taskRow (512 * h + u) ≠ some (s.row h) →
        exec (.taskInputRegistration h u) s =
          .next ({ t with taskRow := mset none s.taskRow (512 * h + u) (some (s.row h)) }.taskAct h u f.gen)))

/-! ### Ports, rings and doorbells -/

/-- Ports and rings (R33, R427 to R437, R443, R463, R623): resets and links of a port, ENABLE and DISABLE of a ring, of either half, the
end of its draining, the start of a poll of the doorbells, the completion of a FENCE and the moderation of a ring's interrupt. -/
def Obligations.PortAndRingEventsAct : Prop :=
  ∀ (p : Port) (h : Half) (r : RingIx) (s : State),
    exec (.functionLevelReset p) s = .next (s.portReset p) ∧
    exec (.portLink p) s = .next (s.portDown p) ∧
    exec (.perst p true) s =
      .next ((((s.modPort p fun x => { x with perst := true }).portDown p).portReset p).modPort p fun x => { x with cfg := {}, secure := 0 }) ∧
    exec (.perst p false) s = .next (s.modPort p fun x => { x with perst := false }) ∧
    (∀ (speed : Fin 6) (width : Fin 5), (s.port p).perst = false → s.boot.st ≠ .cold → 1 ≤ speed.val →
      width.val = 1 ∨ width.val = 2 ∨ width.val = 4 →
      exec (.portLinkUp p speed width) s =
        .next ((s.modPort p fun x => { x with link := true, speed := speed.val, width := width.val }).settleMsix p)) ∧
    (s.reaches p .RING_OP h (s.opIx p h) →
      let q := 2 * h.val + s.opIx p h
      let busy : Prop := (s.ring r).kind = 2 ∧
        ∃ e ∈ s.rings, e.2.kind = 1 ∧ e.2.cq = r.val ∧ (e.2.st = .enabled ∨ e.2.st = .draining)
      (s.portPart q = none → exec (.ringEnable p h r) s = .next s ∧ exec (.ringDisable p h r) s = .next s) ∧
      (∀ k, s.portPart q = some k →
        (s.ringIn k r = false → exec (.ringEnable p h r) s = .next ((s.foreign p).opResult q r 2) ∧
          exec (.ringDisable p h r) s = .next ((s.foreign p).opResult q r 2)) ∧
        (s.ringIn k r = true →
          ((s.ring r).st ≠ .disabled → exec (.ringEnable p h r) s = .next (s.opResult q r 1)) ∧
          ((s.ring r).st = .disabled →
            exec (.ringEnable p h r) s = .next ((s.opResult q r 0).dmaRead q
              { cls := 3, part := k, src := srcRing r, why := .context r, act := .msix 0, half := portHalf q } (s.contextAt k r) 64)) ∧
          (busy → exec (.ringDisable p h r) s = .next (s.opResult q r 1)) ∧
          (¬ busy → (s.ring r).kind = 1 → s.ringBusy r = true →
            exec (.ringDisable p h r) s = .next ((s.opResult q r 0).modRing r fun x => { x with st := .draining, desc := [] })) ∧
          (¬ busy → (s.ring r).kind ≠ 1 ∨ s.ringBusy r = false →
            exec (.ringDisable p h r) s = .next ((s.opResult q r 0).ringOff r))))) ∧
    ((s.port p).cfg.d3hot = false → s.unsecured p = false → portHalf p ≠ h.val → s.ready = true →
      let a := Reg.addr .RING_OP h (s.opIx p h) 0
      (s.linkUp = true →
        exec (.ringEnable p h r) s = .next (s.send (portHalf p) (.regWrite p a (0x10000000#32 ||| word r.val))) ∧
        exec (.ringDisable p h r) s = .next (s.send (portHalf p) (.regWrite p a (0x20000000#32 ||| word r.val)))) ∧
      (s.linkUp = false →
        exec (.ringEnable p h r) s = .next (s.count .FAR_WR_DISCARD (portHalf p) 0) ∧
        exec (.ringDisable p h r) s = .next (s.count .FAR_WR_DISCARD (portHalf p) 0))) ∧
    ((s.ring r).st = .draining → s.ringBusy r = false → exec (.ringDrainEnd r) s = .next (s.ringOff r)) ∧
    (s.portOn p = true → bit (s.reg .PORT_CTL (portHalf p) (portIx p)) 0 = true → s.polling p = false →
      (s.port p).kicked = true ∨ (s.port p).pollAt + 20 * s.pollEvery p ≤ s.now (portHalf p) →
      exec (.doorbellPoll p) s =
        .next ((s.modPort p fun x => { x with kicked := false, pollAt := s.now (portHalf p) }).dmaRead p (s.pageReq p .line)
          (s.pageAt p + 4096) 64)) ∧
    (∀ tag c, s.firstFence r = some (tag, c) →
      (s.cmds.any fun e => match e.2 with | some b => b.ring == r.val && decide (b.seq < c.seq) | none => false) = false →
      exec (.fenceComplete r) s =
        .next ((s.finish tag 0 0).modRing r fun x => if x.fence = some tag then { x with fence := none } else x)) ∧
    (∀ t, (s.ring r).firstUnit = some t → (s.ring r).st = .enabled → t + 20000 * (s.ring r).modTime ≤ s.now (portHalf (s.ring r).port) →
      exec (.irqModerationTimeout r) s = .next (s.ringMessage r))


/-! ### Network time -/

/-- Network time (R527 to R548): the messages of the selected master, a request of the slave, best-master selection, the loss of the
master, forwarding with the transparent clock, a step or rate change at its boundary, an arm that fires, and a port's link. -/
def Obligations.NetworkTimeEventsAct : Prop :=
  ∀ (port : Fin 2) (frame m : List Byte) (off : Fin 32) (h : Half) (s : State),
    (s.ptpIn port frame 0 = some m → s.servo.master = some (sourceOf m) →
      exec (.ptpSync port frame off) s =
        .next (s.modServo fun v =>
          if beField m 6 1 / 2 % 2 = 1 then
            { v with lastSync := s.now 0, gone := false, twoStep := some (seqOf m, correction m + s.asymmetry, s.stampAt port off) }
          else
            { v with lastSync := s.now 0, gone := false,
                     sync := some (stampOfMsg m + (correction m + s.asymmetry), s.stampAt port off), twoStep := none })) ∧
    (∀ q c t2, s.ptpIn port frame 8 = some m → s.servo.twoStep = some (q, c, t2) → s.servo.master = some (sourceOf m) → q = seqOf m →
      exec (.followUp port frame) s =
        .next (s.modServo fun v => { v with sync := some (stampOfMsg m + correction m + c, t2), twoStep := none })) ∧
    (s.servo.st ≠ 0 → s.servo.master ≠ none → mget false s.ntLink s.activePort = true →
      (∀ t, s.servo.reqLast = some t → t + s.servo.reqEvery ≤ s.now s.activePort) →
      exec (.delayReq off) s =
        .next { s with
          out := s.out ++ [.frame s.activePort (s.delayReqFrame s.servo.reqSeq)]
          servo := { s.servo with req := some (s.servo.reqSeq, s.stampAt s.activePort off),
                                  reqSeq := (s.servo.reqSeq + 1) % 65536, reqLast := some (s.now s.activePort) } }) ∧
    (∀ q t1 t2 t3, s.ptpIn port frame 9 = some m → s.servo.req = some (q, t3) → s.servo.sync = some (t1, t2) →
      s.servo.master = some (sourceOf m) → q = seqOf m → slice m 44 10 = s.ownIdentity →
      exec (.delayResp port frame) s =
        .next (let mpd2 := (t2 - t3) + (stampOfMsg m - t1) - correction m
          let v : Word := BitVec.ofInt 32 (clampS 32 (divHalfUp mpd2 (2 * unit8)))
          let u := s.modServo fun v => { v with req := none, reqEvery := logInterval (beField m 33 1) }
          ((u.setReg .MPD 0 0 0 v).setReg .MPD 1 0 0 v).newOffset (2 * (t2 - t1) - mpd2))) ∧
    (s.ptpIn port frame 11 = some m →
      exec (.announce port frame) s =
        .next (let seen := (match s.servo.foreign.find? fun f => f.id == sourceOf m with | some f => f.seen | none => []) ++ [s.now 0]
          let l := (s.servo.foreign.filter fun f => f.id != sourceOf m) ++
            [{ id := sourceOf m, data := announceData m, interval := logInterval (beField m 33 1), seen := seen.drop (seen.length - 4) }]
          let b := bestMaster l (s.now 0)
          if b = s.servo.master then s.modServo fun v => { v with foreign := l }
          else s.modServo fun v =>
            { v with foreign := l, master := b, sync := none, twoStep := none, req := none, lastSync := s.now 0 })) ∧
    (s.servo.st ≠ 0 → s.servo.st = 2 ∨ s.servo.st = 3 ∨ s.servo.gone = false →
      (∀ id, s.servo.master = some id → ∀ f, (s.servo.foreign.find? fun f => f.id == id) = some f →
        s.servo.lastSync + 3 * f.interval ≤ s.now 0) →
      exec .masterLost s =
        .next ((s.modServo fun v => { v with
          st := if v.st = 2 then 1 else if v.st = 3 then 4 else v.st, near := 0, sync := none, twoStep := none, req := none,
          gone := true }).occur s.activePort 0x047)) ∧
    (∀ (residence : Nat) (full : Bool), bit (s.reg .NT_CTL 0) 30 = true → mget false s.ntLink port = true →
      (frameBody frame = none ∨ (∃ b, frameBody frame = some b ∧ (full = true ∨ 1536 < frame.length ∨ beField b 12 2 = 0x8808)) →
        exec (.frameForward port frame residence full) s = .next (s.count .FWD_DROPS port 0)) ∧
      (∀ b, frameBody frame = some b → full = false → frame.length ≤ 1536 → beField b 12 2 ≠ 0x8808 →
        let o := if beField b 12 2 = 0x8100 then 16 else 12
        let t := s.count .FWD_FRAMES port 0
        let timed (k : Nat) : Prop := bit (s.reg .NT_CTL 0) 29 = true ∧ beField b k 1 % 16 ≤ 3
        (∀ k udp, ptpAt b o = some (k, udp) → timed k →
          exec (.frameForward port frame residence full) s =
            .next (let c := b.take (k + 8) ++ beBytes 8 ((beField b (k + 8) 8 + residence) % 2 ^ 64) ++ b.drop (k + 16)
              (t.count .TC_CORRECTED port 0).emit (.frame (1 - port.val) (withFcs
                (if udp then c.take (k - 2) ++ [0, 0] ++ c.drop k else c))))) ∧
        ((∀ k udp, ptpAt b o = some (k, udp) → ¬ timed k) →
          exec (.frameForward port frame residence full) s = .next (t.emit (.frame (1 - port.val) frame))))) ∧
    (∀ (residence : Nat) (full : Bool), bit (s.reg .NT_CTL 0) 30 = false ∨ mget false s.ntLink port = false →
      exec (.frameForward port frame residence full) s = .next s) ∧
    (∀ u, ((mget [] s.ntUpd h).find? fun u => decide (u.t ≤ s.now h)) = some u →
      exec (.ntStepApply h) s =
        .next (let t := { s with ntUpd := mmod [] s.ntUpd h fun l => l.erase u }.ntAdd h u.step
          match u.rate with
          | some r => t.setReg .NT_RATE h 0 0 r
          | none => t)) ∧
    (∀ a : Fin 5, bit (s.reg .TRIG_STATE h a) 31 = true → s.pair .TRIG_ST_LO .TRIG_ST_HI h a ≤ s.now h →
      exec (.ntArmFire h a) s =
        .next (let t := s.regBit .TRIG_STATE h a 31 false
          let row := rowOf (s.pair .TRIG_ST_LO .TRIG_ST_HI h a)
          if a.val < 4 then t.fireProducer h (0x020 + a.val) 0 row
          else if (s.auxOf h).busy then t
          else t.scanStart h row 0)) ∧
    (mget false s.ntLink port = true →
      exec (.ntPortLink port) s = .next ({ s with ntLink := mset false s.ntLink port false }.occur port 0x049)) ∧
    exec (.ntPortLinkUp port) s = .next { s with ntLink := mset false s.ntLink port true }


/-! ### The die link -/

/-- The check bits of a flit (R557): a flit with its check bits is taken as it is, and with any one of its 266 bits changed it is
corrected to the same body. -/
def Obligations.FlitCodeCorrectsOneBit : Prop :=
  ∀ b : BitVec 256, flitBody (flitOf b) = some (b, false) ∧
    ∀ i < 266, flitBody (flitOf b ^^^ BitVec.ofNat 272 (2 ^ i)) = some (b, true)

/-- Flits on an ACTIVE link (R24, R35, R53, R556 to R562, R566): an IDLE only returns its credit; an LCTL acknowledges and returns credits;
the Rest request and its answer; a sequenced flit in its turn brings what it carries (a token, events, a register access, a forwarded
access with its data, a management message, a time message), out of turn it is discarded and asked for again. -/
def Obligations.FlitsAct : Prop :=
  ∀ (h : Half) (flit : BitVec 272) (b : BitVec 256) (fixed : Bool) (s : State), s.receives h flit b fixed →
    let t := s.received h b fixed
    let u := t.inOrder h b
    let acks := (t.dlkOf h).acks (t.dlkOf (far h)) b
    let v := (if payload b 8 8 = 1 then t.modDlk (far h) fun d => { d with nakDue := false } else t).control h b
    let drop (w : State) (m : DlkMsg) : State := w.modDlk (far h) fun d => { d with msgs := d.msgs.erase m }
    (bits b 15 12 = 0 → exec (.idle h flit) s = .next t) ∧
    (bits b 15 12 = 1 → payload b 10 9 = 0 → acks = true → exec (.lctl h flit) s = .next v) ∧
    (bits b 15 12 = 1 → payload b 10 9 = 0 → acks = false → exec (.lctl h flit) s = .next s) ∧
    (bits b 15 12 = 1 → payload b 9 9 = 1 → acks = true → (t.dlkOf (far h)).asked = true →
      exec (.restReq h flit) s =
        .next (if v.restReady h then v.modDlk h fun d => { d with answered := true }
          else v.modDlk (far h) fun d => { d with asked := false })) ∧
    (bits b 15 12 = 1 → payload b 10 10 = 1 → acks = true → (t.dlkOf h).asked = true → (t.dlkOf (far h)).answered = true →
      exec (.restAck h flit) s =
        .next (let w := (v.modDlk 0 fun d => { d with asked := false, answered := false }).modDlk 1 fun d =>
            { d with asked := false, answered := false }
          if w.restInhibited then w
          else (((w.modDlk 0 fun d => { d with st := .rest }).count .REST_COUNT 0 0).modDlk 1 fun d =>
            { d with st := .rest }).count .REST_COUNT 1 0)) ∧
    (∀ k c, (k, c) ∈ [(2, Instr.token h flit), (3, .event h flit), (4, .reg h flit), (5, .dmaHdr h flit), (6, .dmaData h flit),
        (8, .mgmt h flit)] ∨ k = 7 ∧ (payload b 161 160 = 3 ∧ c = .ntUpdate h flit ∨
          payload b 161 160 = 0 ∧ h.val = 1 ∧ ∃ off, c = .periodic h flit off) → bits b 15 12 = k →
      (t.dlkOf (far h)).canSend (kindClass k) (bits b 11 4) = true → bits b 11 4 ≠ (t.dlkOf h).expect →
      exec c s = .next ((t.modDlk (far h) fun d => d.sent (kindClass k) (bits b 11 4) (t.now (far h))).modDlk h fun d =>
        { d with nak := true, nakDue := d.nakDue || !d.nak })) ∧
    (bits b 15 12 = 2 → t.expects h b → (u.dlkOf (far h)).msgs.find? DlkMsg.isToken = some (.token (tokenOf b)) →
      exec (.token h flit) s = .next ((drop u (.token (tokenOf b))).tokenOn h (tokenOf b))) ∧
    (∀ w, bits b 15 12 = 3 → t.expects h b →
      (eventsOf b).foldl (fun o e => o.bind fun x =>
        if (x.dlkOf (far h)).msgs.find? DlkMsg.isEvent = some (.event e.1 e.2) then some ((drop x (.event e.1 e.2)).eventIn h e.1 e.2)
        else none) (some u) = some w →
      exec (.event h flit) s = .next w) ∧
    (∀ m, bits b 15 12 = 4 → t.expects h b → regSpells b m = true → (u.dlkOf (far h)).msgs.find? DlkMsg.isReg = some m →
      exec (.reg h flit) s = .next ((drop u m).regIn h m)) ∧
    (∀ m, bits b 15 12 = 8 → t.expects h b → (u.dlkOf (far h)).msgs.find? DlkMsg.isMgmt = some m →
      exec (.mgmt h flit) s = .next ((drop u m).mgmtIn h m)) ∧
    (∀ x, bits b 15 12 = 5 → t.expects h b → (u.dlkOf (far h)).msgs.find? DlkMsg.isDma = some (.dma x) → (u.dlkOf h).dataFlits = 0 →
      (payload b 63 0, payload b 76 64, payload b 78 77, payload b 79 79 == 1, payload b 80 80 == 1) = x.header →
      (x.data = [] → exec (.dmaHdr h flit) s = .next ((drop u (.dma x)).forwardIn x)) ∧
      (x.data ≠ [] → exec (.dmaHdr h flit) s = .next (u.modDlk h fun d => { d with dataFlits := (x.data.length + 29) / 30 }))) ∧
    (∀ x n, bits b 15 12 = 6 → t.expects h b → (u.dlkOf (far h)).msgs.find? DlkMsg.isDma = some (.dma x) →
      (u.dlkOf h).dataFlits = n + 1 → payload b 239 0 = leField (slice x.data (30 * ((x.data.length + 29) / 30 - (n + 1))) 30) 0 30 →
      let w := u.modDlk h fun d => { d with dataFlits := n }
      (0 < n → exec (.dmaData h flit) s = .next w) ∧
      (n = 0 → exec (.dmaData h flit) s = .next ((drop w (.dma x)).forwardIn x))) ∧
    (bits b 15 12 = 7 → payload b 161 160 = 3 → t.expects h b →
      (u.dlkOf (far h)).msgs.find? (DlkMsg.isTime 3) = some (.time 3 (payload b 159 0)) →
      exec (.ntUpdate h flit) s =
        .next ((drop u (.time 3 (payload b 159 0))).ntQueue h
          { t := payload b 63 0, rate := some (BitVec.ofNat 32 (payload b 95 64)),
            step := (BitVec.ofNat 64 (payload b 159 96)).toInt * unit16 })) ∧
    (∀ (off : Fin 32) (c : Nat), h.val = 1 → bits b 15 12 = 7 → payload b 161 160 = 0 → t.expects h b →
      (u.dlkOf 0).msgs.find? (DlkMsg.isTime 0) = some (.time 0 c) →
      let sent := payload b 63 0
      c ≤ sent → near4 (sent + (u.reg .LINK_LAT 1).toNat) (u.now 0 + off.val) = true →
      (payload b 159 112, payload b 111 80, payload b 79 64) = ntParts (u.ntAt 0 sent) →
      let w := u.modDlk 0 fun d => { d with msgs := d.msgs.erase (.time 0 c) }
      (bit (w.reg .CLK_STATUS 1) 2 = false → exec (.periodic h flit off) s = .next w) ∧
      (bit (w.reg .CLK_STATUS 1) 2 = true →
        exec (.periodic h flit off) s =
          .next (let x := if near4 (sent + (w.reg .LINK_LAT 1).toNat) (w.now 1 + off.val) then w else w.occur 1 0x042
            if w.ntAt 0 sent = x.ntAt 1 sent then x else x.occur 1 0x048)))

/-- Timeouts, Rest, losses and training of the die link (R53, R551 to R555, R562 to R564, R566 to R572). -/
def Obligations.LinkTrainingAndLossAct : Prop :=
  ∀ (h : Half) (s : State),
    (∀ flit, (s.dlkOf h).st = .active → flitBody flit = none ∨ (∃ b fixed, flitBody flit = some (b, fixed) ∧ 9 ≤ bits b 15 12) →
      exec (.uncorrectableFlit h flit) s = .next ((s.count .UNCORR_COUNT h 0).modDlk h fun d =>
        { d.clocked with nak := true, nakDue := d.nakDue || !d.nak })) ∧
    (∀ q l, (s.dlkOf h).st = .active → (s.dlkOf h).kept = q :: l → (s.dlkOf h).lastAck + 40000 ≤ s.now h →
      exec (.replayTimeout h) s =
        .next (((s.modDlk h fun d =>
          { d with resends := if d.resendAt = some q then d.resends + 1 else 1, resendAt := some q, lastAck := s.now h }).count
            .REPLAY_COUNT h 0).occur h 0x161)) ∧
    (s.restReady h = true → (s.dlkOf (far h)).st = .active →
      exec (.restIdleExpiry h) s = .next (s.modDlk h fun d => { d with asked := true })) ∧
    ((s.dlkOf h).st = .rest → (s.dlkOf h).msgs ≠ [] ∨ (s.dlkOf (far h)).msgs ≠ [] →
      exec (.restExit h) s =
        .next ((s.modDlk 0 fun d => { d with st := .active }).modDlk 1 fun d => { d with st := .active })) ∧
    (∀ cause : Fin 8, (s.dlkOf h).st = .active ∨ (s.dlkOf h).st = .rest →
      cause.val = 1 ∨ cause.val = 2 ∨ (cause.val = 3 ∧ ∃ e ∈ (s.dlkOf h).markBad, 2 ≤ e.2) ∨ (cause.val = 4 ∧ 4 ≤ (s.dlkOf h).resends) →
      exec (.linkLoss h cause) s = .next (s.loseLink h cause)) ∧
    (∀ res : TrainingResult, (s.dlkOf h).st = .training → (s.dlkOf h).trained = false →
      let t := s.count .TRAIN_COUNT h 0
      let u := t.forEach (List.range 8) fun s l =>
        s.setReg .DLK_LANE_STATUS h l 0
          (BitVec.ofNat 32 ((bestPreset (res.eyes.getD l [])).1 % 16 * 2 ^ 24 +
            (bestPreset (res.eyes.getD l [])).2.toNat * 2 ^ 16 + (res.skews.getD l 0).toNat))
      (res.ok = true → (s.dlkOf h).lost = true → exec (.trainingAttempt h res) s = .next (u.modDlk h fun d => { d with trained := true })) ∧
      (res.ok = true → (s.dlkOf h).lost = false →
        exec (.trainingAttempt h res) s = .next (u.modDlk h fun d =>
          { d with st := .active, wake := false, attempts := 0, lastSeq := u.now h, lastAck := u.now h })) ∧
      (res.ok = false → (s.dlkOf h).wake = true → exec (.trainingAttempt h res) s = .next (t.loseLink h 5)) ∧
      (res.ok = false → (s.dlkOf h).wake = false → (s.dlkOf h).lost = true →
        exec (.trainingAttempt h res) s = .next (t.modDlk h fun d => { d with st := .down, retryAt := some (t.now h + 2000000) })) ∧
      (res.ok = false → (s.dlkOf h).wake = false → (s.dlkOf h).lost = false → t.boot.st = .selftest → 2 ≤ (s.dlkOf h).attempts →
        exec (.trainingAttempt h res) s = .next (t.modBoot fun b => { b with st := .failed, cause := 3 })) ∧
      (res.ok = false → (s.dlkOf h).wake = false → (s.dlkOf h).lost = false → (s.dlkOf h).attempts < 2 →
        exec (.trainingAttempt h res) s = .next (t.modDlk h fun d => { d with attempts := d.attempts + 1 }))) ∧
    (∀ x, (s.dlkOf h).retryAt = some x → (s.dlkOf h).st = .down → x ≤ s.now h →
      exec (.trainingRetry h) s = .next (s.modDlk h fun d => { d with st := .training, retryAt := none })) ∧
    ((s.dlkOf h).lost = true → (s.dlkOf h).trained = true → (s.dlkOf (far h)).trained = true ∨ (s.dlkOf (far h)).st = .active →
      exec (.linkUp h) s =
        .next (let t := (s.modDlk h fun d =>
            { ({ } : Dlk) with st := .active, cause := d.cause, lastSeq := s.now h, lastAck := s.now h, msgs := d.msgs })
          let t := if h.val = 1 then t.alignCheck (t.now 0) (t.ntOf 0) (t.now 1 + (t.reg .LINK_LAT 1).toNat) else t
          let t := t.occur h 0x162
          if t.linkUp then t.rejoin.realign else t)) ∧
    (∀ (lane : Fin 8) (stuff : Fin 65536), (s.dlkOf h).st = .active →
      let errs := fun (s : State) hi lo n => s.setReg .LANE_ERR h lane 0
        (setBits (s.reg .LANE_ERR h lane) hi lo (min 0xFFFF (bits (s.reg .LANE_ERR h lane) hi lo + n)))
      (∀ b : BitVec 66, bits b 1 0 = 1 → bits b 5 2 = lane → bits b 9 6 = 15 - lane → bits b 65 10 = 0xF0E1D2C3B4A596 →
        exec (.deskewMarker h lane (some b) stuff) s = .next ((errs s 31 16 stuff).modDlk h fun d =>
          { d with markBad := mset 0 d.markBad lane 0, clock := mset 0 d.clock lane 0 })) ∧
      exec (.deskewMarker h lane none stuff) s =
        .next ((errs (errs s 31 16 stuff) 15 0 1).modDlk h fun d => { d with markBad := mmod 0 d.markBad lane (· + 1) })) ∧
    (∀ flit b fixed (off : Fin 32), flitBody flit = some (b, fixed) → bits b 15 12 = 7 → (s.dlkOf h).st = .training →
      (payload b 161 160 = 1 →
        exec (.probe h flit off) s =
          .next ((s.modDlk (far h) fun d => { d with probe := some (payload b 63 0) }).modDlk h fun d =>
            { d.clocked with echoDue := some (s.now h + off.val + 64) })) ∧
      (∀ p e, payload b 161 160 = 2 → (s.dlkOf h).probe = some p → (s.dlkOf (far h)).echoDue = some e → payload b 63 0 = e →
        exec (.echo h flit off) s =
          .next (let lat : Word := BitVec.ofNat 32 ((s.now h + off.val - p - 64) / 2 % 65536)
            ((((s.setReg .LINK_LAT 0 0 0 lat).setReg .LINK_LAT 1 0 0 lat).modDlk h fun d => { d.clocked with probe := none }).modDlk (far h)
              fun d => { d with echoDue := none })))) ∧
    (s.now 0 % 1048576 = 0 → s.linkUp = true → exec .halfAlignSend s = .next (s.send 0 (.time 0 (s.now 0))))


/-! ### Faults, quiet mode, power, temperature and test access -/

/-- Faults and power (R587 to R592, R607 to R613): FAULT_N's release and the end of a shadow, the end of quiet mode, the watchdog, the
governor's evaluation, its descent by one level and the blocks that it holds back, a sag of 100 µs, and the sensors' samples. -/
def Obligations.FaultAndPowerEventsAct : Prop :=
  ∀ (h : Half) (s : State),
    (∀ t, s.faultN.reassert = some t → t ≤ s.now 0 →
      exec .faultNReassert s = .next { s with faultN := { asserted := true, since := s.now 0 } }) ∧
    (∀ n x, s.shadowsF[n]? = some x → x.half = h.val → x.until_ ≤ s.now h →
      exec (.shadowEnd h n) s = .next { s with shadowsF := s.shadowsF.eraseIdx n }) ∧
    (∀ r0 r1, (s.quietOf 0).granted = true → (s.quietOf 1).granted = true → (s.quietOf 0).lastReq = some r0 → (s.quietOf 1).lastReq = some r1 →
      r0 < s.row 0 → r1 < s.row 1 →
      exec .quietExit s =
        .next (((((((s.modQuiet 0 fun q => { q with on := false, granted := false, exitResult := 0 }).modQuiet 1
          fun q => { q with on := false, granted := false, exitResult := 0 }).notify 0).notify 1).notify 2).notify 3))) ∧
    exec (.fwWatchdog h) s = .next (s.occur h 0x1E0) ∧
    (∀ g : GovReading,
      let d : Int := (g.mean.toNat : Int) - g.low.toNat
      let n := s.govLevel h d
      let u := s.setReg .VCORE_REF h 0 0 (g.mean.zeroExtend 32)
      let t := u.setReg .GOV_STATUS h 0 0 (setBits (u.reg .GOV_STATUS h) 15 0 (BitVec.ofInt 16 d).toNat)
      (n ≤ (s.govOf h).level →
        exec (.govEvaluate h g) s = .next (t.modGov h fun x =>
          { x with comp := n, below := if n < x.level then some (x.below.getD (s.now h)) else none })) ∧
      ((s.govOf h).level < n →
        exec (.govEvaluate h g) s = .next ((t.setLevel h n).modGov h fun x =>
          { x with comp := n, below := if n < x.level then some (x.below.getD (s.now h)) else none }))) ∧
    (∀ t, (s.govOf h).below = some t → 0 < (s.govOf h).level → t + 20000 * s.govField h 23 16 ≤ s.now h →
      exec (.govDescent h) s = .next ((s.setLevel h ((s.govOf h).level - 1)).modGov h fun x =>
        { x with below := if x.comp < x.level then some (t + 20000 * s.govField h 23 16) else none })) ∧
    (∀ b, (s.govOf h).level = 0 ∨ bit (s.reg .GOV_CTL h) b = false → s.paced h b = false) ∧
    (∀ b, 8 ≤ (s.govOf h).level → bit (s.reg .GOV_CTL h) b = true → s.paced h b = true) ∧
    (∀ t, (s.govOf h).since = some t → (s.govOf h).sagged = false → t + 2000000 < s.now h →
      exec (.supplySag h) s = .next (((s.modGov h fun g => { g with sagged := true }).count .SAG_COUNT h 0).occur h 0x172)) ∧
    (∀ temps : List (BitVec 16), temps.length = 8 →
      exec (.thermalSample h temps) s =
        .next (let t := hottest temps
          let u := (s.forEach (List.range 8) fun s i => s.setReg .SENSOR_TEMP h i 0 ((temps.getD i 0).zeroExtend 32)).setReg .TEMP h 0 0
            (tempWord t)
          let u := if ((u.reg .TEMP_MAX h).truncate 16).toInt < t then u.setReg .TEMP_MAX h 0 0 (tempWord t) else u
          let limit := ((u.reg .TEMP_WARN h).truncate 16).toInt
          let u :=
            if !bit u.warm h ∧ limit ≤ t then { u with warm := setBit u.warm h true }.occur h 0x170
            else if bit u.warm h ∧ t ≤ limit - 512 then { u with warm := setBit u.warm h false }
            else u
          if !bit u.hot h ∧ 29440 ≤ t then { u with hot := setBit u.hot h true }.occur h 0x171
          else if bit u.hot h ∧ t < 26880 then { u with hot := setBit u.hot h false }
          else u))

/-- The test access port (R624): TRST resets the controller; a rising edge of TCK moves it by TMS and shifts TDI in, a falling edge
changes TDO and the instruction; the codes and cells are not in the spec (log 19). -/
def Obligations.TestAccessFollowsItsController : Prop :=
  ∀ (tms tdi : Bool) (s : State),
    let go (t : Tap) : Host.Outcome State Fault Refusal := .next { s with tap := { t with st := s.tap.st.next tms } }
    (∀ r, exec (.tckEdge r tms tdi true) s = .next { s with tap := { s.tap with st := .reset, instr := .bypass, tdo := none } }) ∧
    (s.tap.st ≠ .captureIr → s.tap.st ≠ .shiftIr → s.tap.st ≠ .captureDr → s.tap.st ≠ .shiftDr →
      exec (.tckEdge true tms tdi false) s = go s.tap) ∧
    (s.tap.st = .captureIr → exec (.tckEdge true tms tdi false) s =
      go { s.tap with ir := true :: List.replicate (Config.tapLength - 1) false }) ∧
    (s.tap.st = .shiftIr → exec (.tckEdge true tms tdi false) s = go { s.tap with ir := shiftIn s.tap.ir tdi }) ∧
    (s.tap.st = .shiftDr → exec (.tckEdge true tms tdi false) s = go { s.tap with dr := shiftIn s.tap.dr tdi }) ∧
    (s.tap.st = .captureDr → s.tapInstr = .bypass → exec (.tckEdge true tms tdi false) s = go { s.tap with dr := [false] }) ∧
    (s.tap.st = .captureDr → s.tapInstr ≠ .bypass →
      exec (.tckEdge true tms tdi false) s =
        .next { (s.free 1).2 with tap := { s.tap with dr := Config.tapCells.map ((s.free 1).2.pinLevel (bit (s.free 1).1 0)), st := s.tap.st.next tms } }) ∧
    (s.tap.st = .reset →
      exec (.tckEdge false tms tdi false) s = .next { s with tap := { s.tap with tdo := none, instr := .bypass } }) ∧
    (s.tap.st = .shiftDr → exec (.tckEdge false tms tdi false) s = .next { s with tap := { s.tap with tdo := s.tap.dr.head? } }) ∧
    (s.tap.st = .shiftIr → exec (.tckEdge false tms tdi false) s = .next { s with tap := { s.tap with tdo := s.tap.ir.head? } }) ∧
    (s.tap.st = .updateIr → exec (.tckEdge false tms tdi false) s = .next { s with tap := { s.tap with
      tdo := none
      instr := if Config.tapCode s.tap.ir = 1 then .sample else if Config.tapCode s.tap.ir = 2 then .extest else .bypass } }) ∧
    (s.tap.st = .updateDr → exec (.tckEdge false tms tdi false) s =
      .next { s with tap := if s.tapInstr = .bypass then { s.tap with tdo := none } else { s.tap with tdo := none, latch := s.tap.dr } }) ∧
    (s.tap.st ∉ [.reset, .shiftDr, .shiftIr, .updateIr, .updateDr] →
      exec (.tckEdge false tms tdi false) s = .next { s with tap := { s.tap with tdo := none } }) ∧
    (∀ b : TapSt, (((((b.next true).next true).next true).next true).next true) = .reset)


/-! ### Completions, records, direct memory access and the compression engine -/

/-- What goes to the host (R427, R442, R450 to R460, R517 to R523): a command's completion, a record, a granted access, the data of a
read, a skein that the engine has finished, and the closing of an open one. -/
def Obligations.CompletionsAndRecordsAct : Prop :=
  ∀ (h : Half) (p : Port) (r : RingIx) (tag : TagIx) (s : State),
    (∀ c status result, mget none s.cmds tag = some c → c.prefill = none → c.done = some (status, result) → s.cmdReady tag c = true →
      s.paced (portHalf c.port) 26 = false →
      let cq := (s.ring c.ring).cq
      let x := s.ring cq
      (c.discard = true ∨ (c.discard = false ∧ x.st ≠ .enabled ∧ ¬ (c.nocomp = true ∧ status = 0)) →
        exec (.commandCompletion tag) s = .next ((s.count .COMPL_LOST (portHalf c.port) (portIx c.port)).freeTag tag)) ∧
      (c.discard = false → c.nocomp = true → status = 0 → exec (.commandCompletion tag) s = .next (s.freeTag tag)) ∧
      (c.discard = false → ¬ (c.nocomp = true ∧ status = 0) → x.st = .enabled → x.held < x.units_ → s.portOn x.port = true →
        (∀ e ∈ s.cmds, ∀ d, e.2 = some d → (s.ring d.ring).cq = cq → d.order < c.order → s.cmdReady e.1 d = true → d.discard = true) →
        exec (.commandCompletion tag) s =
          .next ((s.modCmd tag fun c => { c with posted := true }).writeEntry cq 0 [] (some tag)
            (completion c status result ((x.own.toNat / x.units_ + 1) % 2 == 1))))) ∧
    (∀ w, s.waiting r = some w → (s.ring r).st ≠ .enabled → exec (.recordWrite r) s = .next ((s.countLost w.half r).taken r w)) ∧
    (∀ w t, s.waiting r = some w → (s.ring r).st = .enabled → w.half = portHalf (s.ring r).port ∨ s.linkUp = true →
      s.portOn (s.ring r).port = true → s.paced (portHalf (s.ring r).port) 26 = false → s.recordCrosses r = false →
      ((s.ring r).skein = false → (s.ring r).lost = 0 → s.putRecord r 1 w.run.toList w.bytes = some t →
        w.half = portHalf (s.ring r).port → exec (.recordWrite r) s = .next (t.taken r w)) ∧
      (∀ u, (s.ring r).skein = false → (s.ring r).lost ≠ 0 → s.putRecord r 0 [] (lossRecord (s.ring r)) = some u →
        (u.modRing r fun x => { x with lost := 0, lostRun := none }).putRecord r 1 w.run.toList w.bytes = some t →
        w.half = portHalf (s.ring r).port → exec (.recordWrite r) s = .next (t.taken r w)) ∧
      ((s.ring r).skein = true → (s.ring r).made = [] → (s.ring r).shut = none → (s.ring r).joins w = true →
        w.half = portHalf (s.ring r).port → exec (.recordWrite r) s = .next ((s.packRecord r w).taken r w)) ∧
      ((s.ring r).skein = true → (s.ring r).made = [] → (s.ring r).shut = none → (s.ring r).joins w = false →
        exec (.recordWrite r) s = .next ((s.shutPack r).cmpPick (portHalf (s.ring r).port))) ∧
      ((s.ring r).skein = true → (s.ring r).made ≠ [] → exec (.recordWrite r) s = .next (s.writeMade r)) ∧
      ((s.ring r).skein = true → (s.ring r).made = [] → (s.ring r).shut ≠ none → exec (.recordWrite r) s = .next s) ∧
      ((s.ring r).skein = true → (s.ring r).made = [] → (s.ring r).shut = none → (s.ring r).joins w = true →
        w.half ≠ portHalf (s.ring r).port →
        exec (.recordWrite r) s =
          .next (let x := s.ring r
            let left := x.units_ - x.own.toNat % x.units_
            let pad := if left < w.bytes.length / 16 then left else 0
            (s.send w.half (.dma (.record x.port (x.base + x.at_ (x.own + BitVec.ofNat 32 pad)) r w))).taken r w)) ∧
      ((s.ring r).skein = false → (s.ring r).lost = 0 → (s.putRecord r 1 w.run.toList w.bytes).isSome = true →
        w.half ≠ portHalf (s.ring r).port →
        exec (.recordWrite r) s =
          .next (let x := s.ring r
            let left := x.units_ - x.own.toNat % x.units_
            let pad := if left < w.bytes.length / 16 then left else 0
            (s.send w.half (.dma (.record x.port (x.base + x.at_ (x.own + BitVec.ofNat 32 pad)) r w))).taken r w))) ∧
    (∀ w k, s.waiting r = some w → (s.ring r).st = .enabled → w.half ≠ portHalf (s.ring r).port → s.linkUp = false → w.run = some k →
      (s.runOf k).stopped = true → exec (.recordWrite r) s = .next ((s.strandRecord w.half r w.run w.bytes).taken r w)) ∧
    (∀ t, s.waiting r = none → (s.ring r).st = .enabled → (s.ring r).made ≠ [] → s.portOn (s.ring r).port = true →
      s.paced (portHalf (s.ring r).port) 26 = false →
      let n := match (s.ring r).shut with | some p => p.count | none => 0
      let l := match (s.ring r).shut with | some p => p.runs | none => []
      s.putRecord r n l (s.ring r).made = some t → exec (.recordWrite r) s = .next (t.madeWritten r)) ∧
    (∀ (q : DmaReq) (cls : Fin 4), s.nextGrant p = some q → s.portOn p = true → s.paced (portHalf p) 26 = false → q.cls = cls.val + 1 →
      (s.port p).reads.length < 768 ∨ (∀ a n, q.act ≠ .read a n) →
      exec (.dmaGrant p cls) s =
        .next ((s.modPort p fun x => { x with reqs := age q.cls [] (x.reqs.erase q), served := mset 0 x.served q.cls q.src }).granted p q)) ∧
    (∀ (id : Nat) (data : HostRead), s.boot.st = .verify → exec (.dmaReadCompletion p id data) s = .next (s.bootRead p id data)) ∧
    (∀ (id : Nat) (data : HostRead) e addr, s.boot.st ≠ .verify → (s.port p).reads.find? (fun e => e.1 == id) = some e →
      e.2.act = .read addr data.length →
      e.2.why = .none ∨ (s.port p).reads.find? (fun f => f.2.src == e.2.src && f.2.why != .none) = some e →
      let t := s.modPort p fun x => { x with reads := x.reads.erase e }
      (e.2.half = portHalf p → exec (.dmaReadCompletion p id data) s =
        .next (match e.2.why with
          | .desc r => t.descIn r data
          | .context r => t.contextIn p e.2.part r data
          | .data tag => t.dataIn tag data
          | .line => t.lineIn p data
          | .words j => t.readWords p j data
          | .stream k pos => t.streamIn k pos data
          | .ring _ | .page | .none => t)) ∧
      (e.2.half ≠ portHalf p → s.linkUp = true →
        exec (.dmaReadCompletion p id data) s = .next (t.send (portHalf p) (.dma (.response p e.2 data)))) ∧
      (e.2.half ≠ portHalf p → s.linkUp = false →
        exec (.dmaReadCompletion p id data) s = .next (t.forwardLost (.response p e.2 data)))) ∧
    (∀ (body : List Byte) (e : Ecc) u, ((s.cmpPick h).cmpOf h).cur = some u →
      (s.cmpPick h).encodes h u = false ∨ encoderForm body = true →
      let t := (s.cmpPick h).modCmp h fun c => { c with cur := none }
      let t := if e = .corrected then t.count .CMP_ECC_CORRECTED h 0 else t
      let bad := e == .uncorrectable
      (∀ q, u = .stream q → exec (.skeinDone h body e) s =
        .next (((if bad then t.occur h 0x152 { runs := t.runOfQueue q, parts := (t.ownQueue q).toList } else t).streamStep h q bad).cmpPick h)) ∧
      (∀ r, u = .pack r →
        let l := match (t.ring r).shut with | some p => p.runs | none => []
        exec (.skeinDone h body e) s =
          .next (((if bad then t.occur h 0x152 { runs := l, parts := (t.ringOwner r).toList } else t).packStep h r body bad).cmpPick h)) ∧
      (∀ tag j, u = .job tag →
        let l := ((t.cmpOf h).jobs.filter fun j => j.tag == tag).map (·.part)
        let w := if bad then t.occur h 0x152 { parts := l } else t
        (w.cmpOf h).jobs.find? (fun j => j.tag == tag) = some j →
        exec (.skeinDone h body e) s = .next ((w.jobStep h j body bad).cmpPick h))) ∧
    (0 < (s.ring r).pack.count → (s.ring r).shut = none →
      (s.ring r).pack.first + 20000 * max 1 (s.reg .SKEIN_FLUSH (portHalf (s.ring r).port)).toNat ≤ s.now (portHalf (s.ring r).port) →
      exec (.skeinFlushTimeout r) s = .next ((s.shutPack r).cmpPick (portHalf (s.ring r).port)))


/-! ### The DOE mailbox -/

/-- Requests over the DOE mailbox of a port (R469 to R471, R479 to R481): each admitted request of the subset changes what it says and is
answered; one of another version or outside the subset gets an error.  The layouts are PRESUMED (log 15). -/
def Obligations.SpdmRequestsAct : Prop :=
  ∀ (p : Port) (msg m : List Byte) (y : Option Session) (s : State),
    let t := s.heard p y
    let x := t.spdmOf p
    (∀ b, objectParts msg = some (0, b) → s.responds p = true →
      exec (.doeDiscovery p msg) s =
        .next (s.emit (.object p (objectOf 0 (if leField b 0 1 < 3 then leBytes 2 1 ++ leBytes 1 (leField b 0 1) ++ leBytes 1 ((leField b 0 1 + 1) % 3)
          else leBytes 2 0xFFFF ++ leBytes 2 0))))) ∧
    (s.asked p msg m y 0x10 0x84 true →
      exec (.getVersion p msg) s =
        .next (let rsp := spdmMsg 0x10 0x04 0 0 (leBytes 1 0 ++ leBytes 1 1 ++ leBytes 2 0x1200)
          (t.modSpdm p fun x => { keys := x.keys, going := x.going, nextId := x.nextId, stage := 1, vca := m ++ rsp }).respond p y rsp)) ∧
    (s.asked p msg m y 0x12 0xE1 true → 1 ≤ x.stage →
      exec (.getCapabilities p msg) s =
        .next ((t.modSpdm p fun x => { x with stage := max x.stage 2, vca := x.vca ++ m ++ capabilitiesRsp }).respond p y capabilitiesRsp)) ∧
    (s.asked p msg m y 0x12 0xE3 true → 2 ≤ x.stage →
      exec (.negotiateAlgorithms p msg) s =
        .next ((t.modSpdm p fun x => { x with stage := 3, vca := x.vca ++ m ++ algorithmsRsp }).respond p y algorithmsRsp)) ∧
    (s.asked p msg m y 0x12 0x81 true → 3 ≤ x.stage →
      exec (.getDigests p msg) s =
        .next (let rsp := spdmMsg 0x12 0x01 0 1 (digest certChain)
          (t.modSpdm p fun x => { x with cert := x.cert ++ m ++ rsp }).respond p y rsp)) ∧
    (s.asked p msg m y 0x12 0x82 true → 3 ≤ x.stage → leField m 2 1 % 16 = 0 → leField m 4 2 < certChain.length →
      exec (.getCertificate p msg) s =
        .next (let n := min (leField m 6 2) (certChain.length - leField m 4 2)
          let rsp := spdmMsg 0x12 0x02 0 0 (leBytes 2 n ++ leBytes 2 (certChain.length - leField m 4 2 - n) ++ slice certChain (leField m 4 2) n)
          (t.modSpdm p fun x => { x with cert := x.cert ++ m ++ rsp }).respond p y rsp)) ∧
    (s.asked p msg m y 0x12 0x83 true → 3 ≤ x.stage → leField m 2 1 = 0 →
      exec (.challenge p msg) s = .next (((t.free 256).2.modSpdm p fun x => { x with cert := [] }).respond p y (t.challengeRsp p m))) ∧
    (s.asked p msg m y 0x12 0xE0 (leField m 3 1 == 1 || leField m 3 1 == 9) → 3 ≤ x.stage → leField m 2 1 % 2 = 0 →
      leField m 3 1 ∈ measurementIndices →
      exec (.getMeasurements p msg) s =
        .next (let b := t.block (leField m 3 1)
          let rsp := spdmMsg 0x12 0x60 0 0 (leBytes 1 1 ++ leBytes 3 b.length ++ b ++ leBytes 32 (t.free 256).1.toNat ++ leBytes 2 0)
          ((t.free 256).2.modSpdm p fun x => { x with meas := x.meas ++ m ++ rsp }).respond p y rsp)) ∧
    (s.asked p msg m y 0x12 0xE4 false → 3 ≤ x.stage → leField m 3 1 = 0 → x.sessions.length < 2 →
      exec (.keyExchange p msg) s =
        .next (((t.free 256).2.modSpdm p fun x => { x with sessions := x.sessions ++ [(t.newSession p m).1], nextId := x.nextId + 1 }).respond p y
          (t.newSession p m).2)) ∧
    (∀ z, y = some z → s.asked p msg m y 0x12 0xE5 false → z.up = false →
      (slice m 4 48 = beBytes 48 (Config.spdmVerify z.secret (z.transcript ++ m.take 4) true).toNat →
        exec (.finish p msg) s =
          .next (let rsp := spdmMsg 0x12 0x65 0 0 []
            (t.modSession p z.id fun y => { y with up := true, transcript := y.transcript ++ m ++ rsp, reqSeq := 0, rspSeq := 0 }).respond p y rsp)) ∧
      (slice m 4 48 ≠ beBytes 48 (Config.spdmVerify z.secret (z.transcript ++ m.take 4) true).toNat →
        exec (.finish p msg) s = .next ((t.dropSession p z.id).respond p y (spdmError 0x06 0)))) ∧
    (∀ z, y = some z → z.up = true →
      (s.asked p msg m y 0x12 0xE8 false → exec (.heartbeat p msg) s = .next (t.respond p y (spdmMsg 0x12 0x68 0 0 []))) ∧
      (s.asked p msg m y 0x12 0xE9 false → leField m 2 1 = 2 →
        exec (.keyUpdate p msg) s =
          .next ((t.modSession p z.id fun y => { y with reqGen := y.reqGen + 1, reqSeq := 0, rspGen := y.rspGen + 1, rspSeq := 0 }).respond p y
            (spdmMsg 0x12 0x69 2 (leField m 3 1) []))) ∧
      (s.asked p msg m y 0x12 0xE9 false → leField m 2 1 = 1 →
        exec (.keyUpdate p msg) s =
          .next ((t.modSession p z.id fun y => { y with reqGen := y.reqGen + 1, reqSeq := 0 }).respond p y
            (spdmMsg 0x12 0x69 1 (leField m 3 1) []))) ∧
      (s.asked p msg m y 0x12 0xEC false →
        exec (.endSession p msg) s = .next ((t.dropSession p z.id).respond p y (spdmMsg 0x12 0x6C 0 0 [])))) ∧
    (s.requestIn p msg = some (m, y) → s.responds p = true → leField m 0 1 = 0x12 → s.ready = true → leField m 1 1 ∉ spdmCodes → isIdeKm m = false →
      exec (.unsupportedSpdmRequest p msg) s = .next (t.respond p y (spdmError 0x07 (leField m 1 1)))) ∧
    (s.requestIn p msg = some (m, y) → s.responds p = true → leField m 1 1 ≠ 0x84 → leField m 0 1 ≠ 0x12 →
      exec (.unsupportedSpdmRequest p msg) s = .next (t.respond p y (spdmError 0x41 0)))

/-- IDE key management over a session that is up (R479 to R481): QUERY, the programming of a key, a key in and out of force, and an
integrity failure.  The layouts are PRESUMED (log 15). -/
def Obligations.IdeKeyRequestsAct : Prop :=
  ∀ (p : Port) (msg m : List Byte) (z : Session) (s : State),
    let t := s.heard p (some z)
    let b := m.drop 12
    let stream := leField b 4 1
    let place := ideKey stream (leField b 6 1)
    (∀ i : Fin 2, exec (.ideStreamFail p i) s =
      .next ((s.modSpdm p fun x => { x with going := x.going.filter fun n => n / 256 != i.val }).ideLeave p i)) ∧
    (s.asked p msg m (some z) 0x12 0xFE false → isIdeKm m = true → z.up = true →
      (leField m 12 1 = 0 → exec (.query p msg) s = .next (t.respond p (some z) 
        (ideRsp (leBytes 1 1 ++ leBytes 1 0 ++ leBytes 1 (leField b 2 1) ++ leBytes 4 0 ++ (t.port p).ideRegisters)))) ∧
      (leField m 12 1 = 2 → stream < 2 → place ∈ keySet stream 0 ++ keySet stream 1 → place ∉ (t.spdmOf p).going →
        exec (.keyProg p msg) s =
          .next ((t.modSpdm p fun x => { x with keys := mset [] x.keys place (slice b 8 40) }).respond p (some z) (ideRsp (ideAck 3 0 b)))) ∧
      (leField m 12 1 = 2 → 2 ≤ stream → exec (.keyProg p msg) s = .next (t.respond p (some z) (ideRsp (ideAck 3 4 b)))) ∧
      (leField m 12 1 = 4 → stream < 2 → mget [] (t.spdmOf p).keys place ≠ [] →
        exec (.kSetGo p msg) s =
          .next (let u := t.modSpdm p fun x => { x with going := (x.going.filter fun n => n != place) ++ [place] }
            (if (u.spdmOf p).inForce stream then u.modPort p fun x => { x with secure := setBit x.secure stream true } else u).respond p
              (some z) (ideRsp (ideAck 6 0 b)))) ∧
      (leField m 12 1 = 5 → stream < 2 →
        exec (.kSetStop p msg) s =
          .next (let u := t.modSpdm p fun x => { x with going := x.going.filter fun n => n != place, keys := mset [] x.keys place [] }
            (if (u.spdmOf p).inForce stream then u else u.ideLeave p stream).respond p (some z) (ideRsp (ideAck 6 0 b)))))


/-! ### Commands of the host's rings -/

/-- The checks of a command come in their order, and the first that fails ends it with its status (R443); CAL_RUN's are R394's, and it
fires CAL_DONE however it ends (R400).  A descriptor of an unknown opcode ends with BAD_DESCRIPTOR, whatever the ring is asked for. -/
def Obligations.CommandsEndAtTheFirstFailedCheck : Prop :=
  ∀ (r : RingIx) (d : BitVec 512) (de : Reads) (s : State),
    let t := s.accepted r d
    let c := s.commandOf r d
    let g := s.lowestTag
    (∀ op i l fail st, (op, i, l, fail) ∈ t.hostCommands r c de → s.takes r op d → firstStatus l = some st →
      exec i s = .next (t.finish g st fail)) ∧
    (s.takes r 0x30 d →
      let routine := dField d 8 1
      let target := dField d 10 2
      let done := calDoneHalf c routine target
      (zeroBut d [(8, 1), (10, 2)] = false → exec (.calRun r) s = .next (t.calDone done g 0x06)) ∧
      (∀ st, zeroBut d [(8, 1), (10, 2)] = true → t.calCheck routine target (some c.part) = some st →
        exec (.calRun r) s = .next (t.calDone done g st)) ∧
      (zeroBut d [(8, 1), (10, 2)] = true → t.calCheck routine target (some c.part) = none → t.farDown c (calHalf routine target) = true →
        exec (.calRun r) s = .next (t.calDone done g 0x14))) ∧
    (∀ i, i = .calRun r ∨ (∃ x ∈ t.hostCommands r c de, x.2.1 = i) → s.takes r (dField d 0 1) d → opcodes.contains (dField d 0 1) = false →
      exec i s = .next (t.finish g 0x06 0))

/-- NOP and FENCE complete and hold (R440, R443); the commands that read host memory ask for what the region check lets them read (R35,
R458); and once the last of it has come the loads, COMPRESS and DECOMPRESS have their effect (R40, R101, R261, R445, R510 to R516). -/
def Obligations.LoadsAndJobsAct : Prop :=
  (∀ (r : RingIx) (d : BitVec 512) (s : State),
    let t := s.accepted r d
    let c := s.commandOf r d
    let g := s.lowestTag
    (s.passes r d {} 0x00 → exec (.cmdNop r) s = .next (t.finish g 0 0)) ∧
    (s.passes r d {} 0x01 → exec (.fence r) s = .next (t.modRing r fun x => { x with fence := some g })) ∧
    (∀ op i n h cls fail, (op, i, n, h, cls, fail) ∈
        [(0x10, Instr.loadWave r, dField d 32 4, dField d 8 1, 4, (0 : Word64)), (0x11, .loadProg r, dField d 32 4, dField d 8 1, 4, 0),
         (0x12, .loadKernel r, dField d 32 4, dField d 8 1, 4, 0), (0x13, .loadTable r, 292, dField d 8 2 / 64, 4, 0),
         (0x14, .loadSegtab r, 16 * dField d 12 2, dField d 8 1, 4, 0),
         (0x20, .startRun r, dField d 24 4, portHalf c.port, 3, refusedResult), (0x32, .calWrite r, dField d 24 4, dField d 8 1, 4, 0),
         (0x38, .compress r, dField d 24 4, dField d 8 1, 4, 0), (0x39, .decompress r, dField d 24 4, dField d 8 1, 4, 0),
         (0x40, .cfgBatch r, 8 * dField d 24 4, portHalf c.port, 3, 0)] →
      s.passes r d {} op →
      let addr := dField d 16 8
      let a := t.allowed c.port c.part addr n false
      let q := cmdReq c.part g h cls
      (0 < n → a = n → exec i s = .next ((t.modCmd g fun x => { x with reading := true, short := false }).dmaRead c.port q addr n)) ∧
      (0 < a → a < n → exec i s =
        .next (((t.denied c.port c.part .none).modCmd g fun x => { x with reading := true, short := true }).dmaRead c.port q addr a)) ∧
      (0 < n → a = 0 → exec i s = .next ((t.denied c.port c.part .none).finish g 0x07 fail)))) ∧
  ∀ (s : State) (g : Nat) (data : List Byte) (c : HostCmd), s.comes g data c →
    let t := s.came g data
    let d := c.desc
    let h := dField d 8 1
    let lost : BitVec 8 := if c.short then 0x07 else 0x00
    (c.op ∈ [0x10, 0x11, 0x12] →
      let m := (loadMem d).1
      let base := if m = 3 then 262144 * (loadMem d).2 else 0
      (dField d 12 1 ≠ 1 →
        s.dataIn g data = (t.write (memOf m) h (base + dField d 24 8) c.data).finish g lost (BitVec.ofNat 64 c.data.length)) ∧
      (dField d 12 1 = 1 →
        s.dataIn g data = ((t.jobIn h
          { tag := g, part := c.part, port := c.port, data := c.data, left := dField d 32 4,
            kind := .load m h (base + dField d 24 8) (base + (if m = 3 then 262144 else (memOf m).size)) }).jobSettle h g).cmpPick h)) ∧
    (c.op = 0x13 →
      let n := dField d 8 2
      let ins := (List.range 8).map fun k => imageWord c.data (1 + k)
      let l : Checks :=
        [(c.short, 0x07),
         (imageWord c.data 0 &&& ~~~ Reg.DT_CFG.info.rw != 0 || ins.any fun w => w &&& ~~~ Reg.DT_IN.info.rw != 0, 0x06),
         (ins.any fun w => bit w 31 && decide (n ≤ bits w 8 0), 0x09),
         (ins.any fun w => t.ownSource (bit w 31) (bits w 8 0) != some c.part, 0x08), (t.tableUsed n, 0x0A), (t.farDown c (n / 64), 0x14)]
      (∀ st, firstStatus l = some st → s.dataIn g data = t.finish g st 0) ∧
      (firstStatus l = none → s.dataIn g data = (t.tableLoad n c.data).finish g 0 0)) ∧
    (c.op = 0x14 →
      let k := dField d 9 1
      let n := dField d 12 2
      let l : Checks :=
        [(c.short, 0x07), ((List.range n).any fun i => entryBad (segEntry c.data i), 0x06),
         (!(t.groupQueues h k).isEmpty || (decide (24 ≤ k) && t.fluxChanging (64 * h + (k - 24))), 0x0A), (t.farDown c h, 0x14)]
      (∀ st, firstStatus l = some st → s.dataIn g data = t.finish g st 0) ∧
      (firstStatus l = none →
        s.dataIn g data = (t.forEach (List.range n) fun t i =>
          { t with segtab := mset 0 t.segtab (1024 * (88 * h + k) + dField d 10 2 + i) (segEntry c.data i) }).finish g 0
            (BitVec.ofNat 64 n))) ∧
    (∀ op kind, (op, kind) ∈ [(0x38, JobKind.compress (dField d 10 1 == 1)), (0x39, .decompress)] → c.op = op →
      (t.cmpOn h = false → s.dataIn g data = t.finish g 0x0A 0) ∧
      (t.cmpOn h = true → s.dataIn g data = ((t.jobIn h
        { tag := g, part := c.part, port := c.port, kind := kind, data := c.data, left := dField d 24 4, dst := dField d 32 8,
          cap := dField d 40 4 }).jobSettle h g).cmpPick h))

/-- CAL_RUN, CAL_READ, READ_STATE, TIME_ARM and TIME_STEP once their checks pass (R393, R406, R445, R541 to R544), and CAL_WRITE and
CFG_BATCH once the last of their data has come (R407, R408, R446). -/
def Obligations.ServiceCommandsAct : Prop :=
  (∀ (r : RingIx) (d : BitVec 512) (s : State),
    let t := s.accepted r d
    let c := s.commandOf r d
    let g := s.lowestTag
    let h := dField d 8 1
    (s.takes r 0x30 d →
      let routine := dField d 8 1
      let target := dField d 10 2
      zeroBut d [(8, 1), (10, 2)] = true → t.calCheck routine target (some c.part) = none → t.farDown c (calHalf routine target) = false →
        exec (.calRun r) s = .next (t.modCal (calHalf routine target) fun x => { x with waiting := x.waiting ++ [⟨g, routine, target⟩] })) ∧
    (s.passes r d {} 0x31 →
      exec (.calRead r) s = .next (t.cmdWrite c g (dField d 16 8) h (t.blob h c.part) 0x00)) ∧
    (∀ de, s.passes r d de 0x41 →
      let sel := dField d 9 1
      let base := if sel = 3 then 262144 * dField d 10 1 else 0
      let bytes := t.read (memOf sel) h (base + dField d 24 8) (dField d 32 4)
      let u :=
        if sel = 2 then t.count .RDO_ECC_CORRECTED h 0 de.corrected
        else if sel = 3 then t.count .DSP_ECC_CORRECTED h 0 de.corrected
        else t
      (sel = 4 →
        exec (.readState r de) s =
          .next ((t.readBar c.port (dField d 32 4 / 4) (dField d 24 8)).2.cmdWrite c g (dField d 16 8) (portHalf c.port)
            (t.readBar c.port (dField d 32 4 / 4) (dField d 24 8)).1 0x00)) ∧
      (sel ≠ 4 → de.bad = none → exec (.readState r de) s = .next (u.cmdWrite c g (dField d 16 8) h bytes 0x00)) ∧
      (∀ k, sel ≠ 4 → de.bad = some k →
        exec (.readState r de) s = .next (u.cmdWrite c g (dField d 16 8) h (bytes.take k) (if k < dField d 32 4 then 0x12 else 0x00)))) ∧
    (s.passes r d {} 0x48 →
      exec (.timeArm r) s =
        .next (((t.regBit .TRIG_STATE (dField d 9 1) (armIx d) 31 true).setPair .TRIG_ST_LO .TRIG_ST_HI (dField d 9 1) (armIx d)
          (32 * (t.row (dField d 9 1) + t.armRows d))).finish g 0 0)) ∧
    (s.passes r d {} 0x49 →
      exec (.timeStep r) s =
        .next ((((t.ntQueue 0 { t := t.nextBoundary 0, step := stepOf d }).ntQueue 1
          { t := (t.ntQueue 0 { t := t.nextBoundary 0, step := stepOf d }).nextBoundary 1, step := stepOf d }).modServo
            fun v => { v with st := if v.st = 0 then 0 else 2, stepped := true, near := 0 }).finish g 0 0))) ∧
  ∀ (s : State) (g : Nat) (data : List Byte) (c : HostCmd), s.comes g data c →
    let t := s.came g data
    let h := dField c.desc 8 1
    (c.op = 0x32 →
      (c.short = true → s.dataIn g data = t.finish g 0x07 0) ∧
      (c.short = false → t.blobCheck h c.part c.data = some 0x0B →
        s.dataIn g data = ((t.count .CAL_IMPLAUSIBLE_COUNT h 0).occur h 0x110 { parts := [c.part] }).finish g 0x0B 0) ∧
      (∀ st, c.short = false → st ≠ 0x0B → t.blobCheck h c.part c.data = some st → s.dataIn g data = t.finish g st 0) ∧
      (c.short = false → t.blobCheck h c.part c.data = none →
        s.dataIn g data = (t.forEach (blobRecords c.data (leField c.data 12 4)) fun t x => t.blobApply h x).modCal h fun x =>
          { x with posts := x.posts ++ [{ tag := g, run := false, result := BitVec.ofNat 64 (leField c.data 12 4) }] })) ∧
    (c.op = 0x40 →
      s.dataIn g data = (t.forEach (List.range (c.data.length / 8)) fun t i =>
        let a := leField c.data (8 * i) 4
        let v := BitVec.ofNat 32 (leField c.data (8 * i + 4) 4)
        if a % 4 ≠ 0 ∨ 2 ≤ addrHalf a then t
        else if addrHalf a = portHalf c.port ∨ t.linkUp then t.writeAt (addrHalf a) (addrOff a) c.port v
        else t.count .FAR_WR_DISCARD (portHalf c.port) 0).finish g (if c.short then 0x07 else 0x00) (BitVec.ofNat 64 (c.data.length / 8)))

/-- START_RUN once its run descriptor has come, and STOP_RUN, STRM_ATTACH, SWATCH_START and SWATCH_STOP once their checks pass (R83 to R87,
R112, R340, R341, R358, R417, R447 to R449). -/
def Obligations.RunAndStreamCommandsAct : Prop :=
  (∀ (s : State) (g : Nat) (data : List Byte) (c : HostCmd), s.comes g data c → c.op = 0x20 →
    let t := s.came g data
    let d := c.desc
    let x := runDesc c.data
    let no := t.freeRunNo.getD 0
    let lead := t.startLead (x.threads.map (·.thread))
    let rows := t.ntRows 0 (ntTime (dField d 32 6) (dField d 40 4) 0)
    let l := t.runChecks c
    let ch := dField d 10 2
    (∀ st, firstStatus l = some st → s.dataIn g data = t.finish g st refusedResult) ∧
    (firstStatus l = none → dField d 8 1 = 0 →
      s.dataIn g data = (t.setRun no c g x .immediate).fixT0 no (leadTime (t.now 0) lead)) ∧
    (firstStatus l = none → dField d 8 1 = 1 →
      (∀ st, firstStatus (t.ntChecks rows lead 0x0F) = some st → s.dataIn g data = t.finish g st refusedResult) ∧
      (firstStatus (t.ntChecks rows lead 0x0F) = none →
        s.dataIn g data = (t.setRun no c g x .networkTime).fixT0 no (32 * (t.row 0 + rows)))) ∧
    (firstStatus l = none → dField d 8 1 = 2 →
      let u := t.setRun no c g x .onEvent
      s.dataIn g data =
        if u.ecClass ch = 2 ∧ ch / 512 = 1 then u.evrIgnored 0
        else u.setReg .TASK_SEL 0 no 0 (bitW true 31 ||| BitVec.ofNat 32 ch))) ∧
  ∀ (r : RingIx) (d : BitVec 512) (s : State),
    let t := s.accepted r d
    let c := s.commandOf r d
    let g := s.lowestTag
    (s.passes r d {} 0x21 →
      (t.runByUser c.part (BitVec.ofNat 32 (dField d 8 4)) = none → exec (.stopRun r) s = .next (t.finish g 0x01 0)) ∧
      (∀ u, t.runByUser c.part (BitVec.ofNat 32 (dField d 8 4)) = some u →
        exec (.stopRun r) s = .next (if t.committed u = true then t.finish g 0x01 0 else (t.stopRun u 0x02 false).finish g 0 0))) ∧
    (s.passes r d {} 0x22 →
      let q := attachQ d
      let u := t.dropReads q
      let v := u.setStream q
        (some { ring := dField d 20 4, stage := 4096 * dField d 16 2, size := 4096 * 2 ^ dField d 12 1, ready := true })
      (detaches d = true → exec (.strmAttach r) s = .next ((u.setStream q none).finish g 0 0)) ∧
      (detaches d = false → dField d 9 1 ≠ 1 → exec (.strmAttach r) s = .next (v.finish g 0 0)) ∧
      (detaches d = false → dField d 9 1 = 1 → exec (.strmAttach r) s = .next (v.modCmd g fun x => { x with prefill := some q }))) ∧
    (s.passes r d {} 0x28 →
      let h := dField d 8 1 / 2
      let rows := t.ntRows h (ntTime (dField d 16 6) (dField d 24 4) 0)
      (dField d 9 1 = 0 → exec (.swatchStart r) s = .next (t.swatchArm d g (some (leadTime (t.now h) 64 / 32)))) ∧
      (dField d 9 1 = 1 → firstStatus (t.ntChecks rows 64 0x09) = none →
        exec (.swatchStart r) s = .next (t.swatchArm d g (some (t.row h + rows)))) ∧
      (∀ st, dField d 9 1 = 1 → firstStatus (t.ntChecks rows 64 0x09) = some st → exec (.swatchStart r) s = .next (t.finish g st 0)) ∧
      (dField d 9 1 = 2 → exec (.swatchStart r) s = .next (t.swatchArm d g none))) ∧
    (s.passes r d {} 0x29 →
      let e := dField d 8 1
      ((t.cap e).st = .free → exec (.swatchStop r) s = .next (t.finish g 0x01 0)) ∧
      ((t.cap e).st = .armed → exec (.swatchStop r) s = .next (t.swatchCancel e g)) ∧
      ((t.cap e).st = .opened → exec (.swatchStop r) s = .next (t.capStop e 0 (some g))) ∧
      ((t.cap e).st = .closing → exec (.swatchStop r) s = .next (t.modCap e fun x => { x with stopTags := x.stopTags ++ [g] })))


/-! ### Reads of registers -/

/-- R32, R34, R42, R43, R73, R74, R238, R426, R480, R490: a 4-byte read of BAR0 that the port admits answers the register that its address
selects, and zero where there is none, where the port's partition may not read it, or where it does not answer yet.  A read of a register
of code RS captures the rest of its value, of the same instant, into the port's shadows; a read of a shadowed register returns the port's
shadow; no other port's shadow changes.  A read of the far half leaves over the die link, or answers all ones while the link is down.  A
read that arrives outside a Secure stream where one is required, or in D3hot, answers all ones; a read of BAR2 the MSI-X table. -/
def Obligations.ReadsCaptureSnapshots : Prop :=
  ∀ (p : Port) (via : Via) (s : State),
    let read (a : BitVec 24) (size : Nat) := exec (.snapshotRead p false a size via) s
    (s.outside p via = false →
      (∀ (r : Reg) (i j : Nat), i < r.info.cntI → j < r.info.cntJ → s.readable p r (portHalf p) i → r.shadowed = false →
        ∃ t, read (BitVec.ofNat 24 (r.addr (portHalf p) i j)) 4 = .next t ∧
          t.lastRead = mset 0 s.lastRead p (s.load r (portHalf p) i j p) ∧ t = { s with lastRead := t.lastRead, shadows := t.shadows } ∧
          (∀ x ∈ r.captures, mget 0 t.shadows (shadowKey x (portHalf p) i j p) = s.load x (portHalf p) i j p) ∧
          (∀ (x : Reg) (h' i' j' q : Nat), q < 4 → q ≠ p.val →
            mget 0 t.shadows (shadowKey x h' i' j' q) = mget 0 s.shadows (shadowKey x h' i' j' q))) ∧
      (∀ (r : Reg) (i j : Nat), i < r.info.cntI → j < r.info.cntJ → s.readable p r (portHalf p) i → r.shadowed = true →
        read (BitVec.ofNat 24 (r.addr (portHalf p) i j)) 4 = .next (s.answer p (mget 0 s.shadows (shadowKey r (portHalf p) i j p)))) ∧
      (s.admits p via →
        (∀ (r : Reg) (i j : Nat), i < r.info.cntI → j < r.info.cntJ →
          (s.ready || r.early) = false ∨ r.inert (portHalf p) i = true ∨ s.mayRead r (portHalf p) i p = false →
          read (BitVec.ofNat 24 (r.addr (portHalf p) i j)) 4 = .next (s.answer p 0)) ∧
        (∀ (a : BitVec 24) (size : Nat), size ≠ 4 ∨ a.toNat % 4 ≠ 0 ∨ 2 ≤ addrHalf a.toNat → read a size = .next (s.answer p 0)) ∧
        (∀ a : BitVec 24, a.toNat % 4 = 0 → addrHalf a.toNat = portHalf p → Reg.find (addrOff a.toNat) = none →
          read a 4 = .next (s.answer p 0)) ∧
        (∀ a : BitVec 24, a.toNat % 4 = 0 → addrHalf a.toNat = far (portHalf p) →
          read a 4 =
            .next (if !s.answers (addrOff a.toNat) then s.answer p 0
              else if s.linkUp then s.send (portHalf p) (.regRead p a.toNat) else s.answer p 0xFFFFFFFF))) ∧
      ((s.port p).cfg.d3hot = true → ∀ a size, read a size = .next (s.answer p 0xFFFFFFFF))) ∧
    (s.outside p via = true → ∀ a size, read a size = .next ((s.foreign p).answer p 0xFFFFFFFF)) ∧
    (∀ a size, (s.outside p via = true ∨ (s.port p).cfg.d3hot = true →
        exec (.snapshotRead p true a size via) s = .next (s.answer p 0xFFFFFFFF)) ∧
      (s.outside p via = false → (s.port p).cfg.d3hot = false →
        exec (.snapshotRead p true a size via) s = .next (s.answer p ((s.port p).cfg.bar2Read a.toNat)))) ∧
    (∀ c : ChIx, s.readable p .LAST_XI (c.val / 256) (c.val % 256) →
      ∃ t, exec (.lastXiRead p c) s = .next t ∧
        t.lastRead = mset 0 s.lastRead p (s.load .LAST_XI (c.val / 256) (c.val % 256) 0 p) ∧
        t = { s with lastRead := t.lastRead, shadows := t.shadows } ∧
        mget 0 t.shadows (shadowKey .LAST_XQ (c.val / 256) (c.val % 256) 0 p) = s.load .LAST_XQ (c.val / 256) (c.val % 256) 0 p ∧
        mget 0 t.shadows (shadowKey .LAST_TOKEN (c.val / 256) (c.val % 256) 0 p) = s.load .LAST_TOKEN (c.val / 256) (c.val % 256) 0 p)
end

