-- ==== Sys2Proof/Laws/Address.lean ====
section
/-!
SUPPORT. The register map is unambiguous: the offset of every element of every register selects that element (R13).
-/
namespace Sys2Proof.Machine

/-- Whether no element of a register of layout `d` has the offset of an element of a register of layout `e`: by their extents, or
modulo a common stride. -/
def RegDef.apart (d e : RegDef) : Bool :=
  let g := Nat.gcd (Nat.gcd d.stepI e.stepI) (Nat.gcd d.stepJ e.stepJ)
  let k := Nat.gcd d.stepI e.stepI
  decide (d.off + (d.cntI - 1) * d.stepI + (d.cntJ - 1) * d.stepJ < e.off) ||
  decide (e.off + (e.cntI - 1) * e.stepI + (e.cntJ - 1) * e.stepJ < d.off) ||
  decide (d.off % g ≠ e.off % g) ||
  ((List.range d.cntJ).all fun j => (List.range e.cntJ).all fun l => decide ((d.off + j * d.stepJ) % k ≠ (e.off + l * e.stepJ) % k))

/-- Whether the elements of a register have different offsets. -/
def RegDef.proper (d : RegDef) : Bool :=
  (if d.stepI = 0 then decide (d.cntI = 1) else decide ((d.cntJ - 1) * d.stepJ < d.stepI)) && (d.stepJ != 0 || d.cntJ == 1)

theorem Reg.element_some {r : Reg} {a i j : Nat} (h : r.element a = some (i, j)) :
    a = r.offset i j ∧ i < r.info.cntI ∧ j < r.info.cntJ := by
  unfold Reg.element at h
  by_cases hlo : a < r.info.off
  · simp [hlo] at h
  · simp only [hlo, if_false] at h
    by_cases h1 : r.info.stepI = 0 <;> by_cases h2 : r.info.stepJ = 0 <;> simp only [h1, h2, if_true, if_false] at h
    all_goals
      rw [Option.ite_none_right_eq_some] at h
      obtain ⟨⟨hi, hj, hz⟩, he⟩ := h
      simp only [Option.some.injEq, Prod.mk.injEq] at he
      obtain ⟨e1, e2⟩ := he
      subst e1 e2
      refine ⟨?_, hi, hj⟩
      unfold Reg.offset
    · omega
    · have := Nat.div_add_mod (a - r.info.off) r.info.stepJ
      rw [hz, Nat.mul_comm] at this
      omega
    · have := Nat.div_add_mod (a - r.info.off) r.info.stepI
      rw [hz, Nat.mul_comm] at this
      omega
    · have u := Nat.div_add_mod (a - r.info.off) r.info.stepI
      have v := Nat.div_add_mod ((a - r.info.off) % r.info.stepI) r.info.stepJ
      rw [hz] at v
      rw [Nat.mul_comm] at u v
      omega

theorem Reg.element_offset {r : Reg} (hp : r.info.proper = true) {i j : Nat} (hi : i < r.info.cntI) (hj : j < r.info.cntJ) :
    r.element (r.offset i j) = some (i, j) := by
  have hjs : j * r.info.stepJ ≤ (r.info.cntJ - 1) * r.info.stepJ := Nat.mul_le_mul_right _ (by omega)
  simp only [RegDef.proper, Bool.and_eq_true, Bool.or_eq_true, bne_iff_ne, beq_iff_eq] at hp
  obtain ⟨hI, hJ⟩ := hp
  unfold Reg.element Reg.offset
  have sub : r.info.off + i * r.info.stepI + j * r.info.stepJ - r.info.off = i * r.info.stepI + j * r.info.stepJ := by omega
  have low : ¬ r.info.off + i * r.info.stepI + j * r.info.stepJ < r.info.off := by omega
  simp only [low, if_false, sub]
  by_cases h1 : r.info.stepI = 0
  · simp only [h1, if_true, decide_eq_true_eq] at hI
    have i0 : i = 0 := by omega
    by_cases h2 : r.info.stepJ = 0
    · have j0 : j = 0 := by cases hJ with | inl h => exact absurd h2 h | inr h => omega
      subst i0 j0
      simp [h1, h2, hI, hj]
    · subst i0
      simp [h1, h2, hI, Nat.pos_of_ne_zero h2, hj]
  · simp only [h1, if_false, decide_eq_true_eq] at hI
    have lt : j * r.info.stepJ < r.info.stepI := by omega
    have d1 : (i * r.info.stepI + j * r.info.stepJ) / r.info.stepI = i := by
      rw [Nat.add_comm, Nat.mul_comm i, Nat.add_mul_div_left _ _ (Nat.pos_of_ne_zero h1), Nat.div_eq_of_lt lt, Nat.zero_add]
    have m1 : (i * r.info.stepI + j * r.info.stepJ) % r.info.stepI = j * r.info.stepJ := by
      rw [Nat.add_comm, Nat.mul_comm i, Nat.add_mul_mod_self_left, Nat.mod_eq_of_lt lt]
    simp only [h1, if_false, d1, m1]
    by_cases h2 : r.info.stepJ = 0
    · have j0 : j = 0 := by cases hJ with | inl h => exact absurd h2 h | inr h => omega
      subst j0
      simp [h2, hi, hj]
    · simp [h2, Nat.pos_of_ne_zero h2, hi, hj]

theorem RegDef.apart_spec {r s : Reg} (h : r.info.apart s.info = true) {i j k l : Nat} (hi : i < r.info.cntI) (hj : j < r.info.cntJ)
    (hk : k < s.info.cntI) (hl : l < s.info.cntJ) : r.offset i j ≠ s.offset k l := by
  intro e
  unfold Reg.offset at e
  have b1 : i * r.info.stepI ≤ (r.info.cntI - 1) * r.info.stepI := Nat.mul_le_mul_right _ (by omega)
  have b2 : j * r.info.stepJ ≤ (r.info.cntJ - 1) * r.info.stepJ := Nat.mul_le_mul_right _ (by omega)
  have b3 : k * s.info.stepI ≤ (s.info.cntI - 1) * s.info.stepI := Nat.mul_le_mul_right _ (by omega)
  have b4 : l * s.info.stepJ ≤ (s.info.cntJ - 1) * s.info.stepJ := Nat.mul_le_mul_right _ (by omega)
  simp only [RegDef.apart, Bool.or_eq_true, decide_eq_true_eq, List.all_eq_true, List.mem_range, ne_eq] at h
  rcases h with ((h | h) | h) | h
  · omega
  · omega
  · apply h
    generalize hg : Nat.gcd (Nat.gcd r.info.stepI s.info.stepI) (Nat.gcd r.info.stepJ s.info.stepJ) = g at *
    have dI : g ∣ r.info.stepI := hg ▸ Nat.dvd_trans (Nat.gcd_dvd_left _ _) (Nat.gcd_dvd_left _ _)
    have dI' : g ∣ s.info.stepI := hg ▸ Nat.dvd_trans (Nat.gcd_dvd_left _ _) (Nat.gcd_dvd_right _ _)
    have dJ : g ∣ r.info.stepJ := hg ▸ Nat.dvd_trans (Nat.gcd_dvd_right _ _) (Nat.gcd_dvd_left _ _)
    have dJ' : g ∣ s.info.stepJ := hg ▸ Nat.dvd_trans (Nat.gcd_dvd_right _ _) (Nat.gcd_dvd_right _ _)
    have x1 : (r.info.off + i * r.info.stepI + j * r.info.stepJ) % g = r.info.off % g := by
      obtain ⟨u, hu⟩ := dI; obtain ⟨v, hv⟩ := dJ
      rw [hu, hv, Nat.add_assoc, show i * (g * u) + j * (g * v) = g * (i * u + j * v) by rw [Nat.mul_add, Nat.mul_left_comm i, Nat.mul_left_comm j], Nat.add_mul_mod_self_left]
    have x2 : (s.info.off + k * s.info.stepI + l * s.info.stepJ) % g = s.info.off % g := by
      obtain ⟨u, hu⟩ := dI'; obtain ⟨v, hv⟩ := dJ'
      rw [hu, hv, Nat.add_assoc, show k * (g * u) + l * (g * v) = g * (k * u + l * v) by rw [Nat.mul_add, Nat.mul_left_comm k, Nat.mul_left_comm l], Nat.add_mul_mod_self_left]
    rw [← x1, e, x2]
  · apply h j hj l hl
    generalize hg : Nat.gcd r.info.stepI s.info.stepI = g at *
    obtain ⟨u, hu⟩ : g ∣ r.info.stepI := hg ▸ Nat.gcd_dvd_left _ _
    obtain ⟨v, hv⟩ : g ∣ s.info.stepI := hg ▸ Nat.gcd_dvd_right _ _
    rw [hu, hv] at e
    have y1 : (r.info.off + j * r.info.stepJ) % g = (r.info.off + i * (g * u) + j * r.info.stepJ) % g := by
      rw [show r.info.off + i * (g * u) + j * r.info.stepJ = r.info.off + j * r.info.stepJ + g * (i * u) by rw [Nat.mul_left_comm]; omega, Nat.add_mul_mod_self_left]
    have y2 : (s.info.off + l * s.info.stepJ) % g = (s.info.off + k * (g * v) + l * s.info.stepJ) % g := by
      rw [show s.info.off + k * (g * v) + l * s.info.stepJ = s.info.off + l * s.info.stepJ + g * (k * v) by rw [Nat.mul_left_comm]; omega, Nat.add_mul_mod_self_left]
    rw [y1, y2, e]


/-! ### The whole map -/

/-- Where the map is cut into segments that no register straddles. -/
def Reg.cuts : List Nat := [0x10100, 0x21000, 0x50008, 0x60030, 0x60144, 0x70018, 0x83000, 0x110000, 0x150000, 0x160000, 0x1A0004, 0x1C1000, 0x1D002C, 0x1F0030]

/-- The segment of an offset. -/
def Reg.segOf (a : Nat) : Nat := (Reg.cuts.filter fun b => decide (b ≤ a)).length

/-- The registers of each segment. -/
def Reg.seg : Nat → List Reg
  | 0 => [.DEV_ID, .REV, .HALF, .CAPS0, .CAPS1, .UID_LO, .UID_HI, .VIEW, .BOOT_RING_LO, .BOOT_RING_HI, .BOOT_RING_COUNT, .BOOT_LEN,
      .BOOT_CTL, .BOOT_STATUS, .BOOT_READ, .BOOT_STATE, .BOOT_RECAST, .BOOT_IGNORED, .PART_STATUS, .CAST_ON_ID_LO, .CAST_ON_ID_HI,
      .MANIFEST_SEQ]
  | 1 => [.PORT_PART, .FOREIGN_WRITES, .IDE_STATUS, .IDE_FAIL_COUNT, .RGN_TOTAL_LO, .RGN_TOTAL_HI, .RGN_IGNORED, .RGN_BASE_LO,
      .RGN_BASE_HI, .RGN_SIZE_LO, .RGN_SIZE_HI, .RGN_CTL, .PT_WINDOW, .HQ_STATUS, .ARB_AGE_LIMIT, .TAGS_FREE, .TAG_QUOTA,
      .CTX_BASE_LO, .CTX_BASE_HI, .RID_BASE, .RID_COUNT, .TAGS_USED]
  | 2 => [.PORT_CTL, .PORT_STATUS, .DB_BASE_LO, .DB_BASE_HI, .POLL_MIN, .POLL_MAX, .KICK, .RING_OP, .RING_OP_STATUS,
      .OUTSTANDING_READS, .DENIED_COUNT, .RECORD_LOST, .COMPL_LOST, .EVR_IGNORED_WRITES, .LOOP_COUNT, .EC_FIRE, .EG_CTL, .EC_CFG,
      .EC_FIRES, .EC_DROPS, .TASK_SEL, .TASK_DROP, .FLT_STATUS, .FLT_CTL]
  | 3 => [.FN_ACK, .SHADOW, .FIRST_ID, .FIRST_T_LO, .FIRST_T_HI, .FIRST_CLR, .SECONDARY_COUNT, .FLT_IGNORED, .QUIET_CTL,
      .QUIET_STATUS, .QUIET_T_LO, .QUIET_T_HI, .FLT_PSUM, .SRC_CFG, .SRC_STATUS, .SRC_FORCE, .SRC_COUNT, .ST_LO, .ST_HI, .CLK_STATUS,
      .SYNC_CTL, .SYNC_STATUS, .SYNC_LOAD_LO, .SYNC_LOAD_HI]
  | 4 => [.SYNC_PREV_LO, .SYNC_PREV_HI, .LATE_COUNT, .LATE_FIRST_Q, .LATE_FIRST_T_LO, .LATE_FIRST_T_HI, .STALL_COUNT, .NT_CTL,
      .NT_STATUS, .NT_SEC_LO, .NT_SEC_HI, .NT_NS, .NT_FRAC, .NT_ST_LO, .NT_ST_HI, .NT_RATE, .STEP_TH, .LOCK_TH, .OFFSET, .MPD,
      .ASYM0, .ASYM1, .NT_MAC_LO, .NT_MAC_HI]
  | 5 => [.NT_IP, .FWD_FRAMES, .FWD_DROPS, .TC_CORRECTED, .NT_IGNORED, .TRIG_STATE, .TRIG_ST_LO, .TRIG_ST_HI, .RUN_NT_SEC_LO,
      .RUN_NT_SEC_HI, .RUN_NT_NS, .RUN_NT_FRAC, .MARK_ST_LO, .MARK_ST_HI, .MARK_NT_SEC_LO, .MARK_NT_SEC_HI, .MARK_NT_NS,
      .MARK_NT_FRAC, .DLK_CTL, .DLK_STATUS, .REST_IDLE, .LINK_LAT, .CORR_COUNT, .UNCORR_COUNT]
  | 6 => [.REPLAY_COUNT, .LOSS_COUNT, .TRAIN_COUNT, .REST_COUNT, .FAR_WR_DISCARD, .XH_DISCARD, .DLK_IGNORED, .DLK_LANE_STATUS,
      .LANE_ERR, .RUN_AHEAD, .START_LEAD, .JUMP_DROPPED, .UNDERRUN_SAMPLES, .DISCARD_COUNT, .THR_STATE, .THR_PC, .THR_NOW_LO,
      .THR_NOW_HI, .RUN_STATE, .RUN_SHOT_LO, .RUN_SHOT_HI, .RUN_T0_LO, .RUN_T0_HI]
  | 7 => [.PAT_STATUS, .PAT_SUB, .ASAP_MARGIN, .TK_LATE_COUNT, .TK_DEFAULT_COUNT, .TK_OVERFLOW_COUNT, .DT_DISCARD_COUNT, .DN_IGNORED,
      .DT_ECC_CORRECTED, .THR_SUB, .DT_CFG, .DT_STATUS, .DT_FIRES, .DT_IN, .DT_LUT, .DRV_SAT_SUM, .DRV_MUTE_SUM, .DRV_IGNORED_WRITES,
      .DRV_ECC_CORRECTED, .DAC_CTL, .DAC_STATUS, .DAC_SCALE, .SAT_ROWS]
  | 8 => [.SLOT_CTL, .SLOT_AMP, .DRV_FREQ_SET_LO, .DRV_FREQ_SET_HI, .DRV_FREQ_CUR_LO, .DRV_FREQ_CUR_HI, .DRV_PHASE_OFS, .DRV_TREF_LO,
      .DRV_TREF_HI, .SLOT_STATUS, .RDO_OVR_SUM, .RDO_IGNORED_WRITES, .RDO_ECC_CORRECTED, .XSAT_COUNT, .IN_CTL, .IN_STATUS, .OVR_ROWS,
      .OVR_FIRST_LO, .OVR_FIRST_HI]
  | 9 => [.CH_CTL, .CH_STATUS, .RDO_FREQ_SET_LO, .RDO_FREQ_SET_HI, .RDO_FREQ_CUR_LO, .RDO_FREQ_CUR_HI, .RDO_PHASE_OFS, .RDO_TREF_LO,
      .RDO_TREF_HI, .LAST_XI, .LAST_XQ, .LAST_TOKEN, .AVG_SUMI_LO, .AVG_SUMI_HI, .AVG_SUMQ_LO, .AVG_SUMQ_HI, .AVG_COUNT, .AVG_S0,
      .AVG_S1, .AVG_S2, .AVG_S3, .AVG_OVR, .AVG_XSAT]
  | 10 => [.KS_CFG, .KS_KADDR, .KS_MAP, .KS_AB0, .KS_C0, .KS_AB1, .KS_C1, .KS_AB2, .KS_C2, .COMPLY_SUM0, .COMPLY_SUM1,
      .FLX_IGNORED_WRITES, .FLX_ECC_CORRECTED, .FG_STROBE, .FG_COUNT, .FLX_CTL, .FLX_STATUS, .FLX_LEVEL, .FLX_PENDING, .FLX_SLEW,
      .FLX_PARK, .FLX_RANGE_TGT, .COMPLY_COUNT, .TRIP_SUM0]
  | 11 => [.TRIP_SUM1, .TRIP_SUM2, .MON_IGNORED_WRITES, .MON_CFG, .MON_TH, .MON_HYST, .MON_BLANK, .MON_STATUS, .TRIP_COUNT,
      .TRIP_T_LO, .TRIP_T_HI, .AUX_MASK, .AUX_START, .AUX_PERIOD, .AUX_STATUS, .AUX_BIAS, .AUX_SKIPPED, .AUX_IGNORED, .SCAN_COUNT,
      .SCAN_T_LO, .SCAN_T_HI, .AUX_RESULT, .CAP_IGNORED_WRITES]
  | 12 => [.CAP_CTL, .CAP_TRIG, .CAP_LEVEL, .CAP_HOLDOFF, .CAP_LEAD, .TRIG_MASK_LO, .TRIG_MASK_HI, .CAP_STATUS, .CAP_INDEX_LO,
      .CAP_INDEX_HI, .LOST_COUNT, .MARK_COUNT, .REC_SEL, .CMP_CTL, .CMP_STATUS, .SKEIN_FLUSH, .CMP_JOBS, .RAW_SKEINS, .VERIFY_FAIL,
      .DECODE_FAIL, .CMP_ECC_CORRECTED, .BYTES_IN_LO, .BYTES_IN_HI, .BYTES_OUT_LO]
  | 13 => [.BYTES_OUT_HI, .DSP_IGNORED_WRITES, .DSP_ECC_CORRECTED, .LANE_CTL, .DSP_LANE_STATUS, .LANE_ENTRY, .LANE_PC, .FAULT_PC,
      .Q_LEVEL, .QDROP, .REC_DROP, .DSP_JOBS, .CYCLES_LO, .CYCLES_HI, .CAL_STATUS, .CAL_QUIET_TH, .CAL_IMPLAUSIBLE_COUNT, .BG_REJECT,
      .BG_CTL, .BG_STATUS, .CAL_VALID_DAC, .CAL_VALID_IN, .CAL_VALID_FLX0, .CAL_VALID_FLX1]
  | 14 => [.CAL_VALID1_FLX0, .CAL_VALID1_FLX1, .CORE_TRIM, .IN_TAP, .FLX_TRIM, .PWR_STATUS, .TEMP, .TEMP_MAX, .TEMP_WARN, .GOV_CTL,
      .GOV_STATUS, .VCORE_REF, .GOV_ENTRIES, .GOV_ROWS_LO, .GOV_ROWS_HI, .SAG_COUNT, .SENSOR_TEMP]
  | _ => []

/-- The offset of a register's last element. -/
def RegDef.last (d : RegDef) : Nat := d.off + (d.cntI - 1) * d.stepI + (d.cntJ - 1) * d.stepJ

/-- Every two registers of a list are apart. -/
def Reg.pairwiseApart : List Reg → Bool
  | [] => true
  | r :: rs => (rs.all fun s => r.info.apart s.info) && Reg.pairwiseApart rs

theorem Reg.all_num (r : Reg) : Reg.all[r.info.num]? = some r := by cases r <;> rfl

theorem Reg.mem_all (r : Reg) : r ∈ Reg.all := List.mem_of_getElem? r.all_num

set_option maxRecDepth 20000 in
theorem Reg.all_proper : (Reg.all.all fun r => r.info.proper) = true := by decide +kernel

set_option maxRecDepth 20000 in
theorem Reg.all_inSeg :
    (Reg.all.all fun r => Reg.segOf r.info.off == Reg.segOf r.info.last && (Reg.seg (Reg.segOf r.info.off)).contains r) = true := by
  decide +kernel

theorem Reg.seg_apart : ((List.range 15).all fun k => Reg.pairwiseApart (Reg.seg k)) = true := by decide +kernel

set_option maxRecDepth 20000 in
/-- Every register lies within its half, at multiples of 4. -/
theorem Reg.all_inHalf :
    (Reg.all.all fun r => decide (r.info.stepI % 4 = 0) && decide (r.info.stepJ % 4 = 0) && decide (r.info.off % 4 = 0) &&
      decide (r.info.last < 0x400000)) = true := by decide +kernel

theorem Reg.segOf_mono {a b : Nat} (h : a ≤ b) : Reg.segOf a ≤ Reg.segOf b := by
  unfold Reg.segOf
  rw [← List.countP_eq_length_filter, ← List.countP_eq_length_filter]
  apply List.countP_mono_left
  intro x _ hx
  simp only [decide_eq_true_eq] at *
  omega

theorem Reg.pairwiseApart_mem {l : List Reg} (h : Reg.pairwiseApart l = true) {r s : Reg} (hr : r ∈ l) (hs : s ∈ l) (ne : r ≠ s) :
    r.info.apart s.info = true ∨ s.info.apart r.info = true := by
  induction l with
  | nil => cases hr
  | cons x xs ih =>
    simp only [Reg.pairwiseApart, Bool.and_eq_true, List.all_eq_true] at h
    rcases List.mem_cons.mp hr with rfl | hr' <;> rcases List.mem_cons.mp hs with rfl | hs'
    · exact absurd rfl ne
    · exact .inl (h.1 _ hs')
    · exact .inr (h.1 _ hr')
    · exact ih h.2 hr' hs'

/-- No two registers have an element at one offset. -/
theorem Reg.offset_ne {r s : Reg} (ne : r ≠ s) {i j k l : Nat} (hi : i < r.info.cntI) (hj : j < r.info.cntJ) (hk : k < s.info.cntI)
    (hl : l < s.info.cntJ) : r.offset i j ≠ s.offset k l := by
  have seg : ∀ (r : Reg) (i j : Nat), i < r.info.cntI → j < r.info.cntJ → Reg.segOf (r.offset i j) = Reg.segOf r.info.off := by
    intro r i j hi hj
    have a := List.all_eq_true.mp Reg.all_inSeg r r.mem_all
    simp only [Bool.and_eq_true, beq_iff_eq] at a
    have b1 : i * r.info.stepI ≤ (r.info.cntI - 1) * r.info.stepI := Nat.mul_le_mul_right _ (by omega)
    have b2 : j * r.info.stepJ ≤ (r.info.cntJ - 1) * r.info.stepJ := Nat.mul_le_mul_right _ (by omega)
    have m1 : Reg.segOf r.info.off ≤ Reg.segOf (r.offset i j) := Reg.segOf_mono (by unfold Reg.offset; omega)
    have m2 : Reg.segOf (r.offset i j) ≤ Reg.segOf r.info.last := Reg.segOf_mono (by unfold Reg.offset RegDef.last; omega)
    omega
  intro e
  have same : Reg.segOf r.info.off = Reg.segOf s.info.off := by rw [← seg r i j hi hj, e, seg s k l hk hl]
  have mem : ∀ r : Reg, r ∈ Reg.seg (Reg.segOf r.info.off) := by
    intro r
    have a := List.all_eq_true.mp Reg.all_inSeg r r.mem_all
    simp only [Bool.and_eq_true, List.contains_iff_mem] at a
    exact a.2
  have lt : Reg.segOf r.info.off < 15 := by
    have : Reg.segOf r.info.off ≤ Reg.cuts.length := List.length_filter_le _ _
    have : Reg.cuts.length = 14 := rfl
    omega
  have h := List.all_eq_true.mp Reg.seg_apart _ (List.mem_range.mpr lt)
  rcases Reg.pairwiseApart_mem h (mem r) (same ▸ mem s) ne with h | h
  · exact RegDef.apart_spec h hi hj hk hl e
  · exact RegDef.apart_spec h hk hl hi hj e.symm

theorem Reg.findIn_of {l : List Reg} {r : Reg} {i j : Nat} (mem : r ∈ l) (hi : i < r.info.cntI) (hj : j < r.info.cntJ) :
    Reg.findIn l (r.offset i j) = some (r, i, j) := by
  have hp : r.info.proper = true := List.all_eq_true.mp Reg.all_proper r r.mem_all
  induction l with
  | nil => cases mem
  | cons x xs ih =>
    unfold Reg.findIn
    by_cases e : x = r
    · subst e
      rw [Reg.element_offset hp hi hj]
    · have none : x.element (r.offset i j) = none := by
        cases h : x.element (r.offset i j) with
        | none => rfl
        | some p =>
          obtain ⟨e1, h1, h2⟩ := Reg.element_some (i := p.1) (j := p.2) h
          exact absurd e1 (Reg.offset_ne (fun h => e h.symm) hi hj h1 h2)
      rw [none]
      exact ih (by rcases List.mem_cons.mp mem with rfl | h; exact absurd rfl e; exact h)

/-- R13: the offset of an element of a register selects that element. -/
theorem Reg.find_offset (r : Reg) {i j : Nat} (hi : i < r.info.cntI) (hj : j < r.info.cntJ) : Reg.find (r.offset i j) = some (r, i, j) :=
  Reg.findIn_of r.mem_all hi hj

/-! ### Keys of the register file -/

set_option maxRecDepth 20000 in
theorem Reg.all_small : (Reg.all.all fun r => decide (r.info.cntI ≤ 2048) && decide (r.info.cntJ ≤ 256)) = true := by decide +kernel

theorem Reg.num_inj {r s : Reg} (h : r.info.num = s.info.num) : r = s := by
  have a := r.all_num
  rw [h, s.all_num] at a
  exact (Option.some.inj a).symm

/-- Two elements have one key only where they are one element of one register, on one half or mirrored. -/
theorem Reg.key_inj {r r' : Reg} {h h' i j i' j' : Nat} (hi : i < r.info.cntI) (hj : j < r.info.cntJ) (hh : h < 2)
    (hi' : i' < r'.info.cntI) (hj' : j' < r'.info.cntJ) (hh' : h' < 2) (e : r.key h i j = r'.key h' i' j') :
    r = r' ∧ i = i' ∧ j = j' ∧ (r.info.mirror = false → h = h') := by
  have c : ∀ r : Reg, r.info.cntI ≤ 2048 ∧ r.info.cntJ ≤ 256 := by
    intro r
    have := List.all_eq_true.mp Reg.all_small r r.mem_all
    simpa using this
  have c1 := c r
  have c2 := c r'
  unfold Reg.key at e
  generalize eA : (if r'.info.mirror = true then 0 else h') = A at e
  generalize eB : (if r.info.mirror = true then 0 else h) = B at e
  have lA : A < 2 := by subst eA; split <;> omega
  have lB : B < 2 := by subst eB; split <;> omega
  have num : r.info.num = r'.info.num := by omega
  have rr := Reg.num_inj num
  subst rr
  refine ⟨rfl, by omega, by omega, ?_⟩
  intro m
  rw [m] at eA eB
  simp only [Bool.false_eq_true, if_false] at eA eB
  omega

end Sys2Proof.Machine
end

