-- ==== Sys2Proof/Laws/Bytes.lean ====
section
/-!
SUPPORT. Byte strings: their fields, frames with their check sequence, data objects and sealed messages read back.
-/
namespace Sys2Proof.Machine

theorem leBytes_length (n v : Nat) : (leBytes n v).length = n := by
  induction n generalizing v with
  | zero => rfl
  | succ n ih => simp [leBytes, ih]

theorem ofLE_leBytes_of_lt {n v : Nat} (h : v < 256 ^ n) : ofLE (leBytes n v) = v := by
  induction n generalizing v with
  | zero => simp [leBytes, ofLE]; omega
  | succ n ih =>
    rw [leBytes, ofLE, ih (by rw [Nat.pow_succ] at h; omega)]
    simp only [BitVec.toNat_ofNat]
    omega

/-- A slice of what stands between two parts. -/
theorem slice_middle (a b c : List Byte) : slice (a ++ b ++ c) a.length b.length = b := by simp [slice]

theorem leField_middle (a c : List Byte) {n v : Nat} (h : v < 256 ^ n) : leField (a ++ leBytes n v ++ c) a.length n = v := by
  unfold leField
  have := slice_middle a (leBytes n v) c
  rw [leBytes_length] at this
  rw [this, ofLE_leBytes_of_lt h]

/-- A frame of 14 bytes and more with its check sequence is sound, and its body is what was framed (R529). -/
theorem frameBody_withFcs {b : List Byte} (h : 14 ≤ b.length) : frameBody (withFcs b) = some b := by
  have l : (withFcs b).length = b.length + 4 := by simp [withFcs, leBytes_length]
  have t : (withFcs b).take b.length = b := by simp [withFcs]
  have f : leField (withFcs b) b.length 4 = (crc32 b).toNat := by
    have := leField_middle b [] (n := 4) (v := (crc32 b).toNat) (by have := (crc32 b).isLt; simpa using this)
    simpa [withFcs] using this
  unfold frameBody
  simp only [l, Nat.add_sub_cancel, t, f]
  simp; omega

/-- A data object's type and content read back, the content followed by its padding (R469; log 15). -/
theorem objectParts_objectOf {t : Nat} {b : List Byte} (ht : t < 256) (hb : b.length ≤ 262000) :
    objectParts (objectOf t b) = some (t, b ++ List.replicate (roundUp b.length 4 - b.length) 0) := by
  have hr : b.length + (roundUp b.length 4 - b.length) = roundUp b.length 4 := by unfold roundUp; omega
  have h4 : roundUp b.length 4 % 4 = 0 ∧ roundUp b.length 4 ≤ b.length + 3 := by unfold roundUp; omega
  generalize hp : b ++ List.replicate (roundUp b.length 4 - b.length) 0 = c
  have hc : c.length = roundUp b.length 4 := by rw [← hp]; simp [hr]
  have e : objectOf t b = leBytes 2 1 ++ leBytes 1 t ++ leBytes 1 0 ++ leBytes 4 (2 + c.length / 4) ++ c := by
    unfold objectOf; simp only [hp]
  have l : (objectOf t b).length = 8 + c.length := by rw [e]; simp [leBytes_length]; omega
  have f1 : leField (objectOf t b) 0 2 = 1 := by
    have := leField_middle [] (leBytes 1 t ++ leBytes 1 0 ++ leBytes 4 (2 + c.length / 4) ++ c) (n := 2) (v := 1) (by decide)
    rw [e]; simpa [List.append_assoc] using this
  have f2 : leField (objectOf t b) 2 1 = t := by
    have := leField_middle (leBytes 2 1) (leBytes 1 0 ++ leBytes 4 (2 + c.length / 4) ++ c) (n := 1) (v := t) (by simpa using ht)
    rw [leBytes_length] at this
    rw [e]; simpa [List.append_assoc] using this
  have f3 : leField (objectOf t b) 4 4 = 2 + c.length / 4 := by
    have := leField_middle (leBytes 2 1 ++ leBytes 1 t ++ leBytes 1 0) c (n := 4) (v := 2 + c.length / 4) (by
      have : (256 : Nat) ^ 4 = 4294967296 := by decide
      omega)
    simp only [List.length_append, leBytes_length] at this
    rw [e]; simpa [List.append_assoc] using this
  have d : (objectOf t b).drop 8 = c := by
    rw [e]
    have : (leBytes 2 1 ++ leBytes 1 t ++ leBytes 1 0 ++ leBytes 4 (2 + c.length / 4)).length = 8 := by simp [leBytes_length]
    rw [← this, List.drop_left]
  unfold objectParts
  rw [l, f1, f2, f3, d]
  rw [if_neg]
  omega

/-- The data object in which a requester sends request r over session y. -/
def sealedObject (y : Session) (r : List Byte) : List Byte :=
  let c := Config.gcmSeal (y.key true) y.reqSeq (leBytes 2 r.length ++ r)
  objectOf 2 (leBytes 4 y.id ++ leBytes 2 c.length ++ c)

/-- It opens to the request, over that session. -/
theorem requestIn_sealedObject {s : State} {p : Nat} {y : Session} {r : List Byte} {ys zs : List Session} (h : (s.spdmOf p).sessions = ys ++ y :: zs)
    (hy : ∀ z ∈ ys, z.id ≠ y.id) (hi : y.id < 2 ^ 32) (hr : r.length < 65000) : s.requestIn p (sealedObject y r) = some (r, some y) := by
  have g := Config.gcm.property (y.key true) y.reqSeq (leBytes 2 r.length ++ r)
  have gl : (Config.gcmSeal (y.key true) y.reqSeq (leBytes 2 r.length ++ r)).length = r.length + 18 := by
    have := g.1; simp only [List.length_append, leBytes_length] at this; unfold Config.gcmSeal; omega
  have go : Config.gcmOpen (y.key true) y.reqSeq (Config.gcmSeal (y.key true) y.reqSeq (leBytes 2 r.length ++ r)) =
    some (leBytes 2 r.length ++ r) := g.2
  unfold sealedObject State.requestIn
  simp only
  generalize Config.gcmSeal (y.key true) y.reqSeq (leBytes 2 r.length ++ r) = c at *
  rw [objectParts_objectOf (by decide) (by simp [leBytes_length]; omega)]
  simp only
  generalize List.replicate _ (0 : Byte) = pad
  have f1 : leField (leBytes 4 y.id ++ leBytes 2 c.length ++ c ++ pad) 0 4 = y.id := by
    have := leField_middle [] (leBytes 2 c.length ++ c ++ pad) (n := 4) (v := y.id) (by simpa using hi)
    simpa [List.append_assoc] using this
  have f2 : leField (leBytes 4 y.id ++ leBytes 2 c.length ++ c ++ pad) 4 2 = c.length := by
    have := leField_middle (leBytes 4 y.id) (c ++ pad) (n := 2) (v := c.length) (by
      have : (256 : Nat) ^ 2 = 65536 := by decide
      omega)
    rw [leBytes_length] at this
    simpa [List.append_assoc] using this
  have f3 : slice (leBytes 4 y.id ++ leBytes 2 c.length ++ c ++ pad) 6 c.length = c := by
    have := slice_middle (leBytes 4 y.id ++ leBytes 2 c.length) c pad
    simp only [List.length_append, leBytes_length] at this
    simpa [List.append_assoc] using this
  have n : ys.findSome? (fun z => if z.id = y.id then
      (Config.gcmOpen (z.key true) z.reqSeq c).map fun m => (slice m 2 (leField m 0 2), some z) else none) = none := by
    rw [List.findSome?_eq_none_iff]
    intro z hz; rw [if_neg (hy z hz)]
  have v1 : leField (leBytes 2 r.length ++ r) 0 2 = r.length := by
    have := leField_middle [] r (n := 2) (v := r.length) (by
      have : (256 : Nat) ^ 2 = 65536 := by decide
      omega)
    simpa using this
  have v2 : slice (leBytes 2 r.length ++ r) 2 r.length = r := by
    have := slice_middle (leBytes 2 r.length) r []
    rw [leBytes_length] at this
    simpa using this
  rw [f1, f2, f3, h, List.findSome?_append, n]
  simp only [Option.none_or, List.findSome?_cons, if_true, go, Option.map_some, v1, v2]

end Sys2Proof.Machine
end

