-- ==== Sys2Proof/Laws/Maps.lean ====
section
/-!
SUPPORT. The laws of the sparse maps: reading after writing, and that writing keeps the canonical form.
-/
namespace Sys2Proof.Machine

theorem mget_filter {α : Type} (d : α) (m : FMap α) (i j : Nat) (h : j ≠ i) :
    mget d (m.filter fun e => e.1 != i) j = mget d m j := by
  induction m with
  | nil => rfl
  | cons e m ih =>
    obtain ⟨k, w⟩ := e
    by_cases hk : k = i
    · subst hk; simp [mget, h, ih]
    · simp [hk, mget, ih]

theorem mget_gone {α : Type} (d : α) (m : FMap α) (i : Nat) : mget d (m.filter fun e => e.1 != i) i = d := by
  induction m with
  | nil => rfl
  | cons e m ih =>
    obtain ⟨k, w⟩ := e
    by_cases hk : k = i
    · simp [hk, ih]
    · simp [hk, mget, ih, Ne.symm hk]

theorem mget_mput_self {α : Type} (d : α) (m : FMap α) (i : Nat) (v : α) :
    mget d (mput i v (m.filter fun e => e.1 != i)) i = v := by
  induction m with
  | nil => simp [mput, mget]
  | cons e m ih =>
    obtain ⟨k, w⟩ := e
    by_cases hk : k = i
    · simp [hk, ih]
    · by_cases hi : i < k
      · simp [hk, mput, hi, mget]
      · simp [hk, mput, hi, mget, Ne.symm hk, ih]

theorem mget_mput_ne {α : Type} (d : α) (m : FMap α) (i j : Nat) (v : α) (h : j ≠ i) : mget d (mput i v m) j = mget d m j := by
  induction m with
  | nil => simp [mput, mget, h]
  | cons e m ih =>
    obtain ⟨k, w⟩ := e
    by_cases hi : i < k
    · simp [mput, hi, mget, h]
    · simp [mput, hi, mget, ih]

theorem mget_mset_self {α : Type} [DecidableEq α] (d : α) (m : FMap α) (i : Nat) (v : α) : mget d (mset d m i v) i = v := by
  unfold mset
  by_cases hv : v = d
  · subst hv; simp only [if_true, mget_gone]
  · simp only [if_neg hv, mget_mput_self]

/-- Reading another key, with a default of its own. -/
theorem mget_mset_other {α : Type} [DecidableEq α] (d e : α) (m : FMap α) (i j : Nat) (v : α) (h : j ≠ i) :
    mget e (mset d m i v) j = mget e m j := by
  unfold mset
  by_cases hv : v = d
  · simp only [if_pos hv, mget_filter e m i j h]
  · simp only [if_neg hv, mget_mput_ne e _ i j v h, mget_filter e m i j h]

theorem mget_mset_ne {α : Type} [DecidableEq α] (d : α) (m : FMap α) (i j : Nat) (v : α) (h : j ≠ i) :
    mget d (mset d m i v) j = mget d m j := mget_mset_other d d m i j v h

theorem risingFrom_mono {α : Type} (m : FMap α) {b c : Nat} (h : c ≤ b) (hb : risingFrom b m = true) :
    risingFrom c m = true := by
  cases m with
  | nil => rfl
  | cons e m =>
    simp only [risingFrom, Bool.and_eq_true, decide_eq_true_eq] at hb ⊢
    exact ⟨by omega, hb.2⟩

theorem risingFrom_filter {α : Type} (f : Nat × α → Bool) (m : FMap α) (c : Nat) (h : risingFrom c m = true) :
    risingFrom c (m.filter f) = true := by
  induction m generalizing c with
  | nil => rfl
  | cons e m ih =>
    simp only [risingFrom, Bool.and_eq_true, decide_eq_true_eq] at h
    by_cases hf : f e = true
    · simp only [List.filter_cons_of_pos hf, risingFrom, Bool.and_eq_true, decide_eq_true_eq]
      exact ⟨h.1, ih _ h.2⟩
    · rw [List.filter_cons_of_neg hf]
      exact risingFrom_mono _ (Nat.le_trans h.1 (Nat.le_succ _)) (ih _ h.2)

theorem risingFrom_mput {α : Type} (m : FMap α) (i : Nat) (v : α) (b : Nat) (hi : b ≤ i)
    (hb : risingFrom b (m.filter fun e => e.1 != i) = true) : risingFrom b (mput i v (m.filter fun e => e.1 != i)) = true := by
  induction m generalizing b with
  | nil => simp [mput, risingFrom, hi]
  | cons e m ih =>
    obtain ⟨k, w⟩ := e
    by_cases hk : k = i
    · have hf : ((k, w) :: m).filter (fun e => e.1 != i) = m.filter fun e => e.1 != i := by simp [hk]
      rw [hf] at hb ⊢
      exact ih b hi hb
    · have hf : ((k, w) :: m).filter (fun e => e.1 != i) = (k, w) :: m.filter fun e => e.1 != i := by simp [hk]
      rw [hf] at hb ⊢
      simp only [risingFrom, Bool.and_eq_true, decide_eq_true_eq] at hb
      by_cases h1 : i < k
      · simp only [mput, if_pos h1, risingFrom, Bool.and_eq_true, decide_eq_true_eq]
        exact ⟨hi, by omega, hb.2⟩
      · simp only [mput, if_neg h1, risingFrom, Bool.and_eq_true, decide_eq_true_eq]
        exact ⟨hb.1, ih (k + 1) (by omega) hb.2⟩

theorem risingFrom_mset {α : Type} [DecidableEq α] (d : α) (m : FMap α) (i : Nat) (v : α) (b : Nat) (hi : b ≤ i)
    (hb : risingFrom b m = true) : risingFrom b (mset d m i v) = true := by
  unfold mset
  by_cases hv : v = d
  · simp only [if_pos hv]; exact risingFrom_filter _ _ _ hb
  · simp only [if_neg hv]; exact risingFrom_mput _ _ _ _ hi (risingFrom_filter _ _ _ hb)

theorem all_mput {α : Type} (p : Nat × α → Bool) (m : FMap α) (i : Nat) (v : α) (h : m.all p = true) (hv : p (i, v) = true) :
    (mput i v m).all p = true := by
  induction m with
  | nil => simp [mput, hv]
  | cons e m ih =>
    simp only [List.all_cons, Bool.and_eq_true] at h
    by_cases hi : i < e.1
    · simp [mput, hi, hv, h]
    · simp only [mput, if_neg hi, List.all_cons, Bool.and_eq_true]
      exact ⟨h.1, ih h.2⟩

theorem all_ne_mset {α : Type} [DecidableEq α] (d : α) (m : FMap α) (i : Nat) (v : α)
    (h : (m.all fun e => decide (e.2 ≠ d)) = true) : ((mset d m i v).all fun e => decide (e.2 ≠ d)) = true := by
  have hf : ((m.filter fun e => e.1 != i).all fun e => decide (e.2 ≠ d)) = true :=
    List.all_eq_true.mpr fun x hx => List.all_eq_true.mp h x (List.mem_filter.mp hx).1
  unfold mset
  by_cases hv : v = d
  · simp only [if_pos hv]; exact hf
  · simp only [if_neg hv]; exact all_mput _ _ _ _ hf (by simp [hv])

/-- Writing keeps the canonical form. -/
theorem mwf_mset {α : Type} [DecidableEq α] (d : α) (m : FMap α) (i : Nat) (v : α) (h : mwf d m = true) :
    mwf d (mset d m i v) = true := by
  simp only [mwf, Bool.and_eq_true] at h ⊢
  exact ⟨risingFrom_mset d m i v 0 (Nat.zero_le _) h.1, all_ne_mset d m i v h.2⟩

theorem mget_mset {α : Type} [DecidableEq α] (d : α) (m : FMap α) (i j : Nat) (v : α) :
    mget d (mset d m i v) j = if j = i then v else mget d m j := by
  by_cases hj : j = i
  · subst hj; simp [mget_mset_self d m j v]
  · simp [hj, mget_mset_ne d m i j v hj]

/-- Changing every value keeps the canonical form. -/
theorem mwf_mmap {α : Type} [DecidableEq α] (d : α) (f : Nat → α → α) (m : FMap α) (h : mwf d m = true) :
    mwf d (mmap d f m) = true := by
  simp only [mwf, Bool.and_eq_true] at h ⊢
  constructor
  · have key : ∀ (m : FMap α) (b : Nat), risingFrom b m = true → risingFrom b (mmap d f m) = true := by
      intro m
      induction m with
      | nil => intros; rfl
      | cons e m ih =>
        obtain ⟨k, w⟩ := e
        intro b hb
        simp only [risingFrom, Bool.and_eq_true, decide_eq_true_eq] at hb
        by_cases hf : f k w = d
        · simp only [mmap, if_pos hf]; exact ih b (risingFrom_mono m (by omega) hb.2)
        · simp only [mmap, if_neg hf, risingFrom, Bool.and_eq_true, decide_eq_true_eq]
          exact ⟨hb.1, ih (k + 1) hb.2⟩
    exact key m 0 h.1
  · have h2 := h.2
    clear h
    induction m with
    | nil => rfl
    | cons e m ih =>
      obtain ⟨k, w⟩ := e
      simp only [List.all_cons, Bool.and_eq_true, decide_eq_true_eq] at h2
      by_cases hf : f k w = d
      · simp only [mmap, if_pos hf]; exact ih h2.2
      · simp only [mmap, if_neg hf, List.all_cons, Bool.and_eq_true, decide_eq_true_eq]
        exact ⟨hf, ih h2.2⟩

end Sys2Proof.Machine
end

