-- ==== Sys2Proof/Laws/Events.lean ====
section
/-!
SUPPORT. What each shared operation of the meanings does once its event occurs: one lemma per operation.
-/
namespace Sys2Proof.Machine

/-- R10, R13, R32: a write that reaches a register of its own half is that register's store. -/
theorem wr_of_reaches {s : State} {p : Nat} {r : Reg} {h i j : Nat} {v : Word} (hr : s.reaches p r h i) (hp : p < 4)
    (hi : i < r.info.cntI) (hj : j < r.info.cntJ) : s.wr p r h i j v = s.store r h i j p v := by
  obtain ⟨h1, hd, h2, h3, h4, h5⟩ := hr
  have ok := List.all_eq_true.mp Reg.all_inHalf r r.mem_all
  simp only [Bool.and_eq_true, decide_eq_true_eq] at ok
  obtain ⟨⟨⟨oI, oJ⟩, oO⟩, oL⟩ := ok
  have b1 : i * r.info.stepI ≤ (r.info.cntI - 1) * r.info.stepI := Nat.mul_le_mul_right _ (by omega)
  have b2 : j * r.info.stepJ ≤ (r.info.cntJ - 1) * r.info.stepJ := Nat.mul_le_mul_right _ (by omega)
  have lo : r.offset i j < 0x400000 := by unfold Reg.offset; unfold RegDef.last at oL; omega
  have m4 : r.offset i j % 4 = 0 := by
    unfold Reg.offset
    have e1 : i * r.info.stepI % 4 = 0 := by rw [Nat.mul_mod, oI]; simp
    have e2 : j * r.info.stepJ % 4 = 0 := by rw [Nat.mul_mod, oJ]; simp
    omega
  have hh : h < 2 := by unfold portHalf at h1; omega
  have a1 : addrHalf (r.addr h i j) = h := by unfold addrHalf Reg.addr; omega
  have a2 : addrOff (r.addr h i j) = r.offset i j := by unfold addrOff Reg.addr; omega
  have a3 : r.addr h i j % 4 = 0 := by unfold Reg.addr; omega
  unfold State.wr State.hostWrite
  rw [if_neg (by simp [hd]), if_neg (by simp [h2]), if_neg (by simp [a1, a3]; omega), a1, if_pos h1.symm, a2, h1]
  unfold State.writeAt
  rw [Reg.find_offset r hi hj]
  simp [h3, h4, h5]

/-- R80, R81: what a thread's turn changes: the service order of its cluster, and of the thread its priority turns. -/
theorem State.issued_frame (s : State) (t : Nat) :
    s.issued t = { s with thr := (s.issued t).thr, turn := (s.issued t).turn, prioQ := (s.issued t).prioQ } := by
  unfold State.issued
  dsimp only
  split <;> rfl

theorem State.issued_thread (s : State) (t : Nat) : (s.issued t).thread t = { s.thread t with prio := (s.thread t).prio - 1 } := by
  unfold State.issued
  dsimp only
  split
  · rename_i h
    show s.thread t = _
    rw [show (s.thread t).prio - 1 = (s.thread t).prio by omega]
  · exact mget_mset_self _ _ _ _

theorem State.issued_other (s : State) {t u : Nat} (h : u ≠ t) : (s.issued t).thread u = s.thread u := by
  unfold State.issued
  dsimp only
  split
  · rfl
  · exact mget_mset_ne _ _ _ _ _ h

/-- R118 to R121: a fetched instruction is executed. -/
theorem issue_of_fetches {s : State} {t op : Nat} {w : BitVec 64} {e : Ecc} (f : State → BitVec 64 → State) (h : s.fetches t op w)
    (he : e ≠ .uncorrectable) : s.issue t e op f = f (s.issued t) w := by
  obtain ⟨h1, h2, h3, h4, h5⟩ := h
  unfold State.issue
  simp [h1, he, h3, h4, h5, show ¬ 1048576 ≤ (s.thread t).pc by omega, State.issued]

/-- R125: a push that nothing stops completes. -/
theorem startPush_of_pushes {s : State} {t : Nat} {p : Push} (h : s.pushes t p) : s.startPush t p = (s.recorded p).completePush t p := by
  obtain ⟨h1, h2⟩ := h
  unfold State.startPush State.pushOrdered
  rw [if_neg, if_neg, if_neg, if_neg]
  · rfl
  · simp only [List.any_eq_true, decide_eq_true_eq, not_exists, not_and]
    intro x hx
    have := h2 x hx
    unfold State.recorded at this
    omega
  · simp only [List.any_eq_true, Bool.not_eq_true', not_exists, not_and, Bool.not_eq_false]
    intro x hx
    exact (h1 x hx).2.2
  · simp only [List.any_eq_true, decide_eq_true_eq, not_exists, not_and]
    intro x hx
    have := (h1 x hx).2.1
    omega
  · simp only [List.any_eq_true, decide_eq_true_eq, not_exists, not_and]
    intro x hx
    have := (h1 x hx).1
    omega

/-- R364: a fetched instruction is executed. -/
theorem laneIssue_of_fetches {s : State} {l op : Nat} {w : Word} {e : Ecc} (f : State → Word → Lane → State) (h : s.laneFetches l op w)
    (he : e ≠ .uncorrectable) : s.laneIssue l e op f = f (s.laneEcc l e) w (s.lane l) := by
  obtain ⟨h1, h2, h3⟩ := h
  unfold State.laneIssue
  simp [h1, he, h2, h3]

/-- R440, R442: an accepted command does what its opcode says. -/
theorem accept_of_takes {s : State} {r op : Nat} {d : BitVec 512} (f : State → HostCmd → Nat → State) (h : s.takes r op d)
    (ho : opcodes.contains op = true) : s.accept r op f = f (s.accepted r d) (s.commandOf r d) s.lowestTag := by
  obtain ⟨h1, h2, h3⟩ := h
  obtain ⟨l, e⟩ : ∃ l, (s.ring r).desc = d :: l := by
    cases q : (s.ring r).desc with
    | nil => simp [q] at h1
    | cons a l => simp [q] at h1; exact ⟨l, by rw [h1]⟩
  have hop : (s.commandOf r d).op = op := h3
  unfold State.accept
  rw [e]
  simp only [h2, hop, ho]
  simp

/-- R443: a command whose checks pass goes on; one whose check fails ends with the first one's status. -/
theorem checked_of_none {s : State} {tag : Nat} {fail : Word64} {l : Checks} (k : State → State) (h : firstStatus l = none) :
    s.checked tag fail l k = k s := by
  unfold State.checked
  rw [Option.map_eq_none_iff.mp h]

theorem checked_of_some {s : State} {tag : Nat} {fail : Word64} {l : Checks} {st : BitVec 8} (k : State → State)
    (h : firstStatus l = some st) : s.checked tag fail l k = s.finish tag st fail := by
  obtain ⟨x, hx, rfl⟩ := Option.map_eq_some_iff.mp h
  unfold State.checked
  rw [hx]

/-- R458: a command whose source the region check lets it read asks for all of it. -/
theorem source_of_allowed {s : State} {c : HostCmd} {tag addr n h cls : Nat} {fail : Word64} (hn : 0 < n)
    (ha : s.allowed c.port c.part addr n false = n) : s.source c tag addr n h cls fail =
      (s.modCmd tag fun c => { c with reading := true, short := false }).dmaRead c.port (cmdReq c.part tag h cls) addr n := by
  unfold State.source
  simp only [ha]
  simp [Nat.pos_iff_ne_zero.mp hn]

/-- R557, R559: a flit that arrives does what its kind says. -/
theorem flitIn_of_receives {s : State} {h : Nat} {f : BitVec 272} {b : BitVec 256} {fixed : Bool} (pick : BitVec 256 → Bool)
    (k : State → BitVec 256 → Option State) (hr : s.receives h f b fixed) (hp : pick b = true) :
    s.flitIn h f pick k = match k (s.received h b fixed) b with | some s2 => s2 | none => s := by
  obtain ⟨h1, h2, h3⟩ := hr
  unfold State.flitIn
  simp only [h1, h2, h3, hp]
  simp [State.received] <;> rfl

/-- R561: a flit in its turn is taken. -/
theorem sequenced_of_expects {s : State} {h : Nat} {b : BitVec 256} (take : State → Option State) (hh : h < 2) (he : s.expects h b) :
    s.sequenced h b take = take (s.inOrder h b) := by
  obtain ⟨h1, h2⟩ := he
  have ne : h ≠ far h := by unfold far; omega
  have same : ∀ f, (s.modDlk (far h) f).dlkOf h = s.dlkOf h := fun f => mget_mset_ne _ _ _ _ _ ne
  unfold State.sequenced
  simp only [h1, Bool.not_true, Bool.false_eq_true, if_false]
  rw [if_pos (h2.trans (congrArg Dlk.expect (same _)).symm)]
  rfl

/-- R469, R470: an admitted request is answered. -/
theorem onRequest_of_asked {s : State} {p : Nat} {msg m : List Byte} {y : Option Session} {ver code : Nat} {early : List Byte → Bool}
    (f : State → Option Session → List Byte → State × List Byte) (h : s.asked p msg m y ver code (early m)) :
    s.onRequest p msg ver code early f = (f (s.heard p y) y m).1.respond p y (f (s.heard p y) y m).2 := by
  obtain ⟨h1, h2, h3, h4, h5⟩ := h
  have hr : (s.heard p y).ready = s.ready := by cases y <;> rfl
  have h5' : ¬ (!(s.heard p y).ready ∧ !early m) := by rw [hr]; rcases h5 with h | h <;> simp [h]
  unfold State.onRequest
  rw [h1]
  simp only [h2, h3, h4]
  rw [if_neg (by simp)]
  cases y <;> exact if_neg h5'

end Sys2Proof.Machine
end

