-- ==== Sys2Proof/Laws/Kept.lean ====
section
/-!
SUPPORT. What every operation keeps: the memory's canonical form, the register file in rising order, the queue of commands, the
sample-time counters, and the fuses, which only accumulate.  `Kept b s` says so of a state s that comes from b; an operation's lemma
says that what it answers comes from b when what it is given does.
-/
namespace Sys2Proof.Machine

set_option linter.all false

/-- s comes from b by operations that keep what is listed. -/
structure Kept (b s : State) : Prop where
  mem : Memory.wf s.mem = true
  regs : risingFrom 0 s.regs = true
  pending : s.pending = b.pending
  c0 : s.c0 = b.c0
  c1 : s.c1 = b.c1
  fuses : b.fuses.count ≤ s.fuses.count
  revoked : b.fuses.revoked &&& s.fuses.revoked = b.fuses.revoked

/-- An operation that may answer nothing. -/
def KeptO (b : State) (o : Option State) : Prop := match o with | some t => Kept b t | none => True

/-- A meaning: its next state, where it has one. -/
def KeptR (b : State) (r : Res) : Prop := match r with | .next t => Kept b t | _ => True

variable {b : State}

/-- A state comes from itself. -/
theorem kept_self {s : State} (hm : Memory.wf s.mem = true) (hr : risingFrom 0 s.regs = true) : Kept s s :=
  ⟨hm, hr, rfl, rfl, rfl, Nat.le_refl _, BitVec.and_self⟩

theorem Kept.trans {s t : State} (h : Kept b s) (k : Kept s t) : Kept b t :=
  ⟨k.mem, k.regs, k.pending.trans h.pending, k.c0.trans h.c0, k.c1.trans h.c1, Nat.le_trans h.fuses k.fuses, by
    have e1 := h.revoked
    have e2 := k.revoked
    rw [← e1, BitVec.and_assoc, e2]⟩

/-! ### The forms that meanings are built from -/

theorem keptR_next {t : State} (h : Kept b t) : KeptR b (.next t) := h
theorem keptO_some {t : State} (h : Kept b t) : KeptO b (some t) := h
theorem kept_cut (b : State) (z : State) {G : Prop} (h : Kept b z) (k : Kept b z → G) : G := k h
theorem kept_cut1 (b : State) {α : Type} (z : State × α) {G : Prop} (h : Kept b z.1) (k : Kept b z.1 → G) : G := k h
theorem kept_cut2 (b : State) {α : Type} (z : α × State) {G : Prop} (h : Kept b z.2) (k : Kept b z.2 → G) : G := k h
theorem kept_cutO (b : State) (z : Option State) {G : Prop} (h : KeptO b z) (k : KeptO b z → G) : G := k h
theorem isFun {α : Type} (_z : State → α) {G : Prop} (k : G) : G := k
theorem keptO_map {o : Option State} {f : State → State} (h : KeptO b o) (k : ∀ s, Kept b s → Kept b (f s)) : KeptO b (o.map f) := by
  cases o with
  | none => trivial
  | some s => exact k s h
theorem keptO_bind {o : Option State} {f : State → Option State} (h : KeptO b o) (k : ∀ s, Kept b s → KeptO b (f s)) : KeptO b (o.bind f) := by
  cases o with
  | none => trivial
  | some s => exact k s h
theorem keptO_getD {o : Option State} {s : State} (h : KeptO b o) (k : Kept b s) : Kept b (o.getD s) := by
  cases o with
  | none => exact k
  | some s => exact h
theorem kept_of_some {o : Option State} {t : State} (e : o = some t) (h : KeptO b o) : Kept b t := by
  subst e; exact h
theorem kept_of_pair {α : Type} {q : State × α} {t : State} {y : α} (e : q = (t, y)) (h : Kept b q.1) : Kept b t := by
  subst e; exact h
theorem kept_ite {c : Prop} [Decidable c] {x y : State} (h1 : Kept b x) (h2 : Kept b y) : Kept b (if c then x else y) := by
  split <;> assumption
theorem keptR_ite {c : Prop} [Decidable c] {x y : Res} (h1 : KeptR b x) (h2 : KeptR b y) : KeptR b (if c then x else y) := by
  split <;> assumption
theorem keptO_ite {c : Prop} [Decidable c] {x y : Option State} (h1 : KeptO b x) (h2 : KeptO b y) : KeptO b (if c then x else y) := by
  split <;> assumption
theorem kept_ite1 {α : Type} {c : Prop} [Decidable c] {x y : State × α} (h1 : Kept b x.1) (h2 : Kept b y.1) : Kept b (if c then x else y).1 := by
  split <;> assumption
theorem kept_ite2 {α : Type} {c : Prop} [Decidable c] {x y : α × State} (h1 : Kept b x.2) (h2 : Kept b y.2) : Kept b (if c then x else y).2 := by
  split <;> assumption
theorem keptR_fault {f : Fault} : KeptR b (.fault f) := trivial
theorem keptR_refused {f : Refusal} : KeptR b (.refused f) := trivial
theorem keptO_none : KeptO b none := trivial
theorem kept_forEach {α : Type} {s : State} {l : List α} {f : State → α → State} (h : Kept b s)
    (hf : ∀ s x, Kept b s → Kept b (f s x)) : Kept b (s.forEach l f) := by
  unfold State.forEach
  induction l generalizing s with
  | nil => exact h
  | cons x l ih => exact ih (hf s x h)
theorem kept_foldl {α : Type} {s : State} {l : List α} {f : State → α → State} (h : Kept b s)
    (hf : ∀ s x, Kept b s → Kept b (f s x)) : Kept b (l.foldl f s) := kept_forEach h hf
theorem kept_upd {t : State} (freeCount' : Nat) (shadows' : FMap Word) (staged' : FMap Word) (lastRead' : FMap Word)
    (syncAt' : Option Nat) (segtab' : FMap (BitVec 128)) (thr' : FMap Thread) (turn' : FMap Nat) (prioQ' : List Nat) (run' :
    FMap Run) (bar' : FMap Barrier) (que' : FMap Queue) (released' : List Released) (osc' : FMap (List Osc)) (pulses' : List
    Pulse) (delays' : FMap (List (Nat × Word))) (dacOut' : FMap (List (BitVec 14))) (pat' : FMap Pattern) (strm' : FMap
    (Option Stream)) (flux' : FMap FluxCh) (fluxOut' : FMap (List (BitVec 19))) (strobes' : List Strobe) (blanks' : List
    Nat) (marks' : FMap Marker) (deliveries' : List Delivery) (tables' : FMap Table) (fires' : List Fire) (evRow' : FMap
    (Option Nat)) (evTog' : FMap Bool) (pins' : BitVec 16) (pinEdge' : FMap (Option Nat)) (taskRow' : FMap (Option Nat))
    (lanes' : FMap Lane) (cal' : FMap Cal) (wins' : List Window) (adc' : FMap (List AdcRow)) (chans' : FMap Chan) (caps' :
    FMap CapEng) (aux' : FMap Aux) (jumps' : List JumpReq) (nt' : FMap Nat) (rings' : FMap Ring) (cmds' : FMap (Option
    HostCmd)) (cmdSeq' : Nat) (dlk' : FMap Dlk) (recs' : List BufRec) (cmp' : FMap CmpEng) (out' : List Out) (parts' : FMap
    (BitVec 4096)) (quiet' : FMap Quiet) (shadowsF' : List Shadow) (faultN' : FaultN) (firstRow' : FMap (Option Nat))
    (notified' : FMap (Option Nat)) (forced' : List (Nat × Nat)) (enAt' : FMap (Option Nat)) (warm' : BitVec 2) (hot' :
    BitVec 2) (gov' : FMap Gov) (tap' : Tap) (ports' : FMap HostPort) (boot' : Boot) (spdm' : FMap Spdm) (ntLink' : FMap
    Bool) (servo' : Servo) (ntUpd' : FMap (List NtUpdate)) (h : Kept b t) : Kept b (State.mk t.pending freeCount' t.regs
    shadows' staged' lastRead' t.c0 t.c1 syncAt' t.mem segtab' thr' turn' prioQ' run' bar' que' released' osc' pulses'
    delays' dacOut' pat' strm' flux' fluxOut' strobes' blanks' marks' deliveries' tables' fires' evRow' evTog' pins'
    pinEdge' taskRow' lanes' cal' wins' adc' chans' caps' aux' jumps' nt' rings' cmds' cmdSeq' dlk' recs' cmp' out' parts'
    quiet' shadowsF' faultN' firstRow' notified' forced' enAt' warm' hot' gov' tap' ports' boot' spdm' t.fuses ntLink'
    servo' ntUpd') :=
  ⟨h.mem, h.regs, h.pending, h.c0, h.c1, h.fuses, h.revoked⟩

theorem kept_setReg (s : State) (r : Reg) (h i j : Nat) (v : Word) (k : Kept b s) : Kept b (s.setReg r h i j v) :=
  ⟨k.mem, risingFrom_mset _ _ _ _ _ (Nat.zero_le _) k.regs, k.pending, k.c0, k.c1, k.fuses, k.revoked⟩

/-- Writing bytes keeps the memory's canonical form. -/
theorem memWrite_wf (m : List Host.Cell) (x : Nat) (l : List Byte) (h : Memory.wf m = true) : Memory.wf (memWrite m x l) = true := by
  induction l generalizing m x with
  | nil => exact h
  | cons b l ih => exact ih _ _ (mwf_mset _ _ _ _ h)

theorem kept_write (s : State) (m : Mem) (h off : Nat) (l : List Byte) (k : Kept b s) : Kept b (s.write m h off l) :=
  ⟨memWrite_wf _ _ _ k.mem, k.regs, k.pending, k.c0, k.c1, k.fuses, k.revoked⟩

end Sys2Proof.Machine
end

