-- ==== Sys2Proof/Laws/KeptCore.lean ====
section
/-!
SUPPORT. What the operations keep: threads, waits, timed commands and network time.
-/
namespace Sys2Proof.Machine

set_option linter.all false

variable {b : State}

theorem kept_count (s : State) (x1 : Reg) (x2 : Nat) (x3 : Nat) (x4 : optParam Nat 1) (h : Kept b s) : Kept b (State.count s x1
    x2 x3 x4) := by
  unfold State.count
  with_reducible repeat' (first | assumption | (intro _) | apply kept_ite | apply kept_setReg | (apply kept_upd; assumption) | split)

theorem kept_emit (s : State) (x1 : Out) (h : Kept b s) : Kept b (State.emit s x1) := by
  unfold State.emit
  exact ⟨h.mem, h.regs, h.pending, h.c0, h.c1, h.fuses, h.revoked⟩

theorem kept_modRun (s : State) (x1 : Nat) (x2 : Run → Run) (h : Kept b s) : Kept b (State.modRun s x1 x2) := by
  unfold State.modRun
  exact ⟨h.mem, h.regs, h.pending, h.c0, h.c1, h.fuses, h.revoked⟩

theorem kept_finalShot (s : State) (x1 : Nat) (h : Kept b s) : Kept b (State.finalShot s x1) := by
  unfold State.finalShot
  exact ⟨h.mem, h.regs, h.pending, h.c0, h.c1, h.fuses, h.revoked⟩

theorem kept_modShot (s : State) (x1 : Nat) (x2 : Nat) (x3 : Shot → Shot) (h : Kept b s) : Kept b (State.modShot s x1 x2 x3) :=
    by
  unfold State.modShot
  exact ⟨h.mem, h.regs, h.pending, h.c0, h.c1, h.fuses, h.revoked⟩

theorem kept_flagShot (s : State) (x1 : Nat) (x2 : Nat) (x3 : Nat) (h : Kept b s) : Kept b (State.flagShot s x1 x2 x3) := by
  unfold State.flagShot
  exact ⟨h.mem, h.regs, h.pending, h.c0, h.c1, h.fuses, h.revoked⟩

theorem kept_flagBall (s : State) (x1 : Nat) (x2 : Nat) (x3 : Nat) (h : Kept b s) : Kept b (State.flagBall s x1 x2 x3) := by
  unfold State.flagBall
  with_reducible repeat' (first | assumption | (intro _) | apply kept_ite | apply kept_flagShot | (apply kept_upd; assumption) | split)

theorem kept_free (x0 : Nat) (s : State) (h : Kept b s) : Kept b (State.free x0 s).2 := by
  unfold State.free
  exact ⟨h.mem, h.regs, h.pending, h.c0, h.c1, h.fuses, h.revoked⟩

theorem kept_modBarrier (s : State) (x1 : Nat) (x2 : Barrier → Barrier) (h : Kept b s) : Kept b (State.modBarrier s x1 x2) := by
  unfold State.modBarrier
  exact ⟨h.mem, h.regs, h.pending, h.c0, h.c1, h.fuses, h.revoked⟩

theorem kept_modCal (s : State) (x1 : Nat) (x2 : Cal → Cal) (h : Kept b s) : Kept b (State.modCal s x1 x2) := by
  unfold State.modCal
  exact ⟨h.mem, h.regs, h.pending, h.c0, h.c1, h.fuses, h.revoked⟩

theorem kept_modDlk (s : State) (x1 : Nat) (x2 : Dlk → Dlk) (h : Kept b s) : Kept b (State.modDlk s x1 x2) := by
  unfold State.modDlk
  exact ⟨h.mem, h.regs, h.pending, h.c0, h.c1, h.fuses, h.revoked⟩

theorem kept_modFlux (s : State) (x1 : Nat) (x2 : FluxCh → FluxCh) (h : Kept b s) : Kept b (State.modFlux s x1 x2) := by
  unfold State.modFlux
  exact ⟨h.mem, h.regs, h.pending, h.c0, h.c1, h.fuses, h.revoked⟩

theorem kept_modLane (s : State) (x1 : Nat) (x2 : Lane → Lane) (h : Kept b s) : Kept b (State.modLane s x1 x2) := by
  unfold State.modLane
  exact ⟨h.mem, h.regs, h.pending, h.c0, h.c1, h.fuses, h.revoked⟩

theorem kept_modMarker (s : State) (x1 : Nat) (x2 : Marker → Marker) (h : Kept b s) : Kept b (State.modMarker s x1 x2) := by
  unfold State.modMarker
  exact ⟨h.mem, h.regs, h.pending, h.c0, h.c1, h.fuses, h.revoked⟩

theorem kept_modPattern (s : State) (x1 : Nat) (x2 : Pattern → Pattern) (h : Kept b s) : Kept b (State.modPattern s x1 x2) := by
  unfold State.modPattern
  exact ⟨h.mem, h.regs, h.pending, h.c0, h.c1, h.fuses, h.revoked⟩

theorem kept_modPort (s : State) (x1 : Nat) (x2 : HostPort → HostPort) (h : Kept b s) : Kept b (State.modPort s x1 x2) := by
  unfold State.modPort
  exact ⟨h.mem, h.regs, h.pending, h.c0, h.c1, h.fuses, h.revoked⟩

theorem kept_modQueue (s : State) (x1 : Nat) (x2 : Queue → Queue) (h : Kept b s) : Kept b (State.modQueue s x1 x2) := by
  unfold State.modQueue
  exact ⟨h.mem, h.regs, h.pending, h.c0, h.c1, h.fuses, h.revoked⟩

theorem kept_modQuiet (s : State) (x1 : Nat) (x2 : Quiet → Quiet) (h : Kept b s) : Kept b (State.modQuiet s x1 x2) := by
  unfold State.modQuiet
  exact ⟨h.mem, h.regs, h.pending, h.c0, h.c1, h.fuses, h.revoked⟩

theorem kept_modRing (s : State) (x1 : Nat) (x2 : Ring → Ring) (h : Kept b s) : Kept b (State.modRing s x1 x2) := by
  unfold State.modRing
  exact ⟨h.mem, h.regs, h.pending, h.c0, h.c1, h.fuses, h.revoked⟩

theorem kept_modThread (s : State) (x1 : Nat) (x2 : Thread → Thread) (h : Kept b s) : Kept b (State.modThread s x1 x2) := by
  unfold State.modThread
  exact ⟨h.mem, h.regs, h.pending, h.c0, h.c1, h.fuses, h.revoked⟩

theorem kept_raiseRun (s : State) (x1 : Nat) (x2 : BitVec 8) (h : Kept b s) : Kept b (State.raiseRun s x1 x2) := by
  unfold State.raiseRun
  exact ⟨h.mem, h.regs, h.pending, h.c0, h.c1, h.fuses, h.revoked⟩

theorem kept_regBit (s : State) (x1 : Reg) (x2 : Nat) (x3 : Nat) (x4 : Nat) (x5 : Bool) (h : Kept b s) : Kept b (State.regBit s
    x1 x2 x3 x4 x5) := by
  unfold State.regBit
  with_reducible repeat' (first | assumption | (intro _) | apply kept_ite | apply kept_setReg | (apply kept_upd; assumption) | split)

theorem kept_send (s : State) (x1 : Nat) (x2 : DlkMsg) (h : Kept b s) : Kept b (State.send s x1 x2) := by
  unfold State.send
  with_reducible repeat' (first | assumption | (intro _) | apply kept_ite | apply kept_modDlk | apply kept_count | (apply kept_upd; assumption) | split)

theorem kept_setLaneWord (s : State) (x1 : Nat) (x2 : Nat) (x3 : Word) (h : Kept b s) : Kept b (State.setLaneWord s x1 x2 x3)
    := by
  unfold State.setLaneWord
  with_reducible repeat' (first | assumption | (intro _) | apply kept_ite | apply kept_write | (apply kept_upd; assumption) | split)

theorem kept_setPair (s : State) (x1 : Reg) (x2 : Reg) (x3 : Nat) (x4 : Nat) (x5 : Nat) (h : Kept b s) : Kept b (State.setPair
    s x1 x2 x3 x4 x5) := by
  unfold State.setPair
  with_reducible repeat' (first | assumption | (intro _) | apply kept_ite | apply kept_setReg | (apply kept_upd; assumption) | split)

theorem kept_setStream (s : State) (x1 : Nat) (x2 : Option Stream) (h : Kept b s) : Kept b (State.setStream s x1 x2) := by
  unfold State.setStream
  exact ⟨h.mem, h.regs, h.pending, h.c0, h.c1, h.fuses, h.revoked⟩

theorem kept_observe (s : State) (x1 : Nat) (x2 : Nat) (x3 : Nat) (h : Kept b s) : Kept b (State.observe s x1 x2 x3) := by
  unfold State.observe
  exact ⟨h.mem, h.regs, h.pending, h.c0, h.c1, h.fuses, h.revoked⟩

theorem kept_fireTo (s : State) (x1 : Half) (x2 : Nat) (x3 : Nat) (x4 : Nat) (h : Kept b s) : Kept b (State.fireTo s x1 x2 x3
    x4) := by
  unfold State.fireTo
  with_reducible repeat' (first | assumption | (intro hz; clear_value z) | (intro _) | (extract_lets +onlyGivenNames z; first | (refine kept_cut b z ?_ ?_; dsimp -zeta only [z]; clear z) | clear_value z) | apply kept_ite | apply kept_observe | apply kept_forEach | (apply kept_upd; assumption) | split)

theorem kept_fireRaw (s : State) (x1 : Nat) (x2 : Nat) (x3 : Nat) (h : Kept b s) : Kept b (State.fireRaw s x1 x2 x3) := by
  unfold State.fireRaw
  with_reducible repeat' (first | assumption | (intro hz; clear_value z) | (intro _) | (extract_lets +onlyGivenNames z; first | (refine kept_cut b z ?_ ?_; dsimp -zeta only [z]; clear z) | clear_value z) | apply kept_ite | apply kept_count | apply kept_setReg | apply kept_fireTo | apply kept_send | apply kept_forEach | (apply kept_upd; assumption) | split)

theorem kept_fireProducer (s : State) (x1 : Nat) (x2 : Nat) (x3 : Nat) (x4 : Nat) (h : Kept b s) : Kept b (State.fireProducer s
    x1 x2 x3 x4) := by
  unfold State.fireProducer
  with_reducible repeat' (first | assumption | (intro hz; clear_value z) | (intro _) | (extract_lets +onlyGivenNames z; first | (refine kept_cut b z ?_ ?_; dsimp -zeta only [z]; clear z) | clear_value z) | apply kept_ite | apply kept_fireRaw | apply kept_forEach | (apply kept_upd; assumption) | split)

theorem kept_finish (s : State) (x1 : Nat) (x2 : BitVec 8) (x3 : Word64) (h : Kept b s) : Kept b (State.finish s x1 x2 x3) := by
  unfold State.finish
  with_reducible repeat' (first | assumption | (intro _) | apply kept_ite | (apply kept_upd; assumption) | split)

theorem kept_calDone (s : State) (x1 : Nat) (x2 : Nat) (x3 : BitVec 8) (h : Kept b s) : Kept b (State.calDone s x1 x2 x3) := by
  unfold State.calDone
  with_reducible repeat' (first | assumption | (intro _) | apply kept_ite | apply kept_fireProducer | apply kept_finish | (apply kept_upd; assumption) | split)

theorem kept_capture (s : State) (x1 : Nat) (x2 : Nat) (x3 : Bool) (h : Kept b s) : Kept b (State.capture s x1 x2 x3) := by
  unfold State.capture
  with_reducible repeat' (first | assumption | (intro hz; clear_value z) | (intro _) | (extract_lets +onlyGivenNames z; first | (refine kept_cut b z ?_ ?_; dsimp -zeta only [z]; clear z) | clear_value z) | apply kept_ite | apply kept_regBit | apply kept_setReg | apply kept_setPair | apply kept_forEach | (apply kept_upd; assumption) | split)

theorem kept_countLost (s : State) (x1 : Nat) (x2 : Nat) (h : Kept b s) : Kept b (State.countLost s x1 x2) := by
  unfold State.countLost
  with_reducible repeat' (first | assumption | (intro _) | apply kept_ite | apply kept_count | (apply kept_upd; assumption) | split)

theorem kept_discardQueue (s : State) (x1 : Nat) (h : Kept b s) : Kept b (State.discardQueue s x1) := by
  unfold State.discardQueue
  with_reducible repeat' (first | assumption | (intro hz; clear_value z) | (intro _) | (extract_lets +onlyGivenNames z; first | (refine kept_cut b z ?_ ?_; dsimp -zeta only [z]; clear z) | clear_value z) | apply kept_ite | apply kept_modQueue | apply kept_count | apply kept_modRun | apply kept_forEach | (apply kept_upd; assumption) | split)

theorem kept_discardTaken (s : State) (x1 : Nat) (h : Kept b s) : Kept b (State.discardTaken s x1) := by
  unfold State.discardTaken
  with_reducible repeat' (first | assumption | (intro hz; clear_value z) | (intro _) | (extract_lets +onlyGivenNames z; first | (refine kept_cut b z ?_ ?_; dsimp -zeta only [z]; clear z) | clear_value z) | apply kept_ite | apply kept_count | apply kept_modRun | apply kept_forEach | (apply kept_upd; assumption) | split)

theorem kept_endCal (s : State) (x1 : Nat) (x2 : BitVec 8) (h : Kept b s) : Kept b (State.endCal s x1 x2) := by
  unfold State.endCal
  with_reducible repeat' (first | assumption | (intro _) | apply kept_ite | apply kept_calDone | apply kept_modCal | (apply kept_upd; assumption) | split)

theorem kept_endPattern (s : State) (x1 : Nat) (x2 : Nat) (h : Kept b s) : Kept b (State.endPattern s x1 x2) := by
  unfold State.endPattern
  with_reducible repeat' (first | assumption | (intro _) | apply kept_ite | apply kept_modPattern | apply kept_modQueue | apply kept_fireProducer | (apply kept_upd; assumption) | split)

theorem kept_silence (s : State) (x1 : Nat) (x2 : Bool) (h : Kept b s) : Kept b (State.silence s x1 x2) := by
  unfold State.silence
  with_reducible repeat' (first | assumption | (intro hz; clear_value z) | (intro _) | (extract_lets +onlyGivenNames z; first | (refine kept_cut b z ?_ ?_; dsimp -zeta only [z]; clear z) | clear_value z) | apply kept_ite | apply kept_endPattern | apply kept_modFlux | apply kept_forEach | (apply kept_upd; assumption) | split)

theorem kept_markLow (s : State) (x1 : Nat) (h : Kept b s) : Kept b (State.markLow s x1) := by
  unfold State.markLow
  exact ⟨h.mem, h.regs, h.pending, h.c0, h.c1, h.fuses, h.revoked⟩

theorem kept_leaveArmed (s : State) (x1 : Nat) (h : Kept b s) : Kept b (State.leaveArmed s x1) := by
  unfold State.leaveArmed
  with_reducible repeat' (first | assumption | (intro _) | apply kept_ite | apply kept_regBit | (apply kept_upd; assumption) | split)

theorem kept_stopRun (s : State) (x1 : Nat) (x2 : BitVec 8) (x3 : Bool) (h : Kept b s) : Kept b (State.stopRun s x1 x2 x3) := by
  unfold State.stopRun
  with_reducible repeat' (first | assumption | (intro hz; clear_value z) | (intro _) | (extract_lets +onlyGivenNames z; first | (refine kept_cut b z ?_ ?_; dsimp -zeta only [z]; clear z) | clear_value z) | apply kept_ite | apply kept_raiseRun | apply kept_modThread | apply kept_discardTaken | apply kept_silence | apply kept_discardQueue | apply kept_markLow | apply kept_modRun | apply kept_flagShot | apply kept_leaveArmed | apply kept_forEach | (apply kept_upd; assumption) | split)

theorem kept_quietHalf (s : State) (x1 : Nat) (x2 : Nat) (x3 : Nat) (h : Kept b s) : Kept b (State.quietHalf s x1 x2 x3) := by
  unfold State.quietHalf
  with_reducible repeat' (first | assumption | (intro hz; clear_value z) | (intro _) | (extract_lets +onlyGivenNames z; first | (refine kept_cut b z ?_ ?_; dsimp -zeta only [z]; clear z) | clear_value z) | apply kept_ite | apply kept_modQuiet | apply kept_setPair | apply kept_endCal | apply kept_markLow | apply kept_regBit | apply kept_modFlux | apply kept_forEach | (apply kept_upd; assumption) | split)

theorem kept_sendMsix (s : State) (x1 : Nat) (x2 : Nat) (h : Kept b s) : Kept b (State.sendMsix s x1 x2) := by
  unfold State.sendMsix
  with_reducible repeat' (first | assumption | (intro _) | apply kept_ite | apply kept_emit | apply kept_modPort | (apply kept_upd; assumption) | split)

theorem kept_notify (s : State) (x1 : Nat) (h : Kept b s) : Kept b (State.notify s x1) := by
  unfold State.notify
  with_reducible repeat' (first | assumption | (intro hz; clear_value z) | (intro _) | (extract_lets +onlyGivenNames z; first | (refine kept_cut b z ?_ ?_; dsimp -zeta only [z]; clear z) | clear_value z) | apply kept_ite | apply kept_sendMsix | apply kept_forEach | (apply kept_upd; assumption) | split)

theorem kept_notifyAll (s : State) (x1 : List Nat) (x2 : Nat → Bool) (h : Kept b s) : Kept b (State.notifyAll s x1 x2) := by
  unfold State.notifyAll
  with_reducible repeat' (first | assumption | (intro hz; clear_value z) | (intro _) | (extract_lets +onlyGivenNames z; first | (refine kept_cut b z ?_ ?_; dsimp -zeta only [z]; clear z) | clear_value z) | apply kept_ite | apply kept_notify | apply kept_forEach | (apply kept_upd; assumption) | split)

theorem kept_quietIn (s : State) (x1 : Nat) (x2 : Nat) (x3 : Nat) (h : Kept b s) : Kept b (State.quietIn s x1 x2 x3) := by
  unfold State.quietIn
  with_reducible repeat' (first | assumption | (intro hz; clear_value z) | (intro _) | (extract_lets +onlyGivenNames z; first | (refine kept_cut b z ?_ ?_; dsimp -zeta only [z]; clear z) | clear_value z) | apply kept_ite | apply kept_stopRun | apply kept_quietHalf | apply kept_notifyAll | apply kept_forEach | (apply kept_upd; assumption) | split)

theorem kept_enterQuiet (s : State) (x1 : Nat) (x2 : Nat) (x3 : Nat) (h : Kept b s) : Kept b (State.enterQuiet s x1 x2 x3) := by
  unfold State.enterQuiet
  with_reducible repeat' (first | assumption | (intro hz; clear_value z) | (intro _) | (extract_lets +onlyGivenNames z; first | (refine kept_cut b z ?_ ?_; dsimp -zeta only [z]; clear z) | clear_value z) | apply kept_ite | apply kept_modQuiet | apply kept_send | apply kept_quietIn | apply kept_forEach | (apply kept_upd; assumption) | split)

theorem kept_refreshFaultN (s : State) (h : Kept b s) : Kept b (State.refreshFaultN s) := by
  unfold State.refreshFaultN
  with_reducible repeat' (first | assumption | (intro _) | apply kept_ite | (apply kept_upd; assumption) | split)

theorem kept_signalFaultN (s : State) (x1 : Nat) (h : Kept b s) : Kept b (State.signalFaultN s x1) := by
  unfold State.signalFaultN
  with_reducible repeat' (first | assumption | (intro _) | apply kept_ite | apply kept_send | apply kept_refreshFaultN | (apply kept_upd; assumption) | split)

theorem kept_notifyPart (s : State) (x1 : Nat) (x2 : Nat) (h : Kept b s) : Kept b (State.notifyPart s x1 x2) := by
  unfold State.notifyPart
  with_reducible repeat' (first | assumption | (intro hz; clear_value z) | (intro _) | (extract_lets +onlyGivenNames z; first | (refine kept_cut b z ?_ ?_; dsimp -zeta only [z]; clear z) | clear_value z) | apply kept_ite | apply kept_notifyAll | apply kept_forEach | (apply kept_upd; assumption) | split)

theorem kept_psum (s : State) (x1 : Nat) (x2 : Nat) (x3 : Names) (h : Kept b s) : Kept b (State.psum s x1 x2 x3) := by
  unfold State.psum
  with_reducible repeat' (first | assumption | (intro hz; clear_value z) | (intro _) | (extract_lets +onlyGivenNames z; first | (refine kept_cut b z ?_ ?_; dsimp -zeta only [z]; clear z) | clear_value z) | apply kept_ite | apply kept_regBit | apply kept_notifyPart | apply kept_forEach | (apply kept_upd; assumption) | split)

theorem kept_openShadow (s : State) (x1 : Nat) (x2 : Cover) (h : Kept b s) : Kept b (State.openShadow s x1 x2) := by
  unfold State.openShadow
  exact ⟨h.mem, h.regs, h.pending, h.c0, h.c1, h.fuses, h.revoked⟩

theorem kept_react (s : State) (x1 : Nat) (x2 : Nat) (x3 : Nat) (x4 : Names) (h : Kept b s) : Kept b (State.react s x1 x2 x3
    x4) := by
  unfold State.react
  with_reducible repeat' (first | assumption | (intro _) | exact keptR_fault | exact keptO_none | apply keptR_next | apply keptO_some | apply keptR_ite | apply keptO_ite | apply keptO_map | apply kept_ite | apply kept_flagShot | apply kept_finalShot | apply kept_openShadow | apply kept_enterQuiet | apply kept_forEach | (apply kept_upd; assumption) | split)

theorem kept_occur (s : State) (x1 : Nat) (x2 : Nat) (x3 : optParam Names { }) (h : Kept b s) : Kept b (State.occur s x1 x2 x3)
    := by
  unfold State.occur
  with_reducible repeat' (first | assumption | (intro _) | apply kept_ite | apply kept_count | apply kept_regBit | apply kept_refreshFaultN | apply kept_signalFaultN | apply kept_capture | apply kept_notifyPart | apply kept_psum | apply kept_fireProducer | apply kept_openShadow | apply kept_react | (apply kept_upd; assumption) | split)

theorem kept_fire (s : State) (x1 : Nat) (x2 : Nat) (x3 : Nat) (h : Kept b s) : Kept b (State.fire s x1 x2 x3) := by
  unfold State.fire
  with_reducible repeat' (first | assumption | (intro _) | apply kept_ite | apply kept_occur | apply kept_count | apply kept_fireRaw | (apply kept_upd; assumption) | split)

theorem kept_fireGen (s : State) (x1 : Nat) (x2 : Nat) (x3 : Nat) (x4 : Nat) (h : Kept b s) : Kept b (State.fireGen s x1 x2 x3
    x4) := by
  unfold State.fireGen
  with_reducible repeat' (first | assumption | (intro hz; clear_value z) | (intro _) | (extract_lets +onlyGivenNames z; first | (refine kept_cut b z ?_ ?_; dsimp -zeta only [z]; clear z) | clear_value z) | apply kept_ite | apply kept_fire | apply kept_fireProducer | apply kept_forEach | (apply kept_upd; assumption) | split)

theorem kept_loseRecord (s : State) (x1 : Nat) (x2 : Nat) (x3 : Option Nat) (h : Kept b s) : Kept b (State.loseRecord s x1 x2
    x3) := by
  unfold State.loseRecord
  with_reducible repeat' (first | assumption | (intro _) | apply kept_ite | apply kept_modRing | apply kept_countLost | (apply kept_upd; assumption) | split)

theorem kept_formRecord (s : State) (x1 : Nat) (x2 : Nat) (x3 : Option Nat) (x4 : Bool) (x5 : List Byte) (h : Kept b s) : Kept
    b (State.formRecord s x1 x2 x3 x4 x5) := by
  unfold State.formRecord
  with_reducible repeat' (first | assumption | (intro _) | apply kept_ite | apply kept_countLost | apply kept_loseRecord | apply kept_occur | apply kept_modRun | (apply kept_upd; assumption) | split)

theorem kept_settleMsix (s : State) (x1 : Nat) (h : Kept b s) : Kept b (State.settleMsix s x1) := by
  unfold State.settleMsix
  with_reducible repeat' (first | assumption | (intro hz; clear_value z) | (intro _) | (extract_lets +onlyGivenNames z; first | (refine kept_cut b z ?_ ?_; dsimp -zeta only [z]; clear z) | clear_value z) | apply kept_ite | apply kept_sendMsix | apply kept_modPort | apply kept_forEach | (apply kept_upd; assumption) | split)

theorem kept_strandRecord (s : State) (x1 : Nat) (x2 : Nat) (x3 : Option Nat) (x4 : List Byte) (h : Kept b s) : Kept b
    (State.strandRecord s x1 x2 x3 x4) := by
  unfold State.strandRecord
  with_reducible repeat' (first | assumption | (intro _) | apply kept_ite | apply kept_loseRecord | apply kept_modRun | (apply kept_upd; assumption) | split)

theorem kept_discardCmd (s : State) (x1 : Nat) (x2 : Cmd) (h : Kept b s) : Kept b (State.discardCmd s x1 x2) := by
  unfold State.discardCmd
  with_reducible repeat' (first | assumption | (intro _) | apply kept_ite | apply kept_count | apply kept_modRun | (apply kept_upd; assumption) | split)

theorem kept_lateCmd (s : State) (x1 : Nat) (x2 : Cmd) (h : Kept b s) : Kept b (State.lateCmd s x1 x2) := by
  unfold State.lateCmd
  with_reducible repeat' (first | assumption | (intro _) | apply kept_ite | apply kept_count | apply kept_setPair | apply kept_setReg | apply kept_modShot | apply kept_raiseRun | apply kept_fireProducer | apply kept_occur | (apply kept_upd; assumption) | split)

theorem kept_pushOne (s : State) (x1 : Nat) (x2 : Cmd) (h : Kept b s) : Kept b (State.pushOne s x1 x2) := by
  unfold State.pushOne
  with_reducible repeat' (first | assumption | (intro _) | apply kept_ite | apply kept_discardCmd | apply kept_lateCmd | apply kept_modQueue | (apply kept_upd; assumption) | split)

theorem kept_completePush (s : State) (x1 : Nat) (x2 : Push) (h : Kept b s) : Kept b (State.completePush s x1 x2) := by
  unfold State.completePush
  with_reducible repeat' (first | assumption | (intro hz; clear_value z) | (intro _) | (extract_lets +onlyGivenNames z; first | (refine kept_cut b z ?_ ?_; dsimp -zeta only [z]; clear z) | clear_value z) | apply kept_ite | apply kept_pushOne | apply kept_modThread | apply kept_forEach | (apply kept_upd; assumption) | split)

theorem kept_goto (s : State) (x1 : Nat) (x2 : Nat) (h : Kept b s) : Kept b (State.goto s x1 x2) := by
  unfold State.goto
  exact ⟨h.mem, h.regs, h.pending, h.c0, h.c1, h.fuses, h.revoked⟩

theorem kept_issued (s : State) (x1 : Nat) (h : Kept b s) : Kept b (State.issued s x1) := by
  unfold State.issued
  with_reducible repeat' (first | assumption | (intro hz; clear_value z) | (intro _) | (extract_lets +onlyGivenNames z; first | (refine kept_cut b z ?_ ?_; dsimp -zeta only [z]; clear z) | clear_value z) | apply kept_ite | apply kept_modThread | apply kept_forEach | (apply kept_upd; assumption) | split)

theorem kept_threadFault (s : State) (x1 : Nat) (x2 : TFault) (h : Kept b s) : Kept b (State.threadFault s x1 x2) := by
  unfold State.threadFault
  with_reducible repeat' (first | assumption | (intro _) | apply kept_ite | apply kept_modThread | apply kept_raiseRun | apply kept_occur | (apply kept_upd; assumption) | split)

theorem kept_issue (s : State) (x1 : Nat) (x2 : Ecc) (x3 : Nat) (x4 : State → BitVec 64 → State) (hx4 : ∀ s y1, Kept b s → Kept
    b (x4 s y1)) (h : Kept b s) : Kept b (State.issue s x1 x2 x3 x4) := by
  unfold State.issue
  with_reducible repeat' (first | assumption | (intro _) | apply kept_ite | apply kept_issued | apply kept_threadFault | apply hx4 | (apply kept_upd; assumption) | split)

theorem kept_next (s : State) (x1 : Nat) (h : Kept b s) : Kept b (State.next s x1) := by
  unfold State.next
  exact ⟨h.mem, h.regs, h.pending, h.c0, h.c1, h.fuses, h.revoked⟩

theorem kept_prioritise (s : State) (x1 : Nat) (h : Kept b s) : Kept b (State.prioritise s x1) := by
  unfold State.prioritise
  exact ⟨h.mem, h.regs, h.pending, h.c0, h.c1, h.fuses, h.revoked⟩

theorem kept_pushOrdered (s : State) (x1 : Nat) (x2 : Push) (h : Kept b s) : Kept b (State.pushOrdered s x1 x2) := by
  unfold State.pushOrdered
  with_reducible repeat' (first | assumption | (intro hz; clear_value z) | (intro _) | (extract_lets +onlyGivenNames z; first | (refine kept_cut b z ?_ ?_; dsimp -zeta only [z]; clear z) | clear_value z) | apply kept_ite | apply kept_threadFault | apply kept_modQueue | apply kept_modThread | apply kept_count | apply kept_completePush | apply kept_forEach | (apply kept_upd; assumption) | split)

theorem kept_ranged (s : State) (x1 : Nat) (x2 : Bool) (x3 : State → State) (hx3 : ∀ s, Kept b s → Kept b (x3 s)) (h : Kept b
    s) : Kept b (State.ranged s x1 x2 x3) := by
  unfold State.ranged
  with_reducible repeat' (first | assumption | (intro _) | apply kept_ite | apply kept_threadFault | apply hx3 | (apply kept_upd; assumption) | split)

theorem kept_startPush (s : State) (x1 : Nat) (x2 : Push) (h : Kept b s) : Kept b (State.startPush s x1 x2) := by
  unfold State.startPush
  with_reducible repeat' (first | assumption | (intro _) | apply kept_ite | apply kept_threadFault | apply kept_modThread | apply kept_pushOrdered | (apply kept_upd; assumption) | split)

theorem kept_timed (s : State) (x1 : Nat) (x2 : List (Bool × TFault)) (x3 : Push) (h : Kept b s) : Kept b (State.timed s x1 x2
    x3) := by
  unfold State.timed
  with_reducible repeat' (first | assumption | (intro _) | apply kept_ite | apply kept_threadFault | apply kept_startPush | (apply kept_upd; assumption) | split)

theorem kept_ntAdd (s : State) (x1 : Nat) (x2 : Int) (h : Kept b s) : Kept b (State.ntAdd s x1 x2) := by
  unfold State.ntAdd
  exact ⟨h.mem, h.regs, h.pending, h.c0, h.c1, h.fuses, h.revoked⟩

theorem kept_oscCmd (s : State) (x1 : Nat) (x2 : BitVec 64) (x3 : Bool) (x4 : Bool) (x5 : Act) (h : Kept b s) : Kept b
    (State.oscCmd s x1 x2 x3 x4 x5) := by
  unfold State.oscCmd
  with_reducible repeat' (first | assumption | (intro _) | apply kept_ite | apply kept_timed | (apply kept_upd; assumption) | split)

theorem kept_addph (s : State) (x1 : Nat) (x2 : BitVec 64) (h : Kept b s) : Kept b (State.addph s x1 x2) := by
  unfold State.addph
  with_reducible repeat' (first | assumption | (intro _) | apply kept_ite | apply kept_oscCmd | (apply kept_upd; assumption) | split)

theorem kept_dropReads (s : State) (x1 : Nat) (h : Kept b s) : Kept b (State.dropReads s x1) := by
  unfold State.dropReads
  exact ⟨h.mem, h.regs, h.pending, h.c0, h.c1, h.fuses, h.revoked⟩

theorem kept_fireFrom (s : State) (x1 : Nat) (x2 : Nat) (x3 : Nat) (h : Kept b s) : Kept b (State.fireFrom s x1 x2 x3) := by
  unfold State.fireFrom
  with_reducible repeat' (first | assumption | (intro _) | apply kept_ite | apply kept_fire | apply kept_occur | apply kept_count | apply kept_send | (apply kept_upd; assumption) | split)

theorem kept_fluxCmd (s : State) (x1 : Nat) (x2 : Ecc) (x3 : BitVec 64) (h : Kept b s) : Kept b (State.fluxCmd s x1 x2 x3) := by
  unfold State.fluxCmd
  with_reducible repeat' (first | assumption | (intro _) | apply kept_ite | apply kept_timed | (apply kept_upd; assumption) | split)

theorem kept_markCmd (s : State) (x1 : Nat) (x2 : BitVec 64) (h : Kept b s) : Kept b (State.markCmd s x1 x2) := by
  unfold State.markCmd
  with_reducible repeat' (first | assumption | (intro _) | apply kept_ite | apply kept_threadFault | apply kept_timed | (apply kept_upd; assumption) | split)

theorem kept_tableRead (s : State) (x1 : Nat) (x2 : Bool) (x3 : Ecc) (h : Kept b s) : Kept b (State.tableRead s x1 x2 x3) := by
  unfold State.tableRead
  with_reducible repeat' (first | assumption | (intro _) | apply kept_ite | apply kept_count | (apply kept_upd; assumption) | split)

theorem kept_meas (s : State) (x1 : Nat) (x2 : Ecc) (x3 : BitVec 64) (h : Kept b s) : Kept b (State.meas s x1 x2 x3) := by
  unfold State.meas
  with_reducible repeat' (first | assumption | (intro _) | apply kept_ite | apply kept_timed | apply kept_tableRead | (apply kept_upd; assumption) | split)

theorem kept_play (s : State) (x1 : Nat) (x2 : Ecc) (x3 : BitVec 64) (h : Kept b s) : Kept b (State.play s x1 x2 x3) := by
  unfold State.play
  with_reducible repeat' (first | assumption | (intro _) | apply kept_ite | apply kept_timed | apply kept_tableRead | (apply kept_upd; assumption) | split)

theorem kept_plays (s : State) (x1 : Nat) (x2 : BitVec 64) (h : Kept b s) : Kept b (State.plays s x1 x2) := by
  unfold State.plays
  with_reducible repeat' (first | assumption | (intro _) | apply kept_ite | apply kept_timed | (apply kept_upd; assumption) | split)

theorem kept_rstph (s : State) (x1 : Nat) (x2 : BitVec 64) (h : Kept b s) : Kept b (State.rstph s x1 x2) := by
  unfold State.rstph
  with_reducible repeat' (first | assumption | (intro _) | apply kept_ite | apply kept_oscCmd | (apply kept_upd; assumption) | split)

theorem kept_setf (s : State) (x1 : Nat) (x2 : BitVec 64) (h : Kept b s) : Kept b (State.setf s x1 x2) := by
  unfold State.setf
  with_reducible repeat' (first | assumption | (intro _) | apply kept_ite | apply kept_oscCmd | (apply kept_upd; assumption) | split)

theorem kept_setph (s : State) (x1 : Nat) (x2 : BitVec 64) (h : Kept b s) : Kept b (State.setph s x1 x2) := by
  unfold State.setph
  with_reducible repeat' (first | assumption | (intro _) | apply kept_ite | apply kept_oscCmd | (apply kept_upd; assumption) | split)

theorem kept_signal (s : State) (x1 : Nat) (x2 : BitVec 64) (h : Kept b s) : Kept b (State.signal s x1 x2) := by
  unfold State.signal
  with_reducible repeat' (first | assumption | (intro _) | apply kept_ite | apply kept_threadFault | apply kept_timed | apply kept_fireFrom | apply kept_next | (apply kept_upd; assumption) | split)

theorem kept_strmCmd (s : State) (x1 : Nat) (x2 : BitVec 64) (h : Kept b s) : Kept b (State.strmCmd s x1 x2) := by
  unfold State.strmCmd
  with_reducible repeat' (first | assumption | (intro hz; clear_value z) | (intro _) | (extract_lets +onlyGivenNames z; first | (refine kept_cut b z ?_ ?_; dsimp -zeta only [z]; clear z) | clear_value z) | apply kept_ite | apply kept_threadFault | apply kept_dropReads | apply kept_next | apply kept_setStream | apply kept_modThread | apply kept_forEach | (apply kept_upd; assumption) | split)

theorem kept_strmGo (s : State) (x1 : Nat) (h : Kept b s) : Kept b (State.strmGo s x1) := by
  unfold State.strmGo
  with_reducible repeat' (first | assumption | (intro hz; clear_value z) | (intro _) | (extract_lets +onlyGivenNames z; first | (refine kept_cut b z ?_ ?_; dsimp -zeta only [z]; clear z) | clear_value z) | apply kept_ite | apply kept_modThread | apply kept_setStream | apply kept_forEach | (apply kept_upd; assumption) | split)

theorem kept_defaultWait (s : State) (x1 : Nat) (x2 : Wait) (h : Kept b s) : Kept b (State.defaultWait s x1 x2) := by
  unfold State.defaultWait
  with_reducible repeat' (first | assumption | (intro _) | apply kept_ite | apply kept_prioritise | apply kept_modThread | apply kept_count | apply kept_modShot | apply kept_occur | (apply kept_upd; assumption) | split)

theorem kept_satisfyWait (s : State) (x1 : Nat) (x2 : Wait) (x3 : Token) (h : Kept b s) : Kept b (State.satisfyWait s x1 x2 x3)
    := by
  unfold State.satisfyWait
  exact ⟨h.mem, h.regs, h.pending, h.c0, h.c1, h.fuses, h.revoked⟩

theorem kept_lateToken (s : State) (x1 : Nat) (h : Kept b s) : Kept b (State.lateToken s x1) := by
  unfold State.lateToken
  with_reducible repeat' (first | assumption | (intro _) | apply kept_ite | apply kept_flagShot | apply kept_count | apply kept_occur | (apply kept_upd; assumption) | split)

theorem kept_drainInbox (x1 : Nat) (x2 : Wait) (x3 : List Token) : ∀ (s : State), Kept b s → Kept b (State.drainInbox s x1 x2
    x3).1 := by
  induction x3 with
  | nil => exact fun s h => kept_modThread s _ _ h
  | cons k ks ih =>
    intro s h
    unfold State.drainInbox
    split
    · exact kept_satisfyWait _ _ _ _ (kept_modThread s _ _ h)
    · exact ih s h
    · have k := kept_lateToken s x1 h
      exact kept_ite1 k (ih _ k)

theorem kept_dueDefault (s : State) (x1 : Nat) (h : Kept b s) : Kept b (State.dueDefault s x1) := by
  unfold State.dueDefault
  with_reducible repeat' (first | assumption | (intro _) | apply kept_ite | apply kept_defaultWait | (apply kept_upd; assumption) | split)

theorem kept_inboxPut (s : State) (x1 : Nat) (x2 : Nat) (x3 : Token) (h : Kept b s) : Kept b (State.inboxPut s x1 x2 x3) := by
  unfold State.inboxPut
  with_reducible repeat' (first | assumption | (intro _) | apply kept_ite | apply kept_modThread | apply kept_count | apply kept_occur | (apply kept_upd; assumption) | split)

theorem kept_startWait (s : State) (x1 : Nat) (x2 : Wait) (h : Kept b s) : Kept b (State.startWait s x1 x2) := by
  unfold State.startWait
  with_reducible repeat' (first | assumption | (intro hz; clear_value z) | (intro _) | (extract_lets +onlyGivenNames z; first | (refine kept_cut b z ?_ ?_; dsimp -zeta only [z]; clear z) | (refine kept_cut1 b z ?_ ?_; dsimp -zeta only [z]; clear z) | (refine kept_cut2 b z ?_ ?_; dsimp -zeta only [z]; clear z) | (refine isFun z ?_; dsimp -zeta only [z]; clear z) | clear_value z) | exact keptR_fault | exact keptO_none | apply keptR_next | apply keptO_some | apply keptR_ite | apply keptO_ite | apply keptO_map | apply keptO_getD | apply kept_ite | apply kept_drainInbox | apply kept_defaultWait | apply kept_modThread | apply kept_forEach | (apply kept_upd; assumption) | (apply kept_of_some; assumption) | (apply kept_of_pair; assumption) | dsimp -zeta only | split)

theorem kept_tokenToThread (s : State) (x1 : Nat) (x2 : Nat) (x3 : Token) (h : Kept b s) : Kept b (State.tokenToThread s x1 x2
    x3) := by
  unfold State.tokenToThread
  with_reducible repeat' (first | assumption | (intro _) | apply kept_ite | apply kept_dueDefault | apply kept_satisfyWait | apply kept_lateToken | apply kept_inboxPut | (apply kept_upd; assumption) | split)

theorem kept_arith (s : State) (x1 : Nat) (x2 : BitVec 64) (x3 : Bool) (x4 : Bool) (x5 : Word → Word → Alu) (h : Kept b s) :
    Kept b (State.arith s x1 x2 x3 x4 x5) := by
  unfold State.arith
  with_reducible repeat' (first | assumption | (intro _) | apply kept_ite | apply kept_ranged | apply kept_modThread | (apply kept_upd; assumption) | split)

theorem kept_endWaitev (s : State) (x1 : Nat) (x2 : EvWait) (x3 : Bool) (x4 : Nat) (x5 : Option Nat) (h : Kept b s) : Kept b
    (State.endWaitev s x1 x2 x3 x4 x5) := by
  unfold State.endWaitev
  exact ⟨h.mem, h.regs, h.pending, h.c0, h.c1, h.fuses, h.revoked⟩

theorem kept_evTimeout (s : State) (x1 : Nat) (h : Kept b s) : Kept b (State.evTimeout s x1) := by
  unfold State.evTimeout
  with_reducible repeat' (first | assumption | (intro _) | apply kept_ite | apply kept_endWaitev | (apply kept_upd; assumption) | split)

theorem kept_firingAt (s : State) (x1 : Nat) (x2 : Nat) (x3 : Nat) (h : Kept b s) : Kept b (State.firingAt s x1 x2 x3) := by
  unfold State.firingAt
  with_reducible repeat' (first | assumption | (intro _) | apply kept_ite | apply kept_endWaitev | (apply kept_upd; assumption) | split)

theorem kept_observeFiring (s : State) (x1 : Nat) (x2 : Fire) (h : Kept b s) : Kept b (State.observeFiring s x1 x2) := by
  unfold State.observeFiring
  with_reducible repeat' (first | assumption | (intro hz; clear_value z) | (intro _) | (extract_lets +onlyGivenNames z; first | (refine kept_cut b z ?_ ?_; dsimp -zeta only [z]; clear z) | clear_value z) | apply kept_ite | apply kept_observe | apply kept_firingAt | apply kept_forEach | (apply kept_upd; assumption) | split)

theorem kept_execBarrierComplete (x0 : BarIx) (s : State) (h : Kept b s) : KeptR b (execBarrierComplete x0 s) := by
  unfold execBarrierComplete
  with_reducible repeat' (first | assumption | (intro _) | exact keptR_fault | exact keptO_none | apply keptR_next | apply keptO_some | apply keptR_ite | apply keptO_ite | apply keptO_map | apply kept_ite | apply kept_modBarrier | apply kept_prioritise | apply kept_modThread | apply kept_forEach | (apply kept_upd; assumption) | split)

theorem kept_execQueueRoomResume (x0 : ThrIx) (s : State) (h : Kept b s) : KeptR b (execQueueRoomResume x0 s) := by
  unfold execQueueRoomResume
  with_reducible repeat' (first | assumption | (intro _) | exact keptR_fault | exact keptO_none | apply keptR_next | apply keptO_some | apply keptR_ite | apply keptO_ite | apply keptO_map | apply kept_ite | apply kept_completePush | apply kept_forEach | (apply kept_upd; assumption) | split)

theorem kept_execRunAheadResume (x0 : ThrIx) (s : State) (h : Kept b s) : KeptR b (execRunAheadResume x0 s) := by
  unfold execRunAheadResume
  with_reducible repeat' (first | assumption | (intro _) | exact keptR_fault | exact keptO_none | apply keptR_next | apply keptO_some | apply keptR_ite | apply keptO_ite | apply keptO_map | apply kept_ite | apply kept_pushOrdered | apply kept_modThread | apply kept_forEach | (apply kept_upd; assumption) | split)

theorem kept_execStrmReady (x0 : ThrIx) (s : State) (h : Kept b s) : KeptR b (execStrmReady x0 s) := by
  unfold execStrmReady
  with_reducible repeat' (first | assumption | (intro _) | exact keptR_fault | exact keptO_none | apply keptR_next | apply keptO_some | apply keptR_ite | apply keptO_ite | apply keptO_map | apply kept_ite | apply kept_strmGo | apply kept_forEach | (apply kept_upd; assumption) | split)

theorem kept_execTAdd (x0 : ThrIx) (x1 : Ecc) (s : State) (h : Kept b s) : KeptR b (execTAdd x0 x1 s) := by
  unfold execTAdd
  with_reducible repeat' (first | assumption | (intro _) | exact keptR_fault | exact keptO_none | apply keptR_next | apply keptO_some | apply keptR_ite | apply keptO_ite | apply keptO_map | apply kept_ite | apply kept_issue | apply kept_arith | apply kept_forEach | (apply kept_upd; assumption) | split)

theorem kept_execTAddph (x0 : ThrIx) (x1 : Ecc) (s : State) (h : Kept b s) : KeptR b (execTAddph x0 x1 s) := by
  unfold execTAddph
  with_reducible repeat' (first | assumption | (intro _) | exact keptR_fault | exact keptO_none | apply keptR_next | apply keptO_some | apply keptR_ite | apply keptO_ite | apply keptO_map | apply kept_ite | apply kept_issue | apply kept_addph | apply kept_forEach | (apply kept_upd; assumption) | split)

theorem kept_execTAnd (x0 : ThrIx) (x1 : Ecc) (s : State) (h : Kept b s) : KeptR b (execTAnd x0 x1 s) := by
  unfold execTAnd
  with_reducible repeat' (first | assumption | (intro _) | exact keptR_fault | exact keptO_none | apply keptR_next | apply keptO_some | apply keptR_ite | apply keptO_ite | apply keptO_map | apply kept_ite | apply kept_issue | apply kept_arith | apply kept_forEach | (apply kept_upd; assumption) | split)

theorem kept_execTBcc (x0 : ThrIx) (x1 : Ecc) (s : State) (h : Kept b s) : KeptR b (execTBcc x0 x1 s) := by
  unfold execTBcc
  with_reducible repeat' (first | assumption | (intro _) | exact keptR_fault | exact keptO_none | apply keptR_next | apply keptO_some | apply keptR_ite | apply keptO_ite | apply keptO_map | apply kept_ite | apply kept_issue | apply kept_ranged | apply kept_goto | apply kept_next | apply kept_forEach | (apply kept_upd; assumption) | split)

theorem kept_execTBev (x0 : ThrIx) (x1 : Ecc) (s : State) (h : Kept b s) : KeptR b (execTBev x0 x1 s) := by
  unfold execTBev
  with_reducible repeat' (first | assumption | (intro hz; clear_value z) | (intro _) | (extract_lets +onlyGivenNames z; first | (refine kept_cut b z ?_ ?_; dsimp -zeta only [z]; clear z) | (refine kept_cut1 b z ?_ ?_; dsimp -zeta only [z]; clear z) | (refine kept_cut2 b z ?_ ?_; dsimp -zeta only [z]; clear z) | (refine isFun z ?_; dsimp -zeta only [z]; clear z) | clear_value z) | exact keptR_fault | exact keptO_none | apply keptR_next | apply keptO_some | apply keptR_ite | apply keptO_ite | apply keptO_map | apply keptO_getD | apply kept_ite | apply kept_issue | apply kept_threadFault | apply kept_goto | apply kept_next | apply kept_forEach | (apply kept_upd; assumption) | (apply kept_of_some; assumption) | (apply kept_of_pair; assumption) | dsimp -zeta only | split)

theorem kept_execTBr (x0 : ThrIx) (x1 : Ecc) (s : State) (h : Kept b s) : KeptR b (execTBr x0 x1 s) := by
  unfold execTBr
  with_reducible repeat' (first | assumption | (intro _) | exact keptR_fault | exact keptO_none | apply keptR_next | apply keptO_some | apply keptR_ite | apply keptO_ite | apply keptO_map | apply kept_ite | apply kept_issue | apply kept_ranged | apply kept_goto | apply kept_forEach | (apply kept_upd; assumption) | split)

theorem kept_execTBtk (x0 : ThrIx) (x1 : Ecc) (s : State) (h : Kept b s) : KeptR b (execTBtk x0 x1 s) := by
  unfold execTBtk
  with_reducible repeat' (first | assumption | (intro _) | exact keptR_fault | exact keptO_none | apply keptR_next | apply keptO_some | apply keptR_ite | apply keptO_ite | apply keptO_map | apply kept_ite | apply kept_issue | apply kept_ranged | apply kept_goto | apply kept_next | apply kept_forEach | (apply kept_upd; assumption) | split)

theorem kept_execTCall (x0 : ThrIx) (x1 : Ecc) (s : State) (h : Kept b s) : KeptR b (execTCall x0 x1 s) := by
  unfold execTCall
  with_reducible repeat' (first | assumption | (intro _) | exact keptR_fault | exact keptO_none | apply keptR_next | apply keptO_some | apply keptR_ite | apply keptO_ite | apply keptO_map | apply kept_ite | apply kept_issue | apply kept_ranged | apply kept_modThread | apply kept_forEach | (apply kept_upd; assumption) | split)

theorem kept_execTCmp (x0 : ThrIx) (x1 : Ecc) (s : State) (h : Kept b s) : KeptR b (execTCmp x0 x1 s) := by
  unfold execTCmp
  with_reducible repeat' (first | assumption | (intro _) | exact keptR_fault | exact keptO_none | apply keptR_next | apply keptO_some | apply keptR_ite | apply keptO_ite | apply keptO_map | apply kept_ite | apply kept_issue | apply kept_arith | apply kept_forEach | (apply kept_upd; assumption) | split)

theorem kept_execTEnd (x0 : ThrIx) (x1 : Ecc) (s : State) (h : Kept b s) : KeptR b (execTEnd x0 x1 s) := by
  unfold execTEnd
  with_reducible repeat' (first | assumption | (intro _) | exact keptR_fault | exact keptO_none | apply keptR_next | apply keptO_some | apply keptR_ite | apply keptO_ite | apply keptO_map | apply kept_ite | apply kept_issue | apply kept_ranged | apply kept_modThread | apply kept_forEach | (apply kept_upd; assumption) | split)

theorem kept_execTEndl (x0 : ThrIx) (x1 : Ecc) (s : State) (h : Kept b s) : KeptR b (execTEndl x0 x1 s) := by
  unfold execTEndl
  with_reducible repeat' (first | assumption | (intro _) | exact keptR_fault | exact keptO_none | apply keptR_next | apply keptO_some | apply keptR_ite | apply keptO_ite | apply keptO_map | apply kept_ite | apply kept_issue | apply kept_ranged | apply kept_modThread | apply kept_forEach | (apply kept_upd; assumption) | split)

theorem kept_execTFlux (x0 : ThrIx) (x1 : Ecc) (x2 : Ecc) (s : State) (h : Kept b s) : KeptR b (execTFlux x0 x1 x2 s) := by
  unfold execTFlux
  with_reducible repeat' (first | assumption | (intro _) | exact keptR_fault | exact keptO_none | apply keptR_next | apply keptO_some | apply keptR_ite | apply keptO_ite | apply keptO_map | apply kept_ite | apply kept_issue | apply kept_fluxCmd | apply kept_forEach | (apply kept_upd; assumption) | split)

theorem kept_execTHalt (x0 : ThrIx) (x1 : Ecc) (s : State) (h : Kept b s) : KeptR b (execTHalt x0 x1 s) := by
  unfold execTHalt
  with_reducible repeat' (first | assumption | (intro _) | exact keptR_fault | exact keptO_none | apply keptR_next | apply keptO_some | apply keptR_ite | apply keptO_ite | apply keptO_map | apply kept_ite | apply kept_issue | apply kept_ranged | apply kept_finalShot | apply kept_modThread | apply kept_forEach | (apply kept_upd; assumption) | split)

theorem kept_execTLdi (x0 : ThrIx) (x1 : Ecc) (s : State) (h : Kept b s) : KeptR b (execTLdi x0 x1 s) := by
  unfold execTLdi
  with_reducible repeat' (first | assumption | (intro _) | exact keptR_fault | exact keptO_none | apply keptR_next | apply keptO_some | apply keptR_ite | apply keptO_ite | apply keptO_map | apply kept_ite | apply kept_issue | apply kept_ranged | apply kept_modThread | apply kept_forEach | (apply kept_upd; assumption) | split)

theorem kept_execTLoop (x0 : ThrIx) (x1 : Ecc) (s : State) (h : Kept b s) : KeptR b (execTLoop x0 x1 s) := by
  unfold execTLoop
  with_reducible repeat' (first | assumption | (intro _) | exact keptR_fault | exact keptO_none | apply keptR_next | apply keptO_some | apply keptR_ite | apply keptO_ite | apply keptO_map | apply kept_ite | apply kept_issue | apply kept_ranged | apply kept_goto | apply kept_modThread | apply kept_forEach | (apply kept_upd; assumption) | split)

theorem kept_execTMark (x0 : ThrIx) (x1 : Ecc) (s : State) (h : Kept b s) : KeptR b (execTMark x0 x1 s) := by
  unfold execTMark
  with_reducible repeat' (first | assumption | (intro _) | exact keptR_fault | exact keptO_none | apply keptR_next | apply keptO_some | apply keptR_ite | apply keptO_ite | apply keptO_map | apply kept_ite | apply kept_issue | apply kept_markCmd | apply kept_forEach | (apply kept_upd; assumption) | split)

theorem kept_execTMeas (x0 : ThrIx) (x1 : Ecc) (x2 : Ecc) (s : State) (h : Kept b s) : KeptR b (execTMeas x0 x1 x2 s) := by
  unfold execTMeas
  with_reducible repeat' (first | assumption | (intro _) | exact keptR_fault | exact keptO_none | apply keptR_next | apply keptO_some | apply keptR_ite | apply keptO_ite | apply keptO_map | apply kept_ite | apply kept_issue | apply kept_meas | apply kept_forEach | (apply kept_upd; assumption) | split)

theorem kept_execTMov (x0 : ThrIx) (x1 : Ecc) (s : State) (h : Kept b s) : KeptR b (execTMov x0 x1 s) := by
  unfold execTMov
  with_reducible repeat' (first | assumption | (intro _) | exact keptR_fault | exact keptO_none | apply keptR_next | apply keptO_some | apply keptR_ite | apply keptO_ite | apply keptO_map | apply kept_ite | apply kept_issue | apply kept_threadFault | apply kept_ranged | apply kept_modThread | apply kept_forEach | (apply kept_upd; assumption) | split)

theorem kept_execTNop (x0 : ThrIx) (x1 : Ecc) (s : State) (h : Kept b s) : KeptR b (execTNop x0 x1 s) := by
  unfold execTNop
  with_reducible repeat' (first | assumption | (intro _) | exact keptR_fault | exact keptO_none | apply keptR_next | apply keptO_some | apply keptR_ite | apply keptO_ite | apply keptO_map | apply kept_ite | apply kept_issue | apply kept_ranged | apply kept_next | apply kept_forEach | (apply kept_upd; assumption) | split)

theorem kept_execTOr (x0 : ThrIx) (x1 : Ecc) (s : State) (h : Kept b s) : KeptR b (execTOr x0 x1 s) := by
  unfold execTOr
  with_reducible repeat' (first | assumption | (intro _) | exact keptR_fault | exact keptO_none | apply keptR_next | apply keptO_some | apply keptR_ite | apply keptO_ite | apply keptO_map | apply kept_ite | apply kept_issue | apply kept_arith | apply kept_forEach | (apply kept_upd; assumption) | split)

theorem kept_execTPlay (x0 : ThrIx) (x1 : Ecc) (x2 : Ecc) (s : State) (h : Kept b s) : KeptR b (execTPlay x0 x1 x2 s) := by
  unfold execTPlay
  with_reducible repeat' (first | assumption | (intro _) | exact keptR_fault | exact keptO_none | apply keptR_next | apply keptO_some | apply keptR_ite | apply keptO_ite | apply keptO_map | apply kept_ite | apply kept_issue | apply kept_play | apply kept_forEach | (apply kept_upd; assumption) | split)

theorem kept_execTPlays (x0 : ThrIx) (x1 : Ecc) (s : State) (h : Kept b s) : KeptR b (execTPlays x0 x1 s) := by
  unfold execTPlays
  with_reducible repeat' (first | assumption | (intro _) | exact keptR_fault | exact keptO_none | apply keptR_next | apply keptO_some | apply keptR_ite | apply keptO_ite | apply keptO_map | apply kept_ite | apply kept_issue | apply kept_plays | apply kept_forEach | (apply kept_upd; assumption) | split)

theorem kept_execTRec (x0 : ThrIx) (x1 : Ecc) (s : State) (h : Kept b s) : KeptR b (execTRec x0 x1 s) := by
  unfold execTRec
  with_reducible repeat' (first | assumption | (intro _) | exact keptR_fault | exact keptO_none | apply keptR_next | apply keptO_some | apply keptR_ite | apply keptO_ite | apply keptO_map | apply kept_ite | apply kept_issue | apply kept_ranged | apply kept_formRecord | apply kept_next | apply kept_forEach | (apply kept_upd; assumption) | split)

theorem kept_execTRet (x0 : ThrIx) (x1 : Ecc) (s : State) (h : Kept b s) : KeptR b (execTRet x0 x1 s) := by
  unfold execTRet
  with_reducible repeat' (first | assumption | (intro _) | exact keptR_fault | exact keptO_none | apply keptR_next | apply keptO_some | apply keptR_ite | apply keptO_ite | apply keptO_map | apply kept_ite | apply kept_issue | apply kept_ranged | apply kept_modThread | apply kept_forEach | (apply kept_upd; assumption) | split)

theorem kept_execTRstph (x0 : ThrIx) (x1 : Ecc) (s : State) (h : Kept b s) : KeptR b (execTRstph x0 x1 s) := by
  unfold execTRstph
  with_reducible repeat' (first | assumption | (intro _) | exact keptR_fault | exact keptO_none | apply keptR_next | apply keptO_some | apply keptR_ite | apply keptO_ite | apply keptO_map | apply kept_ite | apply kept_issue | apply kept_rstph | apply kept_forEach | (apply kept_upd; assumption) | split)

theorem kept_execTSetf (x0 : ThrIx) (x1 : Ecc) (s : State) (h : Kept b s) : KeptR b (execTSetf x0 x1 s) := by
  unfold execTSetf
  with_reducible repeat' (first | assumption | (intro _) | exact keptR_fault | exact keptO_none | apply keptR_next | apply keptO_some | apply keptR_ite | apply keptO_ite | apply keptO_map | apply kept_ite | apply kept_issue | apply kept_setf | apply kept_forEach | (apply kept_upd; assumption) | split)

theorem kept_execTSetph (x0 : ThrIx) (x1 : Ecc) (s : State) (h : Kept b s) : KeptR b (execTSetph x0 x1 s) := by
  unfold execTSetph
  with_reducible repeat' (first | assumption | (intro _) | exact keptR_fault | exact keptO_none | apply keptR_next | apply keptO_some | apply keptR_ite | apply keptO_ite | apply keptO_map | apply kept_ite | apply kept_issue | apply kept_setph | apply kept_forEach | (apply kept_upd; assumption) | split)

theorem kept_execTShl (x0 : ThrIx) (x1 : Ecc) (s : State) (h : Kept b s) : KeptR b (execTShl x0 x1 s) := by
  unfold execTShl
  with_reducible repeat' (first | assumption | (intro _) | exact keptR_fault | exact keptO_none | apply keptR_next | apply keptO_some | apply keptR_ite | apply keptO_ite | apply keptO_map | apply kept_ite | apply kept_issue | apply kept_arith | apply kept_forEach | (apply kept_upd; assumption) | split)

theorem kept_execTShr (x0 : ThrIx) (x1 : Ecc) (s : State) (h : Kept b s) : KeptR b (execTShr x0 x1 s) := by
  unfold execTShr
  with_reducible repeat' (first | assumption | (intro _) | exact keptR_fault | exact keptO_none | apply keptR_next | apply keptO_some | apply keptR_ite | apply keptO_ite | apply keptO_map | apply kept_ite | apply kept_issue | apply kept_arith | apply kept_forEach | (apply kept_upd; assumption) | split)

theorem kept_execTSignal (x0 : ThrIx) (x1 : Ecc) (s : State) (h : Kept b s) : KeptR b (execTSignal x0 x1 s) := by
  unfold execTSignal
  with_reducible repeat' (first | assumption | (intro _) | exact keptR_fault | exact keptO_none | apply keptR_next | apply keptO_some | apply keptR_ite | apply keptO_ite | apply keptO_map | apply kept_ite | apply kept_issue | apply kept_signal | apply kept_forEach | (apply kept_upd; assumption) | split)

theorem kept_execTStrm (x0 : ThrIx) (x1 : Ecc) (s : State) (h : Kept b s) : KeptR b (execTStrm x0 x1 s) := by
  unfold execTStrm
  with_reducible repeat' (first | assumption | (intro _) | exact keptR_fault | exact keptO_none | apply keptR_next | apply keptO_some | apply keptR_ite | apply keptO_ite | apply keptO_map | apply kept_ite | apply kept_issue | apply kept_strmCmd | apply kept_forEach | (apply kept_upd; assumption) | split)

theorem kept_execTSub (x0 : ThrIx) (x1 : Ecc) (s : State) (h : Kept b s) : KeptR b (execTSub x0 x1 s) := by
  unfold execTSub
  with_reducible repeat' (first | assumption | (intro _) | exact keptR_fault | exact keptO_none | apply keptR_next | apply keptO_some | apply keptR_ite | apply keptO_ite | apply keptO_map | apply kept_ite | apply kept_issue | apply kept_arith | apply kept_forEach | (apply kept_upd; assumption) | split)

theorem kept_execTSync (x0 : ThrIx) (x1 : Ecc) (s : State) (h : Kept b s) : KeptR b (execTSync x0 x1 s) := by
  unfold execTSync
  with_reducible repeat' (first | assumption | (intro hz; clear_value z) | (intro _) | (extract_lets +onlyGivenNames z; first | (refine kept_cut b z ?_ ?_; dsimp -zeta only [z]; clear z) | (refine kept_cut1 b z ?_ ?_; dsimp -zeta only [z]; clear z) | (refine kept_cut2 b z ?_ ?_; dsimp -zeta only [z]; clear z) | (refine isFun z ?_; dsimp -zeta only [z]; clear z) | clear_value z) | exact keptR_fault | exact keptO_none | apply keptR_next | apply keptO_some | apply keptR_ite | apply keptO_ite | apply keptO_map | apply keptO_getD | apply kept_ite | apply kept_issue | apply kept_threadFault | apply kept_modThread | apply kept_modBarrier | apply kept_send | apply kept_forEach | (apply kept_upd; assumption) | (apply kept_of_some; assumption) | (apply kept_of_pair; assumption) | dsimp -zeta only | split)

theorem kept_execTWait (x0 : ThrIx) (x1 : Ecc) (s : State) (h : Kept b s) : KeptR b (execTWait x0 x1 s) := by
  unfold execTWait
  with_reducible repeat' (first | assumption | (intro _) | exact keptR_fault | exact keptO_none | apply keptR_next | apply keptO_some | apply keptR_ite | apply keptO_ite | apply keptO_map | apply kept_ite | apply kept_issue | apply kept_ranged | apply kept_modThread | apply kept_forEach | (apply kept_upd; assumption) | split)

theorem kept_execTWaitev (x0 : ThrIx) (x1 : Ecc) (s : State) (h : Kept b s) : KeptR b (execTWaitev x0 x1 s) := by
  unfold execTWaitev
  with_reducible repeat' (first | assumption | (intro hz; clear_value z) | (intro _) | (extract_lets +onlyGivenNames z; first | (refine kept_cut b z ?_ ?_; dsimp -zeta only [z]; clear z) | (refine kept_cut1 b z ?_ ?_; dsimp -zeta only [z]; clear z) | (refine kept_cut2 b z ?_ ?_; dsimp -zeta only [z]; clear z) | (refine isFun z ?_; dsimp -zeta only [z]; clear z) | clear_value z) | exact keptR_fault | exact keptO_none | apply keptR_next | apply keptO_some | apply keptR_ite | apply keptO_ite | apply keptO_map | apply keptO_getD | apply kept_ite | apply kept_issue | apply kept_threadFault | apply kept_modThread | apply kept_forEach | (apply kept_upd; assumption) | (apply kept_of_some; assumption) | (apply kept_of_pair; assumption) | dsimp -zeta only | split)

theorem kept_execTWaittk (x0 : ThrIx) (x1 : Ecc) (s : State) (h : Kept b s) : KeptR b (execTWaittk x0 x1 s) := by
  unfold execTWaittk
  with_reducible repeat' (first | assumption | (intro hz; clear_value z) | (intro _) | (extract_lets +onlyGivenNames z; first | (refine kept_cut b z ?_ ?_; dsimp -zeta only [z]; clear z) | (refine kept_cut1 b z ?_ ?_; dsimp -zeta only [z]; clear z) | (refine kept_cut2 b z ?_ ?_; dsimp -zeta only [z]; clear z) | (refine isFun z ?_; dsimp -zeta only [z]; clear z) | clear_value z) | exact keptR_fault | exact keptO_none | apply keptR_next | apply keptO_some | apply keptR_ite | apply keptO_ite | apply keptO_map | apply keptO_getD | apply kept_ite | apply kept_issue | apply kept_threadFault | apply kept_startWait | apply kept_forEach | (apply kept_upd; assumption) | (apply kept_of_some; assumption) | (apply kept_of_pair; assumption) | dsimp -zeta only | split)

theorem kept_execTWaituntil (x0 : ThrIx) (x1 : Ecc) (s : State) (h : Kept b s) : KeptR b (execTWaituntil x0 x1 s) := by
  unfold execTWaituntil
  with_reducible repeat' (first | assumption | (intro _) | exact keptR_fault | exact keptO_none | apply keptR_next | apply keptO_some | apply keptR_ite | apply keptO_ite | apply keptO_map | apply kept_ite | apply kept_issue | apply kept_ranged | apply kept_modThread | apply kept_forEach | (apply kept_upd; assumption) | split)

theorem kept_execTXor (x0 : ThrIx) (x1 : Ecc) (s : State) (h : Kept b s) : KeptR b (execTXor x0 x1 s) := by
  unfold execTXor
  with_reducible repeat' (first | assumption | (intro _) | exact keptR_fault | exact keptO_none | apply keptR_next | apply keptO_some | apply keptR_ite | apply keptO_ite | apply keptO_map | apply kept_ite | apply kept_issue | apply kept_arith | apply kept_forEach | (apply kept_upd; assumption) | split)

theorem kept_execWaitevFiring (x0 : ThrIx) (s : State) (h : Kept b s) : KeptR b (execWaitevFiring x0 s) := by
  unfold execWaitevFiring
  with_reducible repeat' (first | assumption | (intro hz; clear_value z) | (intro _) | (extract_lets +onlyGivenNames z; first | (refine kept_cut b z ?_ ?_; dsimp -zeta only [z]; clear z) | (refine kept_cut1 b z ?_ ?_; dsimp -zeta only [z]; clear z) | (refine kept_cut2 b z ?_ ?_; dsimp -zeta only [z]; clear z) | (refine isFun z ?_; dsimp -zeta only [z]; clear z) | clear_value z) | exact keptR_fault | exact keptO_none | apply keptR_next | apply keptO_some | apply keptR_ite | apply keptO_ite | apply keptO_map | apply keptO_getD | apply kept_ite | apply kept_observeFiring | apply kept_forEach | (apply kept_upd; assumption) | (apply kept_of_some; assumption) | (apply kept_of_pair; assumption) | dsimp -zeta only | split)

theorem kept_execWaitevTimeout (x0 : ThrIx) (s : State) (h : Kept b s) : KeptR b (execWaitevTimeout x0 s) := by
  unfold execWaitevTimeout
  with_reducible repeat' (first | assumption | (intro _) | exact keptR_fault | exact keptO_none | apply keptR_next | apply keptO_some | apply keptR_ite | apply keptO_ite | apply keptO_map | apply kept_ite | apply kept_evTimeout | apply kept_forEach | (apply kept_upd; assumption) | split)

theorem kept_execWaittkDefault (x0 : ThrIx) (s : State) (h : Kept b s) : KeptR b (execWaittkDefault x0 s) := by
  unfold execWaittkDefault
  with_reducible repeat' (first | assumption | (intro _) | exact keptR_fault | exact keptO_none | apply keptR_next | apply keptO_some | apply keptR_ite | apply keptO_ite | apply keptO_map | apply kept_ite | apply kept_dueDefault | apply kept_forEach | (apply kept_upd; assumption) | split)

theorem kept_avgRecords (s : State) (x1 : Nat) (h : Kept b s) : Kept b (State.avgRecords s x1) := by
  unfold State.avgRecords
  with_reducible repeat' (first | assumption | (intro hz; clear_value z) | (intro _) | (extract_lets +onlyGivenNames z; first | (refine kept_cut b z ?_ ?_; dsimp -zeta only [z]; clear z) | clear_value z) | apply kept_ite | apply kept_modRun | apply kept_formRecord | apply kept_forEach | (apply kept_upd; assumption) | split)

theorem kept_beginShot (s : State) (x1 : Nat) (x2 : Nat) (x3 : Int) (h : Kept b s) : Kept b (State.beginShot s x1 x2 x3) := by
  unfold State.beginShot
  with_reducible repeat' (first | assumption | (intro hz; clear_value z) | (intro _) | (extract_lets +onlyGivenNames z; first | (refine kept_cut b z ?_ ?_; dsimp -zeta only [z]; clear z) | clear_value z) | apply kept_ite | apply kept_modThread | apply kept_modRun | apply kept_forEach | (apply kept_upd; assumption) | split)

theorem kept_fixT0 (s : State) (x1 : Nat) (x2 : Nat) (h : Kept b s) : Kept b (State.fixT0 s x1 x2) := by
  unfold State.fixT0
  with_reducible repeat' (first | assumption | (intro _) | apply kept_ite | apply kept_beginShot | apply kept_modRun | (apply kept_upd; assumption) | split)

theorem kept_freeRun (s : State) (x1 : Nat) (h : Kept b s) : Kept b (State.freeRun s x1) := by
  unfold State.freeRun
  with_reducible repeat' (first | assumption | (intro hz; clear_value z) | (intro _) | (extract_lets +onlyGivenNames z; first | (refine kept_cut b z ?_ ?_; dsimp -zeta only [z]; clear z) | clear_value z) | apply kept_ite | apply kept_modThread | apply kept_setReg | apply kept_modQueue | apply kept_modMarker | apply kept_forEach | (apply kept_upd; assumption) | split)

theorem kept_stampRun (s : State) (x1 : Nat) (h : Kept b s) : Kept b (State.stampRun s x1) := by
  unfold State.stampRun
  with_reducible repeat' (first | assumption | (intro hz; clear_value z) | (intro _) | (extract_lets +onlyGivenNames z; first | (refine kept_cut b z ?_ ?_; dsimp -zeta only [z]; clear z) | clear_value z) | apply kept_ite | apply kept_setReg | apply kept_setPair | apply kept_forEach | (apply kept_upd; assumption) | split)

theorem kept_reachT0 (s : State) (x1 : Nat) (h : Kept b s) : Kept b (State.reachT0 s x1) := by
  unfold State.reachT0
  with_reducible repeat' (first | assumption | (intro hz; clear_value z) | (intro _) | (extract_lets +onlyGivenNames z; first | (refine kept_cut b z ?_ ?_; dsimp -zeta only [z]; clear z) | clear_value z) | apply kept_ite | apply kept_modRun | apply kept_stampRun | apply kept_leaveArmed | apply kept_forEach | (apply kept_upd; assumption) | split)

theorem kept_shutPack (s : State) (x1 : Nat) (h : Kept b s) : Kept b (State.shutPack s x1) := by
  unfold State.shutPack
  exact ⟨h.mem, h.regs, h.pending, h.c0, h.c1, h.fuses, h.revoked⟩

theorem kept_execRunCommit (x0 : RunIx) (s : State) (h : Kept b s) : KeptR b (execRunCommit x0 s) := by
  unfold execRunCommit
  with_reducible repeat' (first | assumption | (intro _) | exact keptR_fault | exact keptO_none | apply keptR_next | apply keptO_some | apply keptR_ite | apply keptO_ite | apply keptO_map | apply kept_ite | apply kept_silence | apply kept_modRun | apply kept_forEach | (apply kept_upd; assumption) | split)

theorem kept_execRunComplete (x0 : RunIx) (s : State) (h : Kept b s) : KeptR b (execRunComplete x0 s) := by
  unfold execRunComplete
  with_reducible repeat' (first | assumption | (intro _) | exact keptR_fault | exact keptO_none | apply keptR_next | apply keptO_some | apply keptR_ite | apply keptO_ite | apply keptO_map | apply kept_ite | apply kept_shutPack | apply kept_avgRecords | apply kept_freeRun | apply kept_finish | apply kept_forEach | (apply kept_upd; assumption) | split)

theorem kept_execRunT0 (x0 : RunIx) (s : State) (h : Kept b s) : KeptR b (execRunT0 x0 s) := by
  unfold execRunT0
  with_reducible repeat' (first | assumption | (intro _) | exact keptR_fault | exact keptO_none | apply keptR_next | apply keptO_some | apply keptR_ite | apply keptO_ite | apply keptO_map | apply kept_ite | apply kept_reachT0 | apply kept_forEach | (apply kept_upd; assumption) | split)

theorem kept_execShotRecordWrite (x0 : RunIx) (s : State) (h : Kept b s) : KeptR b (execShotRecordWrite x0 s) := by
  unfold execShotRecordWrite
  with_reducible repeat' (first | assumption | (intro _) | exact keptR_fault | exact keptO_none | apply keptR_next | apply keptO_some | apply keptR_ite | apply keptO_ite | apply keptO_map | apply kept_ite | apply kept_modRun | apply kept_formRecord | apply kept_forEach | (apply kept_upd; assumption) | split)

theorem kept_execShotStart (x0 : RunIx) (s : State) (h : Kept b s) : KeptR b (execShotStart x0 s) := by
  unfold execShotStart
  with_reducible repeat' (first | assumption | (intro _) | exact keptR_fault | exact keptO_none | apply keptR_next | apply keptO_some | apply keptR_ite | apply keptO_ite | apply keptO_map | apply kept_ite | apply kept_beginShot | apply kept_modRun | apply kept_forEach | (apply kept_upd; assumption) | split)

end Sys2Proof.Machine
end

