-- ==== Sys2Proof/Laws/KeptThreads.lean ====
section
/-!
SUPPORT. What the operations keep: thread instructions, runs and queues.
-/
namespace Sys2Proof.Machine

set_option linter.all false

variable {b : State}

theorem kept_abandon (s : State) (x1 : Nat) (x2 : Nat) (h : Kept b s) : Kept b (State.abandon s x1 x2) := by
  unfold State.abandon
  with_reducible repeat' (first | assumption | (intro _) | apply kept_ite | (apply kept_upd; assumption) | split)

theorem kept_waveCheck (s : State) (x1 : Pulse) (x2 : WaveCheck) (h : Kept b s) : Kept b (State.waveCheck s x1 x2).1 := by
  unfold State.waveCheck
  with_reducible repeat' (first | assumption | (intro _) | apply kept_ite | apply kept_count | apply kept_raiseRun | apply kept_flagShot | apply kept_occur | (apply kept_upd; assumption) | split)

theorem kept_modPulses (s : State) (x1 : Nat) (x2 : Nat) (x3 : Pulse → Pulse) (h : Kept b s) : Kept b (State.modPulses s x1 x2
    x3) := by
  unfold State.modPulses
  exact ⟨h.mem, h.regs, h.pending, h.c0, h.c1, h.fuses, h.revoked⟩

theorem kept_addPulse (s : State) (x1 : Pulse) (h : Kept b s) : Kept b (State.addPulse s x1) := by
  unfold State.addPulse
  exact ⟨h.mem, h.regs, h.pending, h.c0, h.c1, h.fuses, h.revoked⟩

theorem kept_applyPulse (s : State) (x1 : Pulse) (x2 : WaveCheck) (h : Kept b s) : Kept b (State.applyPulse s x1 x2) := by
  unfold State.applyPulse
  with_reducible repeat' (first | assumption | (intro _) | apply kept_ite | apply kept_waveCheck | apply kept_abandon | apply kept_modPulses | apply kept_addPulse | (apply kept_upd; assumption) | split)

theorem kept_levelAt (s : State) (x1 : Nat) (x2 : Nat) (x3 : BitVec 16) (h : Kept b s) : Kept b (State.levelAt s x1 x2 x3) := by
  unfold State.levelAt
  with_reducible repeat' (first | assumption | (intro _) | apply kept_ite | apply kept_abandon | apply kept_modFlux | (apply kept_upd; assumption) | split)

theorem kept_blankEdge (s : State) (x1 : Nat) (x2 : Nat) (h : Kept b s) : Kept b (State.blankEdge s x1 x2) := by
  unfold State.blankEdge
  exact ⟨h.mem, h.regs, h.pending, h.c0, h.c1, h.fuses, h.revoked⟩

theorem kept_changeMarker (s : State) (x1 : Nat) (x2 : MarkChange) (h : Kept b s) : Kept b (State.changeMarker s x1 x2) := by
  unfold State.changeMarker
  with_reducible repeat' (first | assumption | (intro _) | apply kept_ite | apply kept_blankEdge | apply kept_modMarker | (apply kept_upd; assumption) | split)

theorem kept_settleMarker (s : State) (x1 : Nat) (h : Kept b s) : Kept b (State.settleMarker s x1) := by
  unfold State.settleMarker
  with_reducible repeat' (first | assumption | (intro hz; clear_value z) | (intro _) | (extract_lets +onlyGivenNames z; first | (refine kept_cut b z ?_ ?_; dsimp -zeta only [z]; clear z) | clear_value z) | apply kept_ite | apply kept_modMarker | apply kept_changeMarker | apply kept_forEach | (apply kept_upd; assumption) | split)

theorem kept_oscSet (s : State) (x1 : Nat) (x2 : Nat) (x3 : Osc → Osc) (h : Kept b s) : Kept b (State.oscSet s x1 x2 x3) := by
  unfold State.oscSet
  exact ⟨h.mem, h.regs, h.pending, h.c0, h.c1, h.fuses, h.revoked⟩

theorem kept_applyAct (s : State) (q : Nat) (c : Cmd) (t : Nat) (w : WaveCheck) (h : Kept b s) : Kept b (State.applyAct s q c t
    w) := by
  unfold State.applyAct
  cases c.act with
  | pulse p' => exact kept_applyPulse _ _ _ h
  | pattern n => exact kept_applyPulse _ _ _ (kept_ite (kept_occur _ _ _ _ h) h)
  | window len k => exact ⟨h.mem, h.regs, h.pending, h.c0, h.c1, h.fuses, h.revoked⟩
  | level v => exact kept_levelAt _ _ _ _ h
  | strobe => exact ⟨h.mem, h.regs, h.pending, h.c0, h.c1, h.fuses, h.revoked⟩
  | levelStrobe v =>
    have k := kept_levelAt s (qIdx q) t v h
    exact ⟨k.mem, k.regs, k.pending, k.c0, k.c1, k.fuses, k.revoked⟩
  | signal ec gen => exact kept_fireFrom _ _ _ _ h
  | mark m act pw => exact kept_settleMarker _ _ (kept_modMarker _ _ _ h)
  | setf f => exact kept_oscSet _ _ _ _ h
  | addph f => exact kept_oscSet _ _ _ _ h
  | setph f => exact kept_oscSet _ _ _ _ h
  | rstph => exact kept_oscSet _ _ _ _ h

theorem kept_actFront (s : State) (x1 : Nat) (x2 : WaveCheck) (h : Kept b s) : Kept b (State.actFront s x1 x2) := by
  unfold State.actFront
  with_reducible repeat' (first | assumption | (intro _) | apply kept_ite | apply kept_applyAct | (apply kept_upd; assumption) | split)

theorem kept_underrun (s : State) (x1 : Pulse) (x2 : Nat) (h : Kept b s) : Kept b (State.underrun s x1 x2) := by
  unfold State.underrun
  with_reducible repeat' (first | assumption | (intro hz; clear_value z) | (intro _) | (extract_lets +onlyGivenNames z; first | (refine kept_cut b z ?_ ?_; dsimp -zeta only [z]; clear z) | clear_value z) | apply kept_ite | apply kept_modPulses | apply kept_modShot | apply kept_raiseRun | apply kept_count | apply kept_occur | apply kept_finalShot | apply kept_forEach | (apply kept_upd; assumption) | split)

theorem kept_deadline (s : State) (x1 : Nat) (h : Kept b s) : Kept b (State.deadline s x1) := by
  unfold State.deadline
  with_reducible repeat' (first | assumption | (intro _) | apply kept_ite | apply kept_underrun | apply kept_modPulses | (apply kept_upd; assumption) | split)

theorem kept_endPulse (s : State) (x1 : Nat) (h : Kept b s) : Kept b (State.endPulse s x1) := by
  unfold State.endPulse
  with_reducible repeat' (first | assumption | (intro _) | apply kept_ite | apply kept_changeMarker | (apply kept_upd; assumption) | split)

theorem kept_jumpDropped (s : State) (x1 : Nat) (h : Kept b s) : Kept b (State.jumpDropped s x1) := by
  unfold State.jumpDropped
  with_reducible repeat' (first | assumption | (intro _) | apply kept_ite | apply kept_occur | apply kept_count | (apply kept_upd; assumption) | split)

theorem kept_jump (s : State) (x1 : Nat) (x2 : Bool) (h : Kept b s) : Kept b (State.jump s x1 x2) := by
  unfold State.jump
  with_reducible repeat' (first | assumption | (intro _) | apply kept_ite | apply kept_jumpDropped | apply kept_modPattern | (apply kept_upd; assumption) | split)

theorem kept_patternOver (s : State) (x1 : Nat) (h : Kept b s) : Kept b (State.patternOver s x1) := by
  unfold State.patternOver
  exact ⟨h.mem, h.regs, h.pending, h.c0, h.c1, h.fuses, h.revoked⟩

theorem kept_streamPos (s : State) (x1 : Pulse) (h : Kept b s) : Kept b (State.streamPos s x1).1 := by
  unfold State.streamPos
  with_reducible repeat' (first | assumption | (intro _) | apply kept_ite | apply kept_setStream | (apply kept_upd; assumption) | split)

theorem kept_nextSegment (s : State) (x1 : Nat) (x2 : Nat) (x3 : Nat) (x4 : Bool) (x5 : Ecc) (x6 : WaveCheck) (h : Kept b s) :
    Kept b (State.nextSegment s x1 x2 x3 x4 x5 x6) := by
  unfold State.nextSegment
  with_reducible repeat' (first | assumption | (intro _) | apply kept_ite | apply kept_patternOver | apply kept_occur | apply kept_raiseRun | apply kept_count | apply kept_modPattern | apply kept_flagShot | apply kept_regBit | apply kept_waveCheck | apply kept_streamPos | apply kept_addPulse | (apply kept_upd; assumption) | split)

theorem kept_segmentOver (s : State) (x1 : Nat) (x2 : Ecc) (x3 : WaveCheck) (h : Kept b s) : Kept b (State.segmentOver s x1 x2
    x3) := by
  unfold State.segmentOver
  with_reducible repeat' (first | assumption | (intro hz; clear_value z) | (intro _) | (extract_lets +onlyGivenNames z; first | (refine kept_cut b z ?_ ?_; dsimp -zeta only [z]; clear z) | clear_value z) | apply kept_ite | apply kept_nextSegment | apply kept_patternOver | apply kept_forEach | (apply kept_upd; assumption) | split)

theorem kept_jumpIn (s : State) (x1 : Nat) (x2 : Option Token) (h : Kept b s) : Kept b (State.jumpIn s x1 x2) := by
  unfold State.jumpIn
  with_reducible repeat' (first | assumption | (intro _) | apply kept_ite | apply kept_segmentOver | apply kept_jump | apply kept_jumpDropped | (apply kept_upd; assumption) | split)

theorem kept_patternEnd (s : State) (x1 : Nat) (x2 : Nat) (h : Kept b s) : Kept b (State.patternEnd s x1 x2) := by
  unfold State.patternEnd
  with_reducible repeat' (first | assumption | (intro _) | apply kept_ite | apply kept_fireProducer | apply kept_modQueue | apply kept_modPattern | (apply kept_upd; assumption) | split)

theorem kept_patternStep (s : State) (x1 : Nat) (x2 : Ecc) (x3 : WaveCheck) (h : Kept b s) : Kept b (State.patternStep s x1 x2
    x3) := by
  unfold State.patternStep
  with_reducible repeat' (first | assumption | (intro _) | apply kept_ite | apply kept_segmentOver | apply kept_patternEnd | (apply kept_upd; assumption) | split)

theorem kept_takeFront (s : State) (x1 : Nat) (h : Kept b s) : Kept b (State.takeFront s x1) := by
  unfold State.takeFront
  with_reducible repeat' (first | assumption | (intro hz; clear_value z) | (intro _) | (extract_lets +onlyGivenNames z; first | (refine kept_cut b z ?_ ?_; dsimp -zeta only [z]; clear z) | (refine kept_cut1 b z ?_ ?_; dsimp -zeta only [z]; clear z) | (refine kept_cut2 b z ?_ ?_; dsimp -zeta only [z]; clear z) | (refine isFun z ?_; dsimp -zeta only [z]; clear z) | clear_value z) | exact keptR_fault | exact keptO_none | apply keptR_next | apply keptO_some | apply keptR_ite | apply keptO_ite | apply keptO_map | apply keptO_getD | apply kept_ite | apply kept_modQueue | apply kept_modPattern | apply kept_streamPos | apply kept_addPulse | apply kept_forEach | (apply kept_upd; assumption) | (apply kept_of_some; assumption) | (apply kept_of_pair; assumption) | dsimp -zeta only | split)

theorem kept_taskMarker (s : State) (x1 : Nat) (x2 : Nat) (x3 : Nat) (h : Kept b s) : Kept b (State.taskMarker s x1 x2 x3) := by
  unfold State.taskMarker
  with_reducible repeat' (first | assumption | (intro hz; clear_value z) | (intro _) | (extract_lets +onlyGivenNames z; first | (refine kept_cut b z ?_ ?_; dsimp -zeta only [z]; clear z) | clear_value z) | apply kept_ite | apply kept_changeMarker | apply kept_modMarker | apply kept_forEach | (apply kept_upd; assumption) | split)

theorem kept_execMarkerPulseEnd (x0 : MarkIx) (s : State) (h : Kept b s) : KeptR b (execMarkerPulseEnd x0 s) := by
  unfold execMarkerPulseEnd
  with_reducible repeat' (first | assumption | (intro _) | exact keptR_fault | exact keptO_none | apply keptR_next | apply keptO_some | apply keptR_ite | apply keptO_ite | apply keptO_map | apply kept_ite | apply kept_endPulse | apply kept_forEach | (apply kept_upd; assumption) | split)

theorem kept_execPatternJumpRequest (x0 : QId) (x1 : Bool) (s : State) (h : Kept b s) : KeptR b (execPatternJumpRequest x0 x1
    s) := by
  unfold execPatternJumpRequest
  with_reducible repeat' (first | assumption | (intro _) | exact keptR_fault | exact keptO_none | apply keptR_next | apply keptO_some | apply keptR_ite | apply keptO_ite | apply keptO_map | apply kept_ite | apply kept_jumpIn | apply kept_forEach | (apply kept_upd; assumption) | split)

theorem kept_execPatternSegmentEnd (x0 : QId) (x1 : Ecc) (x2 : WaveCheck) (s : State) (h : Kept b s) : KeptR b
    (execPatternSegmentEnd x0 x1 x2 s) := by
  unfold execPatternSegmentEnd
  with_reducible repeat' (first | assumption | (intro _) | exact keptR_fault | exact keptO_none | apply keptR_next | apply keptO_some | apply keptR_ite | apply keptO_ite | apply keptO_map | apply kept_ite | apply kept_patternStep | apply kept_forEach | (apply kept_upd; assumption) | split)

theorem kept_execQueueRelease (x0 : QId) (s : State) (h : Kept b s) : KeptR b (execQueueRelease x0 s) := by
  unfold execQueueRelease
  with_reducible repeat' (first | assumption | (intro hz; clear_value z) | (intro _) | (extract_lets +onlyGivenNames z; first | (refine kept_cut b z ?_ ?_; dsimp -zeta only [z]; clear z) | (refine kept_cut1 b z ?_ ?_; dsimp -zeta only [z]; clear z) | (refine kept_cut2 b z ?_ ?_; dsimp -zeta only [z]; clear z) | (refine isFun z ?_; dsimp -zeta only [z]; clear z) | clear_value z) | exact keptR_fault | exact keptO_none | apply keptR_next | apply keptO_some | apply keptR_ite | apply keptO_ite | apply keptO_map | apply keptO_getD | apply kept_ite | apply kept_takeFront | apply kept_forEach | (apply kept_upd; assumption) | (apply kept_of_some; assumption) | (apply kept_of_pair; assumption) | dsimp -zeta only | split)

theorem kept_execStreamDeadline (x0 : QId) (s : State) (h : Kept b s) : KeptR b (execStreamDeadline x0 s) := by
  unfold execStreamDeadline
  with_reducible repeat' (first | assumption | (intro _) | exact keptR_fault | exact keptO_none | apply keptR_next | apply keptO_some | apply keptR_ite | apply keptO_ite | apply keptO_map | apply kept_ite | apply kept_deadline | apply kept_forEach | (apply kept_upd; assumption) | split)

theorem kept_execTimedCommandApply (x0 : QId) (x1 : WaveCheck) (s : State) (h : Kept b s) : KeptR b (execTimedCommandApply x0
    x1 s) := by
  unfold execTimedCommandApply
  with_reducible repeat' (first | assumption | (intro _) | exact keptR_fault | exact keptO_none | apply keptR_next | apply keptO_some | apply keptR_ite | apply keptO_ite | apply keptO_map | apply kept_ite | apply kept_actFront | apply kept_forEach | (apply kept_upd; assumption) | split)

end Sys2Proof.Machine
end

