-- ==== Sys2Proof/Laws/KeptDrive.lean ====
section
/-!
SUPPORT. What the operations keep: drive, flux, monitors, capture and decisions.
-/
namespace Sys2Proof.Machine

set_option linter.all false

variable {b : State}

theorem kept_closeSwitch (s : State) (x1 : Nat) (x2 : Nat) (h : Kept b s) : Kept b (State.closeSwitch s x1 x2) := by
  unfold State.closeSwitch
  with_reducible repeat' (first | assumption | (intro _) | apply kept_ite | apply kept_regBit | (apply kept_upd; assumption) | split)

theorem kept_dacSats (s : State) (x1 : Nat) (x2 : Nat) (x3 : Nat) (x4 : Bool) (x5 : Bool) (x6 : Bool) (h : Kept b s) : Kept b
    (State.dacSats s x1 x2 x3 x4 x5 x6) := by
  unfold State.dacSats
  with_reducible repeat' (first | assumption | (intro hz; clear_value z) | (intro _) | (extract_lets +onlyGivenNames z; first | (refine kept_cut b z ?_ ?_; dsimp -zeta only [z]; clear z) | clear_value z) | apply kept_ite | apply kept_setReg | apply kept_count | apply kept_flagBall | apply kept_occur | apply kept_forEach | (apply kept_upd; assumption) | split)

theorem kept_delay (s : State) (x1 : Nat) (x2 : Nat) (x3 : Word) (h : Kept b s) : Kept b (State.delay s x1 x2 x3) := by
  unfold State.delay
  exact ⟨h.mem, h.regs, h.pending, h.c0, h.c1, h.fuses, h.revoked⟩

theorem kept_disableQueue (s : State) (x1 : Nat) (h : Kept b s) : Kept b (State.disableQueue s x1) := by
  unfold State.disableQueue
  with_reducible repeat' (first | assumption | (intro hz; clear_value z) | (intro _) | (extract_lets +onlyGivenNames z; first | (refine kept_cut b z ?_ ?_; dsimp -zeta only [z]; clear z) | clear_value z) | apply kept_ite | apply kept_discardQueue | apply kept_modPattern | apply kept_raiseRun | apply kept_forEach | (apply kept_upd; assumption) | split)

theorem kept_enSet (s : State) (x1 : Nat) (x2 : Option Nat) (h : Kept b s) : Kept b (State.enSet s x1 x2) := by
  unfold State.enSet
  exact ⟨h.mem, h.regs, h.pending, h.c0, h.c1, h.fuses, h.revoked⟩

theorem kept_playDac (s : State) (x1 : Nat) (x2 : Nat) (x3 : Nat) (h : Kept b s) : Kept b (State.playDac s x1 x2 x3) := by
  unfold State.playDac
  with_reducible repeat' (first | assumption | (intro hz; clear_value z) | (intro _) | (extract_lets +onlyGivenNames z; first | (refine kept_cut b z ?_ ?_; dsimp -zeta only [z]; clear z) | clear_value z) | apply kept_ite | apply kept_regBit | apply kept_dacSats | apply kept_flagBall | apply kept_forEach | (apply kept_upd; assumption) | split)

theorem kept_settleSwitch (s : State) (x1 : Nat) (x2 : Nat) (h : Kept b s) : Kept b (State.settleSwitch s x1 x2) := by
  unfold State.settleSwitch
  with_reducible repeat' (first | assumption | (intro _) | apply kept_ite | apply kept_enSet | apply kept_regBit | (apply kept_upd; assumption) | split)

theorem kept_testOff (s : State) (x1 : Nat) (x2 : Nat) (h : Kept b s) : Kept b (State.testOff s x1 x2) := by
  unfold State.testOff
  with_reducible repeat' (first | assumption | (intro _) | apply kept_ite | apply kept_regBit | apply kept_setReg | (apply kept_upd; assumption) | split)

theorem kept_wrDacCtl (s : State) (x1 : Nat) (x2 : Nat) (x3 : Word) (h : Kept b s) : Kept b (State.wrDacCtl s x1 x2 x3) := by
  unfold State.wrDacCtl
  with_reducible repeat' (first | assumption | (intro hz; clear_value z) | (intro _) | (extract_lets +onlyGivenNames z; first | (refine kept_cut b z ?_ ?_; dsimp -zeta only [z]; clear z) | clear_value z) | apply kept_ite | apply kept_count | apply kept_setReg | apply kept_enSet | apply kept_testOff | apply kept_disableQueue | apply kept_endCal | apply kept_forEach | (apply kept_upd; assumption) | split)

theorem kept_wrDacScale (s : State) (x1 : Nat) (x2 : Nat) (x3 : Word) (h : Kept b s) : Kept b (State.wrDacScale s x1 x2 x3) :=
    by
  unfold State.wrDacScale
  with_reducible repeat' (first | assumption | (intro _) | apply kept_ite | apply kept_delay | apply kept_setReg | (apply kept_upd; assumption) | split)

theorem kept_wrSlotCtl (s : State) (x1 : Nat) (x2 : Nat) (x3 : Word) (h : Kept b s) : Kept b (State.wrSlotCtl s x1 x2 x3) := by
  unfold State.wrSlotCtl
  with_reducible repeat' (first | assumption | (intro _) | apply kept_ite | apply kept_delay | apply kept_setReg | apply kept_count | apply kept_oscSet | (apply kept_upd; assumption) | split)

theorem kept_wrSlotOsc (s : State) (x1 : Nat) (x2 : Nat) (x3 : Osc → Osc) (h : Kept b s) : Kept b (State.wrSlotOsc s x1 x2 x3)
    := by
  unfold State.wrSlotOsc
  with_reducible repeat' (first | assumption | (intro _) | apply kept_ite | apply kept_count | apply kept_oscSet | (apply kept_upd; assumption) | split)

theorem kept_execDacNotReady (x0 : Half) (x1 : DacIx) (s : State) (h : Kept b s) : KeptR b (execDacNotReady x0 x1 s) := by
  unfold execDacNotReady
  with_reducible repeat' (first | assumption | (intro _) | exact keptR_fault | exact keptO_none | apply keptR_next | apply keptO_some | apply keptR_ite | apply keptO_ite | apply keptO_map | apply kept_ite | apply kept_occur | apply kept_enSet | apply kept_forEach | (apply kept_upd; assumption) | split)

theorem kept_execDacReady (x0 : Half) (x1 : DacIx) (s : State) (h : Kept b s) : KeptR b (execDacReady x0 x1 s) := by
  unfold execDacReady
  with_reducible repeat' (first | assumption | (intro _) | exact keptR_fault | exact keptO_none | apply keptR_next | apply keptO_some | apply keptR_ite | apply keptO_ite | apply keptO_map | apply kept_ite | apply kept_enSet | apply kept_regBit | apply kept_forEach | (apply kept_upd; assumption) | split)

theorem kept_execMuteStuck (x0 : Half) (x1 : DacIx) (s : State) (h : Kept b s) : KeptR b (execMuteStuck x0 x1 s) := by
  unfold execMuteStuck
  with_reducible repeat' (first | assumption | (intro _) | exact keptR_fault | exact keptO_none | apply keptR_next | apply keptO_some | apply keptR_ite | apply keptO_ite | apply keptO_map | apply kept_ite | apply kept_occur | apply kept_forEach | (apply kept_upd; assumption) | split)

theorem kept_countStrobes (s : State) (x1 : Nat) (x2 : Nat) (h : Kept b s) : Kept b (State.countStrobes s x1 x2) := by
  unfold State.countStrobes
  with_reducible repeat' (first | assumption | (intro hz; clear_value z) | (intro _) | (extract_lets +onlyGivenNames z; first | (refine kept_cut b z ?_ ?_; dsimp -zeta only [z]; clear z) | clear_value z) | apply kept_ite | apply kept_count | apply kept_forEach | (apply kept_upd; assumption) | split)

theorem kept_fluxDisable (s : State) (x1 : Nat) (h : Kept b s) : Kept b (State.fluxDisable s x1) := by
  unfold State.fluxDisable
  with_reducible repeat' (first | assumption | (intro _) | apply kept_ite | apply kept_modFlux | apply kept_disableQueue | apply kept_enSet | apply kept_regBit | apply kept_endCal | (apply kept_upd; assumption) | split)

theorem kept_fluxEdge (s : State) (x1 : Nat) (x2 : Nat) (h : Kept b s) : Kept b (State.fluxEdge s x1 x2) := by
  unfold State.fluxEdge
  with_reducible repeat' (first | assumption | (intro hz; clear_value z) | (intro _) | (extract_lets +onlyGivenNames z; first | (refine kept_cut b z ?_ ?_; dsimp -zeta only [z]; clear z) | clear_value z) | apply kept_ite | apply kept_regBit | apply kept_modFlux | apply kept_forEach | (apply kept_upd; assumption) | split)

theorem kept_flxIgnored (s : State) (x1 : Nat) (h : Kept b s) : Kept b (State.flxIgnored s x1) := by
  unfold State.flxIgnored
  with_reducible repeat' (first | assumption | (intro _) | apply kept_ite | apply kept_count | (apply kept_upd; assumption) | split)

theorem kept_playFluxSample (s : State) (x1 : Nat) (x2 : Nat) (x3 : Bool) (h : Kept b s) : Kept b (State.playFluxSample s x1 x2
    x3).1 := by
  unfold State.playFluxSample
  with_reducible repeat' (first | assumption | (intro hz; clear_value z) | (intro _) | (extract_lets +onlyGivenNames z; first | (refine kept_cut b z ?_ ?_; dsimp -zeta only [z]; clear z) | clear_value z) | apply kept_ite | apply kept_modFlux | apply kept_regBit | apply kept_forEach | (apply kept_upd; assumption) | split)

theorem kept_playFlux (s : State) (x1 x2 : Nat) (h : Kept b s) : Kept b (State.playFlux s x1 x2) := by
  have key : ∀ (l : List Nat) (g : State → Nat → Bool) (r : State × Bool), Kept b r.1 → Kept b (l.foldl (fun (r : State × Bool)
      j =>
      ((r.1.playFluxSample x1 (32 * x2 + 8 * j) (g r.1 j)).1, r.2 || (r.1.playFluxSample x1 (32 * x2 + 8 * j) (g r.1 j)).2))
          r).1 := by
    intro l g
    induction l with
    | nil => exact fun r k => k
    | cons j l ih => exact fun r k => ih _ (kept_playFluxSample _ _ _ _ k)
  unfold State.playFlux
  extract_lets h0 s1 s2 r s3 s4 s5
  have k1 : Kept b s1 := ⟨h.mem, h.regs, h.pending, h.c0, h.c1, h.fuses, h.revoked⟩
  have k2 : Kept b s2 := kept_ite (kept_forEach k1 fun s x k => kept_flagBall _ _ _ _ k) k1
  have kr : Kept b r.1 := key (List.range 4) (fun s j => s.strobes.any fun x =>
    decide (x.group = x1 / 8 ∧ x.t / 8 * 8 ≤ 32 * x2 + 8 * j ∧ 32 * x2 ≤ x.t) && decide (32 * x2 + 8 * j < x.t + 8)) _ k2
  exact kept_ite k2 (kept_ite (kept_occur _ _ _ _ (kept_forEach (kept_regBit _ _ _ _ _ _ kr) fun s x k => kept_flagBall _ _ _ _
      k)) kr)

theorem kept_rampEnd (s : State) (x1 : Nat) (h : Kept b s) : Kept b (State.rampEnd s x1) := by
  unfold State.rampEnd
  with_reducible repeat' (first | assumption | (intro hz; clear_value z) | (intro _) | (extract_lets +onlyGivenNames z; first | (refine kept_cut b z ?_ ?_; dsimp -zeta only [z]; clear z) | clear_value z) | apply kept_ite | apply kept_modFlux | apply kept_regBit | apply kept_forEach | (apply kept_upd; assumption) | split)

theorem kept_rangeUp (s : State) (x1 : Nat) (h : Kept b s) : Kept b (State.rangeUp s x1) := by
  unfold State.rangeUp
  with_reducible repeat' (first | assumption | (intro _) | apply kept_ite | apply kept_modFlux | (apply kept_upd; assumption) | split)

theorem kept_setTrim (s : State) (x1 : Nat) (x2 : Nat) (x3 : Trim) (h : Kept b s) : Kept b (State.setTrim s x1 x2 x3) := by
  unfold State.setTrim
  exact ⟨h.mem, h.regs, h.pending, h.c0, h.c1, h.fuses, h.revoked⟩

theorem kept_tripFlux (s : State) (x1 : Nat) (h : Kept b s) : Kept b (State.tripFlux s x1) := by
  unfold State.tripFlux
  with_reducible repeat' (first | assumption | (intro _) | apply kept_ite | apply kept_modFlux | (apply kept_upd; assumption) | split)

theorem kept_wrFgStrobe (s : State) (x1 : Nat) (x2 : Word) (h : Kept b s) : Kept b (State.wrFgStrobe s x1 x2) := by
  unfold State.wrFgStrobe
  with_reducible repeat' (first | assumption | (intro _) | apply kept_ite | apply kept_flxIgnored | (apply kept_upd; assumption) | split)

theorem kept_wrFlxCtl (s : State) (x1 : Nat) (x2 : Word) (h : Kept b s) : Kept b (State.wrFlxCtl s x1 x2) := by
  unfold State.wrFlxCtl
  with_reducible repeat' (first | assumption | (intro _) | apply kept_ite | apply kept_flxIgnored | apply kept_enSet | apply kept_testOff | apply kept_setReg | apply kept_fluxDisable | apply kept_modFlux | (apply kept_upd; assumption) | split)

theorem kept_wrFlxGuarded (s : State) (x1 : Reg) (x2 : Nat) (x3 : Word) (h : Kept b s) : Kept b (State.wrFlxGuarded s x1 x2 x3)
    := by
  unfold State.wrFlxGuarded
  with_reducible repeat' (first | assumption | (intro _) | apply kept_ite | apply kept_flxIgnored | apply kept_setReg | (apply kept_upd; assumption) | split)

theorem kept_wrFlxLevel (s : State) (x1 : Nat) (x2 : Word) (h : Kept b s) : Kept b (State.wrFlxLevel s x1 x2) := by
  unfold State.wrFlxLevel
  with_reducible repeat' (first | assumption | (intro _) | apply kept_ite | apply kept_levelAt | apply kept_flxIgnored | (apply kept_upd; assumption) | split)

theorem kept_execComplyAssert (x0 : FluxIx) (x1 : Bool) (s : State) (h : Kept b s) : KeptR b (execComplyAssert x0 x1 s) := by
  unfold execComplyAssert
  with_reducible repeat' (first | assumption | (intro _) | exact keptR_fault | exact keptO_none | apply keptR_next | apply keptO_some | apply keptR_ite | apply keptO_ite | apply keptO_map | apply kept_ite | apply kept_setReg | apply kept_count | apply kept_flagBall | apply kept_occur | apply kept_forEach | (apply kept_upd; assumption) | split)

theorem kept_execComplyDeassert (x0 : FluxIx) (s : State) (h : Kept b s) : KeptR b (execComplyDeassert x0 s) := by
  unfold execComplyDeassert
  with_reducible repeat' (first | assumption | (intro _) | exact keptR_fault | exact keptO_none | apply keptR_next | apply keptO_some | apply keptR_ite | apply keptO_ite | apply keptO_map | apply kept_ite | apply kept_regBit | apply kept_forEach | (apply kept_upd; assumption) | split)

theorem kept_execFluxNotReady (x0 : FluxIx) (s : State) (h : Kept b s) : KeptR b (execFluxNotReady x0 s) := by
  unfold execFluxNotReady
  with_reducible repeat' (first | assumption | (intro _) | exact keptR_fault | exact keptO_none | apply keptR_next | apply keptO_some | apply keptR_ite | apply keptO_ite | apply keptO_map | apply kept_ite | apply kept_occur | apply kept_enSet | apply kept_forEach | (apply kept_upd; assumption) | split)

theorem kept_execFluxRampEnd (x0 : FluxIx) (s : State) (h : Kept b s) : KeptR b (execFluxRampEnd x0 s) := by
  unfold execFluxRampEnd
  with_reducible repeat' (first | assumption | (intro _) | exact keptR_fault | exact keptO_none | apply keptR_next | apply keptO_some | apply keptR_ite | apply keptO_ite | apply keptO_map | apply kept_ite | apply kept_rampEnd | apply kept_forEach | (apply kept_upd; assumption) | split)

theorem kept_execFluxReady (x0 : FluxIx) (s : State) (h : Kept b s) : KeptR b (execFluxReady x0 s) := by
  unfold execFluxReady
  with_reducible repeat' (first | assumption | (intro _) | exact keptR_fault | exact keptO_none | apply keptR_next | apply keptO_some | apply keptR_ite | apply keptO_ite | apply keptO_map | apply kept_ite | apply kept_enSet | apply kept_regBit | apply kept_forEach | (apply kept_upd; assumption) | split)

theorem kept_execRangeWaitEnd (x0 : FluxIx) (s : State) (h : Kept b s) : KeptR b (execRangeWaitEnd x0 s) := by
  unfold execRangeWaitEnd
  with_reducible repeat' (first | assumption | (intro _) | exact keptR_fault | exact keptO_none | apply keptR_next | apply keptO_some | apply keptR_ite | apply keptO_ite | apply keptO_map | apply kept_ite | apply kept_rangeUp | apply kept_forEach | (apply kept_upd; assumption) | split)

theorem kept_monInside (s : State) (x1 : Nat) (x2 : Nat) (h : Kept b s) : Kept b (State.monInside s x1 x2) := by
  unfold State.monInside
  with_reducible repeat' (first | assumption | (intro _) | apply kept_ite | apply kept_regBit | (apply kept_upd; assumption) | split)

theorem kept_trip (s : State) (x1 : Nat) (x2 : Nat) (h : Kept b s) : Kept b (State.trip s x1 x2) := by
  unfold State.trip
  with_reducible repeat' (first | assumption | (intro _) | apply kept_ite | apply kept_setReg | apply kept_setPair | apply kept_closeSwitch | apply kept_tripFlux | apply kept_count | apply kept_fireProducer | apply kept_occur | (apply kept_upd; assumption) | split)

theorem kept_wrMonCfg (s : State) (x1 : Nat) (x2 : Nat) (x3 : Word) (h : Kept b s) : Kept b (State.wrMonCfg s x1 x2 x3) := by
  unfold State.wrMonCfg
  with_reducible repeat' (first | assumption | (intro hz; clear_value z) | (intro _) | (extract_lets +onlyGivenNames z; first | (refine kept_cut b z ?_ ?_; dsimp -zeta only [z]; clear z) | clear_value z) | apply kept_ite | apply kept_count | apply kept_setReg | apply kept_monInside | apply kept_forEach | (apply kept_upd; assumption) | split)

theorem kept_wrMonPlain (s : State) (x1 : Reg) (x2 : Nat) (x3 : Nat) (x4 : Word) (h : Kept b s) : Kept b (State.wrMonPlain s x1
    x2 x3 x4) := by
  unfold State.wrMonPlain
  with_reducible repeat' (first | assumption | (intro _) | apply kept_ite | apply kept_count | apply kept_setReg | (apply kept_upd; assumption) | split)

theorem kept_wrMonStatus (s : State) (x1 : Nat) (x2 : Nat) (x3 : Word) (h : Kept b s) : Kept b (State.wrMonStatus s x1 x2 x3)
    := by
  unfold State.wrMonStatus
  with_reducible repeat' (first | assumption | (intro _) | apply kept_ite | apply kept_monInside | apply kept_regBit | (apply kept_upd; assumption) | split)

theorem kept_execBlankEnd (x0 : MonIx) (s : State) (h : Kept b s) : KeptR b (execBlankEnd x0 s) := by
  unfold execBlankEnd
  with_reducible repeat' (first | assumption | (intro _) | exact keptR_fault | exact keptO_none | apply keptR_next | apply keptO_some | apply keptR_ite | apply keptO_ite | apply keptO_map | apply kept_ite | apply kept_regBit | apply kept_forEach | (apply kept_upd; assumption) | split)

theorem kept_execBlankStart (x0 : MonIx) (s : State) (h : Kept b s) : KeptR b (execBlankStart x0 s) := by
  unfold execBlankStart
  with_reducible repeat' (first | assumption | (intro _) | exact keptR_fault | exact keptO_none | apply keptR_next | apply keptO_some | apply keptR_ite | apply keptO_ite | apply keptO_map | apply kept_ite | apply kept_regBit | apply kept_forEach | (apply kept_upd; assumption) | split)

theorem kept_execMonTick (x0 : MonIx) (x1 : BitVec 16) (s : State) (h : Kept b s) : KeptR b (execMonTick x0 x1 s) := by
  unfold execMonTick
  with_reducible repeat' (first | assumption | (intro _) | exact keptR_fault | exact keptO_none | apply keptR_next | apply keptO_some | apply keptR_ite | apply keptO_ite | apply keptO_map | apply kept_ite | apply kept_setReg | apply kept_trip | apply kept_monInside | apply kept_forEach | (apply kept_upd; assumption) | split)

theorem kept_modCap (s : State) (x1 : Nat) (x2 : CapEng → CapEng) (h : Kept b s) : Kept b (State.modCap s x1 x2) := by
  unfold State.modCap
  exact ⟨h.mem, h.regs, h.pending, h.c0, h.c1, h.fuses, h.revoked⟩

theorem kept_capArm (s : State) (x1 : Nat) (x2 : Nat) (h : Kept b s) : Kept b (State.capArm s x1 x2) := by
  unfold State.capArm
  exact ⟨h.mem, h.regs, h.pending, h.c0, h.c1, h.fuses, h.revoked⟩

theorem kept_capSample (s : State) (x1 : Nat) (x2 : Nat) (x3 : Option (List Byte)) (x4 : Option Int) (x5 : Bool) (h : Kept b s)
    : Kept b (State.capSample s x1 x2 x3 x4 x5) := by
  unfold State.capSample
  exact ⟨h.mem, h.regs, h.pending, h.c0, h.c1, h.fuses, h.revoked⟩

theorem kept_capBase (s : State) (x1 : Nat) (x2 : Int × Int) (h : Kept b s) : Kept b (State.capBase s x1 x2) := by
  unfold State.capBase
  with_reducible repeat' (first | assumption | (intro _) | apply kept_ite | apply kept_modCap | apply kept_capSample | (apply kept_upd; assumption) | split)

theorem kept_capConv (s : State) (x1 : Nat) (x2 : Nat) (x3 : Nat) (x4 : BitVec 16) (x5 : Bool) (h : Kept b s) : Kept b
    (State.capConv s x1 x2 x3 x4 x5) := by
  unfold State.capConv
  with_reducible repeat' (first | assumption | (intro hz; clear_value z) | (intro _) | (extract_lets +onlyGivenNames z; first | (refine kept_cut b z ?_ ?_; dsimp -zeta only [z]; clear z) | clear_value z) | apply kept_ite | apply kept_capSample | apply kept_forEach | (apply kept_upd; assumption) | split)

theorem kept_capPut (s : State) (x1 : Nat) (x2 : List Byte) (h : Kept b s) : Kept b (State.capPut s x1 x2) := by
  unfold State.capPut
  exact ⟨h.mem, h.regs, h.pending, h.c0, h.c1, h.fuses, h.revoked⟩

theorem kept_capEntry (s : State) (x1 : Nat) (h : Kept b s) : Kept b (State.capEntry s x1) := by
  unfold State.capEntry
  with_reducible repeat' (first | assumption | (intro hz; clear_value z) | (intro _) | (extract_lets +onlyGivenNames z; first | (refine kept_cut b z ?_ ?_; dsimp -zeta only [z]; clear z) | clear_value z) | apply kept_ite | apply kept_capPut | apply kept_modCap | apply kept_forEach | (apply kept_upd; assumption) | split)

theorem kept_capEvent (s : State) (x1 : Nat) (x2 : Nat) (x3 : Nat) (h : Kept b s) : Kept b (State.capEvent s x1 x2 x3) := by
  unfold State.capEvent
  with_reducible repeat' (first | assumption | (intro _) | apply kept_ite | apply kept_modCap | (apply kept_upd; assumption) | split)

theorem kept_capFlush (s : State) (x1 n : Nat) (h : Kept b s) : Kept b (State.capFlush s x1 n) := by
  induction n generalizing s with
  | zero => exact h
  | succ n ih =>
    unfold State.capFlush
    split
    · exact h
    · exact ih _ (kept_capEntry _ _ h)

theorem kept_capOpen (s : State) (x1 : Nat) (h : Kept b s) : Kept b (State.capOpen s x1) := by
  unfold State.capOpen
  with_reducible repeat' (first | assumption | (intro hz; clear_value z) | (intro _) | (extract_lets +onlyGivenNames z; first | (refine kept_cut b z ?_ ?_; dsimp -zeta only [z]; clear z) | clear_value z) | apply kept_ite | apply kept_capPut | apply kept_finish | apply kept_modCap | apply kept_forEach | (apply kept_upd; assumption) | split)

theorem kept_capPin (s : State) (x1 : Nat) (x2 : Bool) (x3 : Nat) (h : Kept b s) : Kept b (State.capPin s x1 x2 x3) := by
  unfold State.capPin
  with_reducible repeat' (first | assumption | (intro hz; clear_value z) | (intro _) | (extract_lets +onlyGivenNames z; first | (refine kept_cut b z ?_ ?_; dsimp -zeta only [z]; clear z) | clear_value z) | apply kept_ite | apply kept_modCap | apply kept_forEach | (apply kept_upd; assumption) | split)

theorem kept_capRow (s : State) (x1 : Nat) (x2 : Nat) (h : Kept b s) : Kept b (State.capRow s x1 x2) := by
  unfold State.capRow
  with_reducible repeat' (first | assumption | (intro hz; clear_value z) | (intro _) | (extract_lets +onlyGivenNames z; first | (refine kept_cut b z ?_ ?_; dsimp -zeta only [z]; clear z) | (refine kept_cut1 b z ?_ ?_; dsimp -zeta only [z]; clear z) | (refine kept_cut2 b z ?_ ?_; dsimp -zeta only [z]; clear z) | (refine kept_cutO b z ?_ ?_; dsimp -zeta only [z]; clear z) | (refine isFun z ?_; dsimp -zeta only [z]; clear z) | clear_value z) | exact keptR_fault | exact keptR_refused | exact keptO_none | apply keptR_next | apply keptO_some | apply keptR_ite | apply keptO_ite | apply kept_ite1 | apply kept_ite2 | apply keptO_map | apply keptO_bind | apply keptO_getD | apply kept_ite | apply kept_capBase | apply kept_modCap | apply kept_forEach | apply kept_foldl | (apply kept_upd; assumption) | (apply kept_of_some; assumption) | (apply kept_of_pair; assumption) | dsimp -zeta only | split)

theorem kept_capTake (s : State) (x1 : Nat) (x2 : CapSample) (h : Kept b s) : Kept b (State.capTake s x1 x2) := by
  unfold State.capTake
  with_reducible repeat' (first | assumption | (intro _) | apply kept_ite | apply kept_modCap | apply kept_count | (apply kept_upd; assumption) | split)

theorem kept_capWork (s : State) (x1 n : Nat) (h : Kept b s) : Kept b (State.capWork s x1 n) := by
  induction n generalizing s with
  | zero => exact h
  | succ n ih =>
    unfold State.capWork
    split
    · exact h
    · split
      · exact h
      · exact ih _ (kept_capTake _ _ _ h)

theorem kept_capRun (s : State) (x1 : Nat) (h : Kept b s) : Kept b (State.capRun s x1) := by
  unfold State.capRun
  with_reducible repeat' (first | assumption | (intro _) | apply kept_ite | apply kept_capWork | (apply kept_upd; assumption) | split)

theorem kept_capSettle (s : State) (x1 : Nat) (h : Kept b s) : Kept b (State.capSettle s x1) := by
  unfold State.capSettle
  with_reducible repeat' (first | assumption | (intro hz; clear_value z) | (intro _) | (extract_lets +onlyGivenNames z; first | (refine kept_cut b z ?_ ?_; dsimp -zeta only [z]; clear z) | clear_value z) | apply kept_ite | apply kept_capPut | apply kept_finish | apply kept_modCap | apply kept_fireProducer | apply kept_forEach | (apply kept_upd; assumption) | split)

theorem kept_capSourceOff (s : State) (x1 : Nat) (h : Kept b s) : Kept b (State.capSourceOff s x1) := by
  unfold State.capSourceOff
  with_reducible repeat' (first | assumption | (intro hz; clear_value z) | (intro _) | (extract_lets +onlyGivenNames z; first | (refine kept_cut b z ?_ ?_; dsimp -zeta only [z]; clear z) | clear_value z) | apply kept_ite | apply kept_modCap | apply kept_forEach | (apply kept_upd; assumption) | split)

theorem kept_capTrigger (s : State) (x1 : Nat) (x2 : CapSample) (h : Kept b s) : Kept b (State.capTrigger s x1 x2) := by
  unfold State.capTrigger
  with_reducible repeat' (first | assumption | (intro _) | apply kept_ite | apply kept_modCap | apply kept_capTake | apply kept_capFlush | apply kept_capPut | apply kept_count | apply kept_fireGen | (apply kept_upd; assumption) | split)

theorem kept_capStop (s : State) (x1 : Nat) (x2 : Nat) (x3 : Option Nat) (h : Kept b s) : Kept b (State.capStop s x1 x2 x3) :=
    by
  unfold State.capStop
  with_reducible repeat' (first | assumption | (intro hz; clear_value z) | (intro _) | (extract_lets +onlyGivenNames z; first | (refine kept_cut b z ?_ ?_; dsimp -zeta only [z]; clear z) | (refine kept_cut1 b z ?_ ?_; dsimp -zeta only [z]; clear z) | (refine kept_cut2 b z ?_ ?_; dsimp -zeta only [z]; clear z) | (refine kept_cutO b z ?_ ?_; dsimp -zeta only [z]; clear z) | (refine isFun z ?_; dsimp -zeta only [z]; clear z) | clear_value z) | exact keptR_fault | exact keptR_refused | exact keptO_none | apply keptR_next | apply keptO_some | apply keptR_ite | apply keptO_ite | apply kept_ite1 | apply kept_ite2 | apply keptO_map | apply keptO_bind | apply keptO_getD | apply kept_ite | apply kept_modCap | apply kept_capTrigger | apply kept_capTake | apply kept_capSettle | apply kept_capFlush | apply kept_forEach | apply kept_foldl | (apply kept_upd; assumption) | (apply kept_of_some; assumption) | (apply kept_of_pair; assumption) | dsimp -zeta only | split)

theorem kept_settleCap (s : State) (x1 : Nat) (h : Kept b s) : Kept b (State.settleCap s x1) := by
  unfold State.settleCap
  with_reducible repeat' (first | assumption | (intro hz; clear_value z) | (intro _) | (extract_lets +onlyGivenNames z; first | (refine kept_cut b z ?_ ?_; dsimp -zeta only [z]; clear z) | clear_value z) | apply kept_ite | apply kept_capStop | apply kept_modCap | apply kept_forEach | (apply kept_upd; assumption) | split)

theorem kept_wrCap (s : State) (x1 : Reg) (x2 : Nat) (x3 : Nat) (x4 : Nat) (x5 : Word) (h : Kept b s) : Kept b (State.wrCap s
    x1 x2 x3 x4 x5) := by
  unfold State.wrCap
  with_reducible repeat' (first | assumption | (intro _) | apply kept_ite | apply kept_count | apply kept_setReg | (apply kept_upd; assumption) | split)

theorem kept_execDataEntryWrite (x0 : CapIx) (s : State) (h : Kept b s) : KeptR b (execDataEntryWrite x0 s) := by
  unfold execDataEntryWrite
  with_reducible repeat' (first | assumption | (intro _) | exact keptR_fault | exact keptO_none | apply keptR_next | apply keptO_some | apply keptR_ite | apply keptO_ite | apply keptO_map | apply kept_ite | apply kept_capRun | apply kept_capEntry | apply kept_forEach | (apply kept_upd; assumption) | split)

theorem kept_execGapMark (x0 : CapIx) (s : State) (h : Kept b s) : KeptR b (execGapMark x0 s) := by
  unfold execGapMark
  with_reducible repeat' (first | assumption | (intro _) | exact keptR_fault | exact keptO_none | apply keptR_next | apply keptO_some | apply keptR_ite | apply keptO_ite | apply keptO_map | apply kept_ite | apply kept_capRun | apply kept_capFlush | apply kept_capPut | apply kept_modCap | apply kept_regBit | apply kept_capSettle | apply kept_occur | apply kept_forEach | (apply kept_upd; assumption) | split)

theorem kept_execSwatchStreamStart (x0 : CapIx) (s : State) (h : Kept b s) : KeptR b (execSwatchStreamStart x0 s) := by
  unfold execSwatchStreamStart
  with_reducible repeat' (first | assumption | (intro _) | exact keptR_fault | exact keptO_none | apply keptR_next | apply keptO_some | apply keptR_ite | apply keptO_ite | apply keptO_map | apply kept_ite | apply kept_capOpen | apply kept_forEach | (apply kept_upd; assumption) | split)

theorem kept_execTriggerMark (x0 : CapIx) (s : State) (h : Kept b s) : KeptR b (execTriggerMark x0 s) := by
  unfold execTriggerMark
  with_reducible repeat' (first | assumption | (intro _) | exact keptR_fault | exact keptO_none | apply keptR_next | apply keptO_some | apply keptR_ite | apply keptO_ite | apply keptO_map | apply kept_ite | apply kept_capRun | apply kept_capTrigger | apply kept_forEach | (apply kept_upd; assumption) | split)

theorem kept_tokenOn (s : State) (x1 : Nat) (x2 : Token) (h : Kept b s) : Kept b (State.tokenOn s x1 x2) := by
  unfold State.tokenOn
  exact ⟨h.mem, h.regs, h.pending, h.c0, h.c1, h.fuses, h.revoked⟩

theorem kept_emitToken (s : State) (x1 : Nat) (x2 : Token) (h : Kept b s) : Kept b (State.emitToken s x1 x2) := by
  unfold State.emitToken
  with_reducible repeat' (first | assumption | (intro _) | apply kept_ite | apply kept_tokenOn | apply kept_send | (apply kept_upd; assumption) | split)

theorem kept_modTable (s : State) (x1 : Nat) (x2 : Table → Table) (h : Kept b s) : Kept b (State.modTable s x1 x2) := by
  unfold State.modTable
  exact ⟨h.mem, h.regs, h.pending, h.c0, h.c1, h.fuses, h.revoked⟩

theorem kept_requestJump (s : State) (x1 : Nat) (x2 : Nat) (x3 : Option Token) (h : Kept b s) : Kept b (State.requestJump s x1
    x2 x3) := by
  unfold State.requestJump
  exact ⟨h.mem, h.regs, h.pending, h.c0, h.c1, h.fuses, h.revoked⟩

theorem kept_tableFire (s : State) (x1 : Nat) (x2 : Ecc) (h : Kept b s) : Kept b (State.tableFire s x1 x2) := by
  unfold State.tableFire
  with_reducible repeat' (first | assumption | (intro _) | apply kept_ite | apply kept_count | apply kept_modTable | apply kept_occur | apply kept_emitToken | apply kept_setReg | (apply kept_upd; assumption) | split)

theorem kept_tokenToTable (s : State) (x1 : Nat) (x2 : Nat) (x3 : Token) (x4 : Ecc) (h : Kept b s) : Kept b (State.tokenToTable
    s x1 x2 x3 x4) := by
  unfold State.tokenToTable
  with_reducible repeat' (first | assumption | (intro _) | apply kept_ite | apply kept_modTable | apply kept_count | apply kept_tableFire | (apply kept_upd; assumption) | split)

theorem kept_wrTable (s : State) (x1 : Reg) (x2 : Nat) (x3 : Nat) (x4 : Nat) (x5 : Word) (h : Kept b s) : Kept b (State.wrTable
    s x1 x2 x3 x4 x5) := by
  unfold State.wrTable
  with_reducible repeat' (first | assumption | (intro _) | apply kept_ite | apply kept_count | apply kept_setReg | apply kept_modTable | (apply kept_upd; assumption) | split)

theorem kept_wrTableIn (s : State) (x1 : Nat) (x2 : Nat) (x3 : Nat) (x4 : Word) (h : Kept b s) : Kept b (State.wrTableIn s x1
    x2 x3 x4) := by
  unfold State.wrTableIn
  with_reducible repeat' (first | assumption | (intro _) | apply kept_ite | apply kept_count | apply kept_setReg | (apply kept_upd; assumption) | split)

theorem kept_execTokenDelivery (x0 : Subscriber) (x1 : Ecc) (s : State) (h : Kept b s) : KeptR b (execTokenDelivery x0 x1 s) :=
    by
  unfold execTokenDelivery
  with_reducible repeat' (first | assumption | (intro _) | exact keptR_fault | exact keptO_none | apply keptR_next | apply keptO_some | apply keptR_ite | apply keptO_ite | apply keptO_map | apply kept_ite | apply kept_tokenToThread | apply kept_tokenToTable | apply kept_requestJump | apply kept_forEach | (apply kept_upd; assumption) | split)

end Sys2Proof.Machine
end

