-- ==== Sys2Proof/Laws/KeptReadout.lean ====
section
/-!
SUPPORT. What the operations keep: cast-on, lanes, readout, the auxiliary ADC, events, calibration.
-/
namespace Sys2Proof.Machine

set_option linter.all false

variable {b : State}

theorem kept_laneDeliver (s : State) (x1 : Nat) (x2 : LaneResult) (h : Kept b s) : Kept b (State.laneDeliver s x1 x2) := by
  unfold State.laneDeliver
  with_reducible repeat' (first | assumption | (intro _) | apply kept_ite | apply kept_count | apply kept_occur | apply kept_modLane | (apply kept_upd; assumption) | split)

theorem kept_laneEcc (s : State) (x1 : Nat) (x2 : Ecc) (h : Kept b s) : Kept b (State.laneEcc s x1 x2) := by
  unfold State.laneEcc
  with_reducible repeat' (first | assumption | (intro _) | apply kept_ite | apply kept_count | (apply kept_upd; assumption) | split)

theorem kept_laneFault (s : State) (x1 : Nat) (x2 : Nat) (h : Kept b s) : Kept b (State.laneFault s x1 x2) := by
  unfold State.laneFault
  with_reducible repeat' (first | assumption | (intro _) | apply kept_ite | apply kept_modLane | apply kept_occur | (apply kept_upd; assumption) | split)

theorem kept_laneIssue (s : State) (x1 : Nat) (x2 : Ecc) (x3 : Nat) (x4 : State → Word → Lane → State) (hx4 : ∀ s y1 y2, Kept b
    s → Kept b (x4 s y1 y2)) (h : Kept b s) : Kept b (State.laneIssue s x1 x2 x3 x4) := by
  unfold State.laneIssue
  with_reducible repeat' (first | assumption | (intro _) | apply kept_ite | apply kept_laneFault | apply kept_laneEcc | apply hx4 | (apply kept_upd; assumption) | split)

theorem kept_laneSet (s : State) (x1 : Nat) (x2 : Bool) (x3 : Lane) (x4 : Nat) (h : Kept b s) : Kept b (State.laneSet s x1 x2
    x3 x4) := by
  unfold State.laneSet
  with_reducible repeat' (first | assumption | (intro _) | apply kept_ite | apply kept_laneFault | apply kept_modLane | (apply kept_upd; assumption) | split)

theorem kept_laneI (s : State) (x1 : Nat) (x2 : Ecc) (x3 : Nat) (x4 : Word → Word → Alu) (h : Kept b s) : Kept b (State.laneI s
    x1 x2 x3 x4) := by
  unfold State.laneI
  with_reducible repeat' (first | assumption | (intro _) | apply kept_ite | apply kept_laneIssue | apply kept_laneSet | (apply kept_upd; assumption) | split)

theorem kept_laneR (s : State) (x1 : Nat) (x2 : Ecc) (x3 : Nat) (x4 : Word → Word → Alu) (h : Kept b s) : Kept b (State.laneR s
    x1 x2 x3 x4) := by
  unfold State.laneR
  with_reducible repeat' (first | assumption | (intro _) | apply kept_ite | apply kept_laneIssue | apply kept_laneSet | (apply kept_upd; assumption) | split)

theorem kept_laneReads (s : State) (x1 : Nat) (x2 : Reads) (x3 : State → State) (hx3 : ∀ s, Kept b s → Kept b (x3 s)) (h : Kept
    b s) : Kept b (State.laneReads s x1 x2 x3) := by
  unfold State.laneReads
  with_reducible repeat' (first | assumption | (intro _) | apply kept_ite | apply kept_count | apply kept_laneFault | apply hx3 | (apply kept_upd; assumption) | split)

theorem kept_laneSat (s : State) (x1 : Nat) (x2 : Bool) (h : Kept b s) : Kept b (State.laneSat s x1 x2) := by
  unfold State.laneSat
  with_reducible repeat' (first | assumption | (intro _) | apply kept_ite | apply kept_regBit | (apply kept_upd; assumption) | split)

theorem kept_laneSearch (s : State) (x1 : Nat) (x2 : Ecc) (x3 : Reads) (x4 : Nat) (x5 : Int → Int → Bool) (h : Kept b s) : Kept
    b (State.laneSearch s x1 x2 x3 x4 x5) := by
  unfold State.laneSearch
  with_reducible repeat' (first | assumption | (intro hz; clear_value z) | (intro _) | (extract_lets +onlyGivenNames z; first | (refine kept_cut b z ?_ ?_; dsimp -zeta only [z]; clear z) | clear_value z) | apply kept_ite | apply kept_laneIssue | apply kept_laneFault | apply kept_laneReads | apply kept_laneSet | apply kept_forEach | (apply kept_upd; assumption) | split)

theorem kept_laneStart (s : State) (x1 : Nat) (x2 : Option Nat) (h : Kept b s) : Kept b (State.laneStart s x1 x2) := by
  unfold State.laneStart
  exact ⟨h.mem, h.regs, h.pending, h.c0, h.c1, h.fuses, h.revoked⟩

theorem kept_wrLaneCtl (s : State) (x1 : Nat) (x2 : Word) (h : Kept b s) : Kept b (State.wrLaneCtl s x1 x2) := by
  unfold State.wrLaneCtl
  with_reducible repeat' (first | assumption | (intro _) | apply kept_ite | apply kept_setReg | apply kept_modLane | apply kept_count | apply kept_laneStart | (apply kept_upd; assumption) | split)

theorem kept_wrLaneStatus (s : State) (x1 : Nat) (x2 : Word) (h : Kept b s) : Kept b (State.wrLaneStatus s x1 x2) := by
  unfold State.wrLaneStatus
  with_reducible repeat' (first | assumption | (intro _) | apply kept_ite | apply kept_setReg | apply kept_modLane | (apply kept_upd; assumption) | split)

theorem kept_execLAdd (x0 : LaneIx) (x1 : Ecc) (s : State) (h : Kept b s) : KeptR b (execLAdd x0 x1 s) := by
  unfold execLAdd
  with_reducible repeat' (first | assumption | (intro _) | exact keptR_fault | exact keptO_none | apply keptR_next | apply keptO_some | apply keptR_ite | apply keptO_ite | apply keptO_map | apply kept_ite | apply kept_laneR | apply kept_forEach | (apply kept_upd; assumption) | split)

theorem kept_execLAddi (x0 : LaneIx) (x1 : Ecc) (s : State) (h : Kept b s) : KeptR b (execLAddi x0 x1 s) := by
  unfold execLAddi
  with_reducible repeat' (first | assumption | (intro _) | exact keptR_fault | exact keptO_none | apply keptR_next | apply keptO_some | apply keptR_ite | apply keptO_ite | apply keptO_map | apply kept_ite | apply kept_laneI | apply kept_forEach | (apply kept_upd; assumption) | split)

theorem kept_execLAnd (x0 : LaneIx) (x1 : Ecc) (s : State) (h : Kept b s) : KeptR b (execLAnd x0 x1 s) := by
  unfold execLAnd
  with_reducible repeat' (first | assumption | (intro _) | exact keptR_fault | exact keptO_none | apply keptR_next | apply keptO_some | apply keptR_ite | apply keptO_ite | apply keptO_map | apply kept_ite | apply kept_laneR | apply kept_forEach | (apply kept_upd; assumption) | split)

theorem kept_execLBcc (x0 : LaneIx) (x1 : Ecc) (s : State) (h : Kept b s) : KeptR b (execLBcc x0 x1 s) := by
  unfold execLBcc
  with_reducible repeat' (first | assumption | (intro _) | exact keptR_fault | exact keptO_none | apply keptR_next | apply keptO_some | apply keptR_ite | apply keptO_ite | apply keptO_map | apply kept_ite | apply kept_laneIssue | apply kept_laneFault | apply kept_modLane | apply kept_laneSet | apply kept_forEach | (apply kept_upd; assumption) | split)

theorem kept_execLBr (x0 : LaneIx) (x1 : Ecc) (s : State) (h : Kept b s) : KeptR b (execLBr x0 x1 s) := by
  unfold execLBr
  with_reducible repeat' (first | assumption | (intro _) | exact keptR_fault | exact keptO_none | apply keptR_next | apply keptO_some | apply keptR_ite | apply keptO_ite | apply keptO_map | apply kept_ite | apply kept_laneIssue | apply kept_laneFault | apply kept_modLane | apply kept_forEach | (apply kept_upd; assumption) | split)

theorem kept_execLCall (x0 : LaneIx) (x1 : Ecc) (s : State) (h : Kept b s) : KeptR b (execLCall x0 x1 s) := by
  unfold execLCall
  with_reducible repeat' (first | assumption | (intro _) | exact keptR_fault | exact keptO_none | apply keptR_next | apply keptO_some | apply keptR_ite | apply keptO_ite | apply keptO_map | apply kept_ite | apply kept_laneIssue | apply kept_laneFault | apply kept_modLane | apply kept_forEach | (apply kept_upd; assumption) | split)

theorem kept_execLClra (x0 : LaneIx) (x1 : Ecc) (s : State) (h : Kept b s) : KeptR b (execLClra x0 x1 s) := by
  unfold execLClra
  with_reducible repeat' (first | assumption | (intro _) | exact keptR_fault | exact keptO_none | apply keptR_next | apply keptO_some | apply keptR_ite | apply keptO_ite | apply keptO_map | apply kept_ite | apply kept_laneIssue | apply kept_laneSet | apply kept_forEach | (apply kept_upd; assumption) | split)

theorem kept_execLCmac (x0 : LaneIx) (x1 : Ecc) (x2 : Reads) (s : State) (h : Kept b s) : KeptR b (execLCmac x0 x1 x2 s) := by
  unfold execLCmac
  with_reducible repeat' (first | assumption | (intro _) | exact keptR_fault | exact keptO_none | apply keptR_next | apply keptO_some | apply keptR_ite | apply keptO_ite | apply keptO_map | apply kept_ite | apply kept_laneIssue | apply kept_laneFault | apply kept_laneReads | apply kept_laneSet | apply kept_laneSat | apply kept_forEach | (apply kept_upd; assumption) | split)

theorem kept_execLCmp (x0 : LaneIx) (x1 : Ecc) (s : State) (h : Kept b s) : KeptR b (execLCmp x0 x1 s) := by
  unfold execLCmp
  with_reducible repeat' (first | assumption | (intro _) | exact keptR_fault | exact keptO_none | apply keptR_next | apply keptO_some | apply keptR_ite | apply keptO_ite | apply keptO_map | apply kept_ite | apply kept_laneIssue | apply kept_laneSet | apply kept_forEach | (apply kept_upd; assumption) | split)

theorem kept_execLCmpi (x0 : LaneIx) (x1 : Ecc) (s : State) (h : Kept b s) : KeptR b (execLCmpi x0 x1 s) := by
  unfold execLCmpi
  with_reducible repeat' (first | assumption | (intro _) | exact keptR_fault | exact keptO_none | apply keptR_next | apply keptO_some | apply keptR_ite | apply keptO_ite | apply keptO_map | apply kept_ite | apply kept_laneIssue | apply kept_laneSet | apply kept_forEach | (apply kept_upd; assumption) | split)

theorem kept_execLHalt (x0 : LaneIx) (x1 : Ecc) (s : State) (h : Kept b s) : KeptR b (execLHalt x0 x1 s) := by
  unfold execLHalt
  with_reducible repeat' (first | assumption | (intro _) | exact keptR_fault | exact keptO_none | apply keptR_next | apply keptO_some | apply keptR_ite | apply keptO_ite | apply keptO_map | apply kept_ite | apply kept_laneIssue | apply kept_laneFault | apply kept_modLane | apply kept_regBit | apply kept_count | apply kept_fireGen | apply kept_forEach | (apply kept_upd; assumption) | split)

theorem kept_execLLd (x0 : LaneIx) (x1 : Ecc) (x2 : Reads) (s : State) (h : Kept b s) : KeptR b (execLLd x0 x1 x2 s) := by
  unfold execLLd
  with_reducible repeat' (first | assumption | (intro _) | exact keptR_fault | exact keptO_none | apply keptR_next | apply keptO_some | apply keptR_ite | apply keptO_ite | apply keptO_map | apply kept_ite | apply kept_laneIssue | apply kept_laneFault | apply kept_laneReads | apply kept_laneSet | apply kept_forEach | (apply kept_upd; assumption) | split)

theorem kept_execLLdi (x0 : LaneIx) (x1 : Ecc) (s : State) (h : Kept b s) : KeptR b (execLLdi x0 x1 s) := by
  unfold execLLdi
  with_reducible repeat' (first | assumption | (intro _) | exact keptR_fault | exact keptO_none | apply keptR_next | apply keptO_some | apply keptR_ite | apply keptO_ite | apply keptO_map | apply kept_ite | apply kept_laneIssue | apply kept_laneSet | apply kept_forEach | (apply kept_upd; assumption) | split)

theorem kept_execLLdih (x0 : LaneIx) (x1 : Ecc) (s : State) (h : Kept b s) : KeptR b (execLLdih x0 x1 s) := by
  unfold execLLdih
  with_reducible repeat' (first | assumption | (intro _) | exact keptR_fault | exact keptO_none | apply keptR_next | apply keptO_some | apply keptR_ite | apply keptO_ite | apply keptO_map | apply kept_ite | apply kept_laneIssue | apply kept_laneSet | apply kept_forEach | (apply kept_upd; assumption) | split)

theorem kept_execLMacr (x0 : LaneIx) (x1 : Ecc) (s : State) (h : Kept b s) : KeptR b (execLMacr x0 x1 s) := by
  unfold execLMacr
  with_reducible repeat' (first | assumption | (intro _) | exact keptR_fault | exact keptO_none | apply keptR_next | apply keptO_some | apply keptR_ite | apply keptO_ite | apply keptO_map | apply kept_ite | apply kept_laneIssue | apply kept_laneFault | apply kept_laneSet | apply kept_laneSat | apply kept_forEach | (apply kept_upd; assumption) | split)

theorem kept_execLMaxs (x0 : LaneIx) (x1 : Ecc) (x2 : Reads) (s : State) (h : Kept b s) : KeptR b (execLMaxs x0 x1 x2 s) := by
  unfold execLMaxs
  with_reducible repeat' (first | assumption | (intro _) | exact keptR_fault | exact keptO_none | apply keptR_next | apply keptO_some | apply keptR_ite | apply keptO_ite | apply keptO_map | apply kept_ite | apply kept_laneSearch | apply kept_forEach | (apply kept_upd; assumption) | split)

theorem kept_execLMins (x0 : LaneIx) (x1 : Ecc) (x2 : Reads) (s : State) (h : Kept b s) : KeptR b (execLMins x0 x1 x2 s) := by
  unfold execLMins
  with_reducible repeat' (first | assumption | (intro _) | exact keptR_fault | exact keptO_none | apply keptR_next | apply keptO_some | apply keptR_ite | apply keptO_ite | apply keptO_map | apply kept_ite | apply kept_laneSearch | apply kept_forEach | (apply kept_upd; assumption) | split)

theorem kept_execLMul (x0 : LaneIx) (x1 : Ecc) (s : State) (h : Kept b s) : KeptR b (execLMul x0 x1 s) := by
  unfold execLMul
  with_reducible repeat' (first | assumption | (intro _) | exact keptR_fault | exact keptO_none | apply keptR_next | apply keptO_some | apply keptR_ite | apply keptO_ite | apply keptO_map | apply kept_ite | apply kept_laneR | apply kept_forEach | (apply kept_upd; assumption) | split)

theorem kept_execLNop (x0 : LaneIx) (x1 : Ecc) (s : State) (h : Kept b s) : KeptR b (execLNop x0 x1 s) := by
  unfold execLNop
  with_reducible repeat' (first | assumption | (intro _) | exact keptR_fault | exact keptO_none | apply keptR_next | apply keptO_some | apply keptR_ite | apply keptO_ite | apply keptO_map | apply kept_ite | apply kept_laneIssue | apply kept_laneSet | apply kept_forEach | (apply kept_upd; assumption) | split)

theorem kept_execLOr (x0 : LaneIx) (x1 : Ecc) (s : State) (h : Kept b s) : KeptR b (execLOr x0 x1 s) := by
  unfold execLOr
  with_reducible repeat' (first | assumption | (intro _) | exact keptR_fault | exact keptO_none | apply keptR_next | apply keptO_some | apply keptR_ite | apply keptO_ite | apply keptO_map | apply kept_ite | apply kept_laneR | apply kept_forEach | (apply kept_upd; assumption) | split)

theorem kept_execLPop (x0 : LaneIx) (x1 : Ecc) (s : State) (h : Kept b s) : KeptR b (execLPop x0 x1 s) := by
  unfold execLPop
  with_reducible repeat' (first | assumption | (intro _) | exact keptR_fault | exact keptO_none | apply keptR_next | apply keptO_some | apply keptR_ite | apply keptO_ite | apply keptO_map | apply kept_ite | apply kept_laneIssue | apply kept_laneFault | apply kept_laneSet | apply kept_modLane | apply kept_forEach | (apply kept_upd; assumption) | split)

theorem kept_execLRec (x0 : LaneIx) (x1 : Ecc) (s : State) (h : Kept b s) : KeptR b (execLRec x0 x1 s) := by
  unfold execLRec
  with_reducible repeat' (first | assumption | (intro _) | exact keptR_fault | exact keptO_none | apply keptR_next | apply keptO_some | apply keptR_ite | apply keptO_ite | apply keptO_map | apply kept_ite | apply kept_laneIssue | apply kept_modLane | apply kept_laneFault | apply kept_count | apply kept_formRecord | apply kept_forEach | (apply kept_upd; assumption) | split)

theorem kept_execLRep (x0 : LaneIx) (x1 : Ecc) (s : State) (h : Kept b s) : KeptR b (execLRep x0 x1 s) := by
  unfold execLRep
  with_reducible repeat' (first | assumption | (intro _) | exact keptR_fault | exact keptO_none | apply keptR_next | apply keptO_some | apply keptR_ite | apply keptO_ite | apply keptO_map | apply kept_ite | apply kept_laneIssue | apply kept_laneFault | apply kept_modLane | apply kept_forEach | (apply kept_upd; assumption) | split)

theorem kept_execLRet (x0 : LaneIx) (x1 : Ecc) (s : State) (h : Kept b s) : KeptR b (execLRet x0 x1 s) := by
  unfold execLRet
  with_reducible repeat' (first | assumption | (intro _) | exact keptR_fault | exact keptO_none | apply keptR_next | apply keptO_some | apply keptR_ite | apply keptO_ite | apply keptO_map | apply kept_ite | apply kept_laneIssue | apply kept_laneFault | apply kept_modLane | apply kept_forEach | (apply kept_upd; assumption) | split)

theorem kept_execLRnd (x0 : LaneIx) (x1 : Ecc) (s : State) (h : Kept b s) : KeptR b (execLRnd x0 x1 s) := by
  unfold execLRnd
  with_reducible repeat' (first | assumption | (intro _) | exact keptR_fault | exact keptO_none | apply keptR_next | apply keptO_some | apply keptR_ite | apply keptO_ite | apply keptO_map | apply kept_ite | apply kept_laneIssue | apply kept_laneFault | apply kept_laneSet | apply kept_laneSat | apply kept_forEach | (apply kept_upd; assumption) | split)

theorem kept_execLSetp (x0 : LaneIx) (x1 : Ecc) (s : State) (h : Kept b s) : KeptR b (execLSetp x0 x1 s) := by
  unfold execLSetp
  with_reducible repeat' (first | assumption | (intro _) | exact keptR_fault | exact keptO_none | apply keptR_next | apply keptO_some | apply keptR_ite | apply keptO_ite | apply keptO_map | apply kept_ite | apply kept_laneIssue | apply kept_laneSet | apply kept_forEach | (apply kept_upd; assumption) | split)

theorem kept_execLShli (x0 : LaneIx) (x1 : Ecc) (s : State) (h : Kept b s) : KeptR b (execLShli x0 x1 s) := by
  unfold execLShli
  with_reducible repeat' (first | assumption | (intro _) | exact keptR_fault | exact keptO_none | apply keptR_next | apply keptO_some | apply keptR_ite | apply keptO_ite | apply keptO_map | apply kept_ite | apply kept_laneI | apply kept_forEach | (apply kept_upd; assumption) | split)

theorem kept_execLShra (x0 : LaneIx) (x1 : Ecc) (s : State) (h : Kept b s) : KeptR b (execLShra x0 x1 s) := by
  unfold execLShra
  with_reducible repeat' (first | assumption | (intro _) | exact keptR_fault | exact keptO_none | apply keptR_next | apply keptO_some | apply keptR_ite | apply keptO_ite | apply keptO_map | apply kept_ite | apply kept_laneI | apply kept_forEach | (apply kept_upd; assumption) | split)

theorem kept_execLShri (x0 : LaneIx) (x1 : Ecc) (s : State) (h : Kept b s) : KeptR b (execLShri x0 x1 s) := by
  unfold execLShri
  with_reducible repeat' (first | assumption | (intro _) | exact keptR_fault | exact keptO_none | apply keptR_next | apply keptO_some | apply keptR_ite | apply keptO_ite | apply keptO_map | apply kept_ite | apply kept_laneI | apply kept_forEach | (apply kept_upd; assumption) | split)

theorem kept_execLSig (x0 : LaneIx) (x1 : Ecc) (s : State) (h : Kept b s) : KeptR b (execLSig x0 x1 s) := by
  unfold execLSig
  with_reducible repeat' (first | assumption | (intro _) | exact keptR_fault | exact keptO_none | apply keptR_next | apply keptO_some | apply keptR_ite | apply keptO_ite | apply keptO_map | apply kept_ite | apply kept_laneIssue | apply kept_laneFault | apply kept_fireFrom | apply kept_modLane | apply kept_forEach | (apply kept_upd; assumption) | split)

theorem kept_execLSt (x0 : LaneIx) (x1 : Ecc) (s : State) (h : Kept b s) : KeptR b (execLSt x0 x1 s) := by
  unfold execLSt
  with_reducible repeat' (first | assumption | (intro _) | exact keptR_fault | exact keptO_none | apply keptR_next | apply keptO_some | apply keptR_ite | apply keptO_ite | apply keptO_map | apply kept_ite | apply kept_laneIssue | apply kept_laneFault | apply kept_laneSet | apply kept_setLaneWord | apply kept_forEach | (apply kept_upd; assumption) | split)

theorem kept_execLSub (x0 : LaneIx) (x1 : Ecc) (s : State) (h : Kept b s) : KeptR b (execLSub x0 x1 s) := by
  unfold execLSub
  with_reducible repeat' (first | assumption | (intro _) | exact keptR_fault | exact keptO_none | apply keptR_next | apply keptO_some | apply keptR_ite | apply keptO_ite | apply keptO_map | apply kept_ite | apply kept_laneR | apply kept_forEach | (apply kept_upd; assumption) | split)

theorem kept_execLTok (x0 : LaneIx) (x1 : Ecc) (s : State) (h : Kept b s) : KeptR b (execLTok x0 x1 s) := by
  unfold execLTok
  with_reducible repeat' (first | assumption | (intro _) | exact keptR_fault | exact keptO_none | apply keptR_next | apply keptO_some | apply keptR_ite | apply keptO_ite | apply keptO_map | apply kept_ite | apply kept_laneIssue | apply kept_laneFault | apply kept_modLane | apply kept_emitToken | apply kept_setReg | apply kept_forEach | (apply kept_upd; assumption) | split)

theorem kept_execLXor (x0 : LaneIx) (x1 : Ecc) (s : State) (h : Kept b s) : KeptR b (execLXor x0 x1 s) := by
  unfold execLXor
  with_reducible repeat' (first | assumption | (intro _) | exact keptR_fault | exact keptO_none | apply keptR_next | apply keptO_some | apply keptR_ite | apply keptO_ite | apply keptO_map | apply kept_ite | apply kept_laneR | apply kept_forEach | (apply kept_upd; assumption) | split)

theorem kept_execLanePopResume (x0 : LaneIx) (s : State) (h : Kept b s) : KeptR b (execLanePopResume x0 s) := by
  unfold execLanePopResume
  with_reducible repeat' (first | assumption | (intro _) | exact keptR_fault | exact keptO_none | apply keptR_next | apply keptO_some | apply keptR_ite | apply keptO_ite | apply keptO_map | apply kept_ite | apply kept_modLane | apply kept_forEach | (apply kept_upd; assumption) | split)

theorem kept_avgSum (s : State) (x1 : Reg) (x2 : Reg) (x3 : Nat) (x4 : Nat) (x5 : Int) (h : Kept b s) : Kept b (State.avgSum s
    x1 x2 x3 x4 x5) := by
  unfold State.avgSum
  with_reducible repeat' (first | assumption | (intro _) | apply kept_ite | apply kept_setPair | (apply kept_upd; assumption) | split)

theorem kept_average (s : State) (x1 : Window) (x2 : Int × Int × Bool) (x3 : BitVec 16) (h : Kept b s) : Kept b (State.average
    s x1 x2 x3) := by
  unfold State.average
  with_reducible repeat' (first | assumption | (intro hz; clear_value z) | (intro _) | (extract_lets +onlyGivenNames z; first | (refine kept_cut b z ?_ ?_; dsimp -zeta only [z]; clear z) | clear_value z) | apply kept_ite | apply kept_count | apply kept_avgSum | apply kept_forEach | (apply kept_upd; assumption) | split)

theorem kept_clearAvg (s : State) (x1 : Nat) (h : Kept b s) : Kept b (State.clearAvg s x1) := by
  unfold State.clearAvg
  with_reducible repeat' (first | assumption | (intro hz; clear_value z) | (intro _) | (extract_lets +onlyGivenNames z; first | (refine kept_cut b z ?_ ?_; dsimp -zeta only [z]; clear z) | clear_value z) | apply kept_ite | apply kept_setReg | apply kept_forEach | (apply kept_upd; assumption) | split)

theorem kept_kernelEcc (s : State) (x1 : Window) (x2 : KernelCheck) (h : Kept b s) : Kept b (State.kernelEcc s x1 x2).1 := by
  unfold State.kernelEcc
  with_reducible repeat' (first | assumption | (intro _) | apply kept_ite | apply kept_count | apply kept_raiseRun | apply kept_regBit | apply kept_occur | (apply kept_upd; assumption) | split)

theorem kept_completeWindow (s : State) (x1 : Window) (x2 : KernelCheck) (h : Kept b s) : Kept b (State.completeWindow s x1 x2)
    := by
  unfold State.completeWindow
  with_reducible repeat' (first | assumption | (intro _) | apply kept_ite | apply kept_kernelEcc | apply kept_setReg | apply kept_occur | apply kept_count | apply kept_emitToken | apply kept_fireProducer | apply kept_formRecord | apply kept_average | apply kept_laneDeliver | (apply kept_upd; assumption) | split)

theorem kept_markWindows (s : State) (x1 : Nat) (x2 : Nat) (h : Kept b s) : Kept b (State.markWindows s x1 x2) := by
  unfold State.markWindows
  exact ⟨h.mem, h.regs, h.pending, h.c0, h.c1, h.fuses, h.revoked⟩

theorem kept_pruneAdc (s : State) (x1 : Nat) (x2 : Nat) (h : Kept b s) : Kept b (State.pruneAdc s x1 x2) := by
  unfold State.pruneAdc
  exact ⟨h.mem, h.regs, h.pending, h.c0, h.c1, h.fuses, h.revoked⟩

theorem kept_readRow (s : State) (x1 : Nat) (x2 : Nat) (x3 : Option (List (BitVec 12))) (h : Kept b s) : Kept b (State.readRow
    s x1 x2 x3) := by
  unfold State.readRow
  with_reducible repeat' (first | assumption | (intro hz; clear_value z) | (intro _) | (extract_lets +onlyGivenNames z; first | (refine kept_cut b z ?_ ?_; dsimp -zeta only [z]; clear z) | (refine kept_cut1 b z ?_ ?_; dsimp -zeta only [z]; clear z) | (refine kept_cut2 b z ?_ ?_; dsimp -zeta only [z]; clear z) | (refine isFun z ?_; dsimp -zeta only [z]; clear z) | clear_value z) | exact keptR_fault | exact keptO_none | apply keptR_next | apply keptO_some | apply keptR_ite | apply keptO_ite | apply keptO_map | apply keptO_getD | apply kept_ite | apply kept_free | apply kept_forEach | (apply kept_upd; assumption) | (apply kept_of_some; assumption) | (apply kept_of_pair; assumption) | dsimp -zeta only | split)

theorem kept_settleInput (s : State) (x1 : Nat) (h : Kept b s) : Kept b (State.settleInput s x1) := by
  unfold State.settleInput
  with_reducible repeat' (first | assumption | (intro _) | apply kept_ite | apply kept_regBit | (apply kept_upd; assumption) | split)

theorem kept_windowOver (s : State) (x1 : Nat) (x2 : KernelCheck) (h : Kept b s) : Kept b (State.windowOver s x1 x2) := by
  unfold State.windowOver
  with_reducible repeat' (first | assumption | (intro _) | apply kept_ite | apply kept_completeWindow | (apply kept_upd; assumption) | split)

theorem kept_wrChCtl (s : State) (x1 : Nat) (x2 : Word) (h : Kept b s) : Kept b (State.wrChCtl s x1 x2) := by
  unfold State.wrChCtl
  with_reducible repeat' (first | assumption | (intro _) | apply kept_ite | apply kept_count | apply kept_setReg | apply kept_clearAvg | apply kept_oscSet | (apply kept_upd; assumption) | split)

theorem kept_wrChOsc (s : State) (x1 : Nat) (x2 : Osc → Osc) (h : Kept b s) : Kept b (State.wrChOsc s x1 x2) := by
  unfold State.wrChOsc
  with_reducible repeat' (first | assumption | (intro _) | apply kept_ite | apply kept_count | apply kept_oscSet | (apply kept_upd; assumption) | split)

theorem kept_wrInCtl (s : State) (x1 : Nat) (x2 : Word) (h : Kept b s) : Kept b (State.wrInCtl s x1 x2) := by
  unfold State.wrInCtl
  with_reducible repeat' (first | assumption | (intro hz; clear_value z) | (intro _) | (extract_lets +onlyGivenNames z; first | (refine kept_cut b z ?_ ?_; dsimp -zeta only [z]; clear z) | clear_value z) | apply kept_ite | apply kept_setReg | apply kept_enSet | apply kept_testOff | apply kept_disableQueue | apply kept_capSourceOff | apply kept_endCal | apply kept_forEach | (apply kept_upd; assumption) | split)

theorem kept_wrKernelSet (s : State) (x1 : Reg) (x2 : Nat) (x3 : Nat) (x4 : Word) (h : Kept b s) : Kept b (State.wrKernelSet s
    x1 x2 x3 x4) := by
  unfold State.wrKernelSet
  with_reducible repeat' (first | assumption | (intro _) | apply kept_ite | apply kept_count | apply kept_setReg | (apply kept_upd; assumption) | split)

theorem kept_execAdcNotReady (x0 : InIx) (s : State) (h : Kept b s) : KeptR b (execAdcNotReady x0 s) := by
  unfold execAdcNotReady
  with_reducible repeat' (first | assumption | (intro _) | exact keptR_fault | exact keptO_none | apply keptR_next | apply keptO_some | apply keptR_ite | apply keptO_ite | apply keptO_map | apply kept_ite | apply kept_occur | apply kept_enSet | apply kept_forEach | (apply kept_upd; assumption) | split)

theorem kept_execAdcReady (x0 : InIx) (s : State) (h : Kept b s) : KeptR b (execAdcReady x0 s) := by
  unfold execAdcReady
  with_reducible repeat' (first | assumption | (intro _) | exact keptR_fault | exact keptO_none | apply keptR_next | apply keptO_some | apply keptR_ite | apply keptO_ite | apply keptO_map | apply kept_ite | apply kept_enSet | apply kept_regBit | apply kept_forEach | (apply kept_upd; assumption) | split)

theorem kept_execOverRangeRow (x0 : InIx) (s : State) (h : Kept b s) : KeptR b (execOverRangeRow x0 s) := by
  unfold execOverRangeRow
  with_reducible repeat' (first | assumption | (intro _) | exact keptR_fault | exact keptO_none | apply keptR_next | apply keptO_some | apply keptR_ite | apply keptO_ite | apply keptO_map | apply kept_ite | apply kept_setPair | apply kept_count | apply kept_regBit | apply kept_occur | apply kept_forEach | (apply kept_upd; assumption) | split)

theorem kept_execWindowComplete (x0 : ChIx) (x1 : KernelCheck) (s : State) (h : Kept b s) : KeptR b (execWindowComplete x0 x1
    s) := by
  unfold execWindowComplete
  with_reducible repeat' (first | assumption | (intro _) | exact keptR_fault | exact keptO_none | apply keptR_next | apply keptO_some | apply keptR_ite | apply keptO_ite | apply keptO_map | apply kept_ite | apply kept_windowOver | apply kept_forEach | (apply kept_upd; assumption) | split)

theorem kept_forceDue (s : State) (x1 : Nat) (h : Kept b s) : Kept b (State.forceDue s x1) := by
  unfold State.forceDue
  with_reducible repeat' (first | assumption | (intro hz; clear_value z) | (intro _) | (extract_lets +onlyGivenNames z; first | (refine kept_cut b z ?_ ?_; dsimp -zeta only [z]; clear z) | clear_value z) | apply kept_ite | apply kept_occur | apply kept_forEach | (apply kept_upd; assumption) | split)

theorem kept_quietExit (s : State) (h : Kept b s) : Kept b (State.quietExit s) := by
  unfold State.quietExit
  with_reducible repeat' (first | assumption | (intro hz; clear_value z) | (intro _) | (extract_lets +onlyGivenNames z; first | (refine kept_cut b z ?_ ?_; dsimp -zeta only [z]; clear z) | clear_value z) | apply kept_ite | apply kept_modQuiet | apply kept_notifyAll | apply kept_forEach | (apply kept_upd; assumption) | split)

theorem kept_reassertFaultN (s : State) (h : Kept b s) : Kept b (State.reassertFaultN s) := by
  unfold State.reassertFaultN
  with_reducible repeat' (first | assumption | (intro _) | apply kept_ite | (apply kept_upd; assumption) | split)

theorem kept_settleFaultN (s : State) (h : Kept b s) : Kept b (State.settleFaultN s) := by
  unfold State.settleFaultN
  with_reducible repeat' (first | assumption | (intro hz; clear_value z) | (intro _) | (extract_lets +onlyGivenNames z; first | (refine kept_cut b z ?_ ?_; dsimp -zeta only [z]; clear z) | clear_value z) | apply kept_ite | apply kept_forEach | (apply kept_upd; assumption) | split)

theorem kept_wrFirstClr (s : State) (x1 : Nat) (x2 : Word) (h : Kept b s) : Kept b (State.wrFirstClr s x1 x2) := by
  unfold State.wrFirstClr
  with_reducible repeat' (first | assumption | (intro hz; clear_value z) | (intro _) | (extract_lets +onlyGivenNames z; first | (refine kept_cut b z ?_ ?_; dsimp -zeta only [z]; clear z) | clear_value z) | apply kept_ite | apply kept_regBit | apply kept_setPair | apply kept_forEach | (apply kept_upd; assumption) | split)

theorem kept_wrFltCtl (s : State) (x1 : Word) (h : Kept b s) : Kept b (State.wrFltCtl s x1) := by
  unfold State.wrFltCtl
  with_reducible repeat' (first | assumption | (intro hz; clear_value z) | (intro _) | (extract_lets +onlyGivenNames z; first | (refine kept_cut b z ?_ ?_; dsimp -zeta only [z]; clear z) | clear_value z) | apply kept_ite | apply kept_setReg | apply kept_refreshFaultN | apply kept_forEach | (apply kept_upd; assumption) | split)

theorem kept_wrFnAck (s : State) (x1 : Nat) (h : Kept b s) : Kept b (State.wrFnAck s x1) := by
  unfold State.wrFnAck
  with_reducible repeat' (first | assumption | (intro _) | apply kept_ite | apply kept_count | (apply kept_upd; assumption) | split)

theorem kept_wrPsum (s : State) (x1 : Nat) (x2 : Nat) (x3 : Word) (h : Kept b s) : Kept b (State.wrPsum s x1 x2 x3) := by
  unfold State.wrPsum
  with_reducible repeat' (first | assumption | (intro hz; clear_value z) | (intro _) | (extract_lets +onlyGivenNames z; first | (refine kept_cut b z ?_ ?_; dsimp -zeta only [z]; clear z) | clear_value z) | apply kept_ite | apply kept_setReg | apply kept_forEach | (apply kept_upd; assumption) | split)

theorem kept_wrQuietCtl (s : State) (x1 : Nat) (x2 : Word) (h : Kept b s) : Kept b (State.wrQuietCtl s x1 x2) := by
  unfold State.wrQuietCtl
  with_reducible repeat' (first | assumption | (intro hz; clear_value z) | (intro _) | (extract_lets +onlyGivenNames z; first | (refine kept_cut b z ?_ ?_; dsimp -zeta only [z]; clear z) | clear_value z) | apply kept_ite | apply kept_modQuiet | apply kept_enterQuiet | apply kept_forEach | (apply kept_upd; assumption) | split)

theorem kept_wrSrcCfg (s : State) (x1 : Nat) (x2 : Nat) (x3 : Word) (h : Kept b s) : Kept b (State.wrSrcCfg s x1 x2 x3) := by
  unfold State.wrSrcCfg
  with_reducible repeat' (first | assumption | (intro _) | apply kept_ite | apply kept_count | apply kept_refreshFaultN | apply kept_setReg | (apply kept_upd; assumption) | split)

theorem kept_wrSrcForce (s : State) (x1 : Nat) (x2 : Nat) (x3 : Word) (h : Kept b s) : Kept b (State.wrSrcForce s x1 x2 x3) :=
    by
  unfold State.wrSrcForce
  with_reducible repeat' (first | assumption | (intro _) | apply kept_ite | (apply kept_upd; assumption) | split)

theorem kept_wrSrcStatus (s : State) (x1 : Nat) (x2 : Nat) (x3 : Word) (h : Kept b s) : Kept b (State.wrSrcStatus s x1 x2 x3)
    := by
  unfold State.wrSrcStatus
  with_reducible repeat' (first | assumption | (intro _) | apply kept_ite | apply kept_refreshFaultN | apply kept_regBit | (apply kept_upd; assumption) | split)

theorem kept_execFaultNReassert (s : State) (h : Kept b s) : KeptR b (execFaultNReassert s) := by
  unfold execFaultNReassert
  with_reducible repeat' (first | assumption | (intro _) | exact keptR_fault | exact keptO_none | apply keptR_next | apply keptO_some | apply keptR_ite | apply keptO_ite | apply keptO_map | apply kept_ite | apply kept_reassertFaultN | apply kept_forEach | (apply kept_upd; assumption) | split)

theorem kept_execFwWatchdog (x0 : Half) (s : State) (h : Kept b s) : KeptR b (execFwWatchdog x0 s) := by
  unfold execFwWatchdog
  with_reducible repeat' (first | assumption | (intro _) | exact keptR_fault | exact keptO_none | apply keptR_next | apply keptO_some | apply keptR_ite | apply keptO_ite | apply keptO_map | apply kept_ite | apply kept_occur | apply kept_forEach | (apply kept_upd; assumption) | split)

theorem kept_execQuietExit (s : State) (h : Kept b s) : KeptR b (execQuietExit s) := by
  unfold execQuietExit
  with_reducible repeat' (first | assumption | (intro _) | exact keptR_fault | exact keptO_none | apply keptR_next | apply keptO_some | apply keptR_ite | apply keptO_ite | apply keptO_map | apply kept_ite | apply kept_quietExit | apply kept_forEach | (apply kept_upd; assumption) | split)

theorem kept_execShadowEnd (x0 : Half) (x1 : Nat) (s : State) (h : Kept b s) : KeptR b (execShadowEnd x0 x1 s) := by
  unfold execShadowEnd
  with_reducible repeat' (first | assumption | (intro _) | exact keptR_fault | exact keptO_none | apply keptR_next | apply keptO_some | apply keptR_ite | apply keptO_ite | apply keptO_map | apply kept_ite | apply kept_forEach | (apply kept_upd; assumption) | split)

theorem kept_govRow (s : State) (x1 : Nat) (h : Kept b s) : Kept b (State.govRow s x1) := by
  unfold State.govRow
  with_reducible repeat' (first | assumption | (intro _) | apply kept_ite | apply kept_setPair | (apply kept_upd; assumption) | split)

theorem kept_modGov (s : State) (x1 : Nat) (x2 : Gov → Gov) (h : Kept b s) : Kept b (State.modGov s x1 x2) := by
  unfold State.modGov
  exact ⟨h.mem, h.regs, h.pending, h.c0, h.c1, h.fuses, h.revoked⟩

theorem kept_setLevel (s : State) (x1 : Nat) (x2 : Nat) (h : Kept b s) : Kept b (State.setLevel s x1 x2) := by
  unfold State.setLevel
  with_reducible repeat' (first | assumption | (intro _) | apply kept_ite | apply kept_count | apply kept_modGov | apply kept_setReg | (apply kept_upd; assumption) | split)

theorem kept_execGovDescent (x0 : Half) (s : State) (h : Kept b s) : KeptR b (execGovDescent x0 s) := by
  unfold execGovDescent
  with_reducible repeat' (first | assumption | (intro _) | exact keptR_fault | exact keptO_none | apply keptR_next | apply keptO_some | apply keptR_ite | apply keptO_ite | apply keptO_map | apply kept_ite | apply kept_modGov | apply kept_setLevel | apply kept_forEach | (apply kept_upd; assumption) | split)

theorem kept_execGovEvaluate (x0 : Half) (x1 : GovReading) (s : State) (h : Kept b s) : KeptR b (execGovEvaluate x0 x1 s) := by
  unfold execGovEvaluate
  with_reducible repeat' (first | assumption | (intro _) | exact keptR_fault | exact keptO_none | apply keptR_next | apply keptO_some | apply keptR_ite | apply keptO_ite | apply keptO_map | apply kept_ite | apply kept_setReg | apply kept_setLevel | apply kept_modGov | apply kept_forEach | (apply kept_upd; assumption) | split)

theorem kept_execSupplySag (x0 : Half) (s : State) (h : Kept b s) : KeptR b (execSupplySag x0 s) := by
  unfold execSupplySag
  with_reducible repeat' (first | assumption | (intro _) | exact keptR_fault | exact keptO_none | apply keptR_next | apply keptO_some | apply keptR_ite | apply keptO_ite | apply keptO_map | apply kept_ite | apply kept_occur | apply kept_count | apply kept_modGov | apply kept_forEach | (apply kept_upd; assumption) | split)

theorem kept_execTckEdge (x0 : Bool) (x1 : Bool) (x2 : Bool) (x3 : Bool) (s : State) (h : Kept b s) : KeptR b (execTckEdge x0
    x1 x2 x3 s) := by
  unfold execTckEdge
  with_reducible repeat' (first | assumption | (intro hz; clear_value z) | (intro _) | (extract_lets +onlyGivenNames z; first | (refine kept_cut b z ?_ ?_; dsimp -zeta only [z]; clear z) | (refine kept_cut1 b z ?_ ?_; dsimp -zeta only [z]; clear z) | (refine kept_cut2 b z ?_ ?_; dsimp -zeta only [z]; clear z) | (refine isFun z ?_; dsimp -zeta only [z]; clear z) | clear_value z) | exact keptR_fault | exact keptO_none | apply keptR_next | apply keptO_some | apply keptR_ite | apply keptO_ite | apply keptO_map | apply keptO_getD | apply kept_ite | apply kept_free | apply kept_forEach | (apply kept_upd; assumption) | (apply kept_of_some; assumption) | (apply kept_of_pair; assumption) | dsimp -zeta only | split)

theorem kept_execThermalSample (x0 : Half) (x1 : List (BitVec 16)) (s : State) (h : Kept b s) : KeptR b (execThermalSample x0
    x1 s) := by
  unfold execThermalSample
  with_reducible repeat' (first | assumption | (intro hz; clear_value z) | (intro _) | (extract_lets +onlyGivenNames z; first | (refine kept_cut b z ?_ ?_; dsimp -zeta only [z]; clear z) | (refine kept_cut1 b z ?_ ?_; dsimp -zeta only [z]; clear z) | (refine kept_cut2 b z ?_ ?_; dsimp -zeta only [z]; clear z) | (refine isFun z ?_; dsimp -zeta only [z]; clear z) | clear_value z) | exact keptR_fault | exact keptO_none | apply keptR_next | apply keptO_some | apply keptR_ite | apply keptO_ite | apply keptO_map | apply keptO_getD | apply kept_ite | apply kept_setReg | apply kept_occur | apply kept_forEach | (apply kept_upd; assumption) | (apply kept_of_some; assumption) | (apply kept_of_pair; assumption) | dsimp -zeta only | split)

theorem kept_modBoot (s : State) (x1 : Boot → Boot) (h : Kept b s) : Kept b (State.modBoot s x1) := by
  unfold State.modBoot
  exact ⟨h.mem, h.regs, h.pending, h.c0, h.c1, h.fuses, h.revoked⟩

theorem kept_afterRefusal (s : State) (h : Kept b s) : Kept b (State.afterRefusal s) := by
  unfold State.afterRefusal
  exact ⟨h.mem, h.regs, h.pending, h.c0, h.c1, h.fuses, h.revoked⟩

theorem kept_answer (s : State) (x1 : Nat) (x2 : Word) (h : Kept b s) : Kept b (State.answer s x1 x2) := by
  unfold State.answer
  exact ⟨h.mem, h.regs, h.pending, h.c0, h.c1, h.fuses, h.revoked⟩

theorem kept_applyManifest (s : State) (x1 : List Byte) (h : Kept b s) : Kept b (State.applyManifest s x1) := by
  unfold State.applyManifest
  with_reducible repeat' (first | assumption | (intro hz; clear_value z) | (intro _) | (extract_lets +onlyGivenNames z; first | (refine kept_cut b z ?_ ?_; dsimp -zeta only [z]; clear z) | (refine kept_cut1 b z ?_ ?_; dsimp -zeta only [z]; clear z) | (refine kept_cut2 b z ?_ ?_; dsimp -zeta only [z]; clear z) | (refine isFun z ?_; dsimp -zeta only [z]; clear z) | clear_value z) | exact keptR_fault | exact keptO_none | apply keptR_next | apply keptO_some | apply keptR_ite | apply keptO_ite | apply keptO_map | apply keptO_getD | apply kept_ite | apply kept_free | apply kept_setReg | apply kept_setPair | apply kept_forEach | (apply kept_upd; assumption) | (apply kept_of_some; assumption) | (apply kept_of_pair; assumption) | dsimp -zeta only | split)

theorem kept_bootNotice (s : State) (h : Kept b s) : Kept b (State.bootNotice s) := by
  unfold State.bootNotice
  with_reducible repeat' (first | assumption | (intro hz; clear_value z) | (intro _) | (extract_lets +onlyGivenNames z; first | (refine kept_cut b z ?_ ?_; dsimp -zeta only [z]; clear z) | clear_value z) | apply kept_ite | apply kept_sendMsix | apply kept_forEach | (apply kept_upd; assumption) | split)

theorem kept_modBootPort (s : State) (x1 : Nat) (x2 : BootPort → BootPort) (h : Kept b s) : Kept b (State.modBootPort s x1 x2)
    := by
  unfold State.modBootPort
  exact ⟨h.mem, h.regs, h.pending, h.c0, h.c1, h.fuses, h.revoked⟩

theorem kept_refuse (s : State) (x1 : Nat) (x2 : Nat) (h : Kept b s) : Kept b (State.refuse s x1 x2) := by
  unfold State.refuse
  with_reducible repeat' (first | assumption | (intro _) | apply kept_ite | apply kept_bootNotice | apply kept_modBoot | apply kept_modBootPort | (apply kept_upd; assumption) | split)

theorem kept_zeroise (s : State) (h : Kept b s) : Kept b (State.zeroise s) :=
  ⟨rfl, risingFrom_filter _ _ _ h.regs, h.pending, h.c0, h.c1, h.fuses, h.revoked⟩

theorem kept_dropMsgs (s : State) (x1 : Nat) (h : Kept b s) : Kept b (State.dropMsgs s x1) := by
  unfold State.dropMsgs
  with_reducible repeat' (first | assumption | (intro hz; clear_value z) | (intro _) | (extract_lets +onlyGivenNames z; first | (refine kept_cut b z ?_ ?_; dsimp -zeta only [z]; clear z) | clear_value z) | apply kept_ite | apply kept_count | apply kept_answer | apply kept_modDlk | apply kept_forEach | (apply kept_upd; assumption) | split)

theorem kept_backToSelftest (s : State) (h : Kept b s) : Kept b (State.backToSelftest s) := by
  unfold State.backToSelftest
  with_reducible repeat' (first | assumption | (intro hz; clear_value z) | (intro _) | (extract_lets +onlyGivenNames z; first | (refine kept_cut b z ?_ ?_; dsimp -zeta only [z]; clear z) | clear_value z) | apply kept_ite | apply kept_refuse | apply kept_zeroise | apply kept_dropMsgs | apply kept_forEach | (apply kept_upd; assumption) | split)

theorem kept_bootIgnored (s : State) (h : Kept b s) : Kept b (State.bootIgnored s) := by
  unfold State.bootIgnored
  with_reducible repeat' (first | assumption | (intro _) | apply kept_ite | apply kept_count | (apply kept_upd; assumption) | split)

theorem kept_bootAbort (s : State) (x1 : Nat) (h : Kept b s) : Kept b (State.bootAbort s x1) := by
  unfold State.bootAbort
  with_reducible repeat' (first | assumption | (intro _) | apply kept_ite | apply kept_refuse | apply kept_afterRefusal | apply kept_bootIgnored | (apply kept_upd; assumption) | split)

theorem kept_bootGo (s : State) (x1 : Nat) (x2 : List Byte) (h : Kept b s) : Kept b (State.bootGo s x1 x2) := by
  unfold State.bootGo
  with_reducible repeat' (first | assumption | (intro hz; clear_value z) | (intro _) | (extract_lets +onlyGivenNames z; first | (refine kept_cut b z ?_ ?_; dsimp -zeta only [z]; clear z) | clear_value z) | apply kept_ite | apply kept_modBoot | apply kept_modBootPort | apply kept_refuse | apply kept_bootIgnored | apply kept_forEach | (apply kept_upd; assumption) | split)

theorem kept_bootRead (s : State) (x1 : Nat) (x2 : Nat) (x3 : List Byte) (h : Kept b s) : Kept b (State.bootRead s x1 x2 x3) :=
    by
  unfold State.bootRead
  with_reducible repeat' (first | assumption | (intro hz; clear_value z) | (intro _) | (extract_lets +onlyGivenNames z; first | (refine kept_cut b z ?_ ?_; dsimp -zeta only [z]; clear z) | clear_value z) | apply kept_ite | apply kept_modBootPort | apply kept_forEach | (apply kept_upd; assumption) | split)

theorem kept_cold (s : State) (x1 : Bool) (h : Kept b s) : Kept { b with c0 := 0, c1 := 0 } (State.cold s x1) :=
  ⟨rfl, risingFrom_filter _ _ _ h.regs, h.pending, rfl, rfl, h.fuses, h.revoked⟩

theorem kept_fluxDead (s : State) (x1 : Nat) (x2 : Nat) (h : Kept b s) : Kept b (State.fluxDead s x1 x2) := by
  unfold State.fluxDead
  with_reducible repeat' (first | assumption | (intro _) | apply kept_ite | apply kept_disableQueue | apply kept_setReg | apply kept_enSet | apply kept_modFlux | (apply kept_upd; assumption) | split)

theorem kept_recast (s : State) (h : Kept b s) : Kept b (State.recast s) := by
  unfold State.recast
  with_reducible repeat' (first | assumption | (intro hz; clear_value z) | (intro _) | (extract_lets +onlyGivenNames z; first | (refine kept_cut b z ?_ ?_; dsimp -zeta only [z]; clear z) | clear_value z) | apply kept_ite | apply kept_zeroise | apply kept_bootIgnored | apply kept_forEach | (apply kept_upd; assumption) | split)

theorem kept_refuseStart (s : State) (x1 : Nat) (h : Kept b s) : Kept b (State.refuseStart s x1) := by
  unfold State.refuseStart
  with_reducible repeat' (first | assumption | (intro _) | apply kept_ite | apply kept_refuse | apply kept_zeroise | apply kept_modBoot | (apply kept_upd; assumption) | split)

theorem and_or_self (x y : BitVec 4) : x &&& (x ||| y) = x := by
  ext i
  simp only [BitVec.getElem_and, BitVec.getElem_or]
  cases x[i] <;> simp

theorem fuses_program (f : Fuses) (img : List Byte) :
    f.count ≤ (f.program img).1.count ∧ f.revoked &&& (f.program img).1.revoked = f.revoked := by
  unfold Fuses.program
  extract_lets m flags n f'
  have key : f.count ≤ f'.count ∧ f.revoked &&& f'.revoked = f.revoked := by
    refine ⟨?_, and_or_self _ _⟩
    dsimp only [f']
    split
    · exact Nat.le_max_left _ _
    · exact Nat.le_refl _
  split
  · exact key
  · split
    · exact key
    · exact key

/-- A state that differs in fuses that have only accumulated. -/
theorem kept_fuses {s : State} (f : Fuses) (h : Kept b s) (hc : s.fuses.count ≤ f.count)
    (hr : s.fuses.revoked &&& f.revoked = s.fuses.revoked) : Kept b { s with fuses := f } :=
  ⟨h.mem, h.regs, h.pending, h.c0, h.c1, Nat.le_trans h.fuses hc, by
    have e1 := h.revoked
    have e2 : b.fuses.revoked &&& (s.fuses.revoked &&& f.revoked) = b.fuses.revoked &&& s.fuses.revoked := by rw [hr]
    rw [← BitVec.and_assoc, e1] at e2
    exact e2⟩

theorem kept_winImage (s : State) (x1 : Nat) (x2 : List Byte) (x3 : VerifyReport) (h : Kept b s) : Kept b (State.winImage s x1
    x2 x3) := by
  unfold State.winImage
  extract_lets s1 s2 s3 s4 f moved sb s5
  have k4 : Kept b s4 := kept_zeroise _ (kept_modBoot _ _ (kept_modBootPort _ _ _ (kept_forEach h fun s x k => kept_modBootPort
      _ _ _ k)))
  have hf := fuses_program s4.fuses x2
  have k5 : Kept b s5 := kept_fuses f.1 (show Kept b sb from kept_modBoot _ _ k4) hf.1 hf.2
  exact kept_ite (kept_refuseStart _ _ (kept_fuses _ k5 (Nat.le_refl _) BitVec.and_self)) (kept_applyManifest _ _ k5)

theorem kept_wrBootCtl (s : State) (x1 : Nat) (x2 : Word) (h : Kept b s) : Kept b (State.wrBootCtl s x1 x2) := by
  unfold State.wrBootCtl
  with_reducible repeat' (first | assumption | (intro _) | apply kept_ite | apply kept_bootIgnored | apply kept_bootAbort | (apply kept_upd; assumption) | split)

theorem kept_execFwStartTimeout (s : State) (h : Kept b s) : KeptR b (execFwStartTimeout s) := by
  unfold execFwStartTimeout
  with_reducible repeat' (first | assumption | (intro _) | exact keptR_fault | exact keptO_none | apply keptR_next | apply keptO_some | apply keptR_ite | apply keptO_ite | apply keptO_map | apply kept_ite | apply kept_refuseStart | apply kept_forEach | (apply kept_upd; assumption) | split)

theorem kept_execFwStarted (s : State) (h : Kept b s) : KeptR b (execFwStarted s) := by
  unfold execFwStarted
  with_reducible repeat' (first | assumption | (intro _) | exact keptR_fault | exact keptO_none | apply keptR_next | apply keptO_some | apply keptR_ite | apply keptO_ite | apply keptO_map | apply kept_ite | apply kept_bootNotice | apply kept_modBoot | apply kept_forEach | (apply kept_upd; assumption) | split)

theorem kept_execRailValid (x0 : Half) (x1 : Fin 9) (s : State) (h : Kept b s) : KeptR b (execRailValid x0 x1 s) := by
  unfold execRailValid
  with_reducible repeat' (first | assumption | (intro _) | exact keptR_fault | exact keptO_none | apply keptR_next | apply keptO_some | apply keptR_ite | apply keptO_ite | apply keptO_map | apply kept_ite | apply kept_regBit | apply kept_fluxDead | apply kept_forEach | (apply kept_upd; assumption) | split)

theorem kept_execSectionStart (s : State) (h : Kept b s) : KeptR b (execSectionStart s) := by
  unfold execSectionStart
  with_reducible repeat' (first | assumption | (intro _) | exact keptR_fault | exact keptO_none | apply keptR_next | apply keptO_some | apply keptR_ite | apply keptO_ite | apply keptO_map | apply kept_ite | apply kept_modBoot | apply kept_forEach | (apply kept_upd; assumption) | split)

theorem kept_execSelftestStart (s : State) (h : Kept b s) : KeptR b (execSelftestStart s) := by
  unfold execSelftestStart
  with_reducible repeat' (first | assumption | (intro _) | exact keptR_fault | exact keptO_none | apply keptR_next | apply keptO_some | apply keptR_ite | apply keptO_ite | apply keptO_map | apply kept_ite | apply kept_modBoot | apply kept_forEach | (apply kept_upd; assumption) | split)

theorem kept_execVerifyEnd (x0 : VerifyReport) (s : State) (h : Kept b s) : KeptR b (execVerifyEnd x0 s) := by
  unfold execVerifyEnd
  with_reducible repeat' (first | assumption | (intro _) | exact keptR_fault | exact keptO_none | apply keptR_next | apply keptO_some | apply keptR_ite | apply keptO_ite | apply keptO_map | apply kept_ite | apply kept_afterRefusal | apply kept_modBoot | apply kept_refuse | apply kept_winImage | apply kept_forEach | (apply kept_upd; assumption) | split)

theorem kept_execVerifyStart (s : State) (h : Kept b s) : KeptR b (execVerifyStart s) := by
  unfold execVerifyStart
  with_reducible repeat' (first | assumption | (intro _) | exact keptR_fault | exact keptO_none | apply keptR_next | apply keptO_some | apply keptR_ite | apply keptO_ite | apply keptO_map | apply kept_ite | apply kept_modBoot | apply kept_modBootPort | apply kept_forEach | (apply kept_upd; assumption) | split)

theorem kept_modAux (s : State) (x1 : Nat) (x2 : Aux → Aux) (h : Kept b s) : Kept b (State.modAux s x1 x2) := by
  unfold State.modAux
  exact ⟨h.mem, h.regs, h.pending, h.c0, h.c1, h.fuses, h.revoked⟩

theorem kept_scanStart (s : State) (x1 : Nat) (x2 : Nat) (x3 : Nat) (h : Kept b s) : Kept b (State.scanStart s x1 x2 x3) := by
  unfold State.scanStart
  with_reducible repeat' (first | assumption | (intro _) | apply kept_ite | apply kept_setPair | apply kept_count | apply kept_modAux | apply kept_fireGen | apply kept_setReg | (apply kept_upd; assumption) | split)

theorem kept_settleAux (s : State) (x1 : Nat) (h : Kept b s) : Kept b (State.settleAux s x1) := by
  unfold State.settleAux
  with_reducible repeat' (first | assumption | (intro hz; clear_value z) | (intro _) | (extract_lets +onlyGivenNames z; first | (refine kept_cut b z ?_ ?_; dsimp -zeta only [z]; clear z) | clear_value z) | apply kept_ite | apply kept_modAux | apply kept_count | apply kept_scanStart | apply kept_forEach | (apply kept_upd; assumption) | split)

theorem kept_wrAuxStart (s : State) (x1 : Nat) (x2 : Word) (h : Kept b s) : Kept b (State.wrAuxStart s x1 x2) := by
  unfold State.wrAuxStart
  with_reducible repeat' (first | assumption | (intro _) | apply kept_ite | apply kept_modAux | (apply kept_upd; assumption) | split)

theorem kept_execAuxConversion (x0 : Half) (x1 : Int) (s : State) (h : Kept b s) : KeptR b (execAuxConversion x0 x1 s) := by
  unfold execAuxConversion
  with_reducible repeat' (first | assumption | (intro _) | exact keptR_fault | exact keptO_none | apply keptR_next | apply keptO_some | apply keptR_ite | apply keptO_ite | apply keptO_map | apply kept_ite | apply kept_setReg | apply kept_occur | apply kept_regBit | apply kept_modAux | apply kept_capConv | apply kept_count | apply kept_fireGen | apply kept_forEach | (apply kept_upd; assumption) | split)

theorem kept_execAuxPeriodicStart (x0 : Half) (s : State) (h : Kept b s) : KeptR b (execAuxPeriodicStart x0 s) := by
  unfold execAuxPeriodicStart
  with_reducible repeat' (first | assumption | (intro _) | exact keptR_fault | exact keptO_none | apply keptR_next | apply keptO_some | apply keptR_ite | apply keptO_ite | apply keptO_map | apply kept_ite | apply kept_occur | apply kept_count | apply kept_modAux | apply kept_scanStart | apply kept_forEach | (apply kept_upd; assumption) | split)

theorem kept_execAuxPowerupEnd (x0 : Half) (s : State) (h : Kept b s) : KeptR b (execAuxPowerupEnd x0 s) := by
  unfold execAuxPowerupEnd
  with_reducible repeat' (first | assumption | (intro _) | exact keptR_fault | exact keptO_none | apply keptR_next | apply keptO_some | apply keptR_ite | apply keptO_ite | apply keptO_map | apply kept_ite | apply kept_modAux | apply kept_forEach | (apply kept_upd; assumption) | split)

theorem kept_evrIgnored (s : State) (x1 : Nat) (h : Kept b s) : Kept b (State.evrIgnored s x1) := by
  unfold State.evrIgnored
  with_reducible repeat' (first | assumption | (intro _) | apply kept_ite | apply kept_count | (apply kept_upd; assumption) | split)

theorem kept_taskDrop (s : State) (x1 : Nat) (x2 : Nat) (h : Kept b s) : Kept b (State.taskDrop s x1 x2) := by
  unfold State.taskDrop
  with_reducible repeat' (first | assumption | (intro _) | apply kept_ite | apply kept_count | (apply kept_upd; assumption) | split)

theorem kept_taskAct (s : State) (x1 : Nat) (x2 : Nat) (x3 : Nat) (h : Kept b s) : Kept b (State.taskAct s x1 x2 x3) := by
  unfold State.taskAct
  with_reducible repeat' (first | assumption | (intro hz; clear_value z) | (intro _) | (extract_lets +onlyGivenNames z; first | (refine kept_cut b z ?_ ?_; dsimp -zeta only [z]; clear z) | clear_value z) | apply kept_ite | apply kept_fixT0 | apply kept_taskDrop | apply kept_closeSwitch | apply kept_regBit | apply kept_tripFlux | apply kept_capArm | apply kept_capEvent | apply kept_scanStart | apply kept_laneStart | apply kept_taskMarker | apply kept_requestJump | apply kept_forEach | (apply kept_upd; assumption) | split)

theorem kept_wrEcCfg (s : State) (x1 : Nat) (x2 : Word) (h : Kept b s) : Kept b (State.wrEcCfg s x1 x2) := by
  unfold State.wrEcCfg
  with_reducible repeat' (first | assumption | (intro _) | apply kept_ite | apply kept_evrIgnored | apply kept_setReg | (apply kept_upd; assumption) | split)

theorem kept_wrEcFire (s : State) (x1 : Nat) (x2 : Option Nat) (x3 : Word) (h : Kept b s) : Kept b (State.wrEcFire s x1 x2 x3)
    := by
  unfold State.wrEcFire
  with_reducible repeat' (first | assumption | (intro _) | apply kept_ite | apply kept_evrIgnored | apply kept_fire | (apply kept_upd; assumption) | split)

theorem kept_wrTaskSel (s : State) (x1 : Nat) (x2 : Nat) (x3 : Word) (h : Kept b s) : Kept b (State.wrTaskSel s x1 x2 x3) := by
  unfold State.wrTaskSel
  with_reducible repeat' (first | assumption | (intro _) | apply kept_ite | apply kept_regBit | apply kept_evrIgnored | apply kept_setReg | (apply kept_upd; assumption) | split)

theorem kept_execTaskInputRegistration (x0 : Half) (x1 : Fin 448) (s : State) (h : Kept b s) : KeptR b
    (execTaskInputRegistration x0 x1 s) := by
  unfold execTaskInputRegistration
  with_reducible repeat' (first | assumption | (intro hz; clear_value z) | (intro _) | (extract_lets +onlyGivenNames z; first | (refine kept_cut b z ?_ ?_; dsimp -zeta only [z]; clear z) | (refine kept_cut1 b z ?_ ?_; dsimp -zeta only [z]; clear z) | (refine kept_cut2 b z ?_ ?_; dsimp -zeta only [z]; clear z) | (refine isFun z ?_; dsimp -zeta only [z]; clear z) | clear_value z) | exact keptR_fault | exact keptO_none | apply keptR_next | apply keptO_some | apply keptR_ite | apply keptO_ite | apply keptO_map | apply keptO_getD | apply kept_ite | apply kept_taskAct | apply kept_taskDrop | apply kept_forEach | (apply kept_upd; assumption) | (apply kept_of_some; assumption) | (apply kept_of_pair; assumption) | dsimp -zeta only | split)

theorem kept_execTrigInEdge (x0 : MarkIx) (x1 : Bool) (x2 : Fin 512) (s : State) (h : Kept b s) : KeptR b (execTrigInEdge x0 x1
    x2 s) := by
  unfold execTrigInEdge
  with_reducible repeat' (first | assumption | (intro hz; clear_value z) | (intro _) | (extract_lets +onlyGivenNames z; first | (refine kept_cut b z ?_ ?_; dsimp -zeta only [z]; clear z) | (refine kept_cut1 b z ?_ ?_; dsimp -zeta only [z]; clear z) | (refine kept_cut2 b z ?_ ?_; dsimp -zeta only [z]; clear z) | (refine isFun z ?_; dsimp -zeta only [z]; clear z) | clear_value z) | exact keptR_fault | exact keptO_none | apply keptR_next | apply keptO_some | apply keptR_ite | apply keptO_ite | apply keptO_map | apply keptO_getD | apply kept_ite | apply kept_capPin | apply kept_fireProducer | apply kept_forEach | (apply kept_upd; assumption) | (apply kept_of_some; assumption) | (apply kept_of_pair; assumption) | dsimp -zeta only | split)

theorem kept_bgRow (s : State) (x1 : Nat) (x2 : Nat) (h : Kept b s) : Kept b (State.bgRow s x1 x2) := by
  unfold State.bgRow
  exact ⟨h.mem, h.regs, h.pending, h.c0, h.c1, h.fuses, h.revoked⟩

theorem kept_trimNext (s : State) (x1 : Nat) (x2 : Nat) (x3 : Trim) (h : Kept b s) : Kept b (State.trimNext s x1 x2 x3) := by
  unfold State.trimNext
  exact ⟨h.mem, h.regs, h.pending, h.c0, h.c1, h.fuses, h.revoked⟩

theorem kept_blobApply (s : State) (x1 : Nat) (x2 : List Byte) (h : Kept b s) : Kept b (State.blobApply s x1 x2) := by
  unfold State.blobApply
  with_reducible repeat' (first | assumption | (intro _) | apply kept_ite | apply kept_modCal | apply kept_setTrim | apply kept_trimNext | (apply kept_upd; assumption) | split)

theorem kept_calPost (s : State) (x1 : Nat) (x2 : CalPost) (h : Kept b s) : Kept b (State.calPost s x1 x2) := by
  unfold State.calPost
  exact ⟨h.mem, h.regs, h.pending, h.c0, h.c1, h.fuses, h.revoked⟩

theorem kept_calFree (s : State) (x1 : Nat) (h : Kept b s) : Kept b (State.calFree s x1) := by
  unfold State.calFree
  exact ⟨h.mem, h.regs, h.pending, h.c0, h.c1, h.fuses, h.revoked⟩

theorem kept_calApply (s : State) (x1 : Nat) (x2 : CalJob) (x3 : CalResult) (h : Kept b s) : Kept b (State.calApply s x1 x2 x3)
    := by
  unfold State.calApply
  with_reducible repeat' (first | assumption | (intro _) | apply kept_ite | apply kept_calPost | apply kept_calFree | apply kept_trimNext | apply kept_modCal | (apply kept_upd; assumption) | split)

theorem kept_stepFields (s : State) (x1 : Nat) (x2 : Nat) (x3 : List StepField) (h : Kept b s) : Kept b (State.stepFields s x1
    x2 x3) := by
  unfold State.stepFields
  with_reducible repeat' (first | assumption | (intro hz; clear_value z) | (intro _) | (extract_lets +onlyGivenNames z; first | (refine kept_cut b z ?_ ?_; dsimp -zeta only [z]; clear z) | clear_value z) | apply kept_ite | apply kept_modCal | apply kept_setTrim | apply kept_forEach | (apply kept_upd; assumption) | split)

theorem kept_fluxApplied (s : State) (x1 : Nat) (h : Kept b s) : Kept b (State.fluxApplied s x1) := by
  unfold State.fluxApplied
  with_reducible repeat' (first | assumption | (intro hz; clear_value z) | (intro _) | (extract_lets +onlyGivenNames z; first | (refine kept_cut b z ?_ ?_; dsimp -zeta only [z]; clear z) | clear_value z) | apply kept_ite | apply kept_setTrim | apply kept_calDone | apply kept_modCal | apply kept_forEach | (apply kept_upd; assumption) | split)

theorem kept_calStep (s : State) (x1 : Nat) (h : Kept b s) : Kept b (State.calStep s x1) := by
  unfold State.calStep
  with_reducible repeat' (first | assumption | (intro hz; clear_value z) | (intro _) | (extract_lets +onlyGivenNames z; first | (refine kept_cut b z ?_ ?_; dsimp -zeta only [z]; clear z) | clear_value z) | apply kept_ite | apply kept_modCal | apply kept_stepFields | apply kept_setTrim | apply kept_fluxApplied | apply kept_forEach | (apply kept_upd; assumption) | split)

theorem kept_settleTrims (s : State) (x1 : Nat) (h : Kept b s) : Kept b (State.settleTrims s x1) := by
  unfold State.settleTrims
  with_reducible repeat' (first | assumption | (intro hz; clear_value z) | (intro _) | (extract_lets +onlyGivenNames z; first | (refine kept_cut b z ?_ ?_; dsimp -zeta only [z]; clear z) | clear_value z) | apply kept_ite | apply kept_modCal | apply kept_setTrim | apply kept_calDone | apply kept_finish | apply kept_forEach | (apply kept_upd; assumption) | split)

theorem kept_execBgEstimate (x0 : InIx) (x1 : BgEstimate) (s : State) (h : Kept b s) : KeptR b (execBgEstimate x0 x1 s) := by
  unfold execBgEstimate
  with_reducible repeat' (first | assumption | (intro _) | exact keptR_fault | exact keptO_none | apply keptR_next | apply keptO_some | apply keptR_ite | apply keptO_ite | apply keptO_map | apply kept_ite | apply kept_modCal | apply kept_occur | apply kept_count | apply kept_forEach | (apply kept_upd; assumption) | split)

theorem kept_execCalRoutineEnd (x0 : Half) (x1 : CalResult) (s : State) (h : Kept b s) : KeptR b (execCalRoutineEnd x0 x1 s) :=
    by
  unfold execCalRoutineEnd
  with_reducible repeat' (first | assumption | (intro _) | exact keptR_fault | exact keptO_none | apply keptR_next | apply keptO_some | apply keptR_ite | apply keptO_ite | apply keptO_map | apply kept_ite | apply kept_calDone | apply kept_calFree | apply kept_occur | apply kept_count | apply kept_calApply | apply kept_forEach | (apply kept_upd; assumption) | split)

theorem kept_execCalRoutineStart (x0 : Half) (x1 : CalObservation) (s : State) (h : Kept b s) : KeptR b (execCalRoutineStart x0
    x1 s) := by
  unfold execCalRoutineStart
  with_reducible repeat' (first | assumption | (intro hz; clear_value z) | (intro _) | (extract_lets +onlyGivenNames z; first | (refine kept_cut b z ?_ ?_; dsimp -zeta only [z]; clear z) | (refine kept_cut1 b z ?_ ?_; dsimp -zeta only [z]; clear z) | (refine kept_cut2 b z ?_ ?_; dsimp -zeta only [z]; clear z) | (refine isFun z ?_; dsimp -zeta only [z]; clear z) | clear_value z) | exact keptR_fault | exact keptO_none | apply keptR_next | apply keptO_some | apply keptR_ite | apply keptO_ite | apply keptO_map | apply keptO_getD | apply kept_ite | apply kept_modCal | apply kept_calDone | apply kept_closeSwitch | apply kept_modFlux | apply kept_forEach | (apply kept_upd; assumption) | (apply kept_of_some; assumption) | (apply kept_of_pair; assumption) | dsimp -zeta only | split)

theorem kept_execCalStep (x0 : Half) (s : State) (h : Kept b s) : KeptR b (execCalStep x0 s) := by
  unfold execCalStep
  with_reducible repeat' (first | assumption | (intro _) | exact keptR_fault | exact keptO_none | apply keptR_next | apply keptO_some | apply keptR_ite | apply keptO_ite | apply keptO_map | apply kept_ite | apply kept_calStep | apply kept_forEach | (apply kept_upd; assumption) | split)

end Sys2Proof.Machine
end

