-- ==== Sys2Proof/Laws/KeptLink.lean ====
section
/-!
SUPPORT. What the operations keep: host queues, the engine, the die link and time.
-/
namespace Sys2Proof.Machine

set_option linter.all false

variable {b : State}

theorem kept_modCmd (s : State) (x1 : Nat) (x2 : HostCmd → HostCmd) (h : Kept b s) : Kept b (State.modCmd s x1 x2) := by
  unfold State.modCmd
  exact ⟨h.mem, h.regs, h.pending, h.c0, h.c1, h.fuses, h.revoked⟩

theorem kept_failCmd (s : State) (x1 : Nat) (x2 : BitVec 8) (h : Kept b s) : Kept b (State.failCmd s x1 x2) := by
  unfold State.failCmd
  exact ⟨h.mem, h.regs, h.pending, h.c0, h.c1, h.fuses, h.revoked⟩

theorem kept_request (s : State) (x1 : Nat) (x2 : DmaReq) (h : Kept b s) : Kept b (State.request s x1 x2) := by
  unfold State.request
  with_reducible repeat' (first | assumption | (intro _) | apply kept_ite | apply kept_modPort | apply kept_send | apply kept_failCmd | (apply kept_upd; assumption) | split)

theorem kept_dmaWrite (s : State) (x1 : Nat) (x2 : DmaReq) (x3 : Nat) (x4 : List Byte) (h : Kept b s) : Kept b (State.dmaWrite
    s x1 x2 x3 x4) := by
  unfold State.dmaWrite
  with_reducible repeat' (first | assumption | (intro hz; clear_value z) | (intro _) | (extract_lets +onlyGivenNames z; first | (refine kept_cut b z ?_ ?_; dsimp -zeta only [z]; clear z) | clear_value z) | apply kept_ite | apply kept_request | apply kept_forEach | (apply kept_upd; assumption) | split)

theorem kept_evict (s : State) (x1 : Nat) (x2 : Nat) (h : Kept b s) : Kept b (State.evict s x1 x2) := by
  unfold State.evict
  with_reducible repeat' (first | assumption | (intro hz; clear_value z) | (intro _) | (extract_lets +onlyGivenNames z; first | (refine kept_cut b z ?_ ?_; dsimp -zeta only [z]; clear z) | (refine kept_cut1 b z ?_ ?_; dsimp -zeta only [z]; clear z) | (refine kept_cut2 b z ?_ ?_; dsimp -zeta only [z]; clear z) | (refine isFun z ?_; dsimp -zeta only [z]; clear z) | clear_value z) | exact keptR_fault | exact keptO_none | apply keptR_next | apply keptO_some | apply keptR_ite | apply keptO_ite | apply keptO_map | apply keptO_getD | apply kept_ite | apply kept_free | apply kept_dmaWrite | apply kept_modRing | apply kept_forEach | (apply kept_upd; assumption) | (apply kept_of_some; assumption) | (apply kept_of_pair; assumption) | dsimp -zeta only | split)

theorem kept_dmaRead (s : State) (x1 : Nat) (x2 : DmaReq) (x3 : Nat) (x4 : Nat) (h : Kept b s) : Kept b (State.dmaRead s x1 x2
    x3 x4) := by
  unfold State.dmaRead
  with_reducible repeat' (first | assumption | (intro hz; clear_value z) | (intro _) | (extract_lets +onlyGivenNames z; first | (refine kept_cut b z ?_ ?_; dsimp -zeta only [z]; clear z) | clear_value z) | apply kept_ite | apply kept_request | apply kept_forEach | (apply kept_upd; assumption) | split)

theorem kept_touch (s : State) (x1 : Nat) (h : Kept b s) : Kept b (State.touch s x1) := by
  unfold State.touch
  with_reducible repeat' (first | assumption | (intro _) | apply kept_ite | apply kept_evict | apply kept_dmaRead | apply kept_modRing | (apply kept_upd; assumption) | split)

theorem kept_advance (s : State) (x1 : Nat) (x2 : Nat) (h : Kept b s) : Kept b (State.advance s x1 x2) := by
  unfold State.advance
  with_reducible repeat' (first | assumption | (intro _) | apply kept_ite | apply kept_modRing | apply kept_touch | apply kept_dmaWrite | (apply kept_upd; assumption) | split)

theorem kept_freeTag (s : State) (x1 : Nat) (h : Kept b s) : Kept b (State.freeTag s x1) := by
  unfold State.freeTag
  exact ⟨h.mem, h.regs, h.pending, h.c0, h.c1, h.fuses, h.revoked⟩

theorem kept_dropReq (s : State) (x1 : DmaReq) (h : Kept b s) : Kept b (State.dropReq s x1) := by
  unfold State.dropReq
  with_reducible repeat' (first | assumption | (intro hz; clear_value z) | (intro _) | (extract_lets +onlyGivenNames z; first | (refine kept_cut b z ?_ ?_; dsimp -zeta only [z]; clear z) | clear_value z) | apply kept_ite | apply kept_freeTag | apply kept_count | apply kept_countLost | apply kept_forEach | (apply kept_upd; assumption) | split)

theorem kept_ringCease (s : State) (x1 : Nat) (h : Kept b s) : Kept b (State.ringCease s x1) := by
  unfold State.ringCease
  with_reducible repeat' (first | assumption | (intro hz; clear_value z) | (intro _) | (extract_lets +onlyGivenNames z; first | (refine kept_cut b z ?_ ?_; dsimp -zeta only [z]; clear z) | clear_value z) | apply kept_ite | apply kept_modPort | apply kept_dropReq | apply kept_setStream | apply kept_dropReads | apply kept_countLost | apply kept_modRing | apply kept_modCap | apply kept_capSettle | apply kept_forEach | (apply kept_upd; assumption) | split)

theorem kept_ringError (s : State) (x1 : Nat) (x2 : Nat) (h : Kept b s) : Kept b (State.ringError s x1 x2) := by
  unfold State.ringError
  with_reducible repeat' (first | assumption | (intro hz; clear_value z) | (intro _) | (extract_lets +onlyGivenNames z; first | (refine kept_cut b z ?_ ?_; dsimp -zeta only [z]; clear z) | clear_value z) | apply kept_ite | apply kept_modRing | apply kept_ringCease | apply kept_occur | apply kept_forEach | (apply kept_upd; assumption) | split)

theorem kept_contextIn (s : State) (x1 : Nat) (x2 : Nat) (x3 : Nat) (x4 : List Byte) (h : Kept b s) : Kept b (State.contextIn s
    x1 x2 x3 x4) := by
  unfold State.contextIn
  with_reducible repeat' (first | assumption | (intro _) | apply kept_ite | apply kept_ringError | apply kept_modRing | apply kept_evict | (apply kept_upd; assumption) | split)

theorem kept_streamTo (s : State) (x1 : Nat) (x2 : Nat) (h : Kept b s) : Kept b (State.streamTo s x1 x2) := by
  unfold State.streamTo
  with_reducible repeat' (first | assumption | (intro _) | apply kept_ite | apply kept_setStream | apply kept_advance | (apply kept_upd; assumption) | split)

theorem kept_streamMiss (s : State) (x1 : Nat) (x2 : Nat) (h : Kept b s) : Kept b (State.streamMiss s x1 x2) := by
  unfold State.streamMiss
  with_reducible repeat' (first | assumption | (intro _) | apply kept_ite | apply kept_setStream | apply kept_streamTo | (apply kept_upd; assumption) | split)

theorem kept_deniedFor (s : State) (x1 : Nat) (x2 : DmaWhy) (h : Kept b s) : Kept b (State.deniedFor s x1 x2) := by
  unfold State.deniedFor
  with_reducible repeat' (first | assumption | (intro _) | exact keptR_fault | exact keptO_none | apply keptR_next | apply keptO_some | apply keptR_ite | apply keptO_ite | apply keptO_map | apply kept_ite | apply kept_ringError | apply kept_modRing | apply kept_failCmd | apply kept_regBit | apply kept_streamMiss | apply kept_forEach | (apply kept_upd; assumption) | split)

theorem kept_denied (s : State) (x1 : Nat) (x2 : Nat) (x3 : DmaWhy) (h : Kept b s) : Kept b (State.denied s x1 x2 x3) := by
  unfold State.denied
  with_reducible repeat' (first | assumption | (intro _) | apply kept_ite | apply kept_count | apply kept_deniedFor | apply kept_occur | (apply kept_upd; assumption) | split)

theorem kept_descIn (s : State) (x1 : Nat) (x2 : List Byte) (h : Kept b s) : Kept b (State.descIn s x1 x2) := by
  unfold State.descIn
  exact ⟨h.mem, h.regs, h.pending, h.c0, h.c1, h.fuses, h.revoked⟩

theorem kept_settleFetch (s : State) (x1 : Nat) (h : Kept b s) : Kept b (State.settleFetch s x1) := by
  unfold State.settleFetch
  with_reducible repeat' (first | assumption | (intro _) | apply kept_ite | apply kept_dmaRead | (apply kept_upd; assumption) | split)

theorem kept_doorbell (s : State) (x1 : Nat) (x2 : Nat) (x3 : Word) (h : Kept b s) : Kept b (State.doorbell s x1 x2 x3) := by
  unfold State.doorbell
  with_reducible repeat' (first | assumption | (intro hz; clear_value z) | (intro _) | (extract_lets +onlyGivenNames z; first | (refine kept_cut b z ?_ ?_; dsimp -zeta only [z]; clear z) | clear_value z) | apply kept_ite | apply kept_modRing | apply kept_ringError | apply kept_settleFetch | apply kept_touch | apply kept_forEach | (apply kept_upd; assumption) | split)

theorem kept_foreign (s : State) (x1 : Nat) (h : Kept b s) : Kept b (State.foreign s x1) := by
  unfold State.foreign
  with_reducible repeat' (first | assumption | (intro _) | apply kept_ite | apply kept_count | (apply kept_upd; assumption) | split)

theorem kept_granted (s : State) (x1 : Nat) (x2 : DmaReq) (h : Kept b s) : Kept b (State.granted s x1 x2) := by
  unfold State.granted
  with_reducible repeat' (first | assumption | (intro _) | apply kept_ite | apply kept_deniedFor | apply kept_dropReq | apply kept_denied | apply kept_emit | apply kept_freeTag | apply kept_sendMsix | apply kept_setStream | apply kept_modPort | (apply kept_upd; assumption) | split)

theorem kept_lineIn (s : State) (x1 : Nat) (x2 : List Byte) (h : Kept b s) : Kept b (State.lineIn s x1 x2) := by
  unfold State.lineIn
  with_reducible repeat' (first | assumption | (intro hz; clear_value z) | (intro _) | (extract_lets +onlyGivenNames z; first | (refine kept_cut b z ?_ ?_; dsimp -zeta only [z]; clear z) | clear_value z) | apply kept_ite | apply kept_dmaRead | apply kept_dmaWrite | apply kept_modPort | apply kept_forEach | (apply kept_upd; assumption) | split)

theorem kept_opResult (s : State) (x1 : Nat) (x2 : Nat) (x3 : Nat) (h : Kept b s) : Kept b (State.opResult s x1 x2 x3) := by
  unfold State.opResult
  with_reducible repeat' (first | assumption | (intro _) | apply kept_ite | apply kept_setReg | apply kept_modPort | (apply kept_upd; assumption) | split)

theorem kept_portDown (s : State) (x1 : Nat) (h : Kept b s) : Kept b (State.portDown s x1) := by
  unfold State.portDown
  with_reducible repeat' (first | assumption | (intro _) | apply kept_ite | apply kept_occur | apply kept_modPort | apply kept_modBootPort | (apply kept_upd; assumption) | split)

theorem kept_ringOff (s : State) (x1 : Nat) (h : Kept b s) : Kept b (State.ringOff s x1) := by
  unfold State.ringOff
  with_reducible repeat' (first | assumption | (intro hz; clear_value z) | (intro _) | (extract_lets +onlyGivenNames z; first | (refine kept_cut b z ?_ ?_; dsimp -zeta only [z]; clear z) | clear_value z) | apply kept_ite | apply kept_ringCease | apply kept_forEach | (apply kept_upd; assumption) | split)

theorem kept_portReset (s : State) (x1 : Nat) (h : Kept b s) : Kept b (State.portReset s x1) := by
  unfold State.portReset
  with_reducible repeat' (first | assumption | (intro hz; clear_value z) | (intro _) | (extract_lets +onlyGivenNames z; first | (refine kept_cut b z ?_ ?_; dsimp -zeta only [z]; clear z) | clear_value z) | apply kept_ite | apply kept_ringOff | apply kept_setReg | apply kept_modPort | apply kept_forEach | (apply kept_upd; assumption) | split)

theorem kept_readWords (s : State) (x1 : Nat) (x2 : Nat) (x3 : List Byte) (h : Kept b s) : Kept b (State.readWords s x1 x2 x3)
    := by
  unfold State.readWords
  with_reducible repeat' (first | assumption | (intro hz; clear_value z) | (intro _) | (extract_lets +onlyGivenNames z; first | (refine kept_cut b z ?_ ?_; dsimp -zeta only [z]; clear z) | clear_value z) | apply kept_ite | apply kept_doorbell | apply kept_modPort | apply kept_forEach | (apply kept_upd; assumption) | split)

theorem kept_ringOp (s : State) (x1 : Nat) (x2 : Nat) (x3 : Nat) (x4 : State → Nat → State) (hx4 : ∀ s y1, Kept b s → Kept b
    (x4 s y1)) (h : Kept b s) : Kept b (State.ringOp s x1 x2 x3 x4) := by
  unfold State.ringOp
  with_reducible repeat' (first | assumption | (intro _) | apply kept_ite | apply kept_opResult | apply kept_foreign | apply hx4 | (apply kept_upd; assumption) | split)

theorem kept_ringDisable (s : State) (x1 : Nat) (x2 : Nat) (x3 : Nat) (h : Kept b s) : Kept b (State.ringDisable s x1 x2 x3) :=
    by
  unfold State.ringDisable
  with_reducible repeat' (first | assumption | (intro hz; clear_value z) | (intro _) | (extract_lets +onlyGivenNames z; first | (refine kept_cut b z ?_ ?_; dsimp -zeta only [z]; clear z) | clear_value z) | apply kept_ite | apply kept_ringOp | apply kept_opResult | apply kept_modRing | apply kept_ringOff | apply kept_forEach | (apply kept_upd; assumption) | split)

theorem kept_ringEnable (s : State) (x1 : Nat) (x2 : Nat) (x3 : Nat) (h : Kept b s) : Kept b (State.ringEnable s x1 x2 x3) := by
  unfold State.ringEnable
  with_reducible repeat' (first | assumption | (intro _) | apply kept_ite | apply kept_ringOp | apply kept_opResult | apply kept_dmaRead | (apply kept_upd; assumption) | split)

theorem kept_ringMessage (s : State) (x1 : Nat) (h : Kept b s) : Kept b (State.ringMessage s x1) := by
  unfold State.ringMessage
  with_reducible repeat' (first | assumption | (intro _) | apply kept_ite | apply kept_modRing | apply kept_request | (apply kept_upd; assumption) | split)

theorem kept_wrKick (s : State) (x1 : Nat) (h : Kept b s) : Kept b (State.wrKick s x1) := by
  unfold State.wrKick
  exact ⟨h.mem, h.regs, h.pending, h.c0, h.c1, h.fuses, h.revoked⟩

theorem kept_wrote (s : State) (x1 : Nat) (x2 : Nat) (h : Kept b s) : Kept b (State.wrote s x1 x2) := by
  unfold State.wrote
  with_reducible repeat' (first | assumption | (intro _) | apply kept_ite | apply kept_advance | apply kept_modRing | apply kept_ringMessage | (apply kept_upd; assumption) | split)

theorem kept_writeEntry (s : State) (x1 : Nat) (x2 : Nat) (x3 : List Nat) (x4 : Option Nat) (x5 : List Byte) (h : Kept b s) :
    Kept b (State.writeEntry s x1 x2 x3 x4 x5) := by
  unfold State.writeEntry
  with_reducible repeat' (first | assumption | (intro _) | apply kept_ite | apply kept_wrote | apply kept_dmaWrite | (apply kept_upd; assumption) | split)

theorem kept_execDmaGrant (x0 : Port) (x1 : Fin 4) (s : State) (h : Kept b s) : KeptR b (execDmaGrant x0 x1 s) := by
  unfold execDmaGrant
  with_reducible repeat' (first | assumption | (intro _) | exact keptR_fault | exact keptO_none | apply keptR_next | apply keptO_some | apply keptR_ite | apply keptO_ite | apply keptO_map | apply kept_ite | apply kept_granted | apply kept_modPort | apply kept_forEach | (apply kept_upd; assumption) | split)

theorem kept_execDoorbellPoll (x0 : Port) (s : State) (h : Kept b s) : KeptR b (execDoorbellPoll x0 s) := by
  unfold execDoorbellPoll
  with_reducible repeat' (first | assumption | (intro _) | exact keptR_fault | exact keptO_none | apply keptR_next | apply keptO_some | apply keptR_ite | apply keptO_ite | apply keptO_map | apply kept_ite | apply kept_dmaRead | apply kept_modPort | apply kept_forEach | (apply kept_upd; assumption) | split)

theorem kept_execFunctionLevelReset (x0 : Port) (s : State) (h : Kept b s) : KeptR b (execFunctionLevelReset x0 s) := by
  unfold execFunctionLevelReset
  with_reducible repeat' (first | assumption | (intro _) | exact keptR_fault | exact keptO_none | apply keptR_next | apply keptO_some | apply keptR_ite | apply keptO_ite | apply keptO_map | apply kept_ite | apply kept_portReset | apply kept_forEach | (apply kept_upd; assumption) | split)

theorem kept_execIrqModerationTimeout (x0 : RingIx) (s : State) (h : Kept b s) : KeptR b (execIrqModerationTimeout x0 s) := by
  unfold execIrqModerationTimeout
  with_reducible repeat' (first | assumption | (intro _) | exact keptR_fault | exact keptO_none | apply keptR_next | apply keptO_some | apply keptR_ite | apply keptO_ite | apply keptO_map | apply kept_ite | apply kept_ringMessage | apply kept_forEach | (apply kept_upd; assumption) | split)

theorem kept_execPerst (x0 : Port) (x1 : Bool) (s : State) (h : Kept b s) : KeptR b (execPerst x0 x1 s) := by
  unfold execPerst
  with_reducible repeat' (first | assumption | (intro _) | exact keptR_fault | exact keptO_none | apply keptR_next | apply keptO_some | apply keptR_ite | apply keptO_ite | apply keptO_map | apply kept_ite | apply kept_modPort | apply kept_portReset | apply kept_portDown | apply kept_forEach | (apply kept_upd; assumption) | split)

theorem kept_execPortLink (x0 : Port) (s : State) (h : Kept b s) : KeptR b (execPortLink x0 s) := by
  unfold execPortLink
  with_reducible repeat' (first | assumption | (intro _) | exact keptR_fault | exact keptO_none | apply keptR_next | apply keptO_some | apply keptR_ite | apply keptO_ite | apply keptO_map | apply kept_ite | apply kept_portDown | apply kept_forEach | (apply kept_upd; assumption) | split)

theorem kept_execPortLinkUp (x0 : Port) (x1 : Fin 6) (x2 : Fin 5) (s : State) (h : Kept b s) : KeptR b (execPortLinkUp x0 x1 x2
    s) := by
  unfold execPortLinkUp
  with_reducible repeat' (first | assumption | (intro _) | exact keptR_fault | exact keptO_none | apply keptR_next | apply keptO_some | apply keptR_ite | apply keptO_ite | apply keptO_map | apply kept_ite | apply kept_settleMsix | apply kept_modPort | apply kept_forEach | (apply kept_upd; assumption) | split)

theorem kept_execRingDrainEnd (x0 : RingIx) (s : State) (h : Kept b s) : KeptR b (execRingDrainEnd x0 s) := by
  unfold execRingDrainEnd
  with_reducible repeat' (first | assumption | (intro _) | exact keptR_fault | exact keptO_none | apply keptR_next | apply keptO_some | apply keptR_ite | apply keptO_ite | apply keptO_map | apply kept_ite | apply kept_ringOff | apply kept_forEach | (apply kept_upd; assumption) | split)

theorem kept_resend (s : State) (x1 : Nat) (h : Kept b s) : Kept b (State.resend s x1) := by
  unfold State.resend
  with_reducible repeat' (first | assumption | (intro _) | apply kept_ite | apply kept_modDlk | apply kept_occur | apply kept_count | (apply kept_upd; assumption) | split)

theorem kept_control (s : State) (x1 : Nat) (x2 : BitVec 256) (h : Kept b s) : Kept b (State.control s x1 x2) := by
  unfold State.control
  with_reducible repeat' (first | assumption | (intro _) | apply kept_ite | apply kept_modDlk | apply kept_resend | (apply kept_upd; assumption) | split)

theorem kept_controlIn (s : State) (x1 : Nat) (x2 : BitVec 256) (h : Kept b s) : KeptO b (State.controlIn s x1 x2) := by
  unfold State.controlIn
  with_reducible repeat' (first | assumption | (intro _) | exact keptR_fault | exact keptO_none | apply keptR_next | apply keptO_some | apply keptR_ite | apply keptO_ite | apply keptO_map | apply kept_ite | apply kept_control | apply kept_modDlk | apply kept_forEach | (apply kept_upd; assumption) | split)

theorem kept_eventIn (s : State) (x1 : Half) (x2 : Nat) (x3 : Nat) (h : Kept b s) : Kept b (State.eventIn s x1 x2 x3) := by
  unfold State.eventIn
  with_reducible repeat' (first | assumption | (intro _) | apply kept_ite | apply kept_fire | apply kept_fireTo | (apply kept_upd; assumption) | split)

theorem kept_flitIn (s : State) (x1 : Nat) (x2 : BitVec 272) (x3 : BitVec 256 → Bool) (x4 : State → BitVec 256 → Option State)
    (hx4 : ∀ s y1, Kept b s → KeptO b (x4 s y1)) (h : Kept b s) : Kept b (State.flitIn s x1 x2 x3 x4) := by
  unfold State.flitIn
  with_reducible repeat' (first | assumption | (intro hz; clear_value z) | (intro _) | (extract_lets +onlyGivenNames z; first | (refine kept_cut b z ?_ ?_; dsimp -zeta only [z]; clear z) | (refine kept_cut1 b z ?_ ?_; dsimp -zeta only [z]; clear z) | (refine kept_cut2 b z ?_ ?_; dsimp -zeta only [z]; clear z) | (refine isFun z ?_; dsimp -zeta only [z]; clear z) | clear_value z) | exact keptR_fault | exact keptO_none | apply keptR_next | apply keptO_some | apply keptR_ite | apply keptO_ite | apply keptO_map | apply keptO_getD | apply kept_ite | apply kept_modDlk | apply kept_count | apply hx4 | apply kept_forEach | (apply kept_upd; assumption) | (apply kept_of_some; assumption) | (apply kept_of_pair; assumption) | dsimp -zeta only | split)

theorem kept_forwardLost (s : State) (x1 : Forward) (h : Kept b s) : Kept b (State.forwardLost s x1) := by
  unfold State.forwardLost
  with_reducible repeat' (first | assumption | (intro hz; clear_value z) | (intro _) | (extract_lets +onlyGivenNames z; first | (refine kept_cut b z ?_ ?_; dsimp -zeta only [z]; clear z) | (refine kept_cut1 b z ?_ ?_; dsimp -zeta only [z]; clear z) | (refine kept_cut2 b z ?_ ?_; dsimp -zeta only [z]; clear z) | (refine isFun z ?_; dsimp -zeta only [z]; clear z) | clear_value z) | exact keptR_fault | exact keptO_none | apply keptR_next | apply keptO_some | apply keptR_ite | apply keptO_ite | apply keptO_map | apply keptO_getD | apply kept_ite | apply kept_failCmd | apply kept_streamMiss | apply kept_strandRecord | apply kept_forEach | (apply kept_upd; assumption) | (apply kept_of_some; assumption) | (apply kept_of_pair; assumption) | dsimp -zeta only | split)

theorem kept_joinPsum (s : State) (h : Kept b s) : Kept b (State.joinPsum s) := by
  unfold State.joinPsum
  with_reducible repeat' (first | assumption | (intro hz; clear_value z) | (intro _) | (extract_lets +onlyGivenNames z; first | (refine kept_cut b z ?_ ?_; dsimp -zeta only [z]; clear z) | clear_value z) | apply kept_ite | apply kept_notifyAll | apply kept_setReg | apply kept_forEach | (apply kept_upd; assumption) | split)

theorem kept_laneErr (s : State) (x1 : Nat) (x2 : Nat) (x3 : Nat) (x4 : Nat) (x5 : Nat) (h : Kept b s) : Kept b (State.laneErr
    s x1 x2 x3 x4 x5) := by
  unfold State.laneErr
  with_reducible repeat' (first | assumption | (intro _) | apply kept_ite | apply kept_setReg | (apply kept_upd; assumption) | split)

theorem kept_loseMsgs (s : State) (x1 : Nat) (h : Kept b s) : Kept b (State.loseMsgs s x1) := by
  unfold State.loseMsgs
  with_reducible repeat' (first | assumption | (intro hz; clear_value z) | (intro _) | (extract_lets +onlyGivenNames z; first | (refine kept_cut b z ?_ ?_; dsimp -zeta only [z]; clear z) | clear_value z) | apply kept_ite | apply kept_dropMsgs | apply kept_forwardLost | apply kept_forEach | (apply kept_upd; assumption) | split)

theorem kept_strand (s : State) (x1 : List Nat) (h : Kept b s) : Kept b (State.strand s x1) := by
  unfold State.strand
  with_reducible repeat' (first | assumption | (intro hz; clear_value z) | (intro _) | (extract_lets +onlyGivenNames z; first | (refine kept_cut b z ?_ ?_; dsimp -zeta only [z]; clear z) | clear_value z) | apply kept_ite | apply kept_strandRecord | apply kept_forEach | (apply kept_upd; assumption) | split)

theorem kept_loseLink (s : State) (x1 : Nat) (x2 : Nat) (h : Kept b s) : Kept b (State.loseLink s x1 x2) := by
  unfold State.loseLink
  with_reducible repeat' (first | assumption | (intro hz; clear_value z) | (intro _) | (extract_lets +onlyGivenNames z; first | (refine kept_cut b z ?_ ?_; dsimp -zeta only [z]; clear z) | clear_value z) | apply kept_ite | apply kept_count | apply kept_loseMsgs | apply kept_refreshFaultN | apply kept_modDlk | apply kept_backToSelftest | apply kept_occur | apply kept_strand | apply kept_stopRun | apply kept_forEach | (apply kept_upd; assumption) | split)

theorem kept_mgmtIn (s : State) (x1 : Nat) (x2 : DlkMsg) (h : Kept b s) : Kept b (State.mgmtIn s x1 x2) := by
  unfold State.mgmtIn
  with_reducible repeat' (first | assumption | (intro _) | apply kept_ite | apply kept_quietIn | apply kept_signalFaultN | (apply kept_upd; assumption) | split)

theorem kept_rejoin (s : State) (h : Kept b s) : Kept b (State.rejoin s) := by
  unfold State.rejoin
  with_reducible repeat' (first | assumption | (intro hz; clear_value z) | (intro _) | (extract_lets +onlyGivenNames z; first | (refine kept_cut b z ?_ ?_; dsimp -zeta only [z]; clear z) | clear_value z) | apply kept_ite | apply kept_refreshFaultN | apply kept_joinPsum | apply kept_quietIn | apply kept_modQuiet | apply kept_setPair | apply kept_forEach | (apply kept_upd; assumption) | split)

theorem kept_sequenced (s : State) (x1 : Nat) (x2 : BitVec 256) (x3 : State → Option State) (hx3 : ∀ s, Kept b s → KeptO b (x3
    s)) (h : Kept b s) : KeptO b (State.sequenced s x1 x2 x3) := by
  unfold State.sequenced
  with_reducible repeat' (first | assumption | (intro _) | exact keptR_fault | exact keptO_none | apply keptR_next | apply keptO_some | apply keptR_ite | apply keptO_ite | apply keptO_map | apply kept_ite | apply kept_modDlk | apply hx3 | apply kept_forEach | (apply kept_upd; assumption) | split)

theorem kept_takeMsg (s : State) (x1 : Nat) (x2 : DlkMsg → Bool) (x3 : DlkMsg) (h : Kept b s) : KeptO b (State.takeMsg s x1 x2
    x3) := by
  unfold State.takeMsg
  with_reducible repeat' (first | assumption | (intro _) | exact keptR_fault | exact keptO_none | apply keptR_next | apply keptO_some | apply keptR_ite | apply keptO_ite | apply keptO_map | apply kept_ite | apply kept_modDlk | apply kept_forEach | (apply kept_upd; assumption) | split)

theorem kept_wrDlkCtl (s : State) (x1 : Nat) (x2 : Word) (h : Kept b s) : Kept b (State.wrDlkCtl s x1 x2) := by
  unfold State.wrDlkCtl
  with_reducible repeat' (first | assumption | (intro hz; clear_value z) | (intro _) | (extract_lets +onlyGivenNames z; first | (refine kept_cut b z ?_ ?_; dsimp -zeta only [z]; clear z) | clear_value z) | apply kept_ite | apply kept_regBit | apply kept_loseMsgs | apply kept_modDlk | apply kept_count | apply kept_forEach | (apply kept_upd; assumption) | split)

theorem kept_execDeskewMarker (x0 : Half) (x1 : Fin 8) (x2 : Option (BitVec 66)) (x3 : Fin 65536) (s : State) (h : Kept b s) :
    KeptR b (execDeskewMarker x0 x1 x2 x3 s) := by
  unfold execDeskewMarker
  with_reducible repeat' (first | assumption | (intro _) | exact keptR_fault | exact keptO_none | apply keptR_next | apply keptO_some | apply keptR_ite | apply keptO_ite | apply keptO_map | apply kept_ite | apply kept_laneErr | apply kept_modDlk | apply kept_forEach | (apply kept_upd; assumption) | split)

theorem kept_execEcho (x0 : Half) (x1 : BitVec 272) (x2 : Fin 32) (s : State) (h : Kept b s) : KeptR b (execEcho x0 x1 x2 s) :=
    by
  unfold execEcho
  with_reducible repeat' (first | assumption | (intro _) | exact keptR_fault | exact keptO_none | apply keptR_next | apply keptO_some | apply keptR_ite | apply keptO_ite | apply keptO_map | apply kept_ite | apply kept_setReg | apply kept_modDlk | apply kept_forEach | (apply kept_upd; assumption) | split)

theorem kept_execEvent (x0 : Half) (x1 : BitVec 272) (s : State) (h : Kept b s) : KeptR b (execEvent x0 x1 s) := by
  unfold execEvent
  refine keptR_next (kept_flitIn _ _ _ _ _ (fun s b' h => kept_sequenced _ _ _ _ (fun s h => ?_) h) h)
  have key : ∀ (l : List (Nat × Nat)) (o : Option State), KeptO b o → KeptO b
      (l.foldl (fun o e => o.bind fun s =>
        (s.takeMsg (far x0) DlkMsg.isEvent (.event e.1 e.2)).map fun s => s.eventIn x0 e.1 e.2) o) := by
    intro l
    induction l with
    | nil => exact fun o k => k
    | cons e l ih =>
      exact fun o k => ih _ (keptO_bind k fun s hs => keptO_map (kept_takeMsg _ _ _ _ hs) fun s hs => kept_eventIn _ _ _ _ hs)
  exact key _ _ h

theorem kept_execHalfAlignSend (s : State) (h : Kept b s) : KeptR b (execHalfAlignSend s) := by
  unfold execHalfAlignSend
  with_reducible repeat' (first | assumption | (intro _) | exact keptR_fault | exact keptO_none | apply keptR_next | apply keptO_some | apply keptR_ite | apply keptO_ite | apply keptO_map | apply kept_ite | apply kept_send | apply kept_forEach | (apply kept_upd; assumption) | split)

theorem kept_execIdle (x0 : Half) (x1 : BitVec 272) (s : State) (h : Kept b s) : KeptR b (execIdle x0 x1 s) := by
  unfold execIdle
  with_reducible repeat' (first | assumption | (intro _) | exact keptR_fault | exact keptO_none | apply keptR_next | apply keptO_some | apply keptR_ite | apply keptO_ite | apply keptO_map | apply kept_ite | apply kept_flitIn | apply kept_forEach | (apply kept_upd; assumption) | split)

theorem kept_execLctl (x0 : Half) (x1 : BitVec 272) (s : State) (h : Kept b s) : KeptR b (execLctl x0 x1 s) := by
  unfold execLctl
  with_reducible repeat' (first | assumption | (intro _) | exact keptR_fault | exact keptO_none | apply keptR_next | apply keptO_some | apply keptR_ite | apply keptO_ite | apply keptO_map | apply kept_ite | apply kept_flitIn | apply kept_controlIn | apply kept_forEach | (apply kept_upd; assumption) | split)

theorem kept_execLinkLoss (x0 : Half) (x1 : Fin 8) (s : State) (h : Kept b s) : KeptR b (execLinkLoss x0 x1 s) := by
  unfold execLinkLoss
  with_reducible repeat' (first | assumption | (intro _) | exact keptR_fault | exact keptO_none | apply keptR_next | apply keptO_some | apply keptR_ite | apply keptO_ite | apply keptO_map | apply kept_ite | apply kept_loseLink | apply kept_forEach | (apply kept_upd; assumption) | split)

theorem kept_execMgmt (x0 : Half) (x1 : BitVec 272) (s : State) (h : Kept b s) : KeptR b (execMgmt x0 x1 s) := by
  unfold execMgmt
  with_reducible repeat' (first | assumption | (intro _) | exact keptR_fault | exact keptO_none | apply keptR_next | apply keptO_some | apply keptR_ite | apply keptO_ite | apply keptO_map | apply kept_ite | apply kept_flitIn | apply kept_sequenced | apply kept_mgmtIn | apply kept_takeMsg | apply kept_forEach | (apply kept_upd; assumption) | split)

theorem kept_execProbe (x0 : Half) (x1 : BitVec 272) (x2 : Fin 32) (s : State) (h : Kept b s) : KeptR b (execProbe x0 x1 x2 s)
    := by
  unfold execProbe
  with_reducible repeat' (first | assumption | (intro _) | exact keptR_fault | exact keptO_none | apply keptR_next | apply keptO_some | apply keptR_ite | apply keptO_ite | apply keptO_map | apply kept_ite | apply kept_modDlk | apply kept_forEach | (apply kept_upd; assumption) | split)

theorem kept_execReplayTimeout (x0 : Half) (s : State) (h : Kept b s) : KeptR b (execReplayTimeout x0 s) := by
  unfold execReplayTimeout
  with_reducible repeat' (first | assumption | (intro _) | exact keptR_fault | exact keptO_none | apply keptR_next | apply keptO_some | apply keptR_ite | apply keptO_ite | apply keptO_map | apply kept_ite | apply kept_resend | apply kept_forEach | (apply kept_upd; assumption) | split)

theorem kept_execRestAck (x0 : Half) (x1 : BitVec 272) (s : State) (h : Kept b s) : KeptR b (execRestAck x0 x1 s) := by
  unfold execRestAck
  with_reducible repeat' (first | assumption | (intro _) | exact keptR_fault | exact keptO_none | apply keptR_next | apply keptO_some | apply keptR_ite | apply keptO_ite | apply keptO_map | apply kept_ite | apply kept_flitIn | apply kept_modDlk | apply kept_count | apply kept_controlIn | apply kept_forEach | (apply kept_upd; assumption) | split)

theorem kept_execRestExit (x0 : Half) (s : State) (h : Kept b s) : KeptR b (execRestExit x0 s) := by
  unfold execRestExit
  with_reducible repeat' (first | assumption | (intro _) | exact keptR_fault | exact keptO_none | apply keptR_next | apply keptO_some | apply keptR_ite | apply keptO_ite | apply keptO_map | apply kept_ite | apply kept_modDlk | apply kept_forEach | (apply kept_upd; assumption) | split)

theorem kept_execRestIdleExpiry (x0 : Half) (s : State) (h : Kept b s) : KeptR b (execRestIdleExpiry x0 s) := by
  unfold execRestIdleExpiry
  with_reducible repeat' (first | assumption | (intro _) | exact keptR_fault | exact keptO_none | apply keptR_next | apply keptO_some | apply keptR_ite | apply keptO_ite | apply keptO_map | apply kept_ite | apply kept_modDlk | apply kept_forEach | (apply kept_upd; assumption) | split)

theorem kept_execRestReq (x0 : Half) (x1 : BitVec 272) (s : State) (h : Kept b s) : KeptR b (execRestReq x0 x1 s) := by
  unfold execRestReq
  with_reducible repeat' (first | assumption | (intro _) | exact keptR_fault | exact keptO_none | apply keptR_next | apply keptO_some | apply keptR_ite | apply keptO_ite | apply keptO_map | apply kept_ite | apply kept_flitIn | apply kept_modDlk | apply kept_controlIn | apply kept_forEach | (apply kept_upd; assumption) | split)

theorem kept_execToken (x0 : Half) (x1 : BitVec 272) (s : State) (h : Kept b s) : KeptR b (execToken x0 x1 s) := by
  unfold execToken
  with_reducible repeat' (first | assumption | (intro _) | exact keptR_fault | exact keptO_none | apply keptR_next | apply keptO_some | apply keptR_ite | apply keptO_ite | apply keptO_map | apply kept_ite | apply kept_flitIn | apply kept_sequenced | apply kept_tokenOn | apply kept_takeMsg | apply kept_forEach | (apply kept_upd; assumption) | split)

theorem kept_execTrainingAttempt (x0 : Half) (x1 : TrainingResult) (s : State) (h : Kept b s) : KeptR b (execTrainingAttempt x0
    x1 s) := by
  unfold execTrainingAttempt
  with_reducible repeat' (first | assumption | (intro _) | exact keptR_fault | exact keptO_none | apply keptR_next | apply keptO_some | apply keptR_ite | apply keptO_ite | apply keptO_map | apply kept_ite | apply kept_count | apply kept_setReg | apply kept_modDlk | apply kept_loseLink | apply kept_modBoot | apply kept_forEach | (apply kept_upd; assumption) | split)

theorem kept_execTrainingRetry (x0 : Half) (s : State) (h : Kept b s) : KeptR b (execTrainingRetry x0 s) := by
  unfold execTrainingRetry
  with_reducible repeat' (first | assumption | (intro _) | exact keptR_fault | exact keptO_none | apply keptR_next | apply keptO_some | apply keptR_ite | apply keptO_ite | apply keptO_map | apply kept_ite | apply kept_modDlk | apply kept_forEach | (apply kept_upd; assumption) | split)

theorem kept_execUncorrectableFlit (x0 : Half) (x1 : BitVec 272) (s : State) (h : Kept b s) : KeptR b (execUncorrectableFlit x0
    x1 s) := by
  unfold execUncorrectableFlit
  with_reducible repeat' (first | assumption | (intro _) | exact keptR_fault | exact keptO_none | apply keptR_next | apply keptO_some | apply keptR_ite | apply keptO_ite | apply keptO_map | apply kept_ite | apply kept_modDlk | apply kept_count | apply kept_forEach | (apply kept_upd; assumption) | split)

theorem kept_cmpBytes (s : State) (x1 : Nat) (x2 : Nat) (x3 : Nat) (h : Kept b s) : Kept b (State.cmpBytes s x1 x2 x3) := by
  unfold State.cmpBytes
  with_reducible repeat' (first | assumption | (intro _) | apply kept_ite | apply kept_setPair | (apply kept_upd; assumption) | split)

theorem kept_modCmp (s : State) (x1 : Nat) (x2 : CmpEng → CmpEng) (h : Kept b s) : Kept b (State.modCmp s x1 x2) := by
  unfold State.modCmp
  exact ⟨h.mem, h.regs, h.pending, h.c0, h.c1, h.fuses, h.revoked⟩

theorem kept_cmpPick (s : State) (x1 : Nat) (h : Kept b s) : Kept b (State.cmpPick s x1) := by
  unfold State.cmpPick
  with_reducible repeat' (first | assumption | (intro _) | apply kept_ite | apply kept_modCmp | (apply kept_upd; assumption) | split)

theorem kept_decodeFail (s : State) (x1 : Nat) (h : Kept b s) : Kept b (State.decodeFail s x1) := by
  unfold State.decodeFail
  with_reducible repeat' (first | assumption | (intro _) | apply kept_ite | apply kept_count | (apply kept_upd; assumption) | split)

theorem kept_jobEnd (s : State) (x1 : Nat) (x2 : CmpJob) (x3 : BitVec 8) (h : Kept b s) : Kept b (State.jobEnd s x1 x2 x3) := by
  unfold State.jobEnd
  with_reducible repeat' (first | assumption | (intro _) | apply kept_ite | apply kept_count | apply kept_modCmp | apply kept_finish | (apply kept_upd; assumption) | split)

theorem kept_jobIn (s : State) (x1 : Nat) (x2 : CmpJob) (h : Kept b s) : Kept b (State.jobIn s x1 x2) := by
  unfold State.jobIn
  exact ⟨h.mem, h.regs, h.pending, h.c0, h.c1, h.fuses, h.revoked⟩

theorem kept_modJob (s : State) (x1 : Nat) (x2 : Nat) (x3 : CmpJob → CmpJob) (h : Kept b s) : Kept b (State.modJob s x1 x2 x3)
    := by
  unfold State.modJob
  exact ⟨h.mem, h.regs, h.pending, h.c0, h.c1, h.fuses, h.revoked⟩

theorem kept_jobSettle (s : State) (x1 : Nat) (x2 : Nat) (h : Kept b s) : Kept b (State.jobSettle s x1 x2) := by
  unfold State.jobSettle
  with_reducible repeat' (first | assumption | (intro hz; clear_value z) | (intro _) | (extract_lets +onlyGivenNames z; first | (refine kept_cut b z ?_ ?_; dsimp -zeta only [z]; clear z) | (refine kept_cut1 b z ?_ ?_; dsimp -zeta only [z]; clear z) | (refine kept_cut2 b z ?_ ?_; dsimp -zeta only [z]; clear z) | (refine isFun z ?_; dsimp -zeta only [z]; clear z) | clear_value z) | exact keptR_fault | exact keptO_none | apply keptR_next | apply keptO_some | apply keptR_ite | apply keptO_ite | apply keptO_map | apply keptO_getD | apply kept_ite | apply kept_jobEnd | apply kept_modJob | apply kept_decodeFail | apply kept_forEach | (apply kept_upd; assumption) | (apply kept_of_some; assumption) | (apply kept_of_pair; assumption) | dsimp -zeta only | split)

theorem kept_jobWrite (s : State) (x1 : Nat) (x2 : CmpJob) (x3 : List Byte) (x4 : CmpJob → CmpJob) (h : Kept b s) : Kept b
    (State.jobWrite s x1 x2 x3 x4) := by
  unfold State.jobWrite
  with_reducible repeat' (first | assumption | (intro _) | apply kept_ite | apply kept_jobEnd | apply kept_occur | apply kept_count | apply kept_jobSettle | apply kept_modJob | apply kept_dmaWrite | (apply kept_upd; assumption) | split)

theorem kept_jobStep (s : State) (x1 : Nat) (x2 : CmpJob) (x3 : List Byte) (x4 : Bool) (h : Kept b s) : Kept b (State.jobStep s
    x1 x2 x3 x4) := by
  unfold State.jobStep
  with_reducible repeat' (first | assumption | (intro _) | apply kept_ite | apply kept_jobEnd | apply kept_occur | apply kept_count | apply kept_cmpBytes | apply kept_jobWrite | apply kept_decodeFail | apply kept_jobSettle | apply kept_modJob | apply kept_write | (apply kept_upd; assumption) | split)

theorem kept_madeWritten (s : State) (x1 : Nat) (h : Kept b s) : Kept b (State.madeWritten s x1) := by
  unfold State.madeWritten
  with_reducible repeat' (first | assumption | (intro hz; clear_value z) | (intro _) | (extract_lets +onlyGivenNames z; first | (refine kept_cut b z ?_ ?_; dsimp -zeta only [z]; clear z) | clear_value z) | apply kept_ite | apply kept_cmpPick | apply kept_modRing | apply kept_capSettle | apply kept_forEach | (apply kept_upd; assumption) | split)

theorem kept_packRecord (s : State) (x1 : Nat) (x2 : Waiting) (h : Kept b s) : Kept b (State.packRecord s x1 x2) := by
  unfold State.packRecord
  with_reducible repeat' (first | assumption | (intro _) | apply kept_ite | apply kept_modRing | (apply kept_upd; assumption) | split)

theorem kept_packStep (s : State) (x1 : Nat) (x2 : Nat) (x3 : List Byte) (x4 : Bool) (h : Kept b s) : Kept b (State.packStep s
    x1 x2 x3 x4) := by
  unfold State.packStep
  with_reducible repeat' (first | assumption | (intro hz; clear_value z) | (intro _) | (extract_lets +onlyGivenNames z; first | (refine kept_cut b z ?_ ?_; dsimp -zeta only [z]; clear z) | clear_value z) | apply kept_ite | apply kept_occur | apply kept_count | apply kept_cmpBytes | apply kept_modRing | apply kept_forEach | (apply kept_upd; assumption) | split)

theorem kept_putRecord (s : State) (x1 : Nat) (x2 : Nat) (x3 : List Nat) (x4 : List Byte) (h : Kept b s) : KeptO b
    (State.putRecord s x1 x2 x3 x4) := by
  unfold State.putRecord
  with_reducible repeat' (first | assumption | (intro _) | exact keptR_fault | exact keptO_none | apply keptR_next | apply keptO_some | apply keptR_ite | apply keptO_ite | apply keptO_map | apply kept_ite | apply kept_writeEntry | apply kept_forEach | (apply kept_upd; assumption) | split)

theorem kept_storeRecord (s : State) (x1 : Nat) (x2 : Waiting) (h : Kept b s) : KeptO b (State.storeRecord s x1 x2) := by
  unfold State.storeRecord
  with_reducible repeat' (first | assumption | (intro hz; clear_value z) | (intro _) | (extract_lets +onlyGivenNames z; first | (refine kept_cut b z ?_ ?_; dsimp -zeta only [z]; clear z) | (refine kept_cut1 b z ?_ ?_; dsimp -zeta only [z]; clear z) | (refine kept_cut2 b z ?_ ?_; dsimp -zeta only [z]; clear z) | (refine kept_cutO b z ?_ ?_; dsimp -zeta only [z]; clear z) | (refine isFun z ?_; dsimp -zeta only [z]; clear z) | clear_value z) | exact keptR_fault | exact keptR_refused | exact keptO_none | apply keptR_next | apply keptO_some | apply keptR_ite | apply keptO_ite | apply kept_ite1 | apply kept_ite2 | apply keptO_map | apply keptO_bind | apply keptO_getD | apply kept_ite | apply kept_packRecord | apply kept_modRing | apply kept_putRecord | apply kept_forEach | apply kept_foldl | (apply kept_upd; assumption) | (apply kept_of_some; assumption) | (apply kept_of_pair; assumption) | dsimp -zeta only | split)

theorem kept_recordIn (s : State) (x1 : Nat) (x2 : Waiting) (h : Kept b s) : Kept b (State.recordIn s x1 x2) := by
  unfold State.recordIn
  with_reducible repeat' (first | assumption | (intro hz; clear_value z) | (intro _) | (extract_lets +onlyGivenNames z; first | (refine kept_cut b z ?_ ?_; dsimp -zeta only [z]; clear z) | (refine kept_cut1 b z ?_ ?_; dsimp -zeta only [z]; clear z) | (refine kept_cut2 b z ?_ ?_; dsimp -zeta only [z]; clear z) | (refine isFun z ?_; dsimp -zeta only [z]; clear z) | clear_value z) | exact keptR_fault | exact keptO_none | apply keptR_next | apply keptO_some | apply keptR_ite | apply keptO_ite | apply keptO_map | apply keptO_getD | apply kept_ite | apply kept_countLost | apply kept_storeRecord | apply kept_loseRecord | apply kept_forEach | (apply kept_upd; assumption) | (apply kept_of_some; assumption) | (apply kept_of_pair; assumption) | dsimp -zeta only | split)

theorem kept_settlePrefill (s : State) (x1 : Nat) (h : Kept b s) : Kept b (State.settlePrefill s x1) := by
  unfold State.settlePrefill
  with_reducible repeat' (first | assumption | (intro _) | apply kept_ite | apply kept_finish | (apply kept_upd; assumption) | split)

theorem kept_stageWrite (s : State) (x1 : Nat) (x2 : Stream) (x3 : Nat) (x4 : List Byte) (h : Kept b s) : Kept b
    (State.stageWrite s x1 x2 x3 x4) := by
  unfold State.stageWrite
  with_reducible repeat' (first | assumption | (intro hz; clear_value z) | (intro _) | (extract_lets +onlyGivenNames z; first | (refine kept_cut b z ?_ ?_; dsimp -zeta only [z]; clear z) | clear_value z) | apply kept_ite | apply kept_write | apply kept_forEach | (apply kept_upd; assumption) | split)

theorem kept_streamStep (s : State) (x1 : Nat) (x2 : Nat) (x3 : Bool) (h : Kept b s) : Kept b (State.streamStep s x1 x2 x3) :=
    by
  unfold State.streamStep
  with_reducible repeat' (first | assumption | (intro hz; clear_value z) | (intro _) | (extract_lets +onlyGivenNames z; first | (refine kept_cut b z ?_ ?_; dsimp -zeta only [z]; clear z) | clear_value z) | apply kept_ite | apply kept_occur | apply kept_decodeFail | apply kept_setStream | apply kept_stageWrite | apply kept_cmpBytes | apply kept_forEach | (apply kept_upd; assumption) | split)

theorem kept_taken (s : State) (x1 : Nat) (x2 : Waiting) (h : Kept b s) : Kept b (State.taken s x1 x2) := by
  unfold State.taken
  with_reducible repeat' (first | assumption | (intro _) | apply kept_ite | apply kept_capSettle | apply kept_modCap | (apply kept_upd; assumption) | split)

theorem kept_wrCmpCtl (s : State) (x1 : Nat) (x2 : Word) (h : Kept b s) : Kept b (State.wrCmpCtl s x1 x2) := by
  unfold State.wrCmpCtl
  with_reducible repeat' (first | assumption | (intro hz; clear_value z) | (intro _) | (extract_lets +onlyGivenNames z; first | (refine kept_cut b z ?_ ?_; dsimp -zeta only [z]; clear z) | clear_value z) | apply kept_ite | apply kept_setReg | apply kept_modCmp | apply kept_jobEnd | apply kept_forEach | (apply kept_upd; assumption) | split)

theorem kept_writeMade (s : State) (x1 : Nat) (h : Kept b s) : Kept b (State.writeMade s x1) := by
  unfold State.writeMade
  with_reducible repeat' (first | assumption | (intro hz; clear_value z) | (intro _) | (extract_lets +onlyGivenNames z; first | (refine kept_cut b z ?_ ?_; dsimp -zeta only [z]; clear z) | (refine kept_cut1 b z ?_ ?_; dsimp -zeta only [z]; clear z) | (refine kept_cut2 b z ?_ ?_; dsimp -zeta only [z]; clear z) | (refine isFun z ?_; dsimp -zeta only [z]; clear z) | clear_value z) | exact keptR_fault | exact keptO_none | apply keptR_next | apply keptO_some | apply keptR_ite | apply keptO_ite | apply keptO_map | apply keptO_getD | apply kept_ite | apply kept_putRecord | apply kept_madeWritten | apply kept_forEach | (apply kept_upd; assumption) | (apply kept_of_some; assumption) | (apply kept_of_pair; assumption) | dsimp -zeta only | split)

theorem kept_execCommandCompletion (x0 : TagIx) (s : State) (h : Kept b s) : KeptR b (execCommandCompletion x0 s) := by
  unfold execCommandCompletion
  with_reducible repeat' (first | assumption | (intro _) | exact keptR_fault | exact keptO_none | apply keptR_next | apply keptO_some | apply keptR_ite | apply keptO_ite | apply keptO_map | apply kept_ite | apply kept_settlePrefill | apply kept_freeTag | apply kept_count | apply kept_writeEntry | apply kept_modCmd | apply kept_forEach | (apply kept_upd; assumption) | split)

theorem kept_execRecordWrite (x0 : RingIx) (s : State) (h : Kept b s) : KeptR b (execRecordWrite x0 s) := by
  unfold execRecordWrite
  with_reducible repeat' (first | assumption | (intro hz; clear_value z) | (intro _) | (extract_lets +onlyGivenNames z; first | (refine kept_cut b z ?_ ?_; dsimp -zeta only [z]; clear z) | (refine kept_cut1 b z ?_ ?_; dsimp -zeta only [z]; clear z) | (refine kept_cut2 b z ?_ ?_; dsimp -zeta only [z]; clear z) | (refine kept_cutO b z ?_ ?_; dsimp -zeta only [z]; clear z) | (refine isFun z ?_; dsimp -zeta only [z]; clear z) | clear_value z) | exact keptR_fault | exact keptR_refused | exact keptO_none | apply keptR_next | apply keptO_some | apply keptR_ite | apply keptO_ite | apply kept_ite1 | apply kept_ite2 | apply keptO_map | apply keptO_bind | apply keptO_getD | apply kept_ite | apply kept_writeMade | apply kept_taken | apply kept_countLost | apply kept_strandRecord | apply kept_cmpPick | apply kept_shutPack | apply kept_storeRecord | apply kept_send | apply kept_forEach | apply kept_foldl | (apply kept_upd; assumption) | (apply kept_of_some; assumption) | (apply kept_of_pair; assumption) | dsimp -zeta only | split)

theorem kept_execSkeinDone (x0 : Half) (x1 : List Byte) (x2 : Ecc) (s : State) (h : Kept b s) : KeptR b (execSkeinDone x0 x1 x2
    s) := by
  unfold execSkeinDone
  with_reducible repeat' (first | assumption | (intro _) | exact keptR_fault | exact keptO_none | apply keptR_next | apply keptO_some | apply keptR_ite | apply keptO_ite | apply keptO_map | apply kept_ite | apply kept_cmpPick | apply kept_modCmp | apply kept_count | apply kept_occur | apply kept_streamStep | apply kept_packStep | apply kept_jobStep | apply kept_forEach | (apply kept_upd; assumption) | split)

theorem kept_execSkeinFlushTimeout (x0 : RingIx) (s : State) (h : Kept b s) : KeptR b (execSkeinFlushTimeout x0 s) := by
  unfold execSkeinFlushTimeout
  with_reducible repeat' (first | assumption | (intro _) | exact keptR_fault | exact keptO_none | apply keptR_next | apply keptO_some | apply keptR_ite | apply keptO_ite | apply keptO_map | apply kept_ite | apply kept_cmpPick | apply kept_shutPack | apply kept_forEach | (apply kept_upd; assumption) | split)

theorem kept_armFire (s : State) (x1 : Nat) (x2 : Nat) (h : Kept b s) : Kept b (State.armFire s x1 x2) := by
  unfold State.armFire
  with_reducible repeat' (first | assumption | (intro _) | apply kept_ite | apply kept_regBit | apply kept_fireProducer | apply kept_scanStart | (apply kept_upd; assumption) | split)

theorem kept_ntQueue (s : State) (x1 : Nat) (x2 : NtUpdate) (h : Kept b s) : Kept b (State.ntQueue s x1 x2) := by
  unfold State.ntQueue
  exact ⟨h.mem, h.regs, h.pending, h.c0, h.c1, h.fuses, h.revoked⟩

theorem kept_ntUpdate (s : State) (x1 : Word) (x2 : Int) (h : Kept b s) : Kept b (State.ntUpdate s x1 x2) := by
  unfold State.ntUpdate
  with_reducible repeat' (first | assumption | (intro _) | apply kept_ite | apply kept_ntQueue | apply kept_send | (apply kept_upd; assumption) | split)

theorem kept_firmwareRate (s : State) (h : Kept b s) : Kept b (State.firmwareRate s) := by
  unfold State.firmwareRate
  with_reducible repeat' (first | assumption | (intro _) | apply kept_ite | apply kept_free | apply kept_ntUpdate | (apply kept_upd; assumption) | split)

theorem kept_modServo (s : State) (x1 : Servo → Servo) (h : Kept b s) : Kept b (State.modServo s x1) := by
  unfold State.modServo
  exact ⟨h.mem, h.regs, h.pending, h.c0, h.c1, h.fuses, h.revoked⟩

theorem kept_ntJump (s : State) (h : Kept b s) : Kept b (State.ntJump s) := by
  unfold State.ntJump
  with_reducible repeat' (first | assumption | (intro _) | apply kept_ite | apply kept_occur | apply kept_modServo | (apply kept_upd; assumption) | split)

theorem kept_newOffset (s : State) (x1 : Int) (h : Kept b s) : Kept b (State.newOffset s x1) := by
  unfold State.newOffset
  with_reducible repeat' (first | assumption | (intro hz; clear_value z) | (intro _) | (extract_lets +onlyGivenNames z; first | (refine kept_cut b z ?_ ?_; dsimp -zeta only [z]; clear z) | clear_value z) | apply kept_ite | apply kept_modServo | apply kept_setReg | apply kept_ntUpdate | apply kept_ntJump | apply kept_firmwareRate | apply kept_forEach | (apply kept_upd; assumption) | split)

theorem kept_ntApply (s : State) (x1 : Nat) (h : Kept b s) : Kept b (State.ntApply s x1) := by
  unfold State.ntApply
  with_reducible repeat' (first | assumption | (intro _) | apply kept_ite | apply kept_ntAdd | apply kept_setReg | (apply kept_upd; assumption) | split)

theorem kept_wrNtCtl (s : State) (x1 : Nat) (x2 : Word) (h : Kept b s) : Kept b (State.wrNtCtl s x1 x2) := by
  unfold State.wrNtCtl
  with_reducible repeat' (first | assumption | (intro _) | apply kept_ite | apply kept_count | apply kept_setReg | apply kept_modServo | (apply kept_upd; assumption) | split)

theorem kept_wrNtRate (s : State) (x1 : Nat) (x2 : Word) (h : Kept b s) : Kept b (State.wrNtRate s x1 x2) := by
  unfold State.wrNtRate
  with_reducible repeat' (first | assumption | (intro _) | apply kept_ite | apply kept_count | apply kept_ntUpdate | (apply kept_upd; assumption) | split)

theorem kept_wrTrigState (s : State) (x1 : Nat) (x2 : Nat) (x3 : Word) (h : Kept b s) : Kept b (State.wrTrigState s x1 x2 x3)
    := by
  unfold State.wrTrigState
  with_reducible repeat' (first | assumption | (intro _) | apply kept_ite | apply kept_regBit | (apply kept_upd; assumption) | split)

theorem kept_execAnnounce (x0 : Fin 2) (x1 : List Byte) (s : State) (h : Kept b s) : KeptR b (execAnnounce x0 x1 s) := by
  unfold execAnnounce
  with_reducible repeat' (first | assumption | (intro _) | exact keptR_fault | exact keptO_none | apply keptR_next | apply keptO_some | apply keptR_ite | apply keptO_ite | apply keptO_map | apply kept_ite | apply kept_modServo | apply kept_forEach | (apply kept_upd; assumption) | split)

theorem kept_execDelayReq (x0 : Fin 32) (s : State) (h : Kept b s) : KeptR b (execDelayReq x0 s) := by
  unfold execDelayReq
  with_reducible repeat' (first | assumption | (intro _) | exact keptR_fault | exact keptO_none | apply keptR_next | apply keptO_some | apply keptR_ite | apply keptO_ite | apply keptO_map | apply kept_ite | apply kept_modServo | apply kept_emit | apply kept_forEach | (apply kept_upd; assumption) | split)

theorem kept_execDelayResp (x0 : Fin 2) (x1 : List Byte) (s : State) (h : Kept b s) : KeptR b (execDelayResp x0 x1 s) := by
  unfold execDelayResp
  with_reducible repeat' (first | assumption | (intro _) | exact keptR_fault | exact keptO_none | apply keptR_next | apply keptO_some | apply keptR_ite | apply keptO_ite | apply keptO_map | apply kept_ite | apply kept_modServo | apply kept_setReg | apply kept_newOffset | apply kept_forEach | (apply kept_upd; assumption) | split)

theorem kept_execFollowUp (x0 : Fin 2) (x1 : List Byte) (s : State) (h : Kept b s) : KeptR b (execFollowUp x0 x1 s) := by
  unfold execFollowUp
  with_reducible repeat' (first | assumption | (intro _) | exact keptR_fault | exact keptO_none | apply keptR_next | apply keptO_some | apply keptR_ite | apply keptO_ite | apply keptO_map | apply kept_ite | apply kept_modServo | apply kept_forEach | (apply kept_upd; assumption) | split)

theorem kept_execFrameForward (x0 : Fin 2) (x1 : List Byte) (x2 : Nat) (x3 : Bool) (s : State) (h : Kept b s) : KeptR b
    (execFrameForward x0 x1 x2 x3 s) := by
  unfold execFrameForward
  with_reducible repeat' (first | assumption | (intro hz; clear_value z) | (intro _) | (extract_lets +onlyGivenNames z; first | (refine kept_cut b z ?_ ?_; dsimp -zeta only [z]; clear z) | (refine kept_cut1 b z ?_ ?_; dsimp -zeta only [z]; clear z) | (refine kept_cut2 b z ?_ ?_; dsimp -zeta only [z]; clear z) | (refine isFun z ?_; dsimp -zeta only [z]; clear z) | clear_value z) | exact keptR_fault | exact keptO_none | apply keptR_next | apply keptO_some | apply keptR_ite | apply keptO_ite | apply keptO_map | apply keptO_getD | apply kept_ite | apply kept_count | apply kept_emit | apply kept_forEach | (apply kept_upd; assumption) | (apply kept_of_some; assumption) | (apply kept_of_pair; assumption) | dsimp -zeta only | split)

theorem kept_execMasterLost (s : State) (h : Kept b s) : KeptR b (execMasterLost s) := by
  unfold execMasterLost
  with_reducible repeat' (first | assumption | (intro _) | exact keptR_fault | exact keptO_none | apply keptR_next | apply keptO_some | apply keptR_ite | apply keptO_ite | apply keptO_map | apply kept_ite | apply kept_occur | apply kept_modServo | apply kept_forEach | (apply kept_upd; assumption) | split)

theorem kept_execNtArmFire (x0 : Half) (x1 : Fin 5) (s : State) (h : Kept b s) : KeptR b (execNtArmFire x0 x1 s) := by
  unfold execNtArmFire
  with_reducible repeat' (first | assumption | (intro _) | exact keptR_fault | exact keptO_none | apply keptR_next | apply keptO_some | apply keptR_ite | apply keptO_ite | apply keptO_map | apply kept_ite | apply kept_armFire | apply kept_forEach | (apply kept_upd; assumption) | split)

theorem kept_execNtPortLink (x0 : Fin 2) (s : State) (h : Kept b s) : KeptR b (execNtPortLink x0 s) := by
  unfold execNtPortLink
  with_reducible repeat' (first | assumption | (intro _) | exact keptR_fault | exact keptO_none | apply keptR_next | apply keptO_some | apply keptR_ite | apply keptO_ite | apply keptO_map | apply kept_ite | apply kept_occur | apply kept_forEach | (apply kept_upd; assumption) | split)

theorem kept_execNtPortLinkUp (x0 : Fin 2) (s : State) (h : Kept b s) : KeptR b (execNtPortLinkUp x0 s) := by
  unfold execNtPortLinkUp
  exact ⟨h.mem, h.regs, h.pending, h.c0, h.c1, h.fuses, h.revoked⟩

theorem kept_execNtStepApply (x0 : Half) (s : State) (h : Kept b s) : KeptR b (execNtStepApply x0 s) := by
  unfold execNtStepApply
  with_reducible repeat' (first | assumption | (intro _) | exact keptR_fault | exact keptO_none | apply keptR_next | apply keptO_some | apply keptR_ite | apply keptO_ite | apply keptO_map | apply kept_ite | apply kept_ntApply | apply kept_forEach | (apply kept_upd; assumption) | split)

theorem kept_execNtUpdate (x0 : Half) (x1 : BitVec 272) (s : State) (h : Kept b s) : KeptR b (execNtUpdate x0 x1 s) := by
  unfold execNtUpdate
  with_reducible repeat' (first | assumption | (intro _) | exact keptR_fault | exact keptO_none | apply keptR_next | apply keptO_some | apply keptR_ite | apply keptO_ite | apply keptO_map | apply kept_ite | apply kept_flitIn | apply kept_sequenced | apply kept_ntQueue | apply kept_takeMsg | apply kept_forEach | (apply kept_upd; assumption) | split)

theorem kept_execPtpSync (x0 : Fin 2) (x1 : List Byte) (x2 : Fin 32) (s : State) (h : Kept b s) : KeptR b (execPtpSync x0 x1 x2
    s) := by
  unfold execPtpSync
  with_reducible repeat' (first | assumption | (intro _) | exact keptR_fault | exact keptO_none | apply keptR_next | apply keptO_some | apply keptR_ite | apply keptO_ite | apply keptO_map | apply kept_ite | apply kept_modServo | apply kept_forEach | (apply kept_upd; assumption) | split)

theorem kept_reclock (s : State) (x1 now v : Nat) (h : Kept b s) :
    Kept { b with c0 := if x1 = 0 then BitVec.ofNat 64 v else b.c0, c1 := if x1 = 0 then b.c1 else BitVec.ofNat 64 v }
      (State.reclock s x1 now v) := by
  unfold State.reclock
  extract_lets d mv mr n0 s1 s2 s3
  have k1 : Kept { b with c0 := if x1 = 0 then BitVec.ofNat 64 v else b.c0, c1 := if x1 = 0 then b.c1 else BitVec.ofNat 64 v }
      s1 := by
    dsimp only [s1]
    split
    · exact ⟨h.mem, h.regs, h.pending, rfl, h.c1, h.fuses, h.revoked⟩
    · exact ⟨h.mem, h.regs, h.pending, h.c0, rfl, h.fuses, h.revoked⟩
  exact kept_modServo _ _ ⟨k1.mem, k1.regs, k1.pending, k1.c0, k1.c1, k1.fuses, k1.revoked⟩

theorem kept_wrSyncCtl (s : State) (x1 : Word) (h : Kept b s) : Kept b (State.wrSyncCtl s x1) := by
  unfold State.wrSyncCtl
  with_reducible repeat' (first | assumption | (intro hz; clear_value z) | (intro _) | (extract_lets +onlyGivenNames z; first | (refine kept_cut b z ?_ ?_; dsimp -zeta only [z]; clear z) | clear_value z) | apply kept_ite | apply kept_setReg | apply kept_regBit | apply kept_forEach | (apply kept_upd; assumption) | split)

theorem kept_execPllUnlock (x0 : Half) (s : State) (h : Kept b s) : KeptR b (execPllUnlock x0 s) := by
  unfold execPllUnlock
  with_reducible repeat' (first | assumption | (intro _) | exact keptR_fault | exact keptO_none | apply keptR_next | apply keptO_some | apply keptR_ite | apply keptO_ite | apply keptO_map | apply kept_ite | apply kept_regBit | apply kept_setReg | apply kept_occur | apply kept_backToSelftest | apply kept_forEach | (apply kept_upd; assumption) | split)

theorem kept_execRefLoss (s : State) (h : Kept b s) : KeptR b (execRefLoss s) := by
  unfold execRefLoss
  with_reducible repeat' (first | assumption | (intro _) | exact keptR_fault | exact keptO_none | apply keptR_next | apply keptO_some | apply keptR_ite | apply keptO_ite | apply keptO_map | apply kept_ite | apply kept_setReg | apply kept_backToSelftest | apply kept_occur | apply kept_forEach | (apply kept_upd; assumption) | split)

theorem kept_execSyncEdge (x0 : Fin 4) (s : State) (h : Kept b s) : KeptR b (execSyncEdge x0 s) := by
  unfold execSyncEdge
  with_reducible repeat' (first | assumption | (intro _) | exact keptR_fault | exact keptO_none | apply keptR_next | apply keptO_some | apply keptR_ite | apply keptO_ite | apply keptO_map | apply kept_ite | apply kept_forEach | (apply kept_upd; assumption) | split)

theorem kept_alignCheck (s : State) (x1 : Nat) (x2 : Nat) (x3 : Nat) (h : Kept b s) : Kept b (State.alignCheck s x1 x2 x3) := by
  unfold State.alignCheck
  with_reducible repeat' (first | assumption | (intro _) | apply kept_ite | apply kept_occur | (apply kept_upd; assumption) | split)

theorem kept_execPeriodic (x0 : Half) (x1 : BitVec 272) (x2 : Fin 32) (s : State) (h : Kept b s) : KeptR b (execPeriodic x0 x1
    x2 s) := by
  unfold execPeriodic
  with_reducible repeat' (first | assumption | (intro _) | exact keptR_fault | exact keptO_none | apply keptR_next | apply keptO_some | apply keptR_ite | apply keptO_ite | apply keptO_map | apply kept_ite | apply kept_flitIn | apply kept_sequenced | apply kept_alignCheck | apply kept_takeMsg | apply kept_forEach | (apply kept_upd; assumption) | split)

end Sys2Proof.Machine
end

