-- ==== Sys2Proof/Laws/KeptHost.lean ====
section
/-!
SUPPORT. What the operations keep: loads, register accesses, commands, the row, starts, SPDM.
-/
namespace Sys2Proof.Machine

set_option linter.all false

variable {b : State}

theorem kept_readReg (s : State) (x1 : Reg) (x2 : Nat) (x3 : Nat) (x4 : Nat) (x5 : Nat) (h : Kept b s) : Kept b (State.readReg
    s x1 x2 x3 x4 x5).2 := by
  unfold State.readReg
  with_reducible repeat' (first | assumption | (intro hz; clear_value z) | (intro _) | (extract_lets +onlyGivenNames z; first | (refine kept_cut b z ?_ ?_; dsimp -zeta only [z]; clear z) | clear_value z) | apply kept_ite | apply kept_forEach | (apply kept_upd; assumption) | split)

theorem kept_readAt (s : State) (x1 : Nat) (x2 : Nat) (x3 : Nat) (h : Kept b s) : Kept b (State.readAt s x1 x2 x3).2 := by
  unfold State.readAt
  with_reducible repeat' (first | assumption | (intro _) | apply kept_ite | apply kept_readReg | (apply kept_upd; assumption) | split)

theorem kept_hostRead (s : State) (x1 : Nat) (x2 : Nat) (x3 : Nat) (h : Kept b s) : Kept b (State.hostRead s x1 x2 x3) := by
  unfold State.hostRead
  with_reducible repeat' (first | assumption | (intro _) | apply kept_ite | apply kept_answer | apply kept_foreign | apply kept_readAt | apply kept_send | (apply kept_upd; assumption) | split)

theorem kept_commit (s : State) (x1 : Reg) (x2 : Reg) (x3 : Nat) (x4 : Nat) (x5 : Nat) (x6 : Nat) (x7 : Word) (h : Kept b s) :
    Kept b (State.commit s x1 x2 x3 x4 x5 x6 x7) := by
  unfold State.commit
  with_reducible repeat' (first | assumption | (intro _) | apply kept_ite | apply kept_setReg | (apply kept_upd; assumption) | split)

theorem kept_foreignWrite (s : State) (x1 : Reg) (x2 : Nat) (x3 : Nat) (x4 : Nat) (h : Kept b s) : Kept b (State.foreignWrite s
    x1 x2 x3 x4) := by
  unfold State.foreignWrite
  with_reducible repeat' (first | assumption | (intro _) | apply kept_ite | apply kept_foreign | apply kept_evrIgnored | apply kept_count | (apply kept_upd; assumption) | split)

theorem kept_plain (s : State) (x1 : Reg) (x2 : Nat) (x3 : Nat) (x4 : Nat) (x5 : Word) (h : Kept b s) : Kept b (State.plain s
    x1 x2 x3 x4 x5) := by
  unfold State.plain
  with_reducible repeat' (first | assumption | (intro _) | apply kept_ite | apply kept_setReg | (apply kept_upd; assumption) | split)

theorem kept_stage (s : State) (x1 : Reg) (x2 : Nat) (x3 : Nat) (x4 : Nat) (x5 : Nat) (x6 : Word) (h : Kept b s) : Kept b
    (State.stage s x1 x2 x3 x4 x5 x6) := by
  unfold State.stage
  exact ⟨h.mem, h.regs, h.pending, h.c0, h.c1, h.fuses, h.revoked⟩

theorem kept_wrBgCtl (s : State) (x1 : Nat) (x2 : Nat) (x3 : Word) (h : Kept b s) : Kept b (State.wrBgCtl s x1 x2 x3) := by
  unfold State.wrBgCtl
  with_reducible repeat' (first | assumption | (intro _) | apply kept_ite | apply kept_foreign | apply kept_setReg | (apply kept_upd; assumption) | split)

theorem kept_wrEgCtl (s : State) (x1 : Nat) (x2 : Nat) (x3 : Word) (h : Kept b s) : Kept b (State.wrEgCtl s x1 x2 x3) := by
  unfold State.wrEgCtl
  with_reducible repeat' (first | assumption | (intro _) | apply kept_ite | apply kept_evrIgnored | apply kept_foreign | apply kept_setReg | (apply kept_upd; assumption) | split)

theorem kept_wrRingOp (s : State) (x1 : Nat) (x2 : Nat) (x3 : Nat) (x4 : Word) (h : Kept b s) : Kept b (State.wrRingOp s x1 x2
    x3 x4) := by
  unfold State.wrRingOp
  with_reducible repeat' (first | assumption | (intro _) | apply kept_ite | apply kept_ringEnable | apply kept_ringDisable | (apply kept_upd; assumption) | split)

theorem kept_rgnIgnored (s : State) (x1 : Nat) (h : Kept b s) : Kept b (State.rgnIgnored s x1) := by
  unfold State.rgnIgnored
  with_reducible repeat' (first | assumption | (intro _) | apply kept_ite | apply kept_count | (apply kept_upd; assumption) | split)

theorem kept_wrRgnPair (s : State) (x1 : Reg) (x2 : Reg) (x3 : Nat) (x4 : Nat) (x5 : Nat) (x6 : Word) (h : Kept b s) : Kept b
    (State.wrRgnPair s x1 x2 x3 x4 x5 x6) := by
  unfold State.wrRgnPair
  with_reducible repeat' (first | assumption | (intro _) | apply kept_ite | apply kept_rgnIgnored | apply kept_commit | (apply kept_upd; assumption) | split)

theorem kept_wrRgnCtl (s : State) (x1 : Nat) (x2 : Nat) (x3 : Word) (h : Kept b s) : Kept b (State.wrRgnCtl s x1 x2 x3) := by
  unfold State.wrRgnCtl
  with_reducible repeat' (first | assumption | (intro _) | apply kept_ite | apply kept_setReg | apply kept_rgnIgnored | (apply kept_upd; assumption) | split)

theorem kept_wrBanked (s : State) (x1 : Nat) (x2 : State → State) (hx2 : ∀ s, Kept b s → Kept b (x2 s)) (h : Kept b s) : Kept b
    (State.wrBanked s x1 x2) := by
  unfold State.wrBanked
  with_reducible repeat' (first | assumption | (intro _) | apply kept_ite | apply kept_bootIgnored | apply hx2 | (apply kept_upd; assumption) | split)

theorem kept_store (s : State) (x1 : Reg) (x2 : Nat) (x3 : Nat) (x4 : Nat) (x5 : Nat) (x6 : Word) (h : Kept b s) : Kept b
    (State.store s x1 x2 x3 x4 x5 x6) := by
  unfold State.store
  with_reducible repeat' (first | assumption | (intro _) | apply kept_ite | apply kept_plain | apply kept_wrSyncCtl | apply kept_stage | apply kept_commit | apply kept_regBit | apply kept_setReg | apply kept_wrDacCtl | apply kept_wrDacScale | apply kept_wrSlotCtl | apply kept_count | apply kept_wrSlotOsc | apply kept_wrInCtl | apply kept_wrChCtl | apply kept_wrChOsc | apply kept_wrKernelSet | apply kept_wrTable | apply kept_wrTableIn | apply kept_wrFgStrobe | apply kept_wrFlxCtl | apply kept_wrFlxLevel | apply kept_wrFlxGuarded | apply kept_wrMonCfg | apply kept_wrMonPlain | apply kept_wrMonStatus | apply kept_wrAuxStart | apply kept_wrCap | apply kept_wrLaneCtl | apply kept_wrLaneStatus | apply kept_wrBgCtl | apply kept_wrEcFire | apply kept_wrEgCtl | apply kept_wrEcCfg | apply kept_wrTaskSel | apply kept_wrKick | apply kept_wrRingOp | apply kept_wrRgnPair | apply kept_wrRgnCtl | apply kept_wrBanked | apply kept_wrBootCtl | apply kept_recast | apply kept_bootIgnored | apply kept_wrCmpCtl | apply kept_wrNtCtl | apply kept_wrNtRate | apply kept_wrTrigState | apply kept_wrDlkCtl | apply kept_wrFltCtl | apply kept_wrFnAck | apply kept_wrFirstClr | apply kept_wrQuietCtl | apply kept_wrPsum | apply kept_wrSrcCfg | apply kept_wrSrcStatus | apply kept_wrSrcForce | (apply kept_upd; assumption) | split)

theorem kept_writeAt (s : State) (x1 : Nat) (x2 : Nat) (x3 : Nat) (x4 : Word) (h : Kept b s) : Kept b (State.writeAt s x1 x2 x3
    x4) := by
  unfold State.writeAt
  with_reducible repeat' (first | assumption | (intro _) | apply kept_ite | apply kept_store | apply kept_foreignWrite | (apply kept_upd; assumption) | split)

theorem kept_hostWrite (s : State) (x1 : Nat) (x2 : Nat) (x3 : Nat) (x4 : Word) (h : Kept b s) : Kept b (State.hostWrite s x1
    x2 x3 x4) := by
  unfold State.hostWrite
  with_reducible repeat' (first | assumption | (intro _) | apply kept_ite | apply kept_foreign | apply kept_writeAt | apply kept_send | apply kept_count | (apply kept_upd; assumption) | split)

theorem kept_wr (s : State) (x1 : Nat) (x2 : Reg) (x3 : Nat) (x4 : Nat) (x5 : Nat) (x6 : Word) (h : Kept b s) : Kept b
    (State.wr s x1 x2 x3 x4 x5 x6) := by
  unfold State.wr
  with_reducible repeat' (first | assumption | (intro _) | apply kept_ite | apply kept_hostWrite | (apply kept_upd; assumption) | split)

theorem kept_regIn (s : State) (x1 : Nat) (x2 : DlkMsg) (h : Kept b s) : Kept b (State.regIn s x1 x2) := by
  unfold State.regIn
  with_reducible repeat' (first | assumption | (intro _) | apply kept_ite | apply kept_writeAt | apply kept_bootGo | apply kept_readAt | apply kept_send | apply kept_answer | (apply kept_upd; assumption) | split)

theorem kept_execAuxStart (x0 : Port) (x1 : Half) (x2 : Word) (s : State) (h : Kept b s) : KeptR b (execAuxStart x0 x1 x2 s) :=
    by
  unfold execAuxStart
  with_reducible repeat' (first | assumption | (intro _) | exact keptR_fault | exact keptO_none | apply keptR_next | apply keptO_some | apply keptR_ite | apply keptO_ite | apply keptO_map | apply kept_ite | apply kept_wr | apply kept_forEach | (apply kept_upd; assumption) | split)

theorem kept_execAvgClr (x0 : Port) (x1 : ChIx) (x2 : Word) (s : State) (h : Kept b s) : KeptR b (execAvgClr x0 x1 x2 s) := by
  unfold execAvgClr
  with_reducible repeat' (first | assumption | (intro _) | exact keptR_fault | exact keptO_none | apply keptR_next | apply keptO_some | apply keptR_ite | apply keptO_ite | apply keptO_map | apply kept_ite | apply kept_wr | apply kept_forEach | (apply kept_upd; assumption) | split)

theorem kept_execBindOff (x0 : Port) (x1 : Half) (x2 : Word) (s : State) (h : Kept b s) : KeptR b (execBindOff x0 x1 x2 s) := by
  unfold execBindOff
  with_reducible repeat' (first | assumption | (intro _) | exact keptR_fault | exact keptO_none | apply keptR_next | apply keptO_some | apply keptR_ite | apply keptO_ite | apply keptO_map | apply kept_ite | apply kept_wr | apply kept_forEach | (apply kept_upd; assumption) | split)

theorem kept_execBootAbort (x0 : Port) (s : State) (h : Kept b s) : KeptR b (execBootAbort x0 s) := by
  unfold execBootAbort
  with_reducible repeat' (first | assumption | (intro _) | exact keptR_fault | exact keptO_none | apply keptR_next | apply keptO_some | apply keptR_ite | apply keptO_ite | apply keptO_map | apply kept_ite | apply kept_wr | apply kept_forEach | (apply kept_upd; assumption) | split)

theorem kept_execChRstph (x0 : Port) (x1 : ChIx) (x2 : Word) (s : State) (h : Kept b s) : KeptR b (execChRstph x0 x1 x2 s) := by
  unfold execChRstph
  with_reducible repeat' (first | assumption | (intro _) | exact keptR_fault | exact keptO_none | apply keptR_next | apply keptO_some | apply keptR_ite | apply keptO_ite | apply keptO_map | apply kept_ite | apply kept_wr | apply kept_forEach | (apply kept_upd; assumption) | split)

theorem kept_execCmpDisable (x0 : Port) (x1 : Half) (x2 : Word) (s : State) (h : Kept b s) : KeptR b (execCmpDisable x0 x1 x2
    s) := by
  unfold execCmpDisable
  with_reducible repeat' (first | assumption | (intro _) | exact keptR_fault | exact keptO_none | apply keptR_next | apply keptO_some | apply keptR_ite | apply keptO_ite | apply keptO_map | apply kept_ite | apply kept_wr | apply kept_forEach | (apply kept_upd; assumption) | split)

theorem kept_execDacDisable (x0 : Port) (x1 : Half) (x2 : DacIx) (x3 : Word) (s : State) (h : Kept b s) : KeptR b
    (execDacDisable x0 x1 x2 x3 s) := by
  unfold execDacDisable
  with_reducible repeat' (first | assumption | (intro _) | exact keptR_fault | exact keptO_none | apply keptR_next | apply keptO_some | apply keptR_ite | apply keptO_ite | apply keptO_map | apply kept_ite | apply kept_wr | apply kept_forEach | (apply kept_upd; assumption) | split)

theorem kept_execDacEnable (x0 : Port) (x1 : Half) (x2 : DacIx) (x3 : Word) (s : State) (h : Kept b s) : KeptR b (execDacEnable
    x0 x1 x2 x3 s) := by
  unfold execDacEnable
  with_reducible repeat' (first | assumption | (intro _) | exact keptR_fault | exact keptO_none | apply keptR_next | apply keptO_some | apply keptR_ite | apply keptO_ite | apply keptO_map | apply kept_ite | apply kept_wr | apply kept_forEach | (apply kept_upd; assumption) | split)

theorem kept_execDacModeWrite (x0 : Port) (x1 : Half) (x2 : DacIx) (x3 : Word) (s : State) (h : Kept b s) : KeptR b
    (execDacModeWrite x0 x1 x2 x3 s) := by
  unfold execDacModeWrite
  with_reducible repeat' (first | assumption | (intro _) | exact keptR_fault | exact keptO_none | apply keptR_next | apply keptO_some | apply keptR_ite | apply keptO_ite | apply keptO_map | apply kept_ite | apply kept_wr | apply kept_forEach | (apply kept_upd; assumption) | split)

theorem kept_execDacScaleWrite (x0 : Port) (x1 : Half) (x2 : DacIx) (x3 : Word) (s : State) (h : Kept b s) : KeptR b
    (execDacScaleWrite x0 x1 x2 x3 s) := by
  unfold execDacScaleWrite
  with_reducible repeat' (first | assumption | (intro _) | exact keptR_fault | exact keptO_none | apply keptR_next | apply keptO_some | apply keptR_ite | apply keptO_ite | apply keptO_map | apply kept_ite | apply kept_wr | apply kept_forEach | (apply kept_upd; assumption) | split)

theorem kept_execDormantEnter (x0 : Port) (x1 : Half) (x2 : Word) (s : State) (h : Kept b s) : KeptR b (execDormantEnter x0 x1
    x2 s) := by
  unfold execDormantEnter
  with_reducible repeat' (first | assumption | (intro _) | exact keptR_fault | exact keptO_none | apply keptR_next | apply keptO_some | apply keptR_ite | apply keptO_ite | apply keptO_map | apply kept_ite | apply kept_wr | apply kept_forEach | (apply kept_upd; assumption) | split)

theorem kept_execDormantExit (x0 : Port) (x1 : Half) (x2 : Word) (s : State) (h : Kept b s) : KeptR b (execDormantExit x0 x1 x2
    s) := by
  unfold execDormantExit
  with_reducible repeat' (first | assumption | (intro _) | exact keptR_fault | exact keptO_none | apply keptR_next | apply keptO_some | apply keptR_ite | apply keptO_ite | apply keptO_map | apply kept_ite | apply kept_wr | apply kept_forEach | (apply kept_upd; assumption) | split)

theorem kept_execEcFire (x0 : Port) (x1 : Half) (x2 : Word) (s : State) (h : Kept b s) : KeptR b (execEcFire x0 x1 x2 s) := by
  unfold execEcFire
  with_reducible repeat' (first | assumption | (intro _) | exact keptR_fault | exact keptO_none | apply keptR_next | apply keptO_some | apply keptR_ite | apply keptO_ite | apply keptO_map | apply kept_ite | apply kept_wr | apply kept_forEach | (apply kept_upd; assumption) | split)

theorem kept_execEvMuteClear (x0 : Port) (x1 : Half) (x2 : DacIx) (x3 : Word) (s : State) (h : Kept b s) : KeptR b
    (execEvMuteClear x0 x1 x2 x3 s) := by
  unfold execEvMuteClear
  with_reducible repeat' (first | assumption | (intro _) | exact keptR_fault | exact keptO_none | apply keptR_next | apply keptO_some | apply keptR_ite | apply keptO_ite | apply keptO_map | apply kept_ite | apply kept_wr | apply kept_forEach | (apply kept_upd; assumption) | split)

theorem kept_execExit (x0 : Port) (x1 : Half) (x2 : Word) (s : State) (h : Kept b s) : KeptR b (execExit x0 x1 x2 s) := by
  unfold execExit
  with_reducible repeat' (first | assumption | (intro _) | exact keptR_fault | exact keptO_none | apply keptR_next | apply keptO_some | apply keptR_ite | apply keptO_ite | apply keptO_map | apply kept_ite | apply kept_wr | apply kept_forEach | (apply kept_upd; assumption) | split)

theorem kept_execFgStrobe (x0 : Port) (x1 : GroupIx) (x2 : Word) (s : State) (h : Kept b s) : KeptR b (execFgStrobe x0 x1 x2 s)
    := by
  unfold execFgStrobe
  with_reducible repeat' (first | assumption | (intro _) | exact keptR_fault | exact keptO_none | apply keptR_next | apply keptO_some | apply keptR_ite | apply keptO_ite | apply keptO_map | apply kept_ite | apply kept_wr | apply kept_forEach | (apply kept_upd; assumption) | split)

theorem kept_execFirstClr (x0 : Port) (x1 : Half) (x2 : Word) (s : State) (h : Kept b s) : KeptR b (execFirstClr x0 x1 x2 s) :=
    by
  unfold execFirstClr
  with_reducible repeat' (first | assumption | (intro _) | exact keptR_fault | exact keptO_none | apply keptR_next | apply keptO_some | apply keptR_ite | apply keptO_ite | apply keptO_map | apply kept_ite | apply kept_wr | apply kept_forEach | (apply kept_upd; assumption) | split)

theorem kept_execFluxDisable (x0 : Port) (x1 : FluxIx) (x2 : Word) (s : State) (h : Kept b s) : KeptR b (execFluxDisable x0 x1
    x2 s) := by
  unfold execFluxDisable
  with_reducible repeat' (first | assumption | (intro _) | exact keptR_fault | exact keptO_none | apply keptR_next | apply keptO_some | apply keptR_ite | apply keptO_ite | apply keptO_map | apply kept_ite | apply kept_wr | apply kept_forEach | (apply kept_upd; assumption) | split)

theorem kept_execFluxEnable (x0 : Port) (x1 : FluxIx) (x2 : Word) (s : State) (h : Kept b s) : KeptR b (execFluxEnable x0 x1 x2
    s) := by
  unfold execFluxEnable
  with_reducible repeat' (first | assumption | (intro _) | exact keptR_fault | exact keptO_none | apply keptR_next | apply keptO_some | apply keptR_ite | apply keptO_ite | apply keptO_map | apply kept_ite | apply kept_wr | apply kept_forEach | (apply kept_upd; assumption) | split)

theorem kept_execFluxModeWrite (x0 : Port) (x1 : FluxIx) (x2 : Word) (s : State) (h : Kept b s) : KeptR b (execFluxModeWrite x0
    x1 x2 s) := by
  unfold execFluxModeWrite
  with_reducible repeat' (first | assumption | (intro _) | exact keptR_fault | exact keptO_none | apply keptR_next | apply keptO_some | apply keptR_ite | apply keptO_ite | apply keptO_map | apply kept_ite | apply kept_wr | apply kept_forEach | (apply kept_upd; assumption) | split)

theorem kept_execFlxLevelWrite (x0 : Port) (x1 : FluxIx) (x2 : Word) (s : State) (h : Kept b s) : KeptR b (execFlxLevelWrite x0
    x1 x2 s) := by
  unfold execFlxLevelWrite
  with_reducible repeat' (first | assumption | (intro _) | exact keptR_fault | exact keptO_none | apply keptR_next | apply keptO_some | apply keptR_ite | apply keptO_ite | apply keptO_map | apply kept_ite | apply kept_wr | apply kept_forEach | (apply kept_upd; assumption) | split)

theorem kept_execFnAck (x0 : Port) (x1 : Half) (x2 : Word) (s : State) (h : Kept b s) : KeptR b (execFnAck x0 x1 x2 s) := by
  unfold execFnAck
  with_reducible repeat' (first | assumption | (intro _) | exact keptR_fault | exact keptO_none | apply keptR_next | apply keptO_some | apply keptR_ite | apply keptO_ite | apply keptO_map | apply kept_ite | apply kept_wr | apply kept_forEach | (apply kept_upd; assumption) | split)

theorem kept_execFnModeWrite (x0 : Port) (x1 : Half) (x2 : Word) (s : State) (h : Kept b s) : KeptR b (execFnModeWrite x0 x1 x2
    s) := by
  unfold execFnModeWrite
  with_reducible repeat' (first | assumption | (intro _) | exact keptR_fault | exact keptO_none | apply keptR_next | apply keptO_some | apply keptR_ite | apply keptO_ite | apply keptO_map | apply kept_ite | apply kept_wr | apply kept_forEach | (apply kept_upd; assumption) | split)

theorem kept_execGo (x0 : Port) (x1 : List Byte) (s : State) (h : Kept b s) : KeptR b (execGo x0 x1 s) := by
  unfold execGo
  with_reducible repeat' (first | assumption | (intro hz; clear_value z) | (intro _) | (extract_lets +onlyGivenNames z; first | (refine kept_cut b z ?_ ?_; dsimp -zeta only [z]; clear z) | (refine kept_cut1 b z ?_ ?_; dsimp -zeta only [z]; clear z) | (refine kept_cut2 b z ?_ ?_; dsimp -zeta only [z]; clear z) | (refine isFun z ?_; dsimp -zeta only [z]; clear z) | clear_value z) | exact keptR_fault | exact keptO_none | apply keptR_next | apply keptO_some | apply keptR_ite | apply keptO_ite | apply keptO_map | apply keptO_getD | apply kept_ite | apply kept_foreign | apply kept_bootGo | apply kept_send | apply kept_count | apply kept_forEach | (apply kept_upd; assumption) | (apply kept_of_some; assumption) | (apply kept_of_pair; assumption) | dsimp -zeta only | split)

theorem kept_execHostMute (x0 : Port) (x1 : Half) (x2 : DacIx) (x3 : Word) (s : State) (h : Kept b s) : KeptR b (execHostMute
    x0 x1 x2 x3 s) := by
  unfold execHostMute
  with_reducible repeat' (first | assumption | (intro _) | exact keptR_fault | exact keptO_none | apply keptR_next | apply keptO_some | apply keptR_ite | apply keptO_ite | apply keptO_map | apply kept_ite | apply kept_wr | apply kept_forEach | (apply kept_upd; assumption) | split)

theorem kept_execInDisable (x0 : Port) (x1 : InIx) (x2 : Word) (s : State) (h : Kept b s) : KeptR b (execInDisable x0 x1 x2 s)
    := by
  unfold execInDisable
  with_reducible repeat' (first | assumption | (intro _) | exact keptR_fault | exact keptO_none | apply keptR_next | apply keptO_some | apply keptR_ite | apply keptO_ite | apply keptO_map | apply kept_ite | apply kept_wr | apply kept_forEach | (apply kept_upd; assumption) | split)

theorem kept_execInEnable (x0 : Port) (x1 : InIx) (x2 : Word) (s : State) (h : Kept b s) : KeptR b (execInEnable x0 x1 x2 s) :=
    by
  unfold execInEnable
  with_reducible repeat' (first | assumption | (intro _) | exact keptR_fault | exact keptO_none | apply keptR_next | apply keptO_some | apply keptR_ite | apply keptO_ite | apply keptO_map | apply kept_ite | apply kept_wr | apply kept_forEach | (apply kept_upd; assumption) | split)

theorem kept_execKick (x0 : Port) (x1 : Half) (x2 : Fin 2) (s : State) (h : Kept b s) : KeptR b (execKick x0 x1 x2 s) := by
  unfold execKick
  with_reducible repeat' (first | assumption | (intro _) | exact keptR_fault | exact keptO_none | apply keptR_next | apply keptO_some | apply keptR_ite | apply keptO_ite | apply keptO_map | apply kept_ite | apply kept_wr | apply kept_forEach | (apply kept_upd; assumption) | split)

theorem kept_execLaneAbort (x0 : Port) (x1 : LaneIx) (x2 : Word) (s : State) (h : Kept b s) : KeptR b (execLaneAbort x0 x1 x2
    s) := by
  unfold execLaneAbort
  with_reducible repeat' (first | assumption | (intro _) | exact keptR_fault | exact keptO_none | apply keptR_next | apply keptO_some | apply keptR_ite | apply keptO_ite | apply keptO_map | apply kept_ite | apply kept_wr | apply kept_forEach | (apply kept_upd; assumption) | split)

theorem kept_execLaneDisable (x0 : Port) (x1 : LaneIx) (x2 : Word) (s : State) (h : Kept b s) : KeptR b (execLaneDisable x0 x1
    x2 s) := by
  unfold execLaneDisable
  with_reducible repeat' (first | assumption | (intro _) | exact keptR_fault | exact keptO_none | apply keptR_next | apply keptO_some | apply keptR_ite | apply keptO_ite | apply keptO_map | apply kept_ite | apply kept_wr | apply kept_forEach | (apply kept_upd; assumption) | split)

theorem kept_execLaneFaultClear (x0 : Port) (x1 : LaneIx) (x2 : Word) (s : State) (h : Kept b s) : KeptR b (execLaneFaultClear
    x0 x1 x2 s) := by
  unfold execLaneFaultClear
  with_reducible repeat' (first | assumption | (intro _) | exact keptR_fault | exact keptO_none | apply keptR_next | apply keptO_some | apply keptR_ite | apply keptO_ite | apply keptO_map | apply kept_ite | apply kept_wr | apply kept_forEach | (apply kept_upd; assumption) | split)

theorem kept_execLaneStart (x0 : Port) (x1 : LaneIx) (x2 : Word) (s : State) (h : Kept b s) : KeptR b (execLaneStart x0 x1 x2
    s) := by
  unfold execLaneStart
  with_reducible repeat' (first | assumption | (intro _) | exact keptR_fault | exact keptO_none | apply keptR_next | apply keptO_some | apply keptR_ite | apply keptO_ite | apply keptO_map | apply kept_ite | apply kept_wr | apply kept_forEach | (apply kept_upd; assumption) | split)

theorem kept_execLastXiRead (x0 : Port) (x1 : ChIx) (s : State) (h : Kept b s) : KeptR b (execLastXiRead x0 x1 s) := by
  unfold execLastXiRead
  with_reducible repeat' (first | assumption | (intro _) | exact keptR_fault | exact keptO_none | apply keptR_next | apply keptO_some | apply keptR_ite | apply keptO_ite | apply keptO_map | apply kept_ite | apply kept_hostRead | apply kept_forEach | (apply kept_upd; assumption) | split)

theorem kept_execLatchedClear (x0 : Port) (x1 : Half) (x2 : Fin 512) (x3 : Word) (s : State) (h : Kept b s) : KeptR b
    (execLatchedClear x0 x1 x2 x3 s) := by
  unfold execLatchedClear
  with_reducible repeat' (first | assumption | (intro _) | exact keptR_fault | exact keptO_none | apply keptR_next | apply keptO_some | apply keptR_ite | apply keptO_ite | apply keptO_map | apply kept_ite | apply kept_wr | apply kept_forEach | (apply kept_upd; assumption) | split)

theorem kept_execMonClr (x0 : Port) (x1 : MonIx) (x2 : Word) (s : State) (h : Kept b s) : KeptR b (execMonClr x0 x1 x2 s) := by
  unfold execMonClr
  with_reducible repeat' (first | assumption | (intro _) | exact keptR_fault | exact keptO_none | apply keptR_next | apply keptO_some | apply keptR_ite | apply keptO_ite | apply keptO_map | apply kept_ite | apply kept_wr | apply kept_forEach | (apply kept_upd; assumption) | split)

theorem kept_execMonDisable (x0 : Port) (x1 : MonIx) (x2 : Word) (s : State) (h : Kept b s) : KeptR b (execMonDisable x0 x1 x2
    s) := by
  unfold execMonDisable
  with_reducible repeat' (first | assumption | (intro _) | exact keptR_fault | exact keptO_none | apply keptR_next | apply keptO_some | apply keptR_ite | apply keptO_ite | apply keptO_map | apply kept_ite | apply kept_wr | apply kept_forEach | (apply kept_upd; assumption) | split)

theorem kept_execMonLock (x0 : Port) (x1 : MonIx) (x2 : Word) (s : State) (h : Kept b s) : KeptR b (execMonLock x0 x1 x2 s) :=
    by
  unfold execMonLock
  with_reducible repeat' (first | assumption | (intro _) | exact keptR_fault | exact keptO_none | apply keptR_next | apply keptO_some | apply keptR_ite | apply keptO_ite | apply keptO_map | apply kept_ite | apply kept_wr | apply kept_forEach | (apply kept_upd; assumption) | split)

theorem kept_execMonTestWrite (x0 : Port) (x1 : MonIx) (x2 : Word) (s : State) (h : Kept b s) : KeptR b (execMonTestWrite x0 x1
    x2 s) := by
  unfold execMonTestWrite
  with_reducible repeat' (first | assumption | (intro _) | exact keptR_fault | exact keptO_none | apply keptR_next | apply keptO_some | apply keptR_ite | apply keptO_ite | apply keptO_map | apply kept_ite | apply kept_wr | apply kept_forEach | (apply kept_upd; assumption) | split)

theorem kept_execNtCtlWrite (x0 : Port) (x1 : Half) (x2 : Word) (s : State) (h : Kept b s) : KeptR b (execNtCtlWrite x0 x1 x2
    s) := by
  unfold execNtCtlWrite
  with_reducible repeat' (first | assumption | (intro _) | exact keptR_fault | exact keptO_none | apply keptR_next | apply keptO_some | apply keptR_ite | apply keptO_ite | apply keptO_map | apply kept_ite | apply kept_wr | apply kept_forEach | (apply kept_upd; assumption) | split)

theorem kept_execNtRateWrite (x0 : Port) (x1 : Half) (x2 : Word) (s : State) (h : Kept b s) : KeptR b (execNtRateWrite x0 x1 x2
    s) := by
  unfold execNtRateWrite
  with_reducible repeat' (first | assumption | (intro _) | exact keptR_fault | exact keptO_none | apply keptR_next | apply keptO_some | apply keptR_ite | apply keptO_ite | apply keptO_map | apply kept_ite | apply kept_wr | apply kept_forEach | (apply kept_upd; assumption) | split)

theorem kept_execPairCommitWrite (x0 : Port) (x1 : BitVec 24) (x2 : Word) (s : State) (h : Kept b s) : KeptR b
    (execPairCommitWrite x0 x1 x2 s) := by
  unfold execPairCommitWrite
  with_reducible repeat' (first | assumption | (intro _) | exact keptR_fault | exact keptO_none | apply keptR_next | apply keptO_some | apply keptR_ite | apply keptO_ite | apply keptO_map | apply kept_ite | apply kept_hostWrite | apply kept_forEach | (apply kept_upd; assumption) | split)

theorem kept_execRangeChangeStart (x0 : Port) (x1 : FluxIx) (x2 : Word) (s : State) (h : Kept b s) : KeptR b
    (execRangeChangeStart x0 x1 x2 s) := by
  unfold execRangeChangeStart
  with_reducible repeat' (first | assumption | (intro _) | exact keptR_fault | exact keptO_none | apply keptR_next | apply keptO_some | apply keptR_ite | apply keptO_ite | apply keptO_map | apply kept_ite | apply kept_wr | apply kept_forEach | (apply kept_upd; assumption) | split)

theorem kept_execRecast (x0 : Port) (s : State) (h : Kept b s) : KeptR b (execRecast x0 s) := by
  unfold execRecast
  with_reducible repeat' (first | assumption | (intro _) | exact keptR_fault | exact keptO_none | apply keptR_next | apply keptO_some | apply keptR_ite | apply keptO_ite | apply keptO_map | apply kept_ite | apply kept_wr | apply kept_forEach | (apply kept_upd; assumption) | split)

theorem kept_execReg (x0 : Half) (x1 : BitVec 272) (s : State) (h : Kept b s) : KeptR b (execReg x0 x1 s) := by
  unfold execReg
  with_reducible repeat' (first | assumption | (intro _) | exact keptR_fault | exact keptO_none | apply keptR_next | apply keptO_some | apply keptR_ite | apply keptO_ite | apply keptO_map | apply kept_ite | apply kept_flitIn | apply kept_sequenced | apply kept_regIn | apply kept_takeMsg | apply kept_forEach | (apply kept_upd; assumption) | split)

theorem kept_execRegisterWrite (x0 : Port) (x1 : Target) (x2 : Via) (x3 : Word) (s : State) (h : Kept b s) : KeptR b
    (execRegisterWrite x0 x1 x2 x3 s) := by
  unfold execRegisterWrite
  with_reducible repeat' (first | assumption | (intro _) | exact keptR_fault | exact keptO_none | apply keptR_next | apply keptO_some | apply keptR_ite | apply keptO_ite | apply keptO_map | apply kept_ite | apply kept_settleMsix | apply kept_modPort | apply kept_foreign | apply kept_hostWrite | apply kept_forEach | (apply kept_upd; assumption) | split)

theorem kept_execRgnCtlWrite (x0 : Port) (x1 : Half) (x2 : Fin 5) (x3 : Fin 256) (x4 : Word) (s : State) (h : Kept b s) : KeptR
    b (execRgnCtlWrite x0 x1 x2 x3 x4 s) := by
  unfold execRgnCtlWrite
  with_reducible repeat' (first | assumption | (intro _) | exact keptR_fault | exact keptO_none | apply keptR_next | apply keptO_some | apply keptR_ite | apply keptO_ite | apply keptO_map | apply kept_ite | apply kept_wr | apply kept_forEach | (apply kept_upd; assumption) | split)

theorem kept_execRingDisable (x0 : Port) (x1 : Half) (x2 : RingIx) (s : State) (h : Kept b s) : KeptR b (execRingDisable x0 x1
    x2 s) := by
  unfold execRingDisable
  with_reducible repeat' (first | assumption | (intro _) | exact keptR_fault | exact keptO_none | apply keptR_next | apply keptO_some | apply keptR_ite | apply keptO_ite | apply keptO_map | apply kept_ite | apply kept_wr | apply kept_forEach | (apply kept_upd; assumption) | split)

theorem kept_execRingEnable (x0 : Port) (x1 : Half) (x2 : RingIx) (s : State) (h : Kept b s) : KeptR b (execRingEnable x0 x1 x2
    s) := by
  unfold execRingEnable
  with_reducible repeat' (first | assumption | (intro _) | exact keptR_fault | exact keptO_none | apply keptR_next | apply keptO_some | apply keptR_ite | apply keptO_ite | apply keptO_map | apply kept_ite | apply kept_wr | apply kept_forEach | (apply kept_upd; assumption) | split)

theorem kept_execSlotMute (x0 : Port) (x1 : Half) (x2 : SlotIx) (x3 : Word) (s : State) (h : Kept b s) : KeptR b (execSlotMute
    x0 x1 x2 x3 s) := by
  unfold execSlotMute
  with_reducible repeat' (first | assumption | (intro _) | exact keptR_fault | exact keptO_none | apply keptR_next | apply keptO_some | apply keptR_ite | apply keptO_ite | apply keptO_map | apply kept_ite | apply kept_wr | apply kept_forEach | (apply kept_upd; assumption) | split)

theorem kept_execSlotRstph (x0 : Port) (x1 : Half) (x2 : SlotIx) (x3 : Word) (s : State) (h : Kept b s) : KeptR b
    (execSlotRstph x0 x1 x2 x3 s) := by
  unfold execSlotRstph
  with_reducible repeat' (first | assumption | (intro _) | exact keptR_fault | exact keptO_none | apply keptR_next | apply keptO_some | apply keptR_ite | apply keptO_ite | apply keptO_map | apply kept_ite | apply kept_wr | apply kept_forEach | (apply kept_upd; assumption) | split)

theorem kept_execSnapshotRead (x0 : Port) (x1 : Bool) (x2 : BitVec 24) (x3 : Nat) (x4 : Via) (s : State) (h : Kept b s) : KeptR
    b (execSnapshotRead x0 x1 x2 x3 x4 s) := by
  unfold execSnapshotRead
  with_reducible repeat' (first | assumption | (intro _) | exact keptR_fault | exact keptO_none | apply keptR_next | apply keptO_some | apply keptR_ite | apply keptO_ite | apply keptO_map | apply kept_ite | apply kept_answer | apply kept_foreign | apply kept_hostRead | apply kept_forEach | (apply kept_upd; assumption) | split)

theorem kept_execSrcForce (x0 : Port) (x1 : Half) (x2 : Fin 512) (x3 : Word) (s : State) (h : Kept b s) : KeptR b (execSrcForce
    x0 x1 x2 x3 s) := by
  unfold execSrcForce
  with_reducible repeat' (first | assumption | (intro _) | exact keptR_fault | exact keptO_none | apply keptR_next | apply keptO_some | apply keptR_ite | apply keptO_ite | apply keptO_map | apply kept_ite | apply kept_wr | apply kept_forEach | (apply kept_upd; assumption) | split)

theorem kept_execSyncArm (x0 : Port) (x1 : Half) (s : State) (h : Kept b s) : KeptR b (execSyncArm x0 x1 s) := by
  unfold execSyncArm
  with_reducible repeat' (first | assumption | (intro _) | exact keptR_fault | exact keptO_none | apply keptR_next | apply keptO_some | apply keptR_ite | apply keptO_ite | apply keptO_map | apply kept_ite | apply kept_wr | apply kept_forEach | (apply kept_upd; assumption) | split)

theorem kept_execSyncDisarm (x0 : Port) (x1 : Half) (s : State) (h : Kept b s) : KeptR b (execSyncDisarm x0 x1 s) := by
  unfold execSyncDisarm
  with_reducible repeat' (first | assumption | (intro _) | exact keptR_fault | exact keptO_none | apply keptR_next | apply keptO_some | apply keptR_ite | apply keptO_ite | apply keptO_map | apply kept_ite | apply kept_wr | apply kept_forEach | (apply kept_upd; assumption) | split)

theorem kept_execTaskSelClr (x0 : Port) (x1 : Half) (x2 : Fin 448) (x3 : Word) (s : State) (h : Kept b s) : KeptR b
    (execTaskSelClr x0 x1 x2 x3 s) := by
  unfold execTaskSelClr
  with_reducible repeat' (first | assumption | (intro _) | exact keptR_fault | exact keptO_none | apply keptR_next | apply keptO_some | apply keptR_ite | apply keptO_ite | apply keptO_map | apply kept_ite | apply kept_wr | apply kept_forEach | (apply kept_upd; assumption) | split)

theorem kept_execTimeValidSet (x0 : Port) (x1 : Half) (s : State) (h : Kept b s) : KeptR b (execTimeValidSet x0 x1 s) := by
  unfold execTimeValidSet
  with_reducible repeat' (first | assumption | (intro _) | exact keptR_fault | exact keptO_none | apply keptR_next | apply keptO_some | apply keptR_ite | apply keptO_ite | apply keptO_map | apply kept_ite | apply kept_wr | apply kept_forEach | (apply kept_upd; assumption) | split)

theorem kept_execTrigDisarm (x0 : Port) (x1 : Half) (x2 : Fin 5) (x3 : Word) (s : State) (h : Kept b s) : KeptR b
    (execTrigDisarm x0 x1 x2 x3 s) := by
  unfold execTrigDisarm
  with_reducible repeat' (first | assumption | (intro _) | exact keptR_fault | exact keptO_none | apply keptR_next | apply keptO_some | apply keptR_ite | apply keptO_ite | apply keptO_map | apply kept_ite | apply kept_wr | apply kept_forEach | (apply kept_upd; assumption) | split)

theorem kept_accepted (s : State) (x1 : Nat) (x2 : BitVec 512) (h : Kept b s) : Kept b (State.accepted s x1 x2) := by
  unfold State.accepted
  with_reducible repeat' (first | assumption | (intro hz; clear_value z) | (intro _) | (extract_lets +onlyGivenNames z; first | (refine kept_cut b z ?_ ?_; dsimp -zeta only [z]; clear z) | clear_value z) | apply kept_ite | apply kept_settleFetch | apply kept_advance | apply kept_modRing | apply kept_forEach | (apply kept_upd; assumption) | split)

theorem kept_accept (s : State) (x1 : Nat) (x2 : Nat) (x3 : State → HostCmd → Nat → State) (hx3 : ∀ s y1 y2, Kept b s → Kept b
    (x3 s y1 y2)) (h : Kept b s) : Kept b (State.accept s x1 x2 x3) := by
  unfold State.accept
  with_reducible repeat' (first | assumption | (intro hz; clear_value z) | (intro _) | (extract_lets +onlyGivenNames z; first | (refine kept_cut b z ?_ ?_; dsimp -zeta only [z]; clear z) | (refine kept_cut1 b z ?_ ?_; dsimp -zeta only [z]; clear z) | (refine kept_cut2 b z ?_ ?_; dsimp -zeta only [z]; clear z) | (refine isFun z ?_; dsimp -zeta only [z]; clear z) | clear_value z) | exact keptR_fault | exact keptO_none | apply keptR_next | apply keptO_some | apply keptR_ite | apply keptO_ite | apply keptO_map | apply keptO_getD | apply kept_ite | apply kept_accepted | apply kept_finish | apply hx3 | apply kept_forEach | (apply kept_upd; assumption) | (apply kept_of_some; assumption) | (apply kept_of_pair; assumption) | dsimp -zeta only | split)

theorem kept_batchWrite (s : State) (x1 : Nat) (x2 : Nat) (x3 : Word) (h : Kept b s) : Kept b (State.batchWrite s x1 x2 x3) :=
    by
  unfold State.batchWrite
  with_reducible repeat' (first | assumption | (intro _) | apply kept_ite | apply kept_writeAt | apply kept_count | (apply kept_upd; assumption) | split)

theorem kept_batchLoaded (s : State) (x1 : HostCmd) (x2 : Nat) (h : Kept b s) : Kept b (State.batchLoaded s x1 x2) := by
  unfold State.batchLoaded
  with_reducible repeat' (first | assumption | (intro hz; clear_value z) | (intro _) | (extract_lets +onlyGivenNames z; first | (refine kept_cut b z ?_ ?_; dsimp -zeta only [z]; clear z) | clear_value z) | apply kept_ite | apply kept_finish | apply kept_batchWrite | apply kept_forEach | (apply kept_upd; assumption) | split)

theorem kept_calImplausible (s : State) (x1 : Nat) (x2 : Nat) (x3 : Nat) (h : Kept b s) : Kept b (State.calImplausible s x1 x2
    x3) := by
  unfold State.calImplausible
  with_reducible repeat' (first | assumption | (intro _) | apply kept_ite | apply kept_finish | apply kept_occur | apply kept_count | (apply kept_upd; assumption) | split)

theorem kept_calLoaded (s : State) (x1 : HostCmd) (x2 : Nat) (h : Kept b s) : Kept b (State.calLoaded s x1 x2) := by
  unfold State.calLoaded
  with_reducible repeat' (first | assumption | (intro hz; clear_value z) | (intro _) | (extract_lets +onlyGivenNames z; first | (refine kept_cut b z ?_ ?_; dsimp -zeta only [z]; clear z) | clear_value z) | apply kept_ite | apply kept_finish | apply kept_calImplausible | apply kept_calPost | apply kept_blobApply | apply kept_forEach | (apply kept_upd; assumption) | split)

theorem kept_checked (s : State) (x1 : Nat) (x2 : Word64) (x3 : Checks) (x4 : State → State) (hx4 : ∀ s, Kept b s → Kept b (x4
    s)) (h : Kept b s) : Kept b (State.checked s x1 x2 x3 x4) := by
  unfold State.checked
  with_reducible repeat' (first | assumption | (intro _) | exact keptR_fault | exact keptO_none | apply keptR_next | apply keptO_some | apply keptR_ite | apply keptO_ite | apply keptO_map | apply kept_ite | apply kept_finish | apply hx4 | apply kept_forEach | (apply kept_upd; assumption) | split)

theorem kept_cmdWrite (s : State) (x1 : HostCmd) (x2 : Nat) (x3 : Nat) (x4 : Nat) (x5 : List Byte) (x6 : BitVec 8) (h : Kept b
    s) : Kept b (State.cmdWrite s x1 x2 x3 x4 x5 x6) := by
  unfold State.cmdWrite
  with_reducible repeat' (first | assumption | (intro _) | apply kept_ite | apply kept_dmaWrite | apply kept_finish | apply kept_denied | (apply kept_upd; assumption) | split)

theorem kept_source (s : State) (x1 : HostCmd) (x2 : Nat) (x3 : Nat) (x4 : Nat) (x5 : Nat) (x6 : Nat) (x7 : Word64) (h : Kept b
    s) : Kept b (State.source s x1 x2 x3 x4 x5 x6 x7) := by
  unfold State.source
  with_reducible repeat' (first | assumption | (intro _) | exact keptR_fault | exact keptO_none | apply keptR_next | apply keptO_some | apply keptR_ite | apply keptO_ite | apply keptO_map | apply kept_ite | apply kept_denied | apply kept_finish | apply kept_dmaRead | apply kept_modCmd | apply kept_forEach | (apply kept_upd; assumption) | split)

theorem kept_cmpCommand (s : State) (x1 : HostCmd) (x2 : Nat) (x3 : Checks) (h : Kept b s) : Kept b (State.cmpCommand s x1 x2
    x3) := by
  unfold State.cmpCommand
  with_reducible repeat' (first | assumption | (intro _) | exact keptR_fault | exact keptO_none | apply keptR_next | apply keptO_some | apply keptR_ite | apply keptO_ite | apply keptO_map | apply kept_ite | apply kept_checked | apply kept_source | apply kept_forEach | (apply kept_upd; assumption) | split)

theorem kept_cmpLoaded (s : State) (x1 : HostCmd) (x2 : Nat) (h : Kept b s) : Kept b (State.cmpLoaded s x1 x2) := by
  unfold State.cmpLoaded
  with_reducible repeat' (first | assumption | (intro _) | apply kept_ite | apply kept_finish | apply kept_cmpPick | apply kept_jobSettle | apply kept_jobIn | (apply kept_upd; assumption) | split)

theorem kept_load_ (s : State) (x1 : HostCmd) (x2 : Nat) (x3 : Checks) (h : Kept b s) : Kept b (State.load_ s x1 x2 x3) := by
  unfold State.load_
  with_reducible repeat' (first | assumption | (intro _) | exact keptR_fault | exact keptO_none | apply keptR_next | apply keptO_some | apply keptR_ite | apply keptO_ite | apply keptO_map | apply kept_ite | apply kept_checked | apply kept_source | apply kept_forEach | (apply kept_upd; assumption) | split)

theorem kept_loaded (s : State) (x1 : HostCmd) (x2 : Nat) (h : Kept b s) : Kept b (State.loaded s x1 x2) := by
  unfold State.loaded
  with_reducible repeat' (first | assumption | (intro _) | apply kept_ite | apply kept_cmpPick | apply kept_jobSettle | apply kept_jobIn | apply kept_finish | apply kept_write | (apply kept_upd; assumption) | split)

theorem kept_readBar (s : State) (x1 n x3 : Nat) (h : Kept b s) : Kept b (State.readBar s x1 n x3).2 := by
  induction n generalizing s x3 with
  | zero => exact h
  | succ n ih =>
    unfold State.readBar
    refine ih _ _ ?_
    refine kept_ite2 h (kept_ite2 ?_ h)
    exact kept_readAt _ _ _ _ h

theorem kept_readCorrected (s : State) (x1 : Nat) (x2 : Nat) (x3 : Nat) (h : Kept b s) : Kept b (State.readCorrected s x1 x2
    x3) := by
  unfold State.readCorrected
  with_reducible repeat' (first | assumption | (intro _) | apply kept_ite | apply kept_count | (apply kept_upd; assumption) | split)

theorem kept_segtabLoaded (s : State) (x1 : HostCmd) (x2 : Nat) (h : Kept b s) : Kept b (State.segtabLoaded s x1 x2) := by
  unfold State.segtabLoaded
  with_reducible repeat' (first | assumption | (intro hz; clear_value z) | (intro _) | (extract_lets +onlyGivenNames z; first | (refine kept_cut b z ?_ ?_; dsimp -zeta only [z]; clear z) | clear_value z) | apply kept_ite | apply kept_checked | apply kept_finish | apply kept_forEach | (apply kept_upd; assumption) | split)

theorem kept_tableLoad (s : State) (x1 : Nat) (x2 : List Byte) (h : Kept b s) : Kept b (State.tableLoad s x1 x2) := by
  unfold State.tableLoad
  with_reducible repeat' (first | assumption | (intro hz; clear_value z) | (intro _) | (extract_lets +onlyGivenNames z; first | (refine kept_cut b z ?_ ?_; dsimp -zeta only [z]; clear z) | clear_value z) | apply kept_ite | apply kept_setReg | apply kept_modTable | apply kept_forEach | (apply kept_upd; assumption) | split)

theorem kept_tableLoaded (s : State) (x1 : HostCmd) (x2 : Nat) (h : Kept b s) : Kept b (State.tableLoaded s x1 x2) := by
  unfold State.tableLoaded
  with_reducible repeat' (first | assumption | (intro _) | apply kept_ite | apply kept_checked | apply kept_finish | apply kept_tableLoad | (apply kept_upd; assumption) | split)

theorem kept_execCalRead (x0 : RingIx) (s : State) (h : Kept b s) : KeptR b (execCalRead x0 s) := by
  unfold execCalRead
  with_reducible repeat' (first | assumption | (intro _) | exact keptR_fault | exact keptO_none | apply keptR_next | apply keptO_some | apply keptR_ite | apply keptO_ite | apply keptO_map | apply kept_ite | apply kept_accept | apply kept_checked | apply kept_cmdWrite | apply kept_forEach | (apply kept_upd; assumption) | split)

theorem kept_execCalRun (x0 : RingIx) (s : State) (h : Kept b s) : KeptR b (execCalRun x0 s) := by
  unfold execCalRun
  with_reducible repeat' (first | assumption | (intro hz; clear_value z) | (intro _) | (extract_lets +onlyGivenNames z; first | (refine kept_cut b z ?_ ?_; dsimp -zeta only [z]; clear z) | (refine kept_cut1 b z ?_ ?_; dsimp -zeta only [z]; clear z) | (refine kept_cut2 b z ?_ ?_; dsimp -zeta only [z]; clear z) | (refine isFun z ?_; dsimp -zeta only [z]; clear z) | clear_value z) | exact keptR_fault | exact keptO_none | apply keptR_next | apply keptO_some | apply keptR_ite | apply keptO_ite | apply keptO_map | apply keptO_getD | apply kept_ite | apply kept_accept | apply kept_calDone | apply kept_modCal | apply kept_forEach | (apply kept_upd; assumption) | (apply kept_of_some; assumption) | (apply kept_of_pair; assumption) | dsimp -zeta only | split)

theorem kept_execCalWrite (x0 : RingIx) (s : State) (h : Kept b s) : KeptR b (execCalWrite x0 s) := by
  unfold execCalWrite
  with_reducible repeat' (first | assumption | (intro _) | exact keptR_fault | exact keptO_none | apply keptR_next | apply keptO_some | apply keptR_ite | apply keptO_ite | apply keptO_map | apply kept_ite | apply kept_accept | apply kept_checked | apply kept_source | apply kept_forEach | (apply kept_upd; assumption) | split)

theorem kept_execCfgBatch (x0 : RingIx) (s : State) (h : Kept b s) : KeptR b (execCfgBatch x0 s) := by
  unfold execCfgBatch
  with_reducible repeat' (first | assumption | (intro _) | exact keptR_fault | exact keptO_none | apply keptR_next | apply keptO_some | apply keptR_ite | apply keptO_ite | apply keptO_map | apply kept_ite | apply kept_accept | apply kept_checked | apply kept_source | apply kept_forEach | (apply kept_upd; assumption) | split)

theorem kept_execCmdNop (x0 : RingIx) (s : State) (h : Kept b s) : KeptR b (execCmdNop x0 s) := by
  unfold execCmdNop
  with_reducible repeat' (first | assumption | (intro _) | exact keptR_fault | exact keptO_none | apply keptR_next | apply keptO_some | apply keptR_ite | apply keptO_ite | apply keptO_map | apply kept_ite | apply kept_accept | apply kept_checked | apply kept_finish | apply kept_forEach | (apply kept_upd; assumption) | split)

theorem kept_execCompress (x0 : RingIx) (s : State) (h : Kept b s) : KeptR b (execCompress x0 s) := by
  unfold execCompress
  with_reducible repeat' (first | assumption | (intro _) | exact keptR_fault | exact keptO_none | apply keptR_next | apply keptO_some | apply keptR_ite | apply keptO_ite | apply keptO_map | apply kept_ite | apply kept_accept | apply kept_cmpCommand | apply kept_forEach | (apply kept_upd; assumption) | split)

theorem kept_execDecompress (x0 : RingIx) (s : State) (h : Kept b s) : KeptR b (execDecompress x0 s) := by
  unfold execDecompress
  with_reducible repeat' (first | assumption | (intro _) | exact keptR_fault | exact keptO_none | apply keptR_next | apply keptO_some | apply keptR_ite | apply keptO_ite | apply keptO_map | apply kept_ite | apply kept_accept | apply kept_cmpCommand | apply kept_forEach | (apply kept_upd; assumption) | split)

theorem kept_execFence (x0 : RingIx) (s : State) (h : Kept b s) : KeptR b (execFence x0 s) := by
  unfold execFence
  with_reducible repeat' (first | assumption | (intro _) | exact keptR_fault | exact keptO_none | apply keptR_next | apply keptO_some | apply keptR_ite | apply keptO_ite | apply keptO_map | apply kept_ite | apply kept_accept | apply kept_checked | apply kept_modRing | apply kept_forEach | (apply kept_upd; assumption) | split)

theorem kept_execFenceComplete (x0 : RingIx) (s : State) (h : Kept b s) : KeptR b (execFenceComplete x0 s) := by
  unfold execFenceComplete
  with_reducible repeat' (first | assumption | (intro _) | exact keptR_fault | exact keptO_none | apply keptR_next | apply keptO_some | apply keptR_ite | apply keptO_ite | apply keptO_map | apply kept_ite | apply kept_modRing | apply kept_finish | apply kept_forEach | (apply kept_upd; assumption) | split)

theorem kept_execLoadKernel (x0 : RingIx) (s : State) (h : Kept b s) : KeptR b (execLoadKernel x0 s) := by
  unfold execLoadKernel
  with_reducible repeat' (first | assumption | (intro _) | exact keptR_fault | exact keptO_none | apply keptR_next | apply keptO_some | apply keptR_ite | apply keptO_ite | apply keptO_map | apply kept_ite | apply kept_accept | apply kept_load_ | apply kept_forEach | (apply kept_upd; assumption) | split)

theorem kept_execLoadProg (x0 : RingIx) (s : State) (h : Kept b s) : KeptR b (execLoadProg x0 s) := by
  unfold execLoadProg
  with_reducible repeat' (first | assumption | (intro _) | exact keptR_fault | exact keptO_none | apply keptR_next | apply keptO_some | apply keptR_ite | apply keptO_ite | apply keptO_map | apply kept_ite | apply kept_accept | apply kept_load_ | apply kept_forEach | (apply kept_upd; assumption) | split)

theorem kept_execLoadSegtab (x0 : RingIx) (s : State) (h : Kept b s) : KeptR b (execLoadSegtab x0 s) := by
  unfold execLoadSegtab
  with_reducible repeat' (first | assumption | (intro _) | exact keptR_fault | exact keptO_none | apply keptR_next | apply keptO_some | apply keptR_ite | apply keptO_ite | apply keptO_map | apply kept_ite | apply kept_accept | apply kept_checked | apply kept_source | apply kept_forEach | (apply kept_upd; assumption) | split)

theorem kept_execLoadTable (x0 : RingIx) (s : State) (h : Kept b s) : KeptR b (execLoadTable x0 s) := by
  unfold execLoadTable
  with_reducible repeat' (first | assumption | (intro _) | exact keptR_fault | exact keptO_none | apply keptR_next | apply keptO_some | apply keptR_ite | apply keptO_ite | apply keptO_map | apply kept_ite | apply kept_accept | apply kept_checked | apply kept_source | apply kept_forEach | (apply kept_upd; assumption) | split)

theorem kept_execLoadWave (x0 : RingIx) (s : State) (h : Kept b s) : KeptR b (execLoadWave x0 s) := by
  unfold execLoadWave
  with_reducible repeat' (first | assumption | (intro _) | exact keptR_fault | exact keptO_none | apply keptR_next | apply keptO_some | apply keptR_ite | apply keptO_ite | apply keptO_map | apply kept_ite | apply kept_accept | apply kept_load_ | apply kept_forEach | (apply kept_upd; assumption) | split)

theorem kept_execReadState (x0 : RingIx) (x1 : Reads) (s : State) (h : Kept b s) : KeptR b (execReadState x0 x1 s) := by
  unfold execReadState
  with_reducible repeat' (first | assumption | (intro _) | exact keptR_fault | exact keptO_none | apply keptR_next | apply keptO_some | apply keptR_ite | apply keptO_ite | apply keptO_map | apply kept_ite | apply kept_accept | apply kept_checked | apply kept_readBar | apply kept_cmdWrite | apply kept_readCorrected | apply kept_forEach | (apply kept_upd; assumption) | split)

theorem kept_finishQueues (s : State) (x1 : Nat) (h : Kept b s) : Kept b (State.finishQueues s x1) := by
  unfold State.finishQueues
  with_reducible repeat' (first | assumption | (intro hz; clear_value z) | (intro _) | (extract_lets +onlyGivenNames z; first | (refine kept_cut b z ?_ ?_; dsimp -zeta only [z]; clear z) | clear_value z) | apply kept_ite | apply kept_takeFront | apply kept_actFront | apply kept_patternStep | apply kept_deadline | apply kept_forEach | (apply kept_upd; assumption) | split)

theorem kept_finishRow (s : State) (x1 : Nat) (h : Kept b s) : Kept b (State.finishRow s x1) := by
  unfold State.finishRow
  with_reducible repeat' (first | assumption | (intro hz; clear_value z) | (intro _) | (extract_lets +onlyGivenNames z; first | (refine kept_cut b z ?_ ?_; dsimp -zeta only [z]; clear z) | clear_value z) | apply kept_ite | apply kept_quietExit | apply kept_reachT0 | apply kept_evTimeout | apply kept_dueDefault | apply kept_finishQueues | apply kept_endPulse | apply kept_rangeUp | apply kept_rampEnd | apply kept_windowOver | apply kept_ntApply | apply kept_armFire | apply kept_capOpen | apply kept_calStep | apply kept_forEach | (apply kept_upd; assumption) | split)

theorem kept_takeRow (s : State) (x1 : RowInput) (x2 : Nat) (x3 : Nat) (h : Kept b s) : Kept b (State.takeRow s x1 x2 x3) := by
  unfold State.takeRow
  with_reducible repeat' (first | assumption | (intro hz; clear_value z) | (intro _) | (extract_lets +onlyGivenNames z; first | (refine kept_cut b z ?_ ?_; dsimp -zeta only [z]; clear z) | clear_value z) | apply kept_ite | apply kept_readRow | apply kept_markWindows | apply kept_capRow | apply kept_forEach | (apply kept_upd; assumption) | split)

theorem kept_playRow (s : State) (x1 : Nat) (x2 : Nat) (h : Kept b s) : Kept b (State.playRow s x1 x2) := by
  unfold State.playRow
  with_reducible repeat' (first | assumption | (intro hz; clear_value z) | (intro _) | (extract_lets +onlyGivenNames z; first | (refine kept_cut b z ?_ ?_; dsimp -zeta only [z]; clear z) | clear_value z) | apply kept_ite | apply kept_playDac | apply kept_playFlux | apply kept_countStrobes | apply kept_forEach | (apply kept_upd; assumption) | split)

theorem kept_settleRow (s : State) (x1 : Nat) (h : Kept b s) : Kept b (State.settleRow s x1) := by
  unfold State.settleRow
  with_reducible repeat' (first | assumption | (intro hz; clear_value z) | (intro _) | (extract_lets +onlyGivenNames z; first | (refine kept_cut b z ?_ ?_; dsimp -zeta only [z]; clear z) | clear_value z) | apply kept_ite | apply kept_settleMarker | apply kept_settleSwitch | apply kept_fluxEdge | apply kept_settleInput | apply kept_settleAux | apply kept_settleCap | apply kept_modQuiet | apply kept_govRow | apply kept_forceDue | apply kept_settleTrims | apply kept_forEach | (apply kept_upd; assumption) | split)

theorem kept_tickCounters (s : State) (x1 : Nat) (h : Kept b s) :
    Kept { b with c0 := if x1 = 0 then b.c0 + 32 else b.c0, c1 := if x1 = 0 then b.c1 else b.c1 + 32 } (State.tickCounters s
        x1) := by
  unfold State.tickCounters
  refine kept_ntAdd _ _ _ ?_
  split
  · exact ⟨h.mem, h.regs, h.pending, by simp [h.c0], h.c1, h.fuses, h.revoked⟩
  · exact ⟨h.mem, h.regs, h.pending, h.c0, by simp [h.c1], h.fuses, h.revoked⟩

theorem kept_pruneRow (s : State) (x1 : Nat) (x2 : Nat) (h : Kept b s) : Kept b (State.pruneRow s x1 x2) := by
  unfold State.pruneRow
  with_reducible repeat' (first | assumption | (intro hz; clear_value z) | (intro _) | (extract_lets +onlyGivenNames z; first | (refine kept_cut b z ?_ ?_; dsimp -zeta only [z]; clear z) | clear_value z) | apply kept_ite | apply kept_pruneAdc | apply kept_forEach | (apply kept_upd; assumption) | split)

theorem kept_selectStart (s : State) (x1 : Nat) (x2 : Nat) (h : Kept b s) : Kept b (State.selectStart s x1 x2) := by
  unfold State.selectStart
  with_reducible repeat' (first | assumption | (intro _) | apply kept_ite | apply kept_evrIgnored | apply kept_setReg | (apply kept_upd; assumption) | split)

theorem kept_setRun (s : State) (x1 : Nat) (x2 : HostCmd) (x3 : Nat) (x4 : RunDesc) (x5 : StartMode) (h : Kept b s) : Kept b
    (State.setRun s x1 x2 x3 x4 x5) := by
  unfold State.setRun
  with_reducible repeat' (first | assumption | (intro hz; clear_value z) | (intro _) | (extract_lets +onlyGivenNames z; first | (refine kept_cut b z ?_ ?_; dsimp -zeta only [z]; clear z) | clear_value z) | apply kept_ite | apply kept_setReg | apply kept_modThread | apply kept_modQueue | apply kept_clearAvg | apply kept_modMarker | apply kept_modBarrier | apply kept_modRun | apply kept_forEach | (apply kept_upd; assumption) | split)

theorem kept_startLoaded (s : State) (x1 : HostCmd) (x2 : Nat) (h : Kept b s) : Kept b (State.startLoaded s x1 x2) := by
  unfold State.startLoaded
  with_reducible repeat' (first | assumption | (intro _) | apply kept_ite | apply kept_checked | apply kept_fixT0 | apply kept_setRun | apply kept_selectStart | (apply kept_upd; assumption) | split)

theorem kept_swatchArm (s : State) (x1 : BitVec 512) (x2 : Nat) (x3 : Option Nat) (h : Kept b s) : Kept b (State.swatchArm s x1
    x2 x3) := by
  unfold State.swatchArm
  exact ⟨h.mem, h.regs, h.pending, h.c0, h.c1, h.fuses, h.revoked⟩

theorem kept_swatchCancel (s : State) (x1 : Nat) (x2 : Nat) (h : Kept b s) : Kept b (State.swatchCancel s x1 x2) := by
  unfold State.swatchCancel
  with_reducible repeat' (first | assumption | (intro _) | apply kept_ite | apply kept_capPut | apply kept_finish | apply kept_modCap | apply kept_fireProducer | (apply kept_upd; assumption) | split)

theorem kept_execStartRun (x0 : RingIx) (s : State) (h : Kept b s) : KeptR b (execStartRun x0 s) := by
  unfold execStartRun
  with_reducible repeat' (first | assumption | (intro _) | exact keptR_fault | exact keptO_none | apply keptR_next | apply keptO_some | apply keptR_ite | apply keptO_ite | apply keptO_map | apply kept_ite | apply kept_accept | apply kept_checked | apply kept_source | apply kept_forEach | (apply kept_upd; assumption) | split)

theorem kept_execStopRun (x0 : RingIx) (s : State) (h : Kept b s) : KeptR b (execStopRun x0 s) := by
  unfold execStopRun
  with_reducible repeat' (first | assumption | (intro _) | exact keptR_fault | exact keptO_none | apply keptR_next | apply keptO_some | apply keptR_ite | apply keptO_ite | apply keptO_map | apply kept_ite | apply kept_accept | apply kept_checked | apply kept_finish | apply kept_stopRun | apply kept_forEach | (apply kept_upd; assumption) | split)

theorem kept_execStrmAttach (x0 : RingIx) (s : State) (h : Kept b s) : KeptR b (execStrmAttach x0 s) := by
  unfold execStrmAttach
  with_reducible repeat' (first | assumption | (intro hz; clear_value z) | (intro _) | (extract_lets +onlyGivenNames z; first | (refine kept_cut b z ?_ ?_; dsimp -zeta only [z]; clear z) | (refine kept_cut1 b z ?_ ?_; dsimp -zeta only [z]; clear z) | (refine kept_cut2 b z ?_ ?_; dsimp -zeta only [z]; clear z) | (refine isFun z ?_; dsimp -zeta only [z]; clear z) | clear_value z) | exact keptR_fault | exact keptO_none | apply keptR_next | apply keptO_some | apply keptR_ite | apply keptO_ite | apply keptO_map | apply keptO_getD | apply kept_ite | apply kept_accept | apply kept_checked | apply kept_dropReads | apply kept_finish | apply kept_setStream | apply kept_modCmd | apply kept_forEach | (apply kept_upd; assumption) | (apply kept_of_some; assumption) | (apply kept_of_pair; assumption) | dsimp -zeta only | split)

theorem kept_execSwatchStart (x0 : RingIx) (s : State) (h : Kept b s) : KeptR b (execSwatchStart x0 s) := by
  unfold execSwatchStart
  with_reducible repeat' (first | assumption | (intro _) | exact keptR_fault | exact keptO_none | apply keptR_next | apply keptO_some | apply keptR_ite | apply keptO_ite | apply keptO_map | apply kept_ite | apply kept_accept | apply kept_checked | apply kept_swatchArm | apply kept_forEach | (apply kept_upd; assumption) | split)

theorem kept_execSwatchStop (x0 : RingIx) (s : State) (h : Kept b s) : KeptR b (execSwatchStop x0 s) := by
  unfold execSwatchStop
  with_reducible repeat' (first | assumption | (intro _) | exact keptR_fault | exact keptO_none | apply keptR_next | apply keptO_some | apply keptR_ite | apply keptO_ite | apply keptO_map | apply kept_ite | apply kept_accept | apply kept_checked | apply kept_finish | apply kept_swatchCancel | apply kept_capStop | apply kept_modCap | apply kept_forEach | (apply kept_upd; assumption) | split)

theorem kept_execTimeArm (x0 : RingIx) (s : State) (h : Kept b s) : KeptR b (execTimeArm x0 s) := by
  unfold execTimeArm
  with_reducible repeat' (first | assumption | (intro _) | exact keptR_fault | exact keptO_none | apply keptR_next | apply keptO_some | apply keptR_ite | apply keptO_ite | apply keptO_map | apply kept_ite | apply kept_accept | apply kept_checked | apply kept_finish | apply kept_setPair | apply kept_regBit | apply kept_forEach | (apply kept_upd; assumption) | split)

theorem kept_execTimeStep (x0 : RingIx) (s : State) (h : Kept b s) : KeptR b (execTimeStep x0 s) := by
  unfold execTimeStep
  with_reducible repeat' (first | assumption | (intro _) | exact keptR_fault | exact keptO_none | apply keptR_next | apply keptO_some | apply keptR_ite | apply keptO_ite | apply keptO_map | apply kept_ite | apply kept_accept | apply kept_checked | apply kept_ntQueue | apply kept_finish | apply kept_modServo | apply kept_forEach | (apply kept_upd; assumption) | split)

theorem kept_Spdm_staged (x0 : Spdm) (x1 : Nat) (s : State) (x3 : Unit → State × List Byte) (hx3 : ∀ u, Kept b (x3 u).1) (h :
    Kept b s) :
    Kept b (Spdm.staged x0 x1 s x3).1 := by
  unfold Spdm.staged
  split
  · exact h
  · exact hx3 _

theorem kept_modSpdm (s : State) (x1 : Nat) (x2 : Spdm → Spdm) (h : Kept b s) : Kept b (State.modSpdm s x1 x2) := by
  unfold State.modSpdm
  exact ⟨h.mem, h.regs, h.pending, h.c0, h.c1, h.fuses, h.revoked⟩

theorem kept_dropSession (s : State) (x1 : Nat) (x2 : Nat) (h : Kept b s) : Kept b (State.dropSession s x1 x2) := by
  unfold State.dropSession
  exact ⟨h.mem, h.regs, h.pending, h.c0, h.c1, h.fuses, h.revoked⟩

theorem kept_ideLeave (s : State) (x1 : Nat) (x2 : Nat) (h : Kept b s) : Kept b (State.ideLeave s x1 x2) := by
  unfold State.ideLeave
  with_reducible repeat' (first | assumption | (intro _) | apply kept_ite | apply kept_occur | apply kept_count | apply kept_modPort | (apply kept_upd; assumption) | split)

theorem kept_modSession (s : State) (x1 : Nat) (x2 : Nat) (x3 : Session → Session) (h : Kept b s) : Kept b (State.modSession s
    x1 x2 x3) := by
  unfold State.modSession
  exact ⟨h.mem, h.regs, h.pending, h.c0, h.c1, h.fuses, h.revoked⟩

theorem kept_respond (s : State) (x1 : Nat) (x2 : Option Session) (x3 : List Byte) (h : Kept b s) : Kept b (State.respond s x1
    x2 x3) := by
  unfold State.respond
  with_reducible repeat' (first | assumption | (intro _) | apply kept_ite | apply kept_emit | (apply kept_upd; assumption) | split)

theorem kept_onRequest (s : State) (x1 : Nat) (x2 : List Byte) (x3 x4 : Nat) (x5 : List Byte → Bool) (x6 : State → Option
    Session → List Byte → State × List Byte)
    (hx6 : ∀ s y m, Kept b s → Kept b (x6 s y m).1) (h : Kept b s) : Kept b (State.onRequest s x1 x2 x3 x4 x5 x6) := by
  unfold State.onRequest
  split
  · refine kept_ite h ?_
    extract_lets z r
    have hz : Kept b z := by
      dsimp only [z]
      split
      · exact kept_modSession _ _ _ _ h
      · exact h
    exact kept_ite (kept_respond _ _ _ _ hz) (kept_respond _ _ _ _ (hx6 _ _ _ hz))
  · exact h

theorem kept_inSession (x0 : Option Session) (s : State) (x2 : Session → State × List Byte) (hx2 : ∀ y, Kept b (x2 y).1) (h :
    Kept b s) :
    Kept b (inSession x0 s x2).1 := by
  unfold inSession
  split
  · exact hx2 _
  · exact h

theorem kept_ideRequest (s : State) (x1 : Nat) (x2 : List Byte) (x3 : Nat) (x4 : State → List Byte → State × List Byte) (hx4 :
    ∀ s y1, Kept b s → Kept b (x4 s y1).1) (h : Kept b s) : Kept b (State.ideRequest s x1 x2 x3 x4) := by
  unfold State.ideRequest
  with_reducible repeat' (first | assumption | (intro _) | apply kept_ite | apply kept_onRequest | apply kept_inSession | apply hx4 | (apply kept_upd; assumption) | split)

theorem kept_execChallenge (x0 : Port) (x1 : List Byte) (s : State) (h : Kept b s) : KeptR b (execChallenge x0 x1 s) := by
  unfold execChallenge
  with_reducible repeat' (first | assumption | (intro _) | exact keptR_fault | exact keptO_none | apply keptR_next | apply keptO_some | apply keptR_ite | apply keptO_ite | apply keptO_map | apply kept_ite | apply kept_onRequest | apply kept_Spdm_staged | apply kept_modSpdm | apply kept_free | apply kept_forEach | (apply kept_upd; assumption) | split)

theorem kept_execDoeDiscovery (x0 : Port) (x1 : List Byte) (s : State) (h : Kept b s) : KeptR b (execDoeDiscovery x0 x1 s) := by
  unfold execDoeDiscovery
  with_reducible repeat' (first | assumption | (intro _) | exact keptR_fault | exact keptO_none | apply keptR_next | apply keptO_some | apply keptR_ite | apply keptO_ite | apply keptO_map | apply kept_ite | apply kept_emit | apply kept_forEach | (apply kept_upd; assumption) | split)

theorem kept_execEndSession (x0 : Port) (x1 : List Byte) (s : State) (h : Kept b s) : KeptR b (execEndSession x0 x1 s) := by
  unfold execEndSession
  with_reducible repeat' (first | assumption | (intro _) | exact keptR_fault | exact keptO_none | apply keptR_next | apply keptO_some | apply keptR_ite | apply keptO_ite | apply keptO_map | apply kept_ite | apply kept_onRequest | apply kept_inSession | apply kept_dropSession | apply kept_forEach | (apply kept_upd; assumption) | split)

theorem kept_execFinish (x0 : Port) (x1 : List Byte) (s : State) (h : Kept b s) : KeptR b (execFinish x0 x1 s) := by
  unfold execFinish
  with_reducible repeat' (first | assumption | (intro _) | exact keptR_fault | exact keptO_none | apply keptR_next | apply keptO_some | apply keptR_ite | apply keptO_ite | apply keptO_map | apply kept_ite | apply kept_onRequest | apply kept_inSession | apply kept_modSession | apply kept_dropSession | apply kept_forEach | (apply kept_upd; assumption) | split)

theorem kept_execGetCapabilities (x0 : Port) (x1 : List Byte) (s : State) (h : Kept b s) : KeptR b (execGetCapabilities x0 x1
    s) := by
  unfold execGetCapabilities
  with_reducible repeat' (first | assumption | (intro _) | exact keptR_fault | exact keptO_none | apply keptR_next | apply keptO_some | apply keptR_ite | apply keptO_ite | apply keptO_map | apply kept_ite | apply kept_onRequest | apply kept_Spdm_staged | apply kept_modSpdm | apply kept_forEach | (apply kept_upd; assumption) | split)

theorem kept_execGetCertificate (x0 : Port) (x1 : List Byte) (s : State) (h : Kept b s) : KeptR b (execGetCertificate x0 x1 s)
    := by
  unfold execGetCertificate
  with_reducible repeat' (first | assumption | (intro hz; clear_value z) | (intro _) | (extract_lets +onlyGivenNames z; first | (refine kept_cut b z ?_ ?_; dsimp -zeta only [z]; clear z) | (refine kept_cut1 b z ?_ ?_; dsimp -zeta only [z]; clear z) | (refine kept_cut2 b z ?_ ?_; dsimp -zeta only [z]; clear z) | (refine isFun z ?_; dsimp -zeta only [z]; clear z) | clear_value z) | exact keptR_fault | exact keptO_none | apply keptR_next | apply keptO_some | apply keptR_ite | apply keptO_ite | apply keptO_map | apply keptO_getD | apply kept_ite | apply kept_onRequest | apply kept_Spdm_staged | apply kept_modSpdm | apply kept_forEach | (apply kept_upd; assumption) | (apply kept_of_some; assumption) | (apply kept_of_pair; assumption) | dsimp -zeta only | split)

theorem kept_execGetDigests (x0 : Port) (x1 : List Byte) (s : State) (h : Kept b s) : KeptR b (execGetDigests x0 x1 s) := by
  unfold execGetDigests
  with_reducible repeat' (first | assumption | (intro _) | exact keptR_fault | exact keptO_none | apply keptR_next | apply keptO_some | apply keptR_ite | apply keptO_ite | apply keptO_map | apply kept_ite | apply kept_onRequest | apply kept_Spdm_staged | apply kept_modSpdm | apply kept_forEach | (apply kept_upd; assumption) | split)

theorem kept_execGetMeasurements (x0 : Port) (x1 : List Byte) (s : State) (h : Kept b s) : KeptR b (execGetMeasurements x0 x1
    s) := by
  unfold execGetMeasurements
  with_reducible repeat' (first | assumption | (intro hz; clear_value z) | (intro _) | (extract_lets +onlyGivenNames z; first | (refine kept_cut b z ?_ ?_; dsimp -zeta only [z]; clear z) | (refine kept_cut1 b z ?_ ?_; dsimp -zeta only [z]; clear z) | (refine kept_cut2 b z ?_ ?_; dsimp -zeta only [z]; clear z) | (refine isFun z ?_; dsimp -zeta only [z]; clear z) | clear_value z) | exact keptR_fault | exact keptO_none | apply keptR_next | apply keptO_some | apply keptR_ite | apply keptO_ite | apply keptO_map | apply keptO_getD | apply kept_ite | apply kept_onRequest | apply kept_Spdm_staged | apply kept_free | apply kept_modSpdm | apply kept_forEach | (apply kept_upd; assumption) | (apply kept_of_some; assumption) | (apply kept_of_pair; assumption) | dsimp -zeta only | split)

theorem kept_execGetVersion (x0 : Port) (x1 : List Byte) (s : State) (h : Kept b s) : KeptR b (execGetVersion x0 x1 s) := by
  unfold execGetVersion
  with_reducible repeat' (first | assumption | (intro _) | exact keptR_fault | exact keptO_none | apply keptR_next | apply keptO_some | apply keptR_ite | apply keptO_ite | apply keptO_map | apply kept_ite | apply kept_onRequest | apply kept_modSpdm | apply kept_forEach | (apply kept_upd; assumption) | split)

theorem kept_execHeartbeat (x0 : Port) (x1 : List Byte) (s : State) (h : Kept b s) : KeptR b (execHeartbeat x0 x1 s) := by
  unfold execHeartbeat
  with_reducible repeat' (first | assumption | (intro _) | exact keptR_fault | exact keptO_none | apply keptR_next | apply keptO_some | apply keptR_ite | apply keptO_ite | apply keptO_map | apply kept_ite | apply kept_onRequest | apply kept_inSession | apply kept_forEach | (apply kept_upd; assumption) | split)

theorem kept_execIdeStreamFail (x0 : Port) (x1 : Fin 2) (s : State) (h : Kept b s) : KeptR b (execIdeStreamFail x0 x1 s) := by
  unfold execIdeStreamFail
  with_reducible repeat' (first | assumption | (intro _) | exact keptR_fault | exact keptO_none | apply keptR_next | apply keptO_some | apply keptR_ite | apply keptO_ite | apply keptO_map | apply kept_ite | apply kept_ideLeave | apply kept_modSpdm | apply kept_forEach | (apply kept_upd; assumption) | split)

theorem kept_execKSetGo (x0 : Port) (x1 : List Byte) (s : State) (h : Kept b s) : KeptR b (execKSetGo x0 x1 s) := by
  unfold execKSetGo
  with_reducible repeat' (first | assumption | (intro _) | exact keptR_fault | exact keptO_none | apply keptR_next | apply keptO_some | apply keptR_ite | apply keptO_ite | apply keptO_map | apply kept_ite | apply kept_ideRequest | apply kept_modSpdm | apply kept_modPort | apply kept_forEach | (apply kept_upd; assumption) | split)

theorem kept_execKSetStop (x0 : Port) (x1 : List Byte) (s : State) (h : Kept b s) : KeptR b (execKSetStop x0 x1 s) := by
  unfold execKSetStop
  with_reducible repeat' (first | assumption | (intro _) | exact keptR_fault | exact keptO_none | apply keptR_next | apply keptO_some | apply keptR_ite | apply keptO_ite | apply keptO_map | apply kept_ite | apply kept_ideRequest | apply kept_modSpdm | apply kept_ideLeave | apply kept_forEach | (apply kept_upd; assumption) | split)

theorem kept_execKeyExchange (x0 : Port) (x1 : List Byte) (s : State) (h : Kept b s) : KeptR b (execKeyExchange x0 x1 s) := by
  unfold execKeyExchange
  with_reducible repeat' (first | assumption | (intro hz; clear_value z) | (intro _) | (extract_lets +onlyGivenNames z; first | (refine kept_cut b z ?_ ?_; dsimp -zeta only [z]; clear z) | (refine kept_cut1 b z ?_ ?_; dsimp -zeta only [z]; clear z) | (refine kept_cut2 b z ?_ ?_; dsimp -zeta only [z]; clear z) | (refine isFun z ?_; dsimp -zeta only [z]; clear z) | clear_value z) | exact keptR_fault | exact keptO_none | apply keptR_next | apply keptO_some | apply keptR_ite | apply keptO_ite | apply keptO_map | apply keptO_getD | apply kept_ite | apply kept_onRequest | apply kept_Spdm_staged | apply kept_modSpdm | apply kept_free | apply kept_forEach | (apply kept_upd; assumption) | (apply kept_of_some; assumption) | (apply kept_of_pair; assumption) | dsimp -zeta only | split)

theorem kept_execKeyProg (x0 : Port) (x1 : List Byte) (s : State) (h : Kept b s) : KeptR b (execKeyProg x0 x1 s) := by
  unfold execKeyProg
  with_reducible repeat' (first | assumption | (intro _) | exact keptR_fault | exact keptO_none | apply keptR_next | apply keptO_some | apply keptR_ite | apply keptO_ite | apply keptO_map | apply kept_ite | apply kept_ideRequest | apply kept_modSpdm | apply kept_forEach | (apply kept_upd; assumption) | split)

theorem kept_execKeyUpdate (x0 : Port) (x1 : List Byte) (s : State) (h : Kept b s) : KeptR b (execKeyUpdate x0 x1 s) := by
  unfold execKeyUpdate
  with_reducible repeat' (first | assumption | (intro hz; clear_value z) | (intro _) | (extract_lets +onlyGivenNames z; first | (refine kept_cut b z ?_ ?_; dsimp -zeta only [z]; clear z) | (refine kept_cut1 b z ?_ ?_; dsimp -zeta only [z]; clear z) | (refine kept_cut2 b z ?_ ?_; dsimp -zeta only [z]; clear z) | (refine isFun z ?_; dsimp -zeta only [z]; clear z) | clear_value z) | exact keptR_fault | exact keptO_none | apply keptR_next | apply keptO_some | apply keptR_ite | apply keptO_ite | apply keptO_map | apply keptO_getD | apply kept_ite | apply kept_onRequest | apply kept_inSession | apply kept_modSession | apply kept_forEach | (apply kept_upd; assumption) | (apply kept_of_some; assumption) | (apply kept_of_pair; assumption) | dsimp -zeta only | split)

theorem kept_execNegotiateAlgorithms (x0 : Port) (x1 : List Byte) (s : State) (h : Kept b s) : KeptR b (execNegotiateAlgorithms
    x0 x1 s) := by
  unfold execNegotiateAlgorithms
  with_reducible repeat' (first | assumption | (intro _) | exact keptR_fault | exact keptO_none | apply keptR_next | apply keptO_some | apply keptR_ite | apply keptO_ite | apply keptO_map | apply kept_ite | apply kept_onRequest | apply kept_Spdm_staged | apply kept_modSpdm | apply kept_forEach | (apply kept_upd; assumption) | split)

theorem kept_execQuery (x0 : Port) (x1 : List Byte) (s : State) (h : Kept b s) : KeptR b (execQuery x0 x1 s) := by
  unfold execQuery
  with_reducible repeat' (first | assumption | (intro _) | exact keptR_fault | exact keptO_none | apply keptR_next | apply keptO_some | apply keptR_ite | apply keptO_ite | apply keptO_map | apply kept_ite | apply kept_ideRequest | apply kept_forEach | (apply kept_upd; assumption) | split)

theorem kept_execUnsupportedSpdmRequest (x0 : Port) (x1 : List Byte) (s : State) (h : Kept b s) : KeptR b
    (execUnsupportedSpdmRequest x0 x1 s) := by
  unfold execUnsupportedSpdmRequest
  with_reducible repeat' (first | assumption | (intro _) | exact keptR_fault | exact keptO_none | apply keptR_next | apply keptO_some | apply keptR_ite | apply keptO_ite | apply keptO_map | apply kept_ite | apply kept_modSession | apply kept_respond | apply kept_forEach | (apply kept_upd; assumption) | split)

theorem kept_resume (s : State) (x1 : Nat) (h : Kept b s) : Kept b (State.resume s x1) := by
  unfold State.resume
  with_reducible repeat' (first | assumption | (intro _) | apply kept_ite | apply kept_modCmd | apply kept_loaded | apply kept_tableLoaded | apply kept_segtabLoaded | apply kept_startLoaded | apply kept_calLoaded | apply kept_cmpLoaded | apply kept_batchLoaded | (apply kept_upd; assumption) | split)

theorem kept_dataIn (s : State) (x1 : Nat) (x2 : List Byte) (h : Kept b s) : Kept b (State.dataIn s x1 x2) := by
  unfold State.dataIn
  with_reducible repeat' (first | assumption | (intro _) | apply kept_ite | apply kept_modCmd | apply kept_resume | (apply kept_upd; assumption) | split)

theorem kept_streamIn (s : State) (x1 : Nat) (x2 : Nat) (x3 : List Byte) (h : Kept b s) : Kept b (State.streamIn s x1 x2 x3) :=
    by
  unfold State.streamIn
  with_reducible repeat' (first | assumption | (intro _) | apply kept_ite | apply kept_cmpPick | apply kept_advance | apply kept_setStream | apply kept_streamTo | apply kept_stageWrite | (apply kept_upd; assumption) | split)

theorem kept_landed (s : State) (x1 : Nat) (x2 : DmaReq) (x3 : List Byte) (h : Kept b s) : Kept b (State.landed s x1 x2 x3) :=
    by
  unfold State.landed
  with_reducible repeat' (first | assumption | (intro _) | apply kept_ite | apply kept_descIn | apply kept_contextIn | apply kept_dataIn | apply kept_lineIn | apply kept_readWords | apply kept_streamIn | (apply kept_upd; assumption) | split)

theorem kept_forwardIn (s : State) (x1 : Forward) (h : Kept b s) : Kept b (State.forwardIn s x1) := by
  unfold State.forwardIn
  with_reducible repeat' (first | assumption | (intro _) | apply kept_ite | apply kept_modPort | apply kept_landed | apply kept_recordIn | (apply kept_upd; assumption) | split)

theorem kept_execDmaData (x0 : Half) (x1 : BitVec 272) (s : State) (h : Kept b s) : KeptR b (execDmaData x0 x1 s) := by
  unfold execDmaData
  with_reducible repeat' (first | assumption | (intro _) | exact keptR_fault | exact keptO_none | apply keptR_next | apply keptO_some | apply keptR_ite | apply keptO_ite | apply keptO_map | apply kept_ite | apply kept_flitIn | apply kept_sequenced | apply kept_modDlk | apply kept_forwardIn | apply kept_takeMsg | apply kept_forEach | (apply kept_upd; assumption) | split)

theorem kept_execDmaHdr (x0 : Half) (x1 : BitVec 272) (s : State) (h : Kept b s) : KeptR b (execDmaHdr x0 x1 s) := by
  unfold execDmaHdr
  with_reducible repeat' (first | assumption | (intro _) | exact keptR_fault | exact keptO_none | apply keptR_next | apply keptO_some | apply keptR_ite | apply keptO_ite | apply keptO_map | apply kept_ite | apply kept_flitIn | apply kept_sequenced | apply kept_forwardIn | apply kept_takeMsg | apply kept_modDlk | apply kept_forEach | (apply kept_upd; assumption) | split)

theorem kept_execDmaReadCompletion (x0 : Port) (x1 : Nat) (x2 : HostRead) (s : State) (h : Kept b s) : KeptR b
    (execDmaReadCompletion x0 x1 x2 s) := by
  unfold execDmaReadCompletion
  with_reducible repeat' (first | assumption | (intro _) | exact keptR_fault | exact keptO_none | apply keptR_next | apply keptO_some | apply keptR_ite | apply keptO_ite | apply keptO_map | apply kept_ite | apply kept_bootRead | apply kept_modPort | apply kept_landed | apply kept_send | apply kept_forwardLost | apply kept_forEach | (apply kept_upd; assumption) | split)

end Sys2Proof.Machine
end

