-- ==== Sys2Proof/Laws/KeptClock.lean ====
section
/-!
SUPPORT. What the operations that change the sample-time counters keep.
-/
namespace Sys2Proof.Machine

set_option linter.all false

variable {b : State}

/-- The counters of `b` after a row of half h. -/
abbrev afterRow (b : State) (h : Nat) : State :=
  { b with c0 := if h = 0 then b.c0 + 32 else b.c0, c1 := if h = 0 then b.c1 else b.c1 + 32 }

theorem kept_endRow (s : State) (x1 : RowInput) (x2 : Nat) (h : Kept b s) : Kept (afterRow b x2) (s.endRow x1 x2) := by
  unfold State.endRow
  extract_lets a r c d
  exact kept_pruneRow _ _ _ (kept_settleRow _ _ (kept_tickCounters _ _
    (kept_bgRow _ _ _ (kept_takeRow _ _ _ _ (kept_playRow _ _ _ (kept_finishRow _ _ h))))))

/-- The invariant says of a state that it comes from itself. -/
theorem State.inv.kept {s : State} (h : s.inv) : Kept s s := kept_self h.1 h.2.1

/-- A state that comes from one with the invariant has it. -/
theorem Kept.inv {s : State} (h : Kept b s) (h0 : b.c0 &&& 31 = 0) (h1 : b.c1 &&& 31 = 0) : s.inv :=
  ⟨h.mem, h.regs, by rw [h.c0]; exact h0, by rw [h.c1]; exact h1⟩

/-- A counter that is set to a multiple of 32 stands at a row boundary. -/
theorem rowTime_and (n : Nat) (h : n % 32 = 0) : (BitVec.ofNat 64 n) &&& 31 = 0 := by
  apply BitVec.eq_of_toNat_eq
  rw [BitVec.toNat_and, BitVec.toNat_ofNat, show BitVec.toNat (31 : Word64) = 2 ^ 5 - 1 from rfl, Nat.and_two_pow_sub_one_eq_mod]
  have e : n % 2 ^ 64 % 2 ^ 5 = n % 32 := by omega
  rw [e, h]; rfl

theorem kept_placeRow (s : State) (x1 part v : Nat) (h : Kept b s) :
    Kept { b with c0 := if x1 = 0 then BitVec.ofNat 64 v else b.c0, c1 := if x1 = 0 then b.c1 else BitVec.ofNat 64 v } (s.placeRow x1 part v) := by
  unfold State.placeRow
  extract_lets a
  have k : Kept b a := kept_ntAdd _ _ _ h
  clear_value a
  exact kept_ite (kept_reclock _ _ _ _ k) (kept_settleRow _ _ (kept_reclock _ _ _ _ k))

theorem kept_realign (s : State) (h : s.inv) :
    ∃ b : State, Kept b s.realign ∧ b.pending = s.pending ∧ b.fuses = s.fuses ∧ b.c0 &&& 31 = 0 ∧ b.c1 &&& 31 = 0 := by
  unfold State.realign
  extract_lets l a
  split
  · refine ⟨_, kept_forEach (kept_reclock s 1 _ _ h.kept) (fun s x k => kept_regBit _ _ _ _ _ _ k), rfl, rfl, ?_, ?_⟩
    · exact h.2.2.1
    · show BitVec.ofNat 64 (s.now 0) &&& 31 = 0
      have e : BitVec.ofNat 64 (s.now 0) = s.c0 := by simp [State.now, State.cnt]
      rw [e]; exact h.2.2.1
  · exact ⟨s, h.kept, rfl, rfl, h.2.2.1, h.2.2.2⟩

end Sys2Proof.Machine
end

