-- ==== Sys2Proof/Laws/KeptExec.lean ====
section
/-!
SUPPORT. The kept lemmas of all the meanings that leave the sample-time counters alone, as one.
-/
namespace Sys2Proof.Machine

/-- The events that may change a sample-time counter. -/
def Clocks : Instr → Prop
  | .linkUp _ => True
  | .pinReset => True
  | .pllRelock _ _ => True
  | .railInvalid _ _ => True
  | .rowBoundary _ => True
  | .selftestEnd _ => True
  | .syncInstant => True
  | _ => False

/-- Every other event keeps what `Kept` lists. -/
theorem kept_exec {c : Instr} {s : State} (h : s.inv) (hc : ¬ Clocks c) : KeptR s (exec c s) := by
  have base := h.kept
  cases c with
  | registerWrite p target via v => exact kept_execRegisterWrite p target via v _ base
  | snapshotRead p bar2 addr size via => exact kept_execSnapshotRead p bar2 addr size via _ base
  | pairCommitWrite p addr v => exact kept_execPairCommitWrite p addr v _ base
  | lastXiRead p c => exact kept_execLastXiRead p c _ base
  | railValid h rail => exact kept_execRailValid h rail _ base
  | railInvalid _ _ => exact absurd trivial hc
  | pinReset => exact absurd trivial hc
  | selftestStart  => exact kept_execSelftestStart  _ base
  | selftestEnd _ => exact absurd trivial hc
  | go p ring => exact kept_execGo p ring _ base
  | bootAbort p => exact kept_execBootAbort p _ base
  | verifyStart  => exact kept_execVerifyStart  _ base
  | verifyEnd res => exact kept_execVerifyEnd res _ base
  | fwStarted  => exact kept_execFwStarted  _ base
  | fwStartTimeout  => exact kept_execFwStartTimeout  _ base
  | sectionStart  => exact kept_execSectionStart  _ base
  | recast p => exact kept_execRecast p _ base
  | syncArm p h => exact kept_execSyncArm p h _ base
  | syncDisarm p h => exact kept_execSyncDisarm p h _ base
  | syncEdge off => exact kept_execSyncEdge off _ base
  | syncInstant => exact absurd trivial hc
  | refLoss  => exact kept_execRefLoss  _ base
  | pllUnlock h => exact kept_execPllUnlock h _ base
  | pllRelock _ _ => exact absurd trivial hc
  | timeValidSet p h => exact kept_execTimeValidSet p h _ base
  | halfAlignSend  => exact kept_execHalfAlignSend  _ base
  | queueRelease q => exact kept_execQueueRelease q _ base
  | timedCommandApply q w => exact kept_execTimedCommandApply q w _ base
  | markerPulseEnd m => exact kept_execMarkerPulseEnd m _ base
  | tNop t e => exact kept_execTNop t e _ base
  | tEnd t e => exact kept_execTEnd t e _ base
  | tHalt t e => exact kept_execTHalt t e _ base
  | tWait t e => exact kept_execTWait t e _ base
  | tWaituntil t e => exact kept_execTWaituntil t e _ base
  | tSync t e => exact kept_execTSync t e _ base
  | tPlay t e se => exact kept_execTPlay t e se _ base
  | tPlays t e => exact kept_execTPlays t e _ base
  | tMeas t e se => exact kept_execTMeas t e se _ base
  | tFlux t e se => exact kept_execTFlux t e se _ base
  | tSetf t e => exact kept_execTSetf t e _ base
  | tAddph t e => exact kept_execTAddph t e _ base
  | tSetph t e => exact kept_execTSetph t e _ base
  | tRstph t e => exact kept_execTRstph t e _ base
  | tWaittk t e => exact kept_execTWaittk t e _ base
  | tBtk t e => exact kept_execTBtk t e _ base
  | tWaitev t e => exact kept_execTWaitev t e _ base
  | tBev t e => exact kept_execTBev t e _ base
  | tSignal t e => exact kept_execTSignal t e _ base
  | tMark t e => exact kept_execTMark t e _ base
  | tLoop t e => exact kept_execTLoop t e _ base
  | tEndl t e => exact kept_execTEndl t e _ base
  | tBr t e => exact kept_execTBr t e _ base
  | tBcc t e => exact kept_execTBcc t e _ base
  | tCall t e => exact kept_execTCall t e _ base
  | tRet t e => exact kept_execTRet t e _ base
  | tLdi t e => exact kept_execTLdi t e _ base
  | tMov t e => exact kept_execTMov t e _ base
  | tAdd t e => exact kept_execTAdd t e _ base
  | tSub t e => exact kept_execTSub t e _ base
  | tAnd t e => exact kept_execTAnd t e _ base
  | tOr t e => exact kept_execTOr t e _ base
  | tXor t e => exact kept_execTXor t e _ base
  | tShl t e => exact kept_execTShl t e _ base
  | tShr t e => exact kept_execTShr t e _ base
  | tCmp t e => exact kept_execTCmp t e _ base
  | tRec t e => exact kept_execTRec t e _ base
  | tStrm t e => exact kept_execTStrm t e _ base
  | queueRoomResume t => exact kept_execQueueRoomResume t _ base
  | runAheadResume t => exact kept_execRunAheadResume t _ base
  | waittkDefault t => exact kept_execWaittkDefault t _ base
  | waitevFiring t => exact kept_execWaitevFiring t _ base
  | waitevTimeout t => exact kept_execWaitevTimeout t _ base
  | barrierComplete b => exact kept_execBarrierComplete b _ base
  | shotStart r => exact kept_execShotStart r _ base
  | strmReady t => exact kept_execStrmReady t _ base
  | runT0 r => exact kept_execRunT0 r _ base
  | runCommit r => exact kept_execRunCommit r _ base
  | runComplete r => exact kept_execRunComplete r _ base
  | shotRecordWrite r => exact kept_execShotRecordWrite r _ base
  | patternSegmentEnd q e w => exact kept_execPatternSegmentEnd q e w _ base
  | patternJumpRequest q compare => exact kept_execPatternJumpRequest q compare _ base
  | streamDeadline q => exact kept_execStreamDeadline q _ base
  | windowComplete c k => exact kept_execWindowComplete c k _ base
  | overRangeRow ix => exact kept_execOverRangeRow ix _ base
  | tokenDelivery sub e => exact kept_execTokenDelivery sub e _ base
  | dacEnable p h k v => exact kept_execDacEnable p h k v _ base
  | dacReady h k => exact kept_execDacReady h k _ base
  | dacNotReady h k => exact kept_execDacNotReady h k _ base
  | dacDisable p h k v => exact kept_execDacDisable p h k v _ base
  | dacModeWrite p h k v => exact kept_execDacModeWrite p h k v _ base
  | hostMute p h k v => exact kept_execHostMute p h k v _ base
  | evMuteClear p h k v => exact kept_execEvMuteClear p h k v _ base
  | muteStuck h k => exact kept_execMuteStuck h k _ base
  | slotMute p h ix v => exact kept_execSlotMute p h ix v _ base
  | slotRstph p h ix v => exact kept_execSlotRstph p h ix v _ base
  | dacScaleWrite p h k v => exact kept_execDacScaleWrite p h k v _ base
  | inEnable p ix v => exact kept_execInEnable p ix v _ base
  | adcReady ix => exact kept_execAdcReady ix _ base
  | adcNotReady ix => exact kept_execAdcNotReady ix _ base
  | inDisable p ix v => exact kept_execInDisable p ix v _ base
  | avgClr p c v => exact kept_execAvgClr p c v _ base
  | chRstph p c v => exact kept_execChRstph p c v _ base
  | fluxEnable p f v => exact kept_execFluxEnable p f v _ base
  | fluxReady f => exact kept_execFluxReady f _ base
  | fluxNotReady f => exact kept_execFluxNotReady f _ base
  | fluxDisable p f v => exact kept_execFluxDisable p f v _ base
  | rangeChangeStart p f v => exact kept_execRangeChangeStart p f v _ base
  | fluxRampEnd f => exact kept_execFluxRampEnd f _ base
  | rangeWaitEnd f => exact kept_execRangeWaitEnd f _ base
  | flxLevelWrite p f v => exact kept_execFlxLevelWrite p f v _ base
  | fluxModeWrite p f v => exact kept_execFluxModeWrite p f v _ base
  | fgStrobe p g v => exact kept_execFgStrobe p g v _ base
  | complyAssert f openLoad => exact kept_execComplyAssert f openLoad _ base
  | complyDeassert f => exact kept_execComplyDeassert f _ base
  | monTick m v => exact kept_execMonTick m v _ base
  | monClr p m v => exact kept_execMonClr p m v _ base
  | monLock p m v => exact kept_execMonLock p m v _ base
  | monDisable p m v => exact kept_execMonDisable p m v _ base
  | monTestWrite p m v => exact kept_execMonTestWrite p m v _ base
  | blankStart m => exact kept_execBlankStart m _ base
  | blankEnd m => exact kept_execBlankEnd m _ base
  | auxStart p h v => exact kept_execAuxStart p h v _ base
  | auxPowerupEnd h => exact kept_execAuxPowerupEnd h _ base
  | auxConversion h microvolt => exact kept_execAuxConversion h microvolt _ base
  | auxPeriodicStart h => exact kept_execAuxPeriodicStart h _ base
  | swatchStart r => exact kept_execSwatchStart r _ base
  | swatchStreamStart e => exact kept_execSwatchStreamStart e _ base
  | triggerMark e => exact kept_execTriggerMark e _ base
  | dataEntryWrite e => exact kept_execDataEntryWrite e _ base
  | gapMark e => exact kept_execGapMark e _ base
  | swatchStop r => exact kept_execSwatchStop r _ base
  | laneStart p l v => exact kept_execLaneStart p l v _ base
  | laneAbort p l v => exact kept_execLaneAbort p l v _ base
  | laneDisable p l v => exact kept_execLaneDisable p l v _ base
  | laneFaultClear p l v => exact kept_execLaneFaultClear p l v _ base
  | lanePopResume l => exact kept_execLanePopResume l _ base
  | lNop l e => exact kept_execLNop l e _ base
  | lHalt l e => exact kept_execLHalt l e _ base
  | lLdi l e => exact kept_execLLdi l e _ base
  | lLdih l e => exact kept_execLLdih l e _ base
  | lLd l e de => exact kept_execLLd l e de _ base
  | lSt l e => exact kept_execLSt l e _ base
  | lSetp l e => exact kept_execLSetp l e _ base
  | lAdd l e => exact kept_execLAdd l e _ base
  | lSub l e => exact kept_execLSub l e _ base
  | lAnd l e => exact kept_execLAnd l e _ base
  | lOr l e => exact kept_execLOr l e _ base
  | lXor l e => exact kept_execLXor l e _ base
  | lAddi l e => exact kept_execLAddi l e _ base
  | lShli l e => exact kept_execLShli l e _ base
  | lShri l e => exact kept_execLShri l e _ base
  | lShra l e => exact kept_execLShra l e _ base
  | lCmp l e => exact kept_execLCmp l e _ base
  | lCmpi l e => exact kept_execLCmpi l e _ base
  | lMul l e => exact kept_execLMul l e _ base
  | lMacr l e => exact kept_execLMacr l e _ base
  | lCmac l e de => exact kept_execLCmac l e de _ base
  | lRnd l e => exact kept_execLRnd l e _ base
  | lClra l e => exact kept_execLClra l e _ base
  | lMaxs l e de => exact kept_execLMaxs l e de _ base
  | lMins l e de => exact kept_execLMins l e de _ base
  | lRep l e => exact kept_execLRep l e _ base
  | lBr l e => exact kept_execLBr l e _ base
  | lBcc l e => exact kept_execLBcc l e _ base
  | lCall l e => exact kept_execLCall l e _ base
  | lRet l e => exact kept_execLRet l e _ base
  | lPop l e => exact kept_execLPop l e _ base
  | lTok l e => exact kept_execLTok l e _ base
  | lRec l e => exact kept_execLRec l e _ base
  | lSig l e => exact kept_execLSig l e _ base
  | calRoutineStart h obs => exact kept_execCalRoutineStart h obs _ base
  | calRoutineEnd h res => exact kept_execCalRoutineEnd h res _ base
  | calStep h => exact kept_execCalStep h _ base
  | bgEstimate ix est => exact kept_execBgEstimate ix est _ base
  | trigInEdge ix rising off => exact kept_execTrigInEdge ix rising off _ base
  | ecFire p h v => exact kept_execEcFire p h v _ base
  | taskInputRegistration h u => exact kept_execTaskInputRegistration h u _ base
  | taskSelClr p h u v => exact kept_execTaskSelClr p h u v _ base
  | functionLevelReset p => exact kept_execFunctionLevelReset p _ base
  | portLink p => exact kept_execPortLink p _ base
  | perst p low => exact kept_execPerst p low _ base
  | ringEnable p h r => exact kept_execRingEnable p h r _ base
  | ringDisable p h r => exact kept_execRingDisable p h r _ base
  | ringDrainEnd r => exact kept_execRingDrainEnd r _ base
  | doorbellPoll p => exact kept_execDoorbellPoll p _ base
  | kick p h ix => exact kept_execKick p h ix _ base
  | cmdNop r => exact kept_execCmdNop r _ base
  | fence r => exact kept_execFence r _ base
  | fenceComplete r => exact kept_execFenceComplete r _ base
  | loadWave r => exact kept_execLoadWave r _ base
  | loadProg r => exact kept_execLoadProg r _ base
  | loadKernel r => exact kept_execLoadKernel r _ base
  | loadTable r => exact kept_execLoadTable r _ base
  | loadSegtab r => exact kept_execLoadSegtab r _ base
  | startRun r => exact kept_execStartRun r _ base
  | stopRun r => exact kept_execStopRun r _ base
  | strmAttach r => exact kept_execStrmAttach r _ base
  | calRun r => exact kept_execCalRun r _ base
  | calRead r => exact kept_execCalRead r _ base
  | calWrite r => exact kept_execCalWrite r _ base
  | compress r => exact kept_execCompress r _ base
  | decompress r => exact kept_execDecompress r _ base
  | cfgBatch r => exact kept_execCfgBatch r _ base
  | readState r bad => exact kept_execReadState r bad _ base
  | timeArm r => exact kept_execTimeArm r _ base
  | timeStep r => exact kept_execTimeStep r _ base
  | commandCompletion tag => exact kept_execCommandCompletion tag _ base
  | irqModerationTimeout r => exact kept_execIrqModerationTimeout r _ base
  | recordWrite r => exact kept_execRecordWrite r _ base
  | dmaGrant p cls => exact kept_execDmaGrant p cls _ base
  | doeDiscovery p msg => exact kept_execDoeDiscovery p msg _ base
  | getVersion p msg => exact kept_execGetVersion p msg _ base
  | getCapabilities p msg => exact kept_execGetCapabilities p msg _ base
  | negotiateAlgorithms p msg => exact kept_execNegotiateAlgorithms p msg _ base
  | getDigests p msg => exact kept_execGetDigests p msg _ base
  | getCertificate p msg => exact kept_execGetCertificate p msg _ base
  | challenge p msg => exact kept_execChallenge p msg _ base
  | getMeasurements p msg => exact kept_execGetMeasurements p msg _ base
  | keyExchange p msg => exact kept_execKeyExchange p msg _ base
  | finish p msg => exact kept_execFinish p msg _ base
  | heartbeat p msg => exact kept_execHeartbeat p msg _ base
  | keyUpdate p msg => exact kept_execKeyUpdate p msg _ base
  | endSession p msg => exact kept_execEndSession p msg _ base
  | unsupportedSpdmRequest p msg => exact kept_execUnsupportedSpdmRequest p msg _ base
  | query p msg => exact kept_execQuery p msg _ base
  | keyProg p msg => exact kept_execKeyProg p msg _ base
  | kSetGo p msg => exact kept_execKSetGo p msg _ base
  | kSetStop p msg => exact kept_execKSetStop p msg _ base
  | ideStreamFail p stream => exact kept_execIdeStreamFail p stream _ base
  | rgnCtlWrite p h k r v => exact kept_execRgnCtlWrite p h k r v _ base
  | skeinDone h body e => exact kept_execSkeinDone h body e _ base
  | skeinFlushTimeout r => exact kept_execSkeinFlushTimeout r _ base
  | cmpDisable p h v => exact kept_execCmpDisable p h v _ base
  | ptpSync port frame off => exact kept_execPtpSync port frame off _ base
  | followUp port frame => exact kept_execFollowUp port frame _ base
  | delayReq off => exact kept_execDelayReq off _ base
  | delayResp port frame => exact kept_execDelayResp port frame _ base
  | announce port frame => exact kept_execAnnounce port frame _ base
  | frameForward port frame residence full => exact kept_execFrameForward port frame residence full _ base
  | masterLost  => exact kept_execMasterLost  _ base
  | ntRateWrite p h v => exact kept_execNtRateWrite p h v _ base
  | ntCtlWrite p h v => exact kept_execNtCtlWrite p h v _ base
  | ntArmFire h a => exact kept_execNtArmFire h a _ base
  | trigDisarm p h a v => exact kept_execTrigDisarm p h a v _ base
  | ntStepApply h => exact kept_execNtStepApply h _ base
  | ntPortLink port => exact kept_execNtPortLink port _ base
  | idle h flit => exact kept_execIdle h flit _ base
  | lctl h flit => exact kept_execLctl h flit _ base
  | restReq h flit => exact kept_execRestReq h flit _ base
  | restAck h flit => exact kept_execRestAck h flit _ base
  | token h flit => exact kept_execToken h flit _ base
  | event h flit => exact kept_execEvent h flit _ base
  | reg h flit => exact kept_execReg h flit _ base
  | dmaHdr h flit => exact kept_execDmaHdr h flit _ base
  | dmaData h flit => exact kept_execDmaData h flit _ base
  | periodic h flit off => exact kept_execPeriodic h flit off _ base
  | probe h flit off => exact kept_execProbe h flit off _ base
  | echo h flit off => exact kept_execEcho h flit off _ base
  | ntUpdate h flit => exact kept_execNtUpdate h flit _ base
  | mgmt h flit => exact kept_execMgmt h flit _ base
  | replayTimeout h => exact kept_execReplayTimeout h _ base
  | restIdleExpiry h => exact kept_execRestIdleExpiry h _ base
  | restExit h => exact kept_execRestExit h _ base
  | linkLoss h cause => exact kept_execLinkLoss h cause _ base
  | trainingAttempt h res => exact kept_execTrainingAttempt h res _ base
  | trainingRetry h => exact kept_execTrainingRetry h _ base
  | linkUp _ => exact absurd trivial hc
  | dormantEnter p h v => exact kept_execDormantEnter p h v _ base
  | dormantExit p h v => exact kept_execDormantExit p h v _ base
  | srcForce p h ix v => exact kept_execSrcForce p h ix v _ base
  | latchedClear p h ix v => exact kept_execLatchedClear p h ix v _ base
  | firstClr p h v => exact kept_execFirstClr p h v _ base
  | fnAck p h v => exact kept_execFnAck p h v _ base
  | faultNReassert  => exact kept_execFaultNReassert  _ base
  | fnModeWrite p h v => exact kept_execFnModeWrite p h v _ base
  | shadowEnd h n => exact kept_execShadowEnd h n _ base
  | bindOff p h v => exact kept_execBindOff p h v _ base
  | exit p h v => exact kept_execExit p h v _ base
  | quietExit  => exact kept_execQuietExit  _ base
  | fwWatchdog h => exact kept_execFwWatchdog h _ base
  | govEvaluate h g => exact kept_execGovEvaluate h g _ base
  | govDescent h => exact kept_execGovDescent h _ base
  | supplySag h => exact kept_execSupplySag h _ base
  | thermalSample h temps => exact kept_execThermalSample h temps _ base
  | rowBoundary _ => exact absurd trivial hc
  | dmaReadCompletion p id data => exact kept_execDmaReadCompletion p id data _ base
  | portLinkUp p speed width => exact kept_execPortLinkUp p speed width _ base
  | ntPortLinkUp port => exact kept_execNtPortLinkUp port _ base
  | deskewMarker h lane block stuff => exact kept_execDeskewMarker h lane block stuff _ base
  | uncorrectableFlit h flit => exact kept_execUncorrectableFlit h flit _ base
  | tckEdge rising tms tdi trst => exact kept_execTckEdge rising tms tdi trst _ base

end Sys2Proof.Machine
end

