-- ==== Sys2Proof/Laws/State.lean ====
section
/-!
SUPPORT. The laws of State: what each update leaves alone, field by field (a simplification rule for each), and what it writes.
-/
namespace Sys2Proof.Machine

@[simp] theorem State.setReg_frame (s : State) (r : Reg) (h i j : Nat) (v : Word) :
    (s.setReg r h i j v).pending = s.pending ∧ (s.setReg r h i j v).freeCount = s.freeCount ∧
    (s.setReg r h i j v).shadows = s.shadows ∧ (s.setReg r h i j v).staged = s.staged ∧
    (s.setReg r h i j v).lastRead = s.lastRead ∧ (s.setReg r h i j v).c0 = s.c0 ∧ (s.setReg r h i j v).c1 = s.c1 ∧
    (s.setReg r h i j v).syncAt = s.syncAt ∧ (s.setReg r h i j v).mem = s.mem ∧ (s.setReg r h i j v).segtab = s.segtab ∧
    (s.setReg r h i j v).thr = s.thr ∧ (s.setReg r h i j v).turn = s.turn ∧ (s.setReg r h i j v).prioQ = s.prioQ ∧
    (s.setReg r h i j v).run = s.run ∧ (s.setReg r h i j v).bar = s.bar ∧ (s.setReg r h i j v).que = s.que ∧
    (s.setReg r h i j v).released = s.released ∧ (s.setReg r h i j v).osc = s.osc ∧ (s.setReg r h i j v).pulses = s.pulses ∧
    (s.setReg r h i j v).delays = s.delays ∧ (s.setReg r h i j v).dacOut = s.dacOut ∧ (s.setReg r h i j v).pat = s.pat ∧
    (s.setReg r h i j v).strm = s.strm ∧ (s.setReg r h i j v).flux = s.flux ∧ (s.setReg r h i j v).fluxOut = s.fluxOut ∧
    (s.setReg r h i j v).strobes = s.strobes ∧ (s.setReg r h i j v).blanks = s.blanks ∧ (s.setReg r h i j v).marks = s.marks ∧
    (s.setReg r h i j v).deliveries = s.deliveries ∧ (s.setReg r h i j v).tables = s.tables ∧
    (s.setReg r h i j v).fires = s.fires ∧ (s.setReg r h i j v).evRow = s.evRow ∧ (s.setReg r h i j v).evTog = s.evTog ∧
    (s.setReg r h i j v).pins = s.pins ∧ (s.setReg r h i j v).pinEdge = s.pinEdge ∧ (s.setReg r h i j v).taskRow = s.taskRow ∧
    (s.setReg r h i j v).lanes = s.lanes ∧ (s.setReg r h i j v).cal = s.cal ∧ (s.setReg r h i j v).wins = s.wins ∧
    (s.setReg r h i j v).adc = s.adc ∧ (s.setReg r h i j v).chans = s.chans ∧ (s.setReg r h i j v).caps = s.caps ∧
    (s.setReg r h i j v).aux = s.aux ∧ (s.setReg r h i j v).jumps = s.jumps ∧ (s.setReg r h i j v).nt = s.nt ∧
    (s.setReg r h i j v).rings = s.rings ∧ (s.setReg r h i j v).cmds = s.cmds ∧ (s.setReg r h i j v).cmdSeq = s.cmdSeq ∧
    (s.setReg r h i j v).dlk = s.dlk ∧ (s.setReg r h i j v).recs = s.recs ∧ (s.setReg r h i j v).cmp = s.cmp ∧
    (s.setReg r h i j v).out = s.out ∧ (s.setReg r h i j v).parts = s.parts ∧ (s.setReg r h i j v).quiet = s.quiet ∧
    (s.setReg r h i j v).shadowsF = s.shadowsF ∧ (s.setReg r h i j v).faultN = s.faultN ∧
    (s.setReg r h i j v).firstRow = s.firstRow ∧ (s.setReg r h i j v).notified = s.notified ∧
    (s.setReg r h i j v).forced = s.forced ∧ (s.setReg r h i j v).enAt = s.enAt ∧ (s.setReg r h i j v).warm = s.warm ∧
    (s.setReg r h i j v).hot = s.hot ∧ (s.setReg r h i j v).gov = s.gov ∧ (s.setReg r h i j v).tap = s.tap ∧
    (s.setReg r h i j v).ports = s.ports ∧ (s.setReg r h i j v).boot = s.boot ∧ (s.setReg r h i j v).spdm = s.spdm ∧
    (s.setReg r h i j v).fuses = s.fuses ∧ (s.setReg r h i j v).ntLink = s.ntLink ∧ (s.setReg r h i j v).servo = s.servo ∧
    (s.setReg r h i j v).ntUpd = s.ntUpd :=
  ⟨rfl, rfl, rfl, rfl, rfl, rfl, rfl, rfl, rfl, rfl, rfl, rfl, rfl, rfl, rfl, rfl, rfl, rfl, rfl, rfl, rfl, rfl, rfl, rfl, rfl, rfl, rfl, rfl, rfl, rfl, rfl, rfl, rfl, rfl, rfl, rfl, rfl, rfl, rfl, rfl, rfl, rfl, rfl, rfl, rfl, rfl, rfl, rfl, rfl, rfl, rfl, rfl, rfl, rfl, rfl, rfl, rfl, rfl, rfl, rfl, rfl, rfl, rfl, rfl, rfl, rfl, rfl, rfl, rfl, rfl, rfl⟩

@[simp] theorem State.write_frame (s : State) (k : Mem) (h off : Nat) (l : List Byte) :
    (s.write k h off l).pending = s.pending ∧ (s.write k h off l).freeCount = s.freeCount ∧ (s.write k h off l).regs = s.regs ∧
    (s.write k h off l).shadows = s.shadows ∧ (s.write k h off l).staged = s.staged ∧
    (s.write k h off l).lastRead = s.lastRead ∧ (s.write k h off l).c0 = s.c0 ∧ (s.write k h off l).c1 = s.c1 ∧
    (s.write k h off l).syncAt = s.syncAt ∧ (s.write k h off l).segtab = s.segtab ∧ (s.write k h off l).thr = s.thr ∧
    (s.write k h off l).turn = s.turn ∧ (s.write k h off l).prioQ = s.prioQ ∧ (s.write k h off l).run = s.run ∧
    (s.write k h off l).bar = s.bar ∧ (s.write k h off l).que = s.que ∧ (s.write k h off l).released = s.released ∧
    (s.write k h off l).osc = s.osc ∧ (s.write k h off l).pulses = s.pulses ∧ (s.write k h off l).delays = s.delays ∧
    (s.write k h off l).dacOut = s.dacOut ∧ (s.write k h off l).pat = s.pat ∧ (s.write k h off l).strm = s.strm ∧
    (s.write k h off l).flux = s.flux ∧ (s.write k h off l).fluxOut = s.fluxOut ∧ (s.write k h off l).strobes = s.strobes ∧
    (s.write k h off l).blanks = s.blanks ∧ (s.write k h off l).marks = s.marks ∧
    (s.write k h off l).deliveries = s.deliveries ∧ (s.write k h off l).tables = s.tables ∧
    (s.write k h off l).fires = s.fires ∧ (s.write k h off l).evRow = s.evRow ∧ (s.write k h off l).evTog = s.evTog ∧
    (s.write k h off l).pins = s.pins ∧ (s.write k h off l).pinEdge = s.pinEdge ∧ (s.write k h off l).taskRow = s.taskRow ∧
    (s.write k h off l).lanes = s.lanes ∧ (s.write k h off l).cal = s.cal ∧ (s.write k h off l).wins = s.wins ∧
    (s.write k h off l).adc = s.adc ∧ (s.write k h off l).chans = s.chans ∧ (s.write k h off l).caps = s.caps ∧
    (s.write k h off l).aux = s.aux ∧ (s.write k h off l).jumps = s.jumps ∧ (s.write k h off l).nt = s.nt ∧
    (s.write k h off l).rings = s.rings ∧ (s.write k h off l).cmds = s.cmds ∧ (s.write k h off l).cmdSeq = s.cmdSeq ∧
    (s.write k h off l).dlk = s.dlk ∧ (s.write k h off l).recs = s.recs ∧ (s.write k h off l).cmp = s.cmp ∧
    (s.write k h off l).out = s.out ∧ (s.write k h off l).parts = s.parts ∧ (s.write k h off l).quiet = s.quiet ∧
    (s.write k h off l).shadowsF = s.shadowsF ∧ (s.write k h off l).faultN = s.faultN ∧
    (s.write k h off l).firstRow = s.firstRow ∧ (s.write k h off l).notified = s.notified ∧
    (s.write k h off l).forced = s.forced ∧ (s.write k h off l).enAt = s.enAt ∧ (s.write k h off l).warm = s.warm ∧
    (s.write k h off l).hot = s.hot ∧ (s.write k h off l).gov = s.gov ∧ (s.write k h off l).tap = s.tap ∧
    (s.write k h off l).ports = s.ports ∧ (s.write k h off l).boot = s.boot ∧ (s.write k h off l).spdm = s.spdm ∧
    (s.write k h off l).fuses = s.fuses ∧ (s.write k h off l).ntLink = s.ntLink ∧ (s.write k h off l).servo = s.servo ∧
    (s.write k h off l).ntUpd = s.ntUpd :=
  ⟨rfl, rfl, rfl, rfl, rfl, rfl, rfl, rfl, rfl, rfl, rfl, rfl, rfl, rfl, rfl, rfl, rfl, rfl, rfl, rfl, rfl, rfl, rfl, rfl, rfl, rfl, rfl, rfl, rfl, rfl, rfl, rfl, rfl, rfl, rfl, rfl, rfl, rfl, rfl, rfl, rfl, rfl, rfl, rfl, rfl, rfl, rfl, rfl, rfl, rfl, rfl, rfl, rfl, rfl, rfl, rfl, rfl, rfl, rfl, rfl, rfl, rfl, rfl, rfl, rfl, rfl, rfl, rfl, rfl, rfl, rfl⟩

@[simp] theorem State.modQueue_frame (s : State) (q : Nat) (f : Queue → Queue) :
    (s.modQueue q f).pending = s.pending ∧ (s.modQueue q f).freeCount = s.freeCount ∧ (s.modQueue q f).regs = s.regs ∧
    (s.modQueue q f).shadows = s.shadows ∧ (s.modQueue q f).staged = s.staged ∧ (s.modQueue q f).lastRead = s.lastRead ∧
    (s.modQueue q f).c0 = s.c0 ∧ (s.modQueue q f).c1 = s.c1 ∧ (s.modQueue q f).syncAt = s.syncAt ∧
    (s.modQueue q f).mem = s.mem ∧ (s.modQueue q f).segtab = s.segtab ∧ (s.modQueue q f).thr = s.thr ∧
    (s.modQueue q f).turn = s.turn ∧ (s.modQueue q f).prioQ = s.prioQ ∧ (s.modQueue q f).run = s.run ∧
    (s.modQueue q f).bar = s.bar ∧ (s.modQueue q f).released = s.released ∧ (s.modQueue q f).osc = s.osc ∧
    (s.modQueue q f).pulses = s.pulses ∧ (s.modQueue q f).delays = s.delays ∧ (s.modQueue q f).dacOut = s.dacOut ∧
    (s.modQueue q f).pat = s.pat ∧ (s.modQueue q f).strm = s.strm ∧ (s.modQueue q f).flux = s.flux ∧
    (s.modQueue q f).fluxOut = s.fluxOut ∧ (s.modQueue q f).strobes = s.strobes ∧ (s.modQueue q f).blanks = s.blanks ∧
    (s.modQueue q f).marks = s.marks ∧ (s.modQueue q f).deliveries = s.deliveries ∧ (s.modQueue q f).tables = s.tables ∧
    (s.modQueue q f).fires = s.fires ∧ (s.modQueue q f).evRow = s.evRow ∧ (s.modQueue q f).evTog = s.evTog ∧
    (s.modQueue q f).pins = s.pins ∧ (s.modQueue q f).pinEdge = s.pinEdge ∧ (s.modQueue q f).taskRow = s.taskRow ∧
    (s.modQueue q f).lanes = s.lanes ∧ (s.modQueue q f).cal = s.cal ∧ (s.modQueue q f).wins = s.wins ∧
    (s.modQueue q f).adc = s.adc ∧ (s.modQueue q f).chans = s.chans ∧ (s.modQueue q f).caps = s.caps ∧
    (s.modQueue q f).aux = s.aux ∧ (s.modQueue q f).jumps = s.jumps ∧ (s.modQueue q f).nt = s.nt ∧
    (s.modQueue q f).rings = s.rings ∧ (s.modQueue q f).cmds = s.cmds ∧ (s.modQueue q f).cmdSeq = s.cmdSeq ∧
    (s.modQueue q f).dlk = s.dlk ∧ (s.modQueue q f).recs = s.recs ∧ (s.modQueue q f).cmp = s.cmp ∧
    (s.modQueue q f).out = s.out ∧ (s.modQueue q f).parts = s.parts ∧ (s.modQueue q f).quiet = s.quiet ∧
    (s.modQueue q f).shadowsF = s.shadowsF ∧ (s.modQueue q f).faultN = s.faultN ∧ (s.modQueue q f).firstRow = s.firstRow ∧
    (s.modQueue q f).notified = s.notified ∧ (s.modQueue q f).forced = s.forced ∧ (s.modQueue q f).enAt = s.enAt ∧
    (s.modQueue q f).warm = s.warm ∧ (s.modQueue q f).hot = s.hot ∧ (s.modQueue q f).gov = s.gov ∧
    (s.modQueue q f).tap = s.tap ∧ (s.modQueue q f).ports = s.ports ∧ (s.modQueue q f).boot = s.boot ∧
    (s.modQueue q f).spdm = s.spdm ∧ (s.modQueue q f).fuses = s.fuses ∧ (s.modQueue q f).ntLink = s.ntLink ∧
    (s.modQueue q f).servo = s.servo ∧ (s.modQueue q f).ntUpd = s.ntUpd :=
  ⟨rfl, rfl, rfl, rfl, rfl, rfl, rfl, rfl, rfl, rfl, rfl, rfl, rfl, rfl, rfl, rfl, rfl, rfl, rfl, rfl, rfl, rfl, rfl, rfl, rfl, rfl, rfl, rfl, rfl, rfl, rfl, rfl, rfl, rfl, rfl, rfl, rfl, rfl, rfl, rfl, rfl, rfl, rfl, rfl, rfl, rfl, rfl, rfl, rfl, rfl, rfl, rfl, rfl, rfl, rfl, rfl, rfl, rfl, rfl, rfl, rfl, rfl, rfl, rfl, rfl, rfl, rfl, rfl, rfl, rfl, rfl⟩

@[simp] theorem State.modThread_frame (s : State) (t : Nat) (f : Thread → Thread) :
    (s.modThread t f).pending = s.pending ∧ (s.modThread t f).freeCount = s.freeCount ∧ (s.modThread t f).regs = s.regs ∧
    (s.modThread t f).shadows = s.shadows ∧ (s.modThread t f).staged = s.staged ∧ (s.modThread t f).lastRead = s.lastRead ∧
    (s.modThread t f).c0 = s.c0 ∧ (s.modThread t f).c1 = s.c1 ∧ (s.modThread t f).syncAt = s.syncAt ∧
    (s.modThread t f).mem = s.mem ∧ (s.modThread t f).segtab = s.segtab ∧ (s.modThread t f).turn = s.turn ∧
    (s.modThread t f).prioQ = s.prioQ ∧ (s.modThread t f).run = s.run ∧ (s.modThread t f).bar = s.bar ∧
    (s.modThread t f).que = s.que ∧ (s.modThread t f).released = s.released ∧ (s.modThread t f).osc = s.osc ∧
    (s.modThread t f).pulses = s.pulses ∧ (s.modThread t f).delays = s.delays ∧ (s.modThread t f).dacOut = s.dacOut ∧
    (s.modThread t f).pat = s.pat ∧ (s.modThread t f).strm = s.strm ∧ (s.modThread t f).flux = s.flux ∧
    (s.modThread t f).fluxOut = s.fluxOut ∧ (s.modThread t f).strobes = s.strobes ∧ (s.modThread t f).blanks = s.blanks ∧
    (s.modThread t f).marks = s.marks ∧ (s.modThread t f).deliveries = s.deliveries ∧ (s.modThread t f).tables = s.tables ∧
    (s.modThread t f).fires = s.fires ∧ (s.modThread t f).evRow = s.evRow ∧ (s.modThread t f).evTog = s.evTog ∧
    (s.modThread t f).pins = s.pins ∧ (s.modThread t f).pinEdge = s.pinEdge ∧ (s.modThread t f).taskRow = s.taskRow ∧
    (s.modThread t f).lanes = s.lanes ∧ (s.modThread t f).cal = s.cal ∧ (s.modThread t f).wins = s.wins ∧
    (s.modThread t f).adc = s.adc ∧ (s.modThread t f).chans = s.chans ∧ (s.modThread t f).caps = s.caps ∧
    (s.modThread t f).aux = s.aux ∧ (s.modThread t f).jumps = s.jumps ∧ (s.modThread t f).nt = s.nt ∧
    (s.modThread t f).rings = s.rings ∧ (s.modThread t f).cmds = s.cmds ∧ (s.modThread t f).cmdSeq = s.cmdSeq ∧
    (s.modThread t f).dlk = s.dlk ∧ (s.modThread t f).recs = s.recs ∧ (s.modThread t f).cmp = s.cmp ∧
    (s.modThread t f).out = s.out ∧ (s.modThread t f).parts = s.parts ∧ (s.modThread t f).quiet = s.quiet ∧
    (s.modThread t f).shadowsF = s.shadowsF ∧ (s.modThread t f).faultN = s.faultN ∧ (s.modThread t f).firstRow = s.firstRow ∧
    (s.modThread t f).notified = s.notified ∧ (s.modThread t f).forced = s.forced ∧ (s.modThread t f).enAt = s.enAt ∧
    (s.modThread t f).warm = s.warm ∧ (s.modThread t f).hot = s.hot ∧ (s.modThread t f).gov = s.gov ∧
    (s.modThread t f).tap = s.tap ∧ (s.modThread t f).ports = s.ports ∧ (s.modThread t f).boot = s.boot ∧
    (s.modThread t f).spdm = s.spdm ∧ (s.modThread t f).fuses = s.fuses ∧ (s.modThread t f).ntLink = s.ntLink ∧
    (s.modThread t f).servo = s.servo ∧ (s.modThread t f).ntUpd = s.ntUpd :=
  ⟨rfl, rfl, rfl, rfl, rfl, rfl, rfl, rfl, rfl, rfl, rfl, rfl, rfl, rfl, rfl, rfl, rfl, rfl, rfl, rfl, rfl, rfl, rfl, rfl, rfl, rfl, rfl, rfl, rfl, rfl, rfl, rfl, rfl, rfl, rfl, rfl, rfl, rfl, rfl, rfl, rfl, rfl, rfl, rfl, rfl, rfl, rfl, rfl, rfl, rfl, rfl, rfl, rfl, rfl, rfl, rfl, rfl, rfl, rfl, rfl, rfl, rfl, rfl, rfl, rfl, rfl, rfl, rfl, rfl, rfl, rfl⟩

@[simp] theorem State.modRun_frame (s : State) (r : Nat) (f : Run → Run) :
    (s.modRun r f).pending = s.pending ∧ (s.modRun r f).freeCount = s.freeCount ∧ (s.modRun r f).regs = s.regs ∧
    (s.modRun r f).shadows = s.shadows ∧ (s.modRun r f).staged = s.staged ∧ (s.modRun r f).lastRead = s.lastRead ∧
    (s.modRun r f).c0 = s.c0 ∧ (s.modRun r f).c1 = s.c1 ∧ (s.modRun r f).syncAt = s.syncAt ∧ (s.modRun r f).mem = s.mem ∧
    (s.modRun r f).segtab = s.segtab ∧ (s.modRun r f).thr = s.thr ∧ (s.modRun r f).turn = s.turn ∧
    (s.modRun r f).prioQ = s.prioQ ∧ (s.modRun r f).bar = s.bar ∧ (s.modRun r f).que = s.que ∧
    (s.modRun r f).released = s.released ∧ (s.modRun r f).osc = s.osc ∧ (s.modRun r f).pulses = s.pulses ∧
    (s.modRun r f).delays = s.delays ∧ (s.modRun r f).dacOut = s.dacOut ∧ (s.modRun r f).pat = s.pat ∧
    (s.modRun r f).strm = s.strm ∧ (s.modRun r f).flux = s.flux ∧ (s.modRun r f).fluxOut = s.fluxOut ∧
    (s.modRun r f).strobes = s.strobes ∧ (s.modRun r f).blanks = s.blanks ∧ (s.modRun r f).marks = s.marks ∧
    (s.modRun r f).deliveries = s.deliveries ∧ (s.modRun r f).tables = s.tables ∧ (s.modRun r f).fires = s.fires ∧
    (s.modRun r f).evRow = s.evRow ∧ (s.modRun r f).evTog = s.evTog ∧ (s.modRun r f).pins = s.pins ∧
    (s.modRun r f).pinEdge = s.pinEdge ∧ (s.modRun r f).taskRow = s.taskRow ∧ (s.modRun r f).lanes = s.lanes ∧
    (s.modRun r f).cal = s.cal ∧ (s.modRun r f).wins = s.wins ∧ (s.modRun r f).adc = s.adc ∧ (s.modRun r f).chans = s.chans ∧
    (s.modRun r f).caps = s.caps ∧ (s.modRun r f).aux = s.aux ∧ (s.modRun r f).jumps = s.jumps ∧ (s.modRun r f).nt = s.nt ∧
    (s.modRun r f).rings = s.rings ∧ (s.modRun r f).cmds = s.cmds ∧ (s.modRun r f).cmdSeq = s.cmdSeq ∧
    (s.modRun r f).dlk = s.dlk ∧ (s.modRun r f).recs = s.recs ∧ (s.modRun r f).cmp = s.cmp ∧ (s.modRun r f).out = s.out ∧
    (s.modRun r f).parts = s.parts ∧ (s.modRun r f).quiet = s.quiet ∧ (s.modRun r f).shadowsF = s.shadowsF ∧
    (s.modRun r f).faultN = s.faultN ∧ (s.modRun r f).firstRow = s.firstRow ∧ (s.modRun r f).notified = s.notified ∧
    (s.modRun r f).forced = s.forced ∧ (s.modRun r f).enAt = s.enAt ∧ (s.modRun r f).warm = s.warm ∧
    (s.modRun r f).hot = s.hot ∧ (s.modRun r f).gov = s.gov ∧ (s.modRun r f).tap = s.tap ∧ (s.modRun r f).ports = s.ports ∧
    (s.modRun r f).boot = s.boot ∧ (s.modRun r f).spdm = s.spdm ∧ (s.modRun r f).fuses = s.fuses ∧
    (s.modRun r f).ntLink = s.ntLink ∧ (s.modRun r f).servo = s.servo ∧ (s.modRun r f).ntUpd = s.ntUpd :=
  ⟨rfl, rfl, rfl, rfl, rfl, rfl, rfl, rfl, rfl, rfl, rfl, rfl, rfl, rfl, rfl, rfl, rfl, rfl, rfl, rfl, rfl, rfl, rfl, rfl, rfl, rfl, rfl, rfl, rfl, rfl, rfl, rfl, rfl, rfl, rfl, rfl, rfl, rfl, rfl, rfl, rfl, rfl, rfl, rfl, rfl, rfl, rfl, rfl, rfl, rfl, rfl, rfl, rfl, rfl, rfl, rfl, rfl, rfl, rfl, rfl, rfl, rfl, rfl, rfl, rfl, rfl, rfl, rfl, rfl, rfl, rfl⟩

@[simp] theorem State.modBarrier_frame (s : State) (n : Nat) (f : Barrier → Barrier) :
    (s.modBarrier n f).pending = s.pending ∧ (s.modBarrier n f).freeCount = s.freeCount ∧ (s.modBarrier n f).regs = s.regs ∧
    (s.modBarrier n f).shadows = s.shadows ∧ (s.modBarrier n f).staged = s.staged ∧ (s.modBarrier n f).lastRead = s.lastRead ∧
    (s.modBarrier n f).c0 = s.c0 ∧ (s.modBarrier n f).c1 = s.c1 ∧ (s.modBarrier n f).syncAt = s.syncAt ∧
    (s.modBarrier n f).mem = s.mem ∧ (s.modBarrier n f).segtab = s.segtab ∧ (s.modBarrier n f).thr = s.thr ∧
    (s.modBarrier n f).turn = s.turn ∧ (s.modBarrier n f).prioQ = s.prioQ ∧ (s.modBarrier n f).run = s.run ∧
    (s.modBarrier n f).que = s.que ∧ (s.modBarrier n f).released = s.released ∧ (s.modBarrier n f).osc = s.osc ∧
    (s.modBarrier n f).pulses = s.pulses ∧ (s.modBarrier n f).delays = s.delays ∧ (s.modBarrier n f).dacOut = s.dacOut ∧
    (s.modBarrier n f).pat = s.pat ∧ (s.modBarrier n f).strm = s.strm ∧ (s.modBarrier n f).flux = s.flux ∧
    (s.modBarrier n f).fluxOut = s.fluxOut ∧ (s.modBarrier n f).strobes = s.strobes ∧ (s.modBarrier n f).blanks = s.blanks ∧
    (s.modBarrier n f).marks = s.marks ∧ (s.modBarrier n f).deliveries = s.deliveries ∧ (s.modBarrier n f).tables = s.tables ∧
    (s.modBarrier n f).fires = s.fires ∧ (s.modBarrier n f).evRow = s.evRow ∧ (s.modBarrier n f).evTog = s.evTog ∧
    (s.modBarrier n f).pins = s.pins ∧ (s.modBarrier n f).pinEdge = s.pinEdge ∧ (s.modBarrier n f).taskRow = s.taskRow ∧
    (s.modBarrier n f).lanes = s.lanes ∧ (s.modBarrier n f).cal = s.cal ∧ (s.modBarrier n f).wins = s.wins ∧
    (s.modBarrier n f).adc = s.adc ∧ (s.modBarrier n f).chans = s.chans ∧ (s.modBarrier n f).caps = s.caps ∧
    (s.modBarrier n f).aux = s.aux ∧ (s.modBarrier n f).jumps = s.jumps ∧ (s.modBarrier n f).nt = s.nt ∧
    (s.modBarrier n f).rings = s.rings ∧ (s.modBarrier n f).cmds = s.cmds ∧ (s.modBarrier n f).cmdSeq = s.cmdSeq ∧
    (s.modBarrier n f).dlk = s.dlk ∧ (s.modBarrier n f).recs = s.recs ∧ (s.modBarrier n f).cmp = s.cmp ∧
    (s.modBarrier n f).out = s.out ∧ (s.modBarrier n f).parts = s.parts ∧ (s.modBarrier n f).quiet = s.quiet ∧
    (s.modBarrier n f).shadowsF = s.shadowsF ∧ (s.modBarrier n f).faultN = s.faultN ∧
    (s.modBarrier n f).firstRow = s.firstRow ∧ (s.modBarrier n f).notified = s.notified ∧
    (s.modBarrier n f).forced = s.forced ∧ (s.modBarrier n f).enAt = s.enAt ∧ (s.modBarrier n f).warm = s.warm ∧
    (s.modBarrier n f).hot = s.hot ∧ (s.modBarrier n f).gov = s.gov ∧ (s.modBarrier n f).tap = s.tap ∧
    (s.modBarrier n f).ports = s.ports ∧ (s.modBarrier n f).boot = s.boot ∧ (s.modBarrier n f).spdm = s.spdm ∧
    (s.modBarrier n f).fuses = s.fuses ∧ (s.modBarrier n f).ntLink = s.ntLink ∧ (s.modBarrier n f).servo = s.servo ∧
    (s.modBarrier n f).ntUpd = s.ntUpd :=
  ⟨rfl, rfl, rfl, rfl, rfl, rfl, rfl, rfl, rfl, rfl, rfl, rfl, rfl, rfl, rfl, rfl, rfl, rfl, rfl, rfl, rfl, rfl, rfl, rfl, rfl, rfl, rfl, rfl, rfl, rfl, rfl, rfl, rfl, rfl, rfl, rfl, rfl, rfl, rfl, rfl, rfl, rfl, rfl, rfl, rfl, rfl, rfl, rfl, rfl, rfl, rfl, rfl, rfl, rfl, rfl, rfl, rfl, rfl, rfl, rfl, rfl, rfl, rfl, rfl, rfl, rfl, rfl, rfl, rfl, rfl, rfl⟩

@[simp] theorem State.modMarker_frame (s : State) (m : Nat) (f : Marker → Marker) :
    (s.modMarker m f).pending = s.pending ∧ (s.modMarker m f).freeCount = s.freeCount ∧ (s.modMarker m f).regs = s.regs ∧
    (s.modMarker m f).shadows = s.shadows ∧ (s.modMarker m f).staged = s.staged ∧ (s.modMarker m f).lastRead = s.lastRead ∧
    (s.modMarker m f).c0 = s.c0 ∧ (s.modMarker m f).c1 = s.c1 ∧ (s.modMarker m f).syncAt = s.syncAt ∧
    (s.modMarker m f).mem = s.mem ∧ (s.modMarker m f).segtab = s.segtab ∧ (s.modMarker m f).thr = s.thr ∧
    (s.modMarker m f).turn = s.turn ∧ (s.modMarker m f).prioQ = s.prioQ ∧ (s.modMarker m f).run = s.run ∧
    (s.modMarker m f).bar = s.bar ∧ (s.modMarker m f).que = s.que ∧ (s.modMarker m f).released = s.released ∧
    (s.modMarker m f).osc = s.osc ∧ (s.modMarker m f).pulses = s.pulses ∧ (s.modMarker m f).delays = s.delays ∧
    (s.modMarker m f).dacOut = s.dacOut ∧ (s.modMarker m f).pat = s.pat ∧ (s.modMarker m f).strm = s.strm ∧
    (s.modMarker m f).flux = s.flux ∧ (s.modMarker m f).fluxOut = s.fluxOut ∧ (s.modMarker m f).strobes = s.strobes ∧
    (s.modMarker m f).blanks = s.blanks ∧ (s.modMarker m f).deliveries = s.deliveries ∧ (s.modMarker m f).tables = s.tables ∧
    (s.modMarker m f).fires = s.fires ∧ (s.modMarker m f).evRow = s.evRow ∧ (s.modMarker m f).evTog = s.evTog ∧
    (s.modMarker m f).pins = s.pins ∧ (s.modMarker m f).pinEdge = s.pinEdge ∧ (s.modMarker m f).taskRow = s.taskRow ∧
    (s.modMarker m f).lanes = s.lanes ∧ (s.modMarker m f).cal = s.cal ∧ (s.modMarker m f).wins = s.wins ∧
    (s.modMarker m f).adc = s.adc ∧ (s.modMarker m f).chans = s.chans ∧ (s.modMarker m f).caps = s.caps ∧
    (s.modMarker m f).aux = s.aux ∧ (s.modMarker m f).jumps = s.jumps ∧ (s.modMarker m f).nt = s.nt ∧
    (s.modMarker m f).rings = s.rings ∧ (s.modMarker m f).cmds = s.cmds ∧ (s.modMarker m f).cmdSeq = s.cmdSeq ∧
    (s.modMarker m f).dlk = s.dlk ∧ (s.modMarker m f).recs = s.recs ∧ (s.modMarker m f).cmp = s.cmp ∧
    (s.modMarker m f).out = s.out ∧ (s.modMarker m f).parts = s.parts ∧ (s.modMarker m f).quiet = s.quiet ∧
    (s.modMarker m f).shadowsF = s.shadowsF ∧ (s.modMarker m f).faultN = s.faultN ∧ (s.modMarker m f).firstRow = s.firstRow ∧
    (s.modMarker m f).notified = s.notified ∧ (s.modMarker m f).forced = s.forced ∧ (s.modMarker m f).enAt = s.enAt ∧
    (s.modMarker m f).warm = s.warm ∧ (s.modMarker m f).hot = s.hot ∧ (s.modMarker m f).gov = s.gov ∧
    (s.modMarker m f).tap = s.tap ∧ (s.modMarker m f).ports = s.ports ∧ (s.modMarker m f).boot = s.boot ∧
    (s.modMarker m f).spdm = s.spdm ∧ (s.modMarker m f).fuses = s.fuses ∧ (s.modMarker m f).ntLink = s.ntLink ∧
    (s.modMarker m f).servo = s.servo ∧ (s.modMarker m f).ntUpd = s.ntUpd :=
  ⟨rfl, rfl, rfl, rfl, rfl, rfl, rfl, rfl, rfl, rfl, rfl, rfl, rfl, rfl, rfl, rfl, rfl, rfl, rfl, rfl, rfl, rfl, rfl, rfl, rfl, rfl, rfl, rfl, rfl, rfl, rfl, rfl, rfl, rfl, rfl, rfl, rfl, rfl, rfl, rfl, rfl, rfl, rfl, rfl, rfl, rfl, rfl, rfl, rfl, rfl, rfl, rfl, rfl, rfl, rfl, rfl, rfl, rfl, rfl, rfl, rfl, rfl, rfl, rfl, rfl, rfl, rfl, rfl, rfl, rfl, rfl⟩

@[simp] theorem State.modFlux_frame (s : State) (c : Nat) (f : FluxCh → FluxCh) :
    (s.modFlux c f).pending = s.pending ∧ (s.modFlux c f).freeCount = s.freeCount ∧ (s.modFlux c f).regs = s.regs ∧
    (s.modFlux c f).shadows = s.shadows ∧ (s.modFlux c f).staged = s.staged ∧ (s.modFlux c f).lastRead = s.lastRead ∧
    (s.modFlux c f).c0 = s.c0 ∧ (s.modFlux c f).c1 = s.c1 ∧ (s.modFlux c f).syncAt = s.syncAt ∧ (s.modFlux c f).mem = s.mem ∧
    (s.modFlux c f).segtab = s.segtab ∧ (s.modFlux c f).thr = s.thr ∧ (s.modFlux c f).turn = s.turn ∧
    (s.modFlux c f).prioQ = s.prioQ ∧ (s.modFlux c f).run = s.run ∧ (s.modFlux c f).bar = s.bar ∧ (s.modFlux c f).que = s.que ∧
    (s.modFlux c f).released = s.released ∧ (s.modFlux c f).osc = s.osc ∧ (s.modFlux c f).pulses = s.pulses ∧
    (s.modFlux c f).delays = s.delays ∧ (s.modFlux c f).dacOut = s.dacOut ∧ (s.modFlux c f).pat = s.pat ∧
    (s.modFlux c f).strm = s.strm ∧ (s.modFlux c f).fluxOut = s.fluxOut ∧ (s.modFlux c f).strobes = s.strobes ∧
    (s.modFlux c f).blanks = s.blanks ∧ (s.modFlux c f).marks = s.marks ∧ (s.modFlux c f).deliveries = s.deliveries ∧
    (s.modFlux c f).tables = s.tables ∧ (s.modFlux c f).fires = s.fires ∧ (s.modFlux c f).evRow = s.evRow ∧
    (s.modFlux c f).evTog = s.evTog ∧ (s.modFlux c f).pins = s.pins ∧ (s.modFlux c f).pinEdge = s.pinEdge ∧
    (s.modFlux c f).taskRow = s.taskRow ∧ (s.modFlux c f).lanes = s.lanes ∧ (s.modFlux c f).cal = s.cal ∧
    (s.modFlux c f).wins = s.wins ∧ (s.modFlux c f).adc = s.adc ∧ (s.modFlux c f).chans = s.chans ∧
    (s.modFlux c f).caps = s.caps ∧ (s.modFlux c f).aux = s.aux ∧ (s.modFlux c f).jumps = s.jumps ∧ (s.modFlux c f).nt = s.nt ∧
    (s.modFlux c f).rings = s.rings ∧ (s.modFlux c f).cmds = s.cmds ∧ (s.modFlux c f).cmdSeq = s.cmdSeq ∧
    (s.modFlux c f).dlk = s.dlk ∧ (s.modFlux c f).recs = s.recs ∧ (s.modFlux c f).cmp = s.cmp ∧ (s.modFlux c f).out = s.out ∧
    (s.modFlux c f).parts = s.parts ∧ (s.modFlux c f).quiet = s.quiet ∧ (s.modFlux c f).shadowsF = s.shadowsF ∧
    (s.modFlux c f).faultN = s.faultN ∧ (s.modFlux c f).firstRow = s.firstRow ∧ (s.modFlux c f).notified = s.notified ∧
    (s.modFlux c f).forced = s.forced ∧ (s.modFlux c f).enAt = s.enAt ∧ (s.modFlux c f).warm = s.warm ∧
    (s.modFlux c f).hot = s.hot ∧ (s.modFlux c f).gov = s.gov ∧ (s.modFlux c f).tap = s.tap ∧ (s.modFlux c f).ports = s.ports ∧
    (s.modFlux c f).boot = s.boot ∧ (s.modFlux c f).spdm = s.spdm ∧ (s.modFlux c f).fuses = s.fuses ∧
    (s.modFlux c f).ntLink = s.ntLink ∧ (s.modFlux c f).servo = s.servo ∧ (s.modFlux c f).ntUpd = s.ntUpd :=
  ⟨rfl, rfl, rfl, rfl, rfl, rfl, rfl, rfl, rfl, rfl, rfl, rfl, rfl, rfl, rfl, rfl, rfl, rfl, rfl, rfl, rfl, rfl, rfl, rfl, rfl, rfl, rfl, rfl, rfl, rfl, rfl, rfl, rfl, rfl, rfl, rfl, rfl, rfl, rfl, rfl, rfl, rfl, rfl, rfl, rfl, rfl, rfl, rfl, rfl, rfl, rfl, rfl, rfl, rfl, rfl, rfl, rfl, rfl, rfl, rfl, rfl, rfl, rfl, rfl, rfl, rfl, rfl, rfl, rfl, rfl, rfl⟩

@[simp] theorem State.modLane_frame (s : State) (l : Nat) (f : Lane → Lane) :
    (s.modLane l f).pending = s.pending ∧ (s.modLane l f).freeCount = s.freeCount ∧ (s.modLane l f).regs = s.regs ∧
    (s.modLane l f).shadows = s.shadows ∧ (s.modLane l f).staged = s.staged ∧ (s.modLane l f).lastRead = s.lastRead ∧
    (s.modLane l f).c0 = s.c0 ∧ (s.modLane l f).c1 = s.c1 ∧ (s.modLane l f).syncAt = s.syncAt ∧ (s.modLane l f).mem = s.mem ∧
    (s.modLane l f).segtab = s.segtab ∧ (s.modLane l f).thr = s.thr ∧ (s.modLane l f).turn = s.turn ∧
    (s.modLane l f).prioQ = s.prioQ ∧ (s.modLane l f).run = s.run ∧ (s.modLane l f).bar = s.bar ∧ (s.modLane l f).que = s.que ∧
    (s.modLane l f).released = s.released ∧ (s.modLane l f).osc = s.osc ∧ (s.modLane l f).pulses = s.pulses ∧
    (s.modLane l f).delays = s.delays ∧ (s.modLane l f).dacOut = s.dacOut ∧ (s.modLane l f).pat = s.pat ∧
    (s.modLane l f).strm = s.strm ∧ (s.modLane l f).flux = s.flux ∧ (s.modLane l f).fluxOut = s.fluxOut ∧
    (s.modLane l f).strobes = s.strobes ∧ (s.modLane l f).blanks = s.blanks ∧ (s.modLane l f).marks = s.marks ∧
    (s.modLane l f).deliveries = s.deliveries ∧ (s.modLane l f).tables = s.tables ∧ (s.modLane l f).fires = s.fires ∧
    (s.modLane l f).evRow = s.evRow ∧ (s.modLane l f).evTog = s.evTog ∧ (s.modLane l f).pins = s.pins ∧
    (s.modLane l f).pinEdge = s.pinEdge ∧ (s.modLane l f).taskRow = s.taskRow ∧ (s.modLane l f).cal = s.cal ∧
    (s.modLane l f).wins = s.wins ∧ (s.modLane l f).adc = s.adc ∧ (s.modLane l f).chans = s.chans ∧
    (s.modLane l f).caps = s.caps ∧ (s.modLane l f).aux = s.aux ∧ (s.modLane l f).jumps = s.jumps ∧ (s.modLane l f).nt = s.nt ∧
    (s.modLane l f).rings = s.rings ∧ (s.modLane l f).cmds = s.cmds ∧ (s.modLane l f).cmdSeq = s.cmdSeq ∧
    (s.modLane l f).dlk = s.dlk ∧ (s.modLane l f).recs = s.recs ∧ (s.modLane l f).cmp = s.cmp ∧ (s.modLane l f).out = s.out ∧
    (s.modLane l f).parts = s.parts ∧ (s.modLane l f).quiet = s.quiet ∧ (s.modLane l f).shadowsF = s.shadowsF ∧
    (s.modLane l f).faultN = s.faultN ∧ (s.modLane l f).firstRow = s.firstRow ∧ (s.modLane l f).notified = s.notified ∧
    (s.modLane l f).forced = s.forced ∧ (s.modLane l f).enAt = s.enAt ∧ (s.modLane l f).warm = s.warm ∧
    (s.modLane l f).hot = s.hot ∧ (s.modLane l f).gov = s.gov ∧ (s.modLane l f).tap = s.tap ∧ (s.modLane l f).ports = s.ports ∧
    (s.modLane l f).boot = s.boot ∧ (s.modLane l f).spdm = s.spdm ∧ (s.modLane l f).fuses = s.fuses ∧
    (s.modLane l f).ntLink = s.ntLink ∧ (s.modLane l f).servo = s.servo ∧ (s.modLane l f).ntUpd = s.ntUpd :=
  ⟨rfl, rfl, rfl, rfl, rfl, rfl, rfl, rfl, rfl, rfl, rfl, rfl, rfl, rfl, rfl, rfl, rfl, rfl, rfl, rfl, rfl, rfl, rfl, rfl, rfl, rfl, rfl, rfl, rfl, rfl, rfl, rfl, rfl, rfl, rfl, rfl, rfl, rfl, rfl, rfl, rfl, rfl, rfl, rfl, rfl, rfl, rfl, rfl, rfl, rfl, rfl, rfl, rfl, rfl, rfl, rfl, rfl, rfl, rfl, rfl, rfl, rfl, rfl, rfl, rfl, rfl, rfl, rfl, rfl, rfl, rfl⟩

@[simp] theorem State.modCal_frame (s : State) (h : Nat) (f : Cal → Cal) :
    (s.modCal h f).pending = s.pending ∧ (s.modCal h f).freeCount = s.freeCount ∧ (s.modCal h f).regs = s.regs ∧
    (s.modCal h f).shadows = s.shadows ∧ (s.modCal h f).staged = s.staged ∧ (s.modCal h f).lastRead = s.lastRead ∧
    (s.modCal h f).c0 = s.c0 ∧ (s.modCal h f).c1 = s.c1 ∧ (s.modCal h f).syncAt = s.syncAt ∧ (s.modCal h f).mem = s.mem ∧
    (s.modCal h f).segtab = s.segtab ∧ (s.modCal h f).thr = s.thr ∧ (s.modCal h f).turn = s.turn ∧
    (s.modCal h f).prioQ = s.prioQ ∧ (s.modCal h f).run = s.run ∧ (s.modCal h f).bar = s.bar ∧ (s.modCal h f).que = s.que ∧
    (s.modCal h f).released = s.released ∧ (s.modCal h f).osc = s.osc ∧ (s.modCal h f).pulses = s.pulses ∧
    (s.modCal h f).delays = s.delays ∧ (s.modCal h f).dacOut = s.dacOut ∧ (s.modCal h f).pat = s.pat ∧
    (s.modCal h f).strm = s.strm ∧ (s.modCal h f).flux = s.flux ∧ (s.modCal h f).fluxOut = s.fluxOut ∧
    (s.modCal h f).strobes = s.strobes ∧ (s.modCal h f).blanks = s.blanks ∧ (s.modCal h f).marks = s.marks ∧
    (s.modCal h f).deliveries = s.deliveries ∧ (s.modCal h f).tables = s.tables ∧ (s.modCal h f).fires = s.fires ∧
    (s.modCal h f).evRow = s.evRow ∧ (s.modCal h f).evTog = s.evTog ∧ (s.modCal h f).pins = s.pins ∧
    (s.modCal h f).pinEdge = s.pinEdge ∧ (s.modCal h f).taskRow = s.taskRow ∧ (s.modCal h f).lanes = s.lanes ∧
    (s.modCal h f).wins = s.wins ∧ (s.modCal h f).adc = s.adc ∧ (s.modCal h f).chans = s.chans ∧ (s.modCal h f).caps = s.caps ∧
    (s.modCal h f).aux = s.aux ∧ (s.modCal h f).jumps = s.jumps ∧ (s.modCal h f).nt = s.nt ∧ (s.modCal h f).rings = s.rings ∧
    (s.modCal h f).cmds = s.cmds ∧ (s.modCal h f).cmdSeq = s.cmdSeq ∧ (s.modCal h f).dlk = s.dlk ∧
    (s.modCal h f).recs = s.recs ∧ (s.modCal h f).cmp = s.cmp ∧ (s.modCal h f).out = s.out ∧ (s.modCal h f).parts = s.parts ∧
    (s.modCal h f).quiet = s.quiet ∧ (s.modCal h f).shadowsF = s.shadowsF ∧ (s.modCal h f).faultN = s.faultN ∧
    (s.modCal h f).firstRow = s.firstRow ∧ (s.modCal h f).notified = s.notified ∧ (s.modCal h f).forced = s.forced ∧
    (s.modCal h f).enAt = s.enAt ∧ (s.modCal h f).warm = s.warm ∧ (s.modCal h f).hot = s.hot ∧ (s.modCal h f).gov = s.gov ∧
    (s.modCal h f).tap = s.tap ∧ (s.modCal h f).ports = s.ports ∧ (s.modCal h f).boot = s.boot ∧ (s.modCal h f).spdm = s.spdm ∧
    (s.modCal h f).fuses = s.fuses ∧ (s.modCal h f).ntLink = s.ntLink ∧ (s.modCal h f).servo = s.servo ∧
    (s.modCal h f).ntUpd = s.ntUpd :=
  ⟨rfl, rfl, rfl, rfl, rfl, rfl, rfl, rfl, rfl, rfl, rfl, rfl, rfl, rfl, rfl, rfl, rfl, rfl, rfl, rfl, rfl, rfl, rfl, rfl, rfl, rfl, rfl, rfl, rfl, rfl, rfl, rfl, rfl, rfl, rfl, rfl, rfl, rfl, rfl, rfl, rfl, rfl, rfl, rfl, rfl, rfl, rfl, rfl, rfl, rfl, rfl, rfl, rfl, rfl, rfl, rfl, rfl, rfl, rfl, rfl, rfl, rfl, rfl, rfl, rfl, rfl, rfl, rfl, rfl, rfl, rfl⟩

@[simp] theorem State.modPattern_frame (s : State) (q : Nat) (f : Pattern → Pattern) :
    (s.modPattern q f).pending = s.pending ∧ (s.modPattern q f).freeCount = s.freeCount ∧ (s.modPattern q f).regs = s.regs ∧
    (s.modPattern q f).shadows = s.shadows ∧ (s.modPattern q f).staged = s.staged ∧ (s.modPattern q f).lastRead = s.lastRead ∧
    (s.modPattern q f).c0 = s.c0 ∧ (s.modPattern q f).c1 = s.c1 ∧ (s.modPattern q f).syncAt = s.syncAt ∧
    (s.modPattern q f).mem = s.mem ∧ (s.modPattern q f).segtab = s.segtab ∧ (s.modPattern q f).thr = s.thr ∧
    (s.modPattern q f).turn = s.turn ∧ (s.modPattern q f).prioQ = s.prioQ ∧ (s.modPattern q f).run = s.run ∧
    (s.modPattern q f).bar = s.bar ∧ (s.modPattern q f).que = s.que ∧ (s.modPattern q f).released = s.released ∧
    (s.modPattern q f).osc = s.osc ∧ (s.modPattern q f).pulses = s.pulses ∧ (s.modPattern q f).delays = s.delays ∧
    (s.modPattern q f).dacOut = s.dacOut ∧ (s.modPattern q f).strm = s.strm ∧ (s.modPattern q f).flux = s.flux ∧
    (s.modPattern q f).fluxOut = s.fluxOut ∧ (s.modPattern q f).strobes = s.strobes ∧ (s.modPattern q f).blanks = s.blanks ∧
    (s.modPattern q f).marks = s.marks ∧ (s.modPattern q f).deliveries = s.deliveries ∧ (s.modPattern q f).tables = s.tables ∧
    (s.modPattern q f).fires = s.fires ∧ (s.modPattern q f).evRow = s.evRow ∧ (s.modPattern q f).evTog = s.evTog ∧
    (s.modPattern q f).pins = s.pins ∧ (s.modPattern q f).pinEdge = s.pinEdge ∧ (s.modPattern q f).taskRow = s.taskRow ∧
    (s.modPattern q f).lanes = s.lanes ∧ (s.modPattern q f).cal = s.cal ∧ (s.modPattern q f).wins = s.wins ∧
    (s.modPattern q f).adc = s.adc ∧ (s.modPattern q f).chans = s.chans ∧ (s.modPattern q f).caps = s.caps ∧
    (s.modPattern q f).aux = s.aux ∧ (s.modPattern q f).jumps = s.jumps ∧ (s.modPattern q f).nt = s.nt ∧
    (s.modPattern q f).rings = s.rings ∧ (s.modPattern q f).cmds = s.cmds ∧ (s.modPattern q f).cmdSeq = s.cmdSeq ∧
    (s.modPattern q f).dlk = s.dlk ∧ (s.modPattern q f).recs = s.recs ∧ (s.modPattern q f).cmp = s.cmp ∧
    (s.modPattern q f).out = s.out ∧ (s.modPattern q f).parts = s.parts ∧ (s.modPattern q f).quiet = s.quiet ∧
    (s.modPattern q f).shadowsF = s.shadowsF ∧ (s.modPattern q f).faultN = s.faultN ∧
    (s.modPattern q f).firstRow = s.firstRow ∧ (s.modPattern q f).notified = s.notified ∧
    (s.modPattern q f).forced = s.forced ∧ (s.modPattern q f).enAt = s.enAt ∧ (s.modPattern q f).warm = s.warm ∧
    (s.modPattern q f).hot = s.hot ∧ (s.modPattern q f).gov = s.gov ∧ (s.modPattern q f).tap = s.tap ∧
    (s.modPattern q f).ports = s.ports ∧ (s.modPattern q f).boot = s.boot ∧ (s.modPattern q f).spdm = s.spdm ∧
    (s.modPattern q f).fuses = s.fuses ∧ (s.modPattern q f).ntLink = s.ntLink ∧ (s.modPattern q f).servo = s.servo ∧
    (s.modPattern q f).ntUpd = s.ntUpd :=
  ⟨rfl, rfl, rfl, rfl, rfl, rfl, rfl, rfl, rfl, rfl, rfl, rfl, rfl, rfl, rfl, rfl, rfl, rfl, rfl, rfl, rfl, rfl, rfl, rfl, rfl, rfl, rfl, rfl, rfl, rfl, rfl, rfl, rfl, rfl, rfl, rfl, rfl, rfl, rfl, rfl, rfl, rfl, rfl, rfl, rfl, rfl, rfl, rfl, rfl, rfl, rfl, rfl, rfl, rfl, rfl, rfl, rfl, rfl, rfl, rfl, rfl, rfl, rfl, rfl, rfl, rfl, rfl, rfl, rfl, rfl, rfl⟩

@[simp] theorem State.setStream_frame (s : State) (q : Nat) (x : Option Stream) :
    (s.setStream q x).pending = s.pending ∧ (s.setStream q x).freeCount = s.freeCount ∧ (s.setStream q x).regs = s.regs ∧
    (s.setStream q x).shadows = s.shadows ∧ (s.setStream q x).staged = s.staged ∧ (s.setStream q x).lastRead = s.lastRead ∧
    (s.setStream q x).c0 = s.c0 ∧ (s.setStream q x).c1 = s.c1 ∧ (s.setStream q x).syncAt = s.syncAt ∧
    (s.setStream q x).mem = s.mem ∧ (s.setStream q x).segtab = s.segtab ∧ (s.setStream q x).thr = s.thr ∧
    (s.setStream q x).turn = s.turn ∧ (s.setStream q x).prioQ = s.prioQ ∧ (s.setStream q x).run = s.run ∧
    (s.setStream q x).bar = s.bar ∧ (s.setStream q x).que = s.que ∧ (s.setStream q x).released = s.released ∧
    (s.setStream q x).osc = s.osc ∧ (s.setStream q x).pulses = s.pulses ∧ (s.setStream q x).delays = s.delays ∧
    (s.setStream q x).dacOut = s.dacOut ∧ (s.setStream q x).pat = s.pat ∧ (s.setStream q x).flux = s.flux ∧
    (s.setStream q x).fluxOut = s.fluxOut ∧ (s.setStream q x).strobes = s.strobes ∧ (s.setStream q x).blanks = s.blanks ∧
    (s.setStream q x).marks = s.marks ∧ (s.setStream q x).deliveries = s.deliveries ∧ (s.setStream q x).tables = s.tables ∧
    (s.setStream q x).fires = s.fires ∧ (s.setStream q x).evRow = s.evRow ∧ (s.setStream q x).evTog = s.evTog ∧
    (s.setStream q x).pins = s.pins ∧ (s.setStream q x).pinEdge = s.pinEdge ∧ (s.setStream q x).taskRow = s.taskRow ∧
    (s.setStream q x).lanes = s.lanes ∧ (s.setStream q x).cal = s.cal ∧ (s.setStream q x).wins = s.wins ∧
    (s.setStream q x).adc = s.adc ∧ (s.setStream q x).chans = s.chans ∧ (s.setStream q x).caps = s.caps ∧
    (s.setStream q x).aux = s.aux ∧ (s.setStream q x).jumps = s.jumps ∧ (s.setStream q x).nt = s.nt ∧
    (s.setStream q x).rings = s.rings ∧ (s.setStream q x).cmds = s.cmds ∧ (s.setStream q x).cmdSeq = s.cmdSeq ∧
    (s.setStream q x).dlk = s.dlk ∧ (s.setStream q x).recs = s.recs ∧ (s.setStream q x).cmp = s.cmp ∧
    (s.setStream q x).out = s.out ∧ (s.setStream q x).parts = s.parts ∧ (s.setStream q x).quiet = s.quiet ∧
    (s.setStream q x).shadowsF = s.shadowsF ∧ (s.setStream q x).faultN = s.faultN ∧ (s.setStream q x).firstRow = s.firstRow ∧
    (s.setStream q x).notified = s.notified ∧ (s.setStream q x).forced = s.forced ∧ (s.setStream q x).enAt = s.enAt ∧
    (s.setStream q x).warm = s.warm ∧ (s.setStream q x).hot = s.hot ∧ (s.setStream q x).gov = s.gov ∧
    (s.setStream q x).tap = s.tap ∧ (s.setStream q x).ports = s.ports ∧ (s.setStream q x).boot = s.boot ∧
    (s.setStream q x).spdm = s.spdm ∧ (s.setStream q x).fuses = s.fuses ∧ (s.setStream q x).ntLink = s.ntLink ∧
    (s.setStream q x).servo = s.servo ∧ (s.setStream q x).ntUpd = s.ntUpd :=
  ⟨rfl, rfl, rfl, rfl, rfl, rfl, rfl, rfl, rfl, rfl, rfl, rfl, rfl, rfl, rfl, rfl, rfl, rfl, rfl, rfl, rfl, rfl, rfl, rfl, rfl, rfl, rfl, rfl, rfl, rfl, rfl, rfl, rfl, rfl, rfl, rfl, rfl, rfl, rfl, rfl, rfl, rfl, rfl, rfl, rfl, rfl, rfl, rfl, rfl, rfl, rfl, rfl, rfl, rfl, rfl, rfl, rfl, rfl, rfl, rfl, rfl, rfl, rfl, rfl, rfl, rfl, rfl, rfl, rfl, rfl, rfl⟩

@[simp] theorem State.modQuiet_frame (s : State) (h : Nat) (f : Quiet → Quiet) :
    (s.modQuiet h f).pending = s.pending ∧ (s.modQuiet h f).freeCount = s.freeCount ∧ (s.modQuiet h f).regs = s.regs ∧
    (s.modQuiet h f).shadows = s.shadows ∧ (s.modQuiet h f).staged = s.staged ∧ (s.modQuiet h f).lastRead = s.lastRead ∧
    (s.modQuiet h f).c0 = s.c0 ∧ (s.modQuiet h f).c1 = s.c1 ∧ (s.modQuiet h f).syncAt = s.syncAt ∧
    (s.modQuiet h f).mem = s.mem ∧ (s.modQuiet h f).segtab = s.segtab ∧ (s.modQuiet h f).thr = s.thr ∧
    (s.modQuiet h f).turn = s.turn ∧ (s.modQuiet h f).prioQ = s.prioQ ∧ (s.modQuiet h f).run = s.run ∧
    (s.modQuiet h f).bar = s.bar ∧ (s.modQuiet h f).que = s.que ∧ (s.modQuiet h f).released = s.released ∧
    (s.modQuiet h f).osc = s.osc ∧ (s.modQuiet h f).pulses = s.pulses ∧ (s.modQuiet h f).delays = s.delays ∧
    (s.modQuiet h f).dacOut = s.dacOut ∧ (s.modQuiet h f).pat = s.pat ∧ (s.modQuiet h f).strm = s.strm ∧
    (s.modQuiet h f).flux = s.flux ∧ (s.modQuiet h f).fluxOut = s.fluxOut ∧ (s.modQuiet h f).strobes = s.strobes ∧
    (s.modQuiet h f).blanks = s.blanks ∧ (s.modQuiet h f).marks = s.marks ∧ (s.modQuiet h f).deliveries = s.deliveries ∧
    (s.modQuiet h f).tables = s.tables ∧ (s.modQuiet h f).fires = s.fires ∧ (s.modQuiet h f).evRow = s.evRow ∧
    (s.modQuiet h f).evTog = s.evTog ∧ (s.modQuiet h f).pins = s.pins ∧ (s.modQuiet h f).pinEdge = s.pinEdge ∧
    (s.modQuiet h f).taskRow = s.taskRow ∧ (s.modQuiet h f).lanes = s.lanes ∧ (s.modQuiet h f).cal = s.cal ∧
    (s.modQuiet h f).wins = s.wins ∧ (s.modQuiet h f).adc = s.adc ∧ (s.modQuiet h f).chans = s.chans ∧
    (s.modQuiet h f).caps = s.caps ∧ (s.modQuiet h f).aux = s.aux ∧ (s.modQuiet h f).jumps = s.jumps ∧
    (s.modQuiet h f).nt = s.nt ∧ (s.modQuiet h f).rings = s.rings ∧ (s.modQuiet h f).cmds = s.cmds ∧
    (s.modQuiet h f).cmdSeq = s.cmdSeq ∧ (s.modQuiet h f).dlk = s.dlk ∧ (s.modQuiet h f).recs = s.recs ∧
    (s.modQuiet h f).cmp = s.cmp ∧ (s.modQuiet h f).out = s.out ∧ (s.modQuiet h f).parts = s.parts ∧
    (s.modQuiet h f).shadowsF = s.shadowsF ∧ (s.modQuiet h f).faultN = s.faultN ∧ (s.modQuiet h f).firstRow = s.firstRow ∧
    (s.modQuiet h f).notified = s.notified ∧ (s.modQuiet h f).forced = s.forced ∧ (s.modQuiet h f).enAt = s.enAt ∧
    (s.modQuiet h f).warm = s.warm ∧ (s.modQuiet h f).hot = s.hot ∧ (s.modQuiet h f).gov = s.gov ∧
    (s.modQuiet h f).tap = s.tap ∧ (s.modQuiet h f).ports = s.ports ∧ (s.modQuiet h f).boot = s.boot ∧
    (s.modQuiet h f).spdm = s.spdm ∧ (s.modQuiet h f).fuses = s.fuses ∧ (s.modQuiet h f).ntLink = s.ntLink ∧
    (s.modQuiet h f).servo = s.servo ∧ (s.modQuiet h f).ntUpd = s.ntUpd :=
  ⟨rfl, rfl, rfl, rfl, rfl, rfl, rfl, rfl, rfl, rfl, rfl, rfl, rfl, rfl, rfl, rfl, rfl, rfl, rfl, rfl, rfl, rfl, rfl, rfl, rfl, rfl, rfl, rfl, rfl, rfl, rfl, rfl, rfl, rfl, rfl, rfl, rfl, rfl, rfl, rfl, rfl, rfl, rfl, rfl, rfl, rfl, rfl, rfl, rfl, rfl, rfl, rfl, rfl, rfl, rfl, rfl, rfl, rfl, rfl, rfl, rfl, rfl, rfl, rfl, rfl, rfl, rfl, rfl, rfl, rfl, rfl⟩

@[simp] theorem State.emit_frame (s : State) (o : Out) :
    (s.emit o).pending = s.pending ∧ (s.emit o).freeCount = s.freeCount ∧ (s.emit o).regs = s.regs ∧
    (s.emit o).shadows = s.shadows ∧ (s.emit o).staged = s.staged ∧ (s.emit o).lastRead = s.lastRead ∧ (s.emit o).c0 = s.c0 ∧
    (s.emit o).c1 = s.c1 ∧ (s.emit o).syncAt = s.syncAt ∧ (s.emit o).mem = s.mem ∧ (s.emit o).segtab = s.segtab ∧
    (s.emit o).thr = s.thr ∧ (s.emit o).turn = s.turn ∧ (s.emit o).prioQ = s.prioQ ∧ (s.emit o).run = s.run ∧
    (s.emit o).bar = s.bar ∧ (s.emit o).que = s.que ∧ (s.emit o).released = s.released ∧ (s.emit o).osc = s.osc ∧
    (s.emit o).pulses = s.pulses ∧ (s.emit o).delays = s.delays ∧ (s.emit o).dacOut = s.dacOut ∧ (s.emit o).pat = s.pat ∧
    (s.emit o).strm = s.strm ∧ (s.emit o).flux = s.flux ∧ (s.emit o).fluxOut = s.fluxOut ∧ (s.emit o).strobes = s.strobes ∧
    (s.emit o).blanks = s.blanks ∧ (s.emit o).marks = s.marks ∧ (s.emit o).deliveries = s.deliveries ∧
    (s.emit o).tables = s.tables ∧ (s.emit o).fires = s.fires ∧ (s.emit o).evRow = s.evRow ∧ (s.emit o).evTog = s.evTog ∧
    (s.emit o).pins = s.pins ∧ (s.emit o).pinEdge = s.pinEdge ∧ (s.emit o).taskRow = s.taskRow ∧ (s.emit o).lanes = s.lanes ∧
    (s.emit o).cal = s.cal ∧ (s.emit o).wins = s.wins ∧ (s.emit o).adc = s.adc ∧ (s.emit o).chans = s.chans ∧
    (s.emit o).caps = s.caps ∧ (s.emit o).aux = s.aux ∧ (s.emit o).jumps = s.jumps ∧ (s.emit o).nt = s.nt ∧
    (s.emit o).rings = s.rings ∧ (s.emit o).cmds = s.cmds ∧ (s.emit o).cmdSeq = s.cmdSeq ∧ (s.emit o).dlk = s.dlk ∧
    (s.emit o).recs = s.recs ∧ (s.emit o).cmp = s.cmp ∧ (s.emit o).parts = s.parts ∧ (s.emit o).quiet = s.quiet ∧
    (s.emit o).shadowsF = s.shadowsF ∧ (s.emit o).faultN = s.faultN ∧ (s.emit o).firstRow = s.firstRow ∧
    (s.emit o).notified = s.notified ∧ (s.emit o).forced = s.forced ∧ (s.emit o).enAt = s.enAt ∧ (s.emit o).warm = s.warm ∧
    (s.emit o).hot = s.hot ∧ (s.emit o).gov = s.gov ∧ (s.emit o).tap = s.tap ∧ (s.emit o).ports = s.ports ∧
    (s.emit o).boot = s.boot ∧ (s.emit o).spdm = s.spdm ∧ (s.emit o).fuses = s.fuses ∧ (s.emit o).ntLink = s.ntLink ∧
    (s.emit o).servo = s.servo ∧ (s.emit o).ntUpd = s.ntUpd :=
  ⟨rfl, rfl, rfl, rfl, rfl, rfl, rfl, rfl, rfl, rfl, rfl, rfl, rfl, rfl, rfl, rfl, rfl, rfl, rfl, rfl, rfl, rfl, rfl, rfl, rfl, rfl, rfl, rfl, rfl, rfl, rfl, rfl, rfl, rfl, rfl, rfl, rfl, rfl, rfl, rfl, rfl, rfl, rfl, rfl, rfl, rfl, rfl, rfl, rfl, rfl, rfl, rfl, rfl, rfl, rfl, rfl, rfl, rfl, rfl, rfl, rfl, rfl, rfl, rfl, rfl, rfl, rfl, rfl, rfl, rfl, rfl⟩

@[simp] theorem State.modDlk_frame (s : State) (h : Nat) (f : Dlk → Dlk) :
    (s.modDlk h f).pending = s.pending ∧ (s.modDlk h f).freeCount = s.freeCount ∧ (s.modDlk h f).regs = s.regs ∧
    (s.modDlk h f).shadows = s.shadows ∧ (s.modDlk h f).staged = s.staged ∧ (s.modDlk h f).lastRead = s.lastRead ∧
    (s.modDlk h f).c0 = s.c0 ∧ (s.modDlk h f).c1 = s.c1 ∧ (s.modDlk h f).syncAt = s.syncAt ∧ (s.modDlk h f).mem = s.mem ∧
    (s.modDlk h f).segtab = s.segtab ∧ (s.modDlk h f).thr = s.thr ∧ (s.modDlk h f).turn = s.turn ∧
    (s.modDlk h f).prioQ = s.prioQ ∧ (s.modDlk h f).run = s.run ∧ (s.modDlk h f).bar = s.bar ∧ (s.modDlk h f).que = s.que ∧
    (s.modDlk h f).released = s.released ∧ (s.modDlk h f).osc = s.osc ∧ (s.modDlk h f).pulses = s.pulses ∧
    (s.modDlk h f).delays = s.delays ∧ (s.modDlk h f).dacOut = s.dacOut ∧ (s.modDlk h f).pat = s.pat ∧
    (s.modDlk h f).strm = s.strm ∧ (s.modDlk h f).flux = s.flux ∧ (s.modDlk h f).fluxOut = s.fluxOut ∧
    (s.modDlk h f).strobes = s.strobes ∧ (s.modDlk h f).blanks = s.blanks ∧ (s.modDlk h f).marks = s.marks ∧
    (s.modDlk h f).deliveries = s.deliveries ∧ (s.modDlk h f).tables = s.tables ∧ (s.modDlk h f).fires = s.fires ∧
    (s.modDlk h f).evRow = s.evRow ∧ (s.modDlk h f).evTog = s.evTog ∧ (s.modDlk h f).pins = s.pins ∧
    (s.modDlk h f).pinEdge = s.pinEdge ∧ (s.modDlk h f).taskRow = s.taskRow ∧ (s.modDlk h f).lanes = s.lanes ∧
    (s.modDlk h f).cal = s.cal ∧ (s.modDlk h f).wins = s.wins ∧ (s.modDlk h f).adc = s.adc ∧ (s.modDlk h f).chans = s.chans ∧
    (s.modDlk h f).caps = s.caps ∧ (s.modDlk h f).aux = s.aux ∧ (s.modDlk h f).jumps = s.jumps ∧ (s.modDlk h f).nt = s.nt ∧
    (s.modDlk h f).rings = s.rings ∧ (s.modDlk h f).cmds = s.cmds ∧ (s.modDlk h f).cmdSeq = s.cmdSeq ∧
    (s.modDlk h f).recs = s.recs ∧ (s.modDlk h f).cmp = s.cmp ∧ (s.modDlk h f).out = s.out ∧ (s.modDlk h f).parts = s.parts ∧
    (s.modDlk h f).quiet = s.quiet ∧ (s.modDlk h f).shadowsF = s.shadowsF ∧ (s.modDlk h f).faultN = s.faultN ∧
    (s.modDlk h f).firstRow = s.firstRow ∧ (s.modDlk h f).notified = s.notified ∧ (s.modDlk h f).forced = s.forced ∧
    (s.modDlk h f).enAt = s.enAt ∧ (s.modDlk h f).warm = s.warm ∧ (s.modDlk h f).hot = s.hot ∧ (s.modDlk h f).gov = s.gov ∧
    (s.modDlk h f).tap = s.tap ∧ (s.modDlk h f).ports = s.ports ∧ (s.modDlk h f).boot = s.boot ∧ (s.modDlk h f).spdm = s.spdm ∧
    (s.modDlk h f).fuses = s.fuses ∧ (s.modDlk h f).ntLink = s.ntLink ∧ (s.modDlk h f).servo = s.servo ∧
    (s.modDlk h f).ntUpd = s.ntUpd :=
  ⟨rfl, rfl, rfl, rfl, rfl, rfl, rfl, rfl, rfl, rfl, rfl, rfl, rfl, rfl, rfl, rfl, rfl, rfl, rfl, rfl, rfl, rfl, rfl, rfl, rfl, rfl, rfl, rfl, rfl, rfl, rfl, rfl, rfl, rfl, rfl, rfl, rfl, rfl, rfl, rfl, rfl, rfl, rfl, rfl, rfl, rfl, rfl, rfl, rfl, rfl, rfl, rfl, rfl, rfl, rfl, rfl, rfl, rfl, rfl, rfl, rfl, rfl, rfl, rfl, rfl, rfl, rfl, rfl, rfl, rfl, rfl⟩

@[simp] theorem State.modPort_frame (s : State) (p : Nat) (f : HostPort → HostPort) :
    (s.modPort p f).pending = s.pending ∧ (s.modPort p f).freeCount = s.freeCount ∧ (s.modPort p f).regs = s.regs ∧
    (s.modPort p f).shadows = s.shadows ∧ (s.modPort p f).staged = s.staged ∧ (s.modPort p f).lastRead = s.lastRead ∧
    (s.modPort p f).c0 = s.c0 ∧ (s.modPort p f).c1 = s.c1 ∧ (s.modPort p f).syncAt = s.syncAt ∧ (s.modPort p f).mem = s.mem ∧
    (s.modPort p f).segtab = s.segtab ∧ (s.modPort p f).thr = s.thr ∧ (s.modPort p f).turn = s.turn ∧
    (s.modPort p f).prioQ = s.prioQ ∧ (s.modPort p f).run = s.run ∧ (s.modPort p f).bar = s.bar ∧ (s.modPort p f).que = s.que ∧
    (s.modPort p f).released = s.released ∧ (s.modPort p f).osc = s.osc ∧ (s.modPort p f).pulses = s.pulses ∧
    (s.modPort p f).delays = s.delays ∧ (s.modPort p f).dacOut = s.dacOut ∧ (s.modPort p f).pat = s.pat ∧
    (s.modPort p f).strm = s.strm ∧ (s.modPort p f).flux = s.flux ∧ (s.modPort p f).fluxOut = s.fluxOut ∧
    (s.modPort p f).strobes = s.strobes ∧ (s.modPort p f).blanks = s.blanks ∧ (s.modPort p f).marks = s.marks ∧
    (s.modPort p f).deliveries = s.deliveries ∧ (s.modPort p f).tables = s.tables ∧ (s.modPort p f).fires = s.fires ∧
    (s.modPort p f).evRow = s.evRow ∧ (s.modPort p f).evTog = s.evTog ∧ (s.modPort p f).pins = s.pins ∧
    (s.modPort p f).pinEdge = s.pinEdge ∧ (s.modPort p f).taskRow = s.taskRow ∧ (s.modPort p f).lanes = s.lanes ∧
    (s.modPort p f).cal = s.cal ∧ (s.modPort p f).wins = s.wins ∧ (s.modPort p f).adc = s.adc ∧
    (s.modPort p f).chans = s.chans ∧ (s.modPort p f).caps = s.caps ∧ (s.modPort p f).aux = s.aux ∧
    (s.modPort p f).jumps = s.jumps ∧ (s.modPort p f).nt = s.nt ∧ (s.modPort p f).rings = s.rings ∧
    (s.modPort p f).cmds = s.cmds ∧ (s.modPort p f).cmdSeq = s.cmdSeq ∧ (s.modPort p f).dlk = s.dlk ∧
    (s.modPort p f).recs = s.recs ∧ (s.modPort p f).cmp = s.cmp ∧ (s.modPort p f).out = s.out ∧
    (s.modPort p f).parts = s.parts ∧ (s.modPort p f).quiet = s.quiet ∧ (s.modPort p f).shadowsF = s.shadowsF ∧
    (s.modPort p f).faultN = s.faultN ∧ (s.modPort p f).firstRow = s.firstRow ∧ (s.modPort p f).notified = s.notified ∧
    (s.modPort p f).forced = s.forced ∧ (s.modPort p f).enAt = s.enAt ∧ (s.modPort p f).warm = s.warm ∧
    (s.modPort p f).hot = s.hot ∧ (s.modPort p f).gov = s.gov ∧ (s.modPort p f).tap = s.tap ∧ (s.modPort p f).boot = s.boot ∧
    (s.modPort p f).spdm = s.spdm ∧ (s.modPort p f).fuses = s.fuses ∧ (s.modPort p f).ntLink = s.ntLink ∧
    (s.modPort p f).servo = s.servo ∧ (s.modPort p f).ntUpd = s.ntUpd :=
  ⟨rfl, rfl, rfl, rfl, rfl, rfl, rfl, rfl, rfl, rfl, rfl, rfl, rfl, rfl, rfl, rfl, rfl, rfl, rfl, rfl, rfl, rfl, rfl, rfl, rfl, rfl, rfl, rfl, rfl, rfl, rfl, rfl, rfl, rfl, rfl, rfl, rfl, rfl, rfl, rfl, rfl, rfl, rfl, rfl, rfl, rfl, rfl, rfl, rfl, rfl, rfl, rfl, rfl, rfl, rfl, rfl, rfl, rfl, rfl, rfl, rfl, rfl, rfl, rfl, rfl, rfl, rfl, rfl, rfl, rfl, rfl⟩

@[simp] theorem State.modRing_frame (s : State) (r : Nat) (f : Ring → Ring) :
    (s.modRing r f).pending = s.pending ∧ (s.modRing r f).freeCount = s.freeCount ∧ (s.modRing r f).regs = s.regs ∧
    (s.modRing r f).shadows = s.shadows ∧ (s.modRing r f).staged = s.staged ∧ (s.modRing r f).lastRead = s.lastRead ∧
    (s.modRing r f).c0 = s.c0 ∧ (s.modRing r f).c1 = s.c1 ∧ (s.modRing r f).syncAt = s.syncAt ∧ (s.modRing r f).mem = s.mem ∧
    (s.modRing r f).segtab = s.segtab ∧ (s.modRing r f).thr = s.thr ∧ (s.modRing r f).turn = s.turn ∧
    (s.modRing r f).prioQ = s.prioQ ∧ (s.modRing r f).run = s.run ∧ (s.modRing r f).bar = s.bar ∧ (s.modRing r f).que = s.que ∧
    (s.modRing r f).released = s.released ∧ (s.modRing r f).osc = s.osc ∧ (s.modRing r f).pulses = s.pulses ∧
    (s.modRing r f).delays = s.delays ∧ (s.modRing r f).dacOut = s.dacOut ∧ (s.modRing r f).pat = s.pat ∧
    (s.modRing r f).strm = s.strm ∧ (s.modRing r f).flux = s.flux ∧ (s.modRing r f).fluxOut = s.fluxOut ∧
    (s.modRing r f).strobes = s.strobes ∧ (s.modRing r f).blanks = s.blanks ∧ (s.modRing r f).marks = s.marks ∧
    (s.modRing r f).deliveries = s.deliveries ∧ (s.modRing r f).tables = s.tables ∧ (s.modRing r f).fires = s.fires ∧
    (s.modRing r f).evRow = s.evRow ∧ (s.modRing r f).evTog = s.evTog ∧ (s.modRing r f).pins = s.pins ∧
    (s.modRing r f).pinEdge = s.pinEdge ∧ (s.modRing r f).taskRow = s.taskRow ∧ (s.modRing r f).lanes = s.lanes ∧
    (s.modRing r f).cal = s.cal ∧ (s.modRing r f).wins = s.wins ∧ (s.modRing r f).adc = s.adc ∧
    (s.modRing r f).chans = s.chans ∧ (s.modRing r f).caps = s.caps ∧ (s.modRing r f).aux = s.aux ∧
    (s.modRing r f).jumps = s.jumps ∧ (s.modRing r f).nt = s.nt ∧ (s.modRing r f).cmds = s.cmds ∧
    (s.modRing r f).cmdSeq = s.cmdSeq ∧ (s.modRing r f).dlk = s.dlk ∧ (s.modRing r f).recs = s.recs ∧
    (s.modRing r f).cmp = s.cmp ∧ (s.modRing r f).out = s.out ∧ (s.modRing r f).parts = s.parts ∧
    (s.modRing r f).quiet = s.quiet ∧ (s.modRing r f).shadowsF = s.shadowsF ∧ (s.modRing r f).faultN = s.faultN ∧
    (s.modRing r f).firstRow = s.firstRow ∧ (s.modRing r f).notified = s.notified ∧ (s.modRing r f).forced = s.forced ∧
    (s.modRing r f).enAt = s.enAt ∧ (s.modRing r f).warm = s.warm ∧ (s.modRing r f).hot = s.hot ∧ (s.modRing r f).gov = s.gov ∧
    (s.modRing r f).tap = s.tap ∧ (s.modRing r f).ports = s.ports ∧ (s.modRing r f).boot = s.boot ∧
    (s.modRing r f).spdm = s.spdm ∧ (s.modRing r f).fuses = s.fuses ∧ (s.modRing r f).ntLink = s.ntLink ∧
    (s.modRing r f).servo = s.servo ∧ (s.modRing r f).ntUpd = s.ntUpd :=
  ⟨rfl, rfl, rfl, rfl, rfl, rfl, rfl, rfl, rfl, rfl, rfl, rfl, rfl, rfl, rfl, rfl, rfl, rfl, rfl, rfl, rfl, rfl, rfl, rfl, rfl, rfl, rfl, rfl, rfl, rfl, rfl, rfl, rfl, rfl, rfl, rfl, rfl, rfl, rfl, rfl, rfl, rfl, rfl, rfl, rfl, rfl, rfl, rfl, rfl, rfl, rfl, rfl, rfl, rfl, rfl, rfl, rfl, rfl, rfl, rfl, rfl, rfl, rfl, rfl, rfl, rfl, rfl, rfl, rfl, rfl, rfl⟩

/-- A register reads as it was last written. -/
theorem State.reg_setReg_self (s : State) (r : Reg) (h i j : Nat) (v : Word) :
    (s.setReg r h i j v).reg r h i j = v := mget_mset_self _ _ _ _

/-- A write leaves the registers of other keys alone. -/
theorem State.reg_setReg_ne (s : State) (r r' : Reg) (h i j h' i' j' : Nat) (v : Word) (k : r'.key h' i' j' ≠ r.key h i j) :
    (s.setReg r h i j v).reg r' h' i' j' = s.reg r' h' i' j' := mget_mset_other _ _ _ _ _ _ k

/-- A write keeps the register file's order. -/
theorem State.setReg_rising (s : State) (r : Reg) (h i j : Nat) (v : Word) (k : risingFrom 0 s.regs = true) :
    risingFrom 0 (s.setReg r h i j v).regs = true := risingFrom_mset _ _ _ _ _ (Nat.zero_le _) k

theorem State.thread_modThread (s : State) (t u : Nat) (f : Thread → Thread) :
    (s.modThread t f).thread u = if u = t then f (s.thread u) else s.thread u := by
  by_cases e : u = t
  · subst e; simp only [if_pos]; exact mget_mset_self _ _ _ _
  · rw [if_neg e]; exact mget_mset_ne _ _ _ _ _ e

theorem State.runOf_modRun (s : State) (t u : Nat) (f : Run → Run) :
    (s.modRun t f).runOf u = if u = t then f (s.runOf u) else s.runOf u := by
  by_cases e : u = t
  · subst e; simp only [if_pos]; exact mget_mset_self _ _ _ _
  · rw [if_neg e]; exact mget_mset_ne _ _ _ _ _ e

/-! ### Memory -/

/-- A byte outside what is written reads as before. -/
theorem memGet_memWrite_out (m : List Host.Cell) (a x : Nat) (l : List Byte) (h : x < a ∨ a + l.length ≤ x) :
    memGet (memWrite m a l) x = memGet m x := by
  induction l generalizing m a with
  | nil => rfl
  | cons b l ih =>
    simp only [List.length_cons] at h
    show memGet (memWrite (mset 0 m a b) (a + 1) l) x = _
    rw [ih _ _ (by omega)]
    exact mget_mset_ne _ _ _ _ _ (by omega)

/-- A byte inside what is written reads as written. -/
theorem memGet_memWrite_in (m : List Host.Cell) (a i : Nat) (l : List Byte) (k : i < l.length) :
    memGet (memWrite m a l) (a + i) = l[i] := by
  induction l generalizing m a i with
  | nil => simp at k
  | cons b l ih =>
    show memGet (memWrite (mset 0 m a b) (a + 1) l) (a + i) = _
    cases i with
    | zero =>
      rw [memGet_memWrite_out _ _ _ _ (by omega)]
      exact mget_mset_self _ _ _ _
    | succ i =>
      have e : a + (i + 1) = a + 1 + i := by omega
      rw [e, ih _ _ _ (by simpa using k)]
      rfl

end Sys2Proof.Machine
end

