-- ==== Sys2Proof/Tests/Slice0.lean ====
section
/-!
SUPPORT. Tests.  The ill-formed terms that WellFormed refuses, words and worked examples of the spec, and for every statement with
hypotheses a theorem that shows concrete states and operands that meet them, clause by clause.
-/
namespace Sys2Proof.Tests
open Sys2Proof Sys2Proof.Machine

set_option Elab.async false

/-! ### Small states -/

/-- A partition entry that owns every resource, with no Secure stream required, 16 ring contexts from 0 and 100 commands in flight. -/
def ownAll : BitVec 4096 := ((~~~ (0 : BitVec 4096)) <<< 128) ||| BitVec.ofNat 4096 (100 * 2 ^ 96 + 16 * 2 ^ 64 + 0xF * 2 ^ 16)

/-- A READY part: both supplies up, the die link active, the device partition bound to all four ports. -/
def up : State := ({ State.reset with
  boot := { st := .ready, started := true, sect := 0xF }
  dlk := [(0, { st := .active }), (1, { st := .active })]
  parts := [(4, ownAll)]
  ports := [(0, { link := true }), (1, { link := true }), (2, { link := true }), (3, { link := true })] } : State).setReg .TAG_QUOTA 0 4 0 100

/-! ### Ill-formed terms -/

theorem test_wf_flux_queue : (Instr.queueRelease ⟨.flux, 128⟩).wf = false ∧ (Instr.timedCommandApply ⟨.flux, 511⟩ .ok).wf = false ∧
    (Instr.patternSegmentEnd ⟨.flux, 128⟩ .ok .ok).wf = false ∧ (Instr.patternJumpRequest ⟨.flux, 128⟩ false).wf = false ∧
    (Instr.streamDeadline ⟨.flux, 128⟩).wf = false ∧ (Instr.queueRelease ⟨.flux, 127⟩).wf = true := by decide

theorem test_wf_row : (Instr.rowBoundary { adc := [(0, [1, 2])] }).wf = false ∧ (Instr.rowBoundary {}).wf = true := by decide

/-- An ill-formed term is refused with its fault. -/
theorem test_ill_formed : exec (.streamDeadline ⟨.flux, 128⟩) State.reset = .fault .illFormed := rfl

/-! ### Worked examples of the spec -/

/-- The example of R9: 0.625 and −0.625 narrowed from Q2.3 to Q2.2. -/
theorem test_narrow_example : narrow 4 1 5 = (3, false) ∧ narrow 4 1 (-5) = (-2, false) := by decide

/-- The example of R58: the counter reads 0x0000_FFFF_FFFF_F000 and the stamp is 0x0000_0000_0800. -/
theorem test_extend_example : ext64 0x0000FFFFFFFFF000 0x800 = 0x0001000000000800 ∧ sdiff48 0x800 0xFFFFFFFFF000 = 6144 ∧
    sdiff48 0xFFFFFFFFE000 0xFFFFFFFFF000 = -4096 := by decide

/-- The example under R186: one eighth turn, an envelope of 0.5 + j0.25, an amplitude of 0.5, a scale of 1.0. -/
theorem test_drive_example : cosSin 0x8000 = (92682, 92682) ∧ slotSample 32768 16384 (92682, 92682) 65536 = (11585, false) ∧
    (dacCode 11585 0x8000).1 = 724 := by decide +kernel

/-- The example of R225: MC5's accumulators and the decision at boundary 0. -/
theorem test_readout_example : narrow 32 16 1073741824000 = (16384000, false) ∧ narrow 32 16 429522944000 = (6554000, false) ∧
    (((up.setReg .KS_CFG 0 20 0 0x10100000).setReg .KS_AB0 0 20 0 0x66664CCD).setReg .KS_C0 0 20 0 14000000).tokenValue
      { ch := 5, t := 0, len := 16000, ksel := 0, run := 0, shot := 0 } (16384000, 6554000, false) = 0x0021 := by decide +kernel

/-- The example of R291 and R294: 26,214 at G = 1 and the reset SLEW takes 5,000 flux samples to zero; up at G = 2 it takes 10,000. -/
theorem test_ramp_example : (Ramp.code ⟨.rangeDown, 26214, 0, 0, 1000, 1⟩ 4999).2 = false ∧
    Ramp.code ⟨.rangeDown, 26214, 0, 0, 1000, 1⟩ 5000 = (0, true) ∧ (Ramp.code ⟨.rangeUp, 0, 26214, 0, 1000, 2⟩ 9999).2 = false ∧
    Ramp.code ⟨.rangeUp, 0, 26214, 0, 1000, 2⟩ 10000 = (26214, true) := by decide

/-- The example of R507: the prefilter on three envelope samples, and back. -/
theorem test_prefilter_example :
    prefilter [0xE8, 0x03, 0x38, 0xFF, 0xF2, 0x03, 0x42, 0xFF, 0xF7, 0x03, 0x47, 0xFF] = [0xE8, 0x03, 0x38, 0xFF, 0x0A, 0, 0x0A, 0, 5, 0, 5, 0] ∧
    unprefilter [0xE8, 0x03, 0x38, 0xFF, 0x0A, 0, 0x0A, 0, 5, 0, 5, 0] = [0xE8, 0x03, 0x38, 0xFF, 0xF2, 0x03, 0x42, 0xFF, 0xF7, 0x03, 0x47, 0xFF] := by
  decide +kernel

/-- The example of R543: at RATE +1,000,000 a target 1,000 ns ahead lies 625 rows ahead. -/
theorem test_network_time_example :
    (({ up with nt := [(0, ntTime 86400123 999999000 0)] } : State).setReg .NT_RATE 0 0 0 1000000).ntRows 0 (ntTime 86400124 0 0) = 625 := by
  decide +kernel

/-- The lane word of the example under R382: MINS with D = 12, P = 2, M = 0 and N = 3 is 0x7588_0003. -/
theorem test_lane_word : let w : Word := 0x75880003; bits w 31 26 = 0x1D ∧ bits w 25 21 = 12 ∧ bits w 20 18 = 2 ∧ bits w 14 0 = 3 := by decide

/-- A single-bit error of a flit is corrected and one of two bits is not (R557), on one body. -/
theorem test_flit : flitBody (flitOf 0x123456789ABCDEF0 ^^^ 0x100) = some (0x123456789ABCDEF0, true) ∧
    flitBody (flitOf 0x123456789ABCDEF0 ^^^ 0x101) = none := by decide +kernel

/-! ### Hypotheses of the statements: the queue, the whole machine, numbers and times -/

theorem test_hyp_StepTakesOneCommand : up.pending = [] ∧ up.inv ∧ step up = .next up := by
  refine ⟨rfl, ?_, rfl⟩; unfold State.inv; decide +kernel

theorem test_hyp_EveryEventAnswers : (Instr.queueRelease ⟨.flux, 127⟩).wf = true ∧ (Instr.queueRelease ⟨.flux, 128⟩).wf = false := by decide

theorem test_hyp_InvariantKept : ({ up with pending := [.fwWatchdog 1] } : State).inv ∧
    ∃ t, step { up with pending := [.fwWatchdog 1] } = .next t := by
  refine ⟨?_, _, rfl⟩; unfold State.inv; decide +kernel

theorem test_hyp_CountersMoveByRowsAlone : up.inv ∧ up.boot.started = true ∧ (up.setReg .CLK_STATUS 0 0 0 0).aligned = false ∧
    ((up.setReg .CLK_STATUS 0 0 0 7).setReg .CLK_STATUS 1 0 0 7).aligned = true ∧ (RowInput.mk (some 1) [(15, List.replicate 32 5)]).wf = true ∧
    ∃ t, exec (.fwWatchdog 1) up = .next t := by
  refine ⟨?_, rfl, by decide +kernel, by decide +kernel, by decide, _, rfl⟩; unfold State.inv; decide +kernel

theorem test_hyp_FusesOnlyAccumulate : up.inv ∧ step up = .next up ∧
    bit ({ up with fuses := { up.fuses with revoked := 1 } } : State).fuses.revoked 0 = true := by
  refine ⟨?_, rfl, by decide⟩; unfold State.inv; decide +kernel

theorem test_hyp_TimeExtendsNearTheCounter : ((0xFFFFFFFFF000 : Word64) + BitVec.ofInt 64 (2 ^ 47 - 1)).truncate 48 = (0x7FFFFFFFEFFF : T48) ∧
    ((0xFFFFFFFFF000 : Word64) + BitVec.ofInt 64 (-2 ^ 47)).truncate 48 = (0x7FFFFFFFF000 : T48) := by decide

theorem test_hyp_TimesCompareAndRound : sdiff48 0x7FFFFFFFFFFF 0 > 0 ∧ sdiff48 0x800000000000 0 < 0 ∧ 5 - 4 < 2 ^ 47 := by decide

theorem test_hyp_NarrowingRoundsHalfUp : 1 ≤ 1 ∧ (-2 ^ (1 - 1) ≤ (-1 : Int) ∧ (-1 : Int) < 2 ^ (1 - 1)) ∧ (-2 : Int) < -2 ^ (1 - 1) ∧
    2 ^ (1 - 1) ≤ (1 : Int) := by decide

theorem test_hyp_TrimsFollowTheirFormulas : (({ } : Trim).gain.toNat ≤ 16876 ∧ -256 ≤ ({ } : Trim).ofs.toInt ∧ ({ } : Trim).ofs.toInt ≤ 256) ∧
    (trimCode { ofs := 0x7FFF } 0x800).2 = true ∧ (up.trim 0 (fluxKey 63)).gain.toNat ≤ 16876 ∧ -256 ≤ (up.trim 0 (fluxKey 63)).ofs.toInt := by
  decide +kernel

theorem test_hyp_RampFollowsTheSlew : 0 < (Ramp.mk .park 0 10 0 0 1).gain ∧ ((10 : Int) - 0).natAbs ≤ 10 ∧ (0 : Int) + (9 : Nat) < 10 ∧
    (-10 : Int) < 0 - (9 : Nat) := by decide

theorem test_hyp_BytesAndMemoryReadBack : 3 < 4 ∧ 1 < 2 ∧ Mem.prog.size - 2 + [(1 : Byte), 2].length ≤ Mem.prog.size ∧ Mem.wave ≠ Mem.prog ∧
    Memory.wf up.mem = true := by decide +kernel

theorem test_hyp_FlagsAndConditions : 31 < 32 ∧ 0 < 1 := by decide

theorem test_hyp_RegistersHaveTheirAddresses : 15 < Reg.DAC_CTL.info.cntI ∧ 0 < Reg.DAC_CTL.info.cntJ ∧ 255 < Reg.RGN_CTL.info.cntJ ∧
    (1 ≠ 0 ∧ Reg.DAC_CTL.info.mirror = false) ∧ Reg.DAC_CTL ≠ Reg.DAC_STATUS ∧ Reg.DAC_CTL.offset 15 0 = Reg.DAC_CTL.offset 15 0 := by decide

/-- The flags of a W1S, a W1C, an RW bit and of a bit of no code. -/
theorem test_hyp_AccessCodesDecideEachBit :
    let d : RegDef := { Reg.DAC_STATUS.info with rw := 4, w1c := 2, w1s := 1 }
    (bit d.w1s 0 = true ∧ bit d.w1c 0 = false ∧ bit d.rw 0 = false) ∧ (bit d.w1s 1 = false ∧ bit d.w1c 1 = true ∧ bit d.rw 1 = false) ∧
      (bit d.w1s 2 = false ∧ bit d.w1c 2 = false ∧ bit d.rw 2 = true) ∧ (bit d.w1s 31 = false ∧ bit d.w1c 31 = false ∧ bit d.rw 31 = false) := by
  decide

/-! ### Hypotheses: writes of registers -/

/-- `up` with Secure streams required of the device partition. -/
def guarded : State := { up with parts := [(4, ownAll ||| 0x100)] }

theorem test_hyp_WritesOfBarGoToTheirRegister :
    up.admits 3 none ∧ guarded.outside 0 none = true ∧ guarded.outside 0 (some 1) = true ∧
      (let s := up.modPort 1 fun x => { x with link := false, cfg := { x.cfg with d3hot := true } }
       (s.port 1).cfg.d3hot = true ∧ s.outside 1 none = false ∧ (s.port 1).link = false) ∧ (up.port 3).link = true ∧
      up.unsecured 3 = false ∧ up.reaches 3 .DAC_CTL 1 15 ∧ ({ up with parts := [(0, ownAll &&& ~~~ 0xF0000), (4, 0xF0000)] } : State).mayWrite .DAC_CTL 1 15 3 = false ∧
      (addrHalf 0x3FFFFC = far (portHalf 3) ∧ addrHalf 0x400000 = portHalf 3 ∧ 2 ≤ addrHalf 0x800000 ∧ Reg.find (addrOff 0x7FFFFC) = none) ∧
      guarded.unsecured 0 = true := by
  unfold State.reaches State.admits; decide +kernel

theorem test_hyp_PairsCommitWithTheHighHalf : up.reaches 0 .DB_BASE_LO 0 1 ∧ up.reaches 0 .DB_BASE_HI 0 1 ∧ 1 < Reg.DB_BASE_LO.info.cntI ∧
    up.reaches 3 .CTX_BASE_LO 1 4 ∧ up.reaches 3 .CTX_BASE_HI 1 4 ∧ up.reaches 3 .SYNC_LOAD_HI 1 0 ∧
    up.reaches 3 .NT_MAC_LO 1 0 ∧ up.reaches 3 .NT_MAC_HI 1 0 ∧
    (Reg.CTX_BASE_LO ≠ Reg.DB_BASE_LO ∧ Reg.DB_BASE_LO.info.mirror = false) := by
  unfold State.reaches; decide +kernel

theorem test_hyp_DriveWritesAct : up.reaches 0 .DAC_CTL 0 15 ∧ bit (up.reg .DAC_CTL 0 15) 0 = false ∧
    (let s := up.setReg .DAC_CTL 0 15 0 1; s.reaches 0 .DAC_CTL 0 15 ∧ bit (s.reg .DAC_CTL 0 15) 0 = true ∧ bit (s.reg .DAC_CTL 0 15) 1 = false) ∧
    up.reaches 0 .DAC_STATUS 0 15 ∧ up.reaches 3 .SLOT_CTL 1 255 ∧ up.slotInRun 1 255 = false ∧
    (let s : State := { up with que := [(511, { owner := some (256, 0) })], run := [(0, { st := .running, owner := 4 })] }
     s.reaches 3 .SLOT_CTL 1 255 ∧ s.slotInRun 1 255 = true) ∧
    up.reaches 0 .DAC_SCALE 0 0 := by
  unfold State.reaches; decide +kernel

theorem test_hyp_ReadoutWritesAct : up.reaches 3 .IN_CTL 1 7 ∧ bit (up.reg .IN_CTL 1 7) 0 = false ∧
    (let s := up.setReg .IN_CTL 1 7 0 1; s.reaches 3 .IN_CTL 1 7 ∧ bit (s.reg .IN_CTL 1 7) 0 = true) ∧
    up.reaches 3 .CH_CTL 1 255 ∧ up.inRun (1024 + 511) = false ∧ up.ownLane (16 * 1 + 15) = up.ownPair 15 := by
  unfold State.reaches; decide +kernel

theorem test_hyp_FluxWritesAct :
    up.reaches 3 .FLX_CTL 1 63 ∧ up.fluxChanging 127 = false ∧ bit (up.flxCtl 127) 0 = false ∧ bit (up.flxCtl 127) 1 = false ∧
      bit (up.flxCtl 127) 2 = false ∧ bit (up.flxCtl 127) 3 = false ∧ up.fluxFree 127 = true ∧ up.inRun (fluxQ 127) = false ∧
      up.reaches 3 .FLX_LEVEL 1 63 ∧ up.reaches 3 .FG_STROBE 1 7 ∧ (∀ i < 8, up.inRun (fluxQ (8 * 15 + i)) = false) ∧
      (let s := up.setReg .FLX_CTL 1 63 0 1
       s.reaches 3 .FLX_CTL 1 63 ∧ s.fluxChanging 127 = false ∧ bit (s.flxCtl 127) 0 = true ∧ s.fluxFree 127 = true) ∧
      (let s := up.modFlux 127 fun c => { c with phase := .wait }
       s.reaches 3 .FLX_CTL 1 63 ∧ s.fluxChanging 127 = true ∧ bit (s.flxCtl 127) 0 = false ∧ (s.fluxCh 127).phase ≠ .none) := by
  unfold State.reaches; decide +kernel

theorem test_hyp_MonitorWritesAct :
    up.reaches 3 .MON_STATUS 1 95 ∧ up.reaches 3 .MON_CFG 1 95 ∧ bit (up.reg .MON_CFG 1 95) 2 = false ∧ bits (up.reg .MON_CFG 1 95) 17 16 = 0 ∧
      up.monWatchedOn 1 95 = false ∧
      (let s := up.setReg .MON_CFG 1 95 0 0x00010001
       s.reaches 3 .MON_CFG 1 95 ∧ bit (s.reg .MON_CFG 1 95) 2 = false ∧ bits (s.reg .MON_CFG 1 95) 17 16 ≠ 0) ∧
      (let s := up.setReg .MON_CFG 1 95 0 0x00000005
       s.reaches 3 .MON_CFG 1 95 ∧ bit (s.reg .MON_CFG 1 95) 2 = true) ∧
      up.reaches 3 .AUX_START 1 0 := by
  unfold State.reaches; decide +kernel

theorem test_hyp_LaneWritesAct :
    up.reaches 3 .LANE_CTL 1 15 ∧ (up.setReg .LANE_CTL 1 15 0 1).laneCanStart 31 = true ∧
      (let s : State := up.modLane 31 fun x => { x with st := .fault }
       s.reaches 3 .LANE_CTL 1 15 ∧ (s.setReg .LANE_CTL 1 15 0 1).laneCanStart 31 = false ∧ s.reaches 3 .DSP_LANE_STATUS 1 15 ∧
         (s.lane 31).st = .fault) := by
  unfold State.reaches; decide +kernel

theorem test_hyp_EventAndRingWritesAct :
    up.reaches 3 .EC_FIRE 1 0 ∧ up.ownEvent 512 = up.portPart 3 ∧ up.ecClass 512 = 0 ∧ bits (512 : Word) 9 0 / 512 = 1 ∧
      bits (511 : Word) 9 0 / 512 ≠ 1 ∧
      (up.setReg .EC_CFG 1 511 0 0x20000000).ecClass 1023 ≠ 0 ∧
      (let s := up.setReg .TASK_SEL 1 0x6F 0 0x20000000
       s.reaches 3 .TASK_SEL 1 0x6F ∧
         (0x40000000 : Word) &&& 0x9FF803FF = (s.regBit .TASK_SEL 1 0x6F 29 false).reg .TASK_SEL 1 0x6F &&& 0x9FF803FF) ∧
      up.reaches 3 .KICK 1 1 ∧ up.reaches 0 .RGN_CTL 0 4 ∧ bit (up.reg .RGN_CTL 0 4 255) 31 = false ∧ up.regionSize 4 255 = 0 ∧
      (let s := up.setReg .RGN_SIZE_LO 0 4 255 0x1000
       s.reaches 0 .RGN_CTL 0 4 ∧ s.regionSize 4 255 ≠ 0 ∧ s.regionBase 4 255 + s.regionSize 4 255 ≤ 2 ^ 64 ∧
         s.regionTotal 4 + s.regionSize 4 255 ≤ 2 ^ 41) ∧
      up.regionSize 4 255 = 0 ∧
      (let s := (up.setReg .RGN_SIZE_LO 0 4 255 0x2000).setReg .RGN_BASE_HI 0 4 255 0xFFFFFFFF
       2 ^ 64 < (s.setReg .RGN_BASE_LO 0 4 255 0xFFFFF000).regionBase 4 255 + (s.setReg .RGN_BASE_LO 0 4 255 0xFFFFF000).regionSize 4 255) ∧
      (let s := up.setReg .CMP_CTL 1 0 0 1; s.reaches 3 .CMP_CTL 1 0 ∧ s.cmpOn 1 = true) := by
  unfold State.reaches; decide +kernel

/-- `up` with NT_EN and SERVO set and the servo locked. -/
def timed : State := { (up.setReg .NT_CTL 0 0 0 0x80000000) with servo := { up.servo with st := 3 } }

theorem test_hyp_ClockBootAndFaultWritesAct :
    up.reaches 0 .BOOT_CTL 0 0 ∧ up.reaches 0 .BOOT_RECAST 0 0 ∧ up.portPart 0 = some 4 ∧
      (({ up with parts := [] } : State).reaches 0 .BOOT_RECAST 0 0 ∧ ({ up with parts := [] } : State).portPart 0 ≠ some 4) ∧
      (portHalf 3 = 1 ∧ up.unsecured 3 = false ∧ up.linkUp = true) ∧
      up.reaches 3 .SYNC_CTL 1 0 ∧ up.syncIdle = true ∧ ({ up with run := [(0, { st := .armed, owner := 4 })] } : State).syncIdle = false ∧ up.reaches 3 .CLK_STATUS 1 0 ∧
      up.reaches 3 .NT_RATE 1 0 ∧ up.reaches 3 .NT_CTL 1 0 ∧ up.anyArmed = false ∧ bit (up.reg .NT_CTL 0) 28 = false ∧
      (bit ((timed.setReg .NT_CTL 0 0 0 0x90000000).reg .NT_CTL 0) 28 = true ∧ timed.servo.st ≠ 0 ∧ timed.servo.st ≠ 4 ∧ timed.servo.st ≠ 5) ∧
      up.reaches 3 .TRIG_STATE 1 4 := by
  unfold State.reaches; decide +kernel

theorem test_hyp_ClockBootAndFaultWritesAct_2 :
    up.reaches 3 .DLK_CTL 1 0 ∧ bit (up.reg .DLK_CTL 1) 0 = false ∧ up.dormantOk = true ∧
      (let s : State := { up with run := [(0, { st := .running, owner := 4 })] }; s.reaches 3 .DLK_CTL 1 0 ∧ s.dormantOk = false) ∧
      (let s := up.setReg .DLK_CTL 1 0 0 1; s.reaches 3 .DLK_CTL 1 0 ∧ bit (s.reg .DLK_CTL 1) 0 = true) ∧
      (up.reaches 3 .SRC_FORCE 1 0x170 ∧ (sourceRow 0x170).isSome = true) ∧ up.reaches 3 .SRC_STATUS 1 0x170 ∧ up.reaches 3 .FIRST_CLR 1 0 ∧
      (let s : State := { up with faultN := { asserted := true, since := 0 }, c0 := 19968 }
       s.reaches 3 .FN_ACK 1 0 ∧ bit (s.reg .FLT_CTL 0) 4 = false ∧ s.now 0 < s.faultN.since + 20000 ∧
         ({ s with c0 := 20000 } : State).faultN.since + 20000 ≤ ({ s with c0 := 20000 } : State).now 0 ∧ s.faultN.asserted = true ∧
         s.faultN.reassert = none ∧ s.faultN.pending = false) ∧
      up.reaches 3 .FLT_CTL 1 0 ∧ up.reaches 3 .QUIET_CTL 1 0 ∧ up.isQuiet 1 = false ∧
      (up.modQuiet 1 fun q => { q with on := true }).isQuiet 1 = true := by
  unfold State.reaches; and_intros <;> decide +kernel

/-! ### Hypotheses: rails, resets, cast-on, clocks and queues -/

theorem test_hyp_RailsAndResetsAct :
    bits ((up.regBit .PWR_STATUS 1 0 8 true).reg .PWR_STATUS 1) 8 7 = 3 ∧ bit (up.reg .PWR_STATUS 1) 6 = true ∧
      (let s := (up.regBit .PWR_STATUS 1 0 2 false).regBit .PWR_STATUS 1 0 3 false
       bit (s.reg .PWR_STATUS 1) 2 = false ∧ bit (s.reg .PWR_STATUS 1) 3 = false) ∧
      (up.regBit .PWR_STATUS 1 0 7 false).fluxRails 1 = false ∧
      (let s := up.regBit .PWR_STATUS 1 0 7 false
       bits (s.reg .PWR_STATUS 1) 8 7 ≠ 3 ∧ bits ((s.regBit .PWR_STATUS 1 0 8 true).reg .PWR_STATUS 1) 8 7 ≠ 3 ∧
         bits ((s.regBit .PWR_STATUS 1 0 7 true).reg .PWR_STATUS 1) 8 7 = 3) ∧
      bit (up.reg .PWR_STATUS 1) 8 = true ∧ bits (up.reg .PWR_STATUS 1) 8 7 = 3 ∧
      (let s := (({ up with boot := { st := .cold } } : State).setReg .PWR_STATUS 0 0 0 0x1FF).setReg .PWR_STATUS 1 0 0 0x1FF
       s.railsValid = true ∧ s.boot.st = .cold ∧ bit (s.reg .CLK_STATUS 0) 0 = true) := by
  decide +kernel

/-- A boot ring of one entry: 4,096 bytes at 0x1000. -/
def bootRing : List Byte := leBytes 8 0x1000 ++ leBytes 4 4096 ++ leBytes 4 0

/-- A part awaiting an image, with HP1's boot length and ring entered. -/
def awaiting : State :=
  (({ up with boot := { st := .awaitImage, started := true } } : State).setReg .BOOT_LEN 0 1 0 4096).setReg .BOOT_RING_COUNT 0 1 0 1

theorem test_hyp_CastOnAdvances :
    (({ up with boot := { st := .selftest } } : State).boot.st = .selftest ∧ ({ up with boot := { st := .selftest } } : State).linkUp = true ∧
      ({ up with boot := { st := .selftest } } : State).clocked = true) ∧ (portHalf 2 = 1 ∧ (up.port 2).cfg.d3hot = false ∧ up.unsecured 2 = false) ∧
      SelfTest.fuseFailed ≠ .passed ∧
      (awaiting.boot.st = .awaitImage ∧ awaiting.pstate 1 = 0 ∧ (awaiting.reg .BOOT_LEN 0 1).toNat % 64 = 0 ∧
        3648 ≤ (awaiting.reg .BOOT_LEN 0 1).toNat ∧ (awaiting.reg .BOOT_LEN 0 1).toNat ≤ 33554432 ∧ 1 ≤ (awaiting.reg .BOOT_RING_COUNT 0 1).toNat ∧
        (awaiting.reg .BOOT_RING_COUNT 0 1).toNat ≤ 1024 ∧ bootChunks bootRing 1 = some [(0x1000, 4096)] ∧ 0 + 4096 = (awaiting.reg .BOOT_LEN 0 1).toNat) ∧
      ((awaiting.setReg .BOOT_LEN 0 1 0 3584).pstate 1 = 0 ∧ ((awaiting.setReg .BOOT_LEN 0 1 0 3584).reg .BOOT_LEN 0 1).toNat < 3648 ∧
        33554432 < ((awaiting.setReg .BOOT_LEN 0 1 0 0x02000040).reg .BOOT_LEN 0 1).toNat) ∧
      (let s := awaiting.modBoot fun b => { b with queue := [1] }; s.boot.queue = [1] ∧ s.loading = none) ∧
      (let s := (awaiting.modBoot fun b => { b with st := .verify }).modBootPort 1 fun x =>
         { x with st := .loading, data := List.replicate 4096 0 }
       s.loading = some 1 ∧ s.boot.st = .verify ∧ (s.bootPort 1).data.length = (s.reg .BOOT_LEN 0 1).toNat ∧
         512 ≤ (s.bootPort 1).data.length ∧ (s.headerFailure 1 (s.bootPort 1).data).isSome = true) ∧
      ({ up with boot := { up.boot with st := .start } } : State).boot.st = .start ∧ up.ready = true := by
  decide +kernel

theorem test_hyp_ClockEventsAct :
    (bit ((up.setReg .SYNC_CTL 0 0 0 1).reg .SYNC_CTL 0) 0 = true ∧ up.syncAt = none) ∧ (1600 < ({ up with c0 := 1600 } : State).now 0 + 32) ∧
      up.boot.st ≠ .cold ∧ bit ((up.setReg .CLK_STATUS 0 0 0 3).reg .CLK_STATUS 0) 0 = true ∧
      (let s := up.setReg .CLK_STATUS 1 0 0 3; bit (s.reg .CLK_STATUS 1) 0 = true ∧ bit (s.reg .CLK_STATUS 1) 1 = true) ∧
      bit ((up.setReg .CLK_STATUS 1 0 0 1).reg .CLK_STATUS 1) 1 = false ∧ up.now 0 % 1048576 = 0 ∧ up.linkUp = true := by
  decide +kernel

/-- A command at the head of the queue of MC511, of DS0 and of F127. -/
def queued (q : Nat) (act : Act) (t : T48) : State := up.modQueue q fun x => { x with cmds := [⟨t, 0, 0, 0, act⟩] }

theorem test_hyp_QueuesReleaseAndApply :
    (QKind.chan ≠ .flux ∨ (511 : Fin 512).val < 128) ∧ (QKind.flux ≠ .flux ∨ (127 : Fin 512).val < 128) ∧
      (let q := qKey ⟨.chan, 511⟩; let s := queued q (.window 8 0) 64
       (s.queue q).cmds = [⟨64, 0, 0, 0, .window 8 0⟩] ∧ rowOf (s.ext (qHalf q) 64) ≤ s.row (qHalf q) + qLead q) ∧
      (let q := qKey ⟨.chan, 511⟩; let s := queued q (.window 8 0) 96
       (s.queue q).cmds = [⟨96, 0, 0, 0, .window 8 0⟩] ∧ rowOf (s.ext (qHalf q) 96) > s.row (qHalf q) + qLead q) ∧
      (let q := qKey ⟨.flux, 127⟩; let s := queued q (.pattern 3 {}) 640
       (s.queue q).cmds = [⟨640, 0, 0, 0, .pattern 3 {}⟩] ∧ rowOf (s.ext (qHalf q) 640) ≤ s.row (qHalf q) + qLead q) ∧
      (let q := qKey ⟨.slot, 0⟩; let p : PulseSpec := { length := 8, stream := true }; let s := queued q (.pulse p) 896
       (s.queue q).cmds = [⟨896, 0, 0, 0, .pulse p⟩] ∧ p.stream = true ∧ rowOf (s.ext (qHalf q) 896) ≤ s.row (qHalf q) + qLead q) ∧
      (let q := qKey ⟨.slot, 0⟩; let x : Released := ⟨q, ⟨31, 0, 0, 0, .rstph⟩⟩; let s : State := { up with released := [x] }
       s.released.find? (fun y => y.q == q) = some x ∧ rowOf (s.ext (qHalf q) x.cmd.stamp) ≤ s.row (qHalf q)) ∧
      (({ up with marks := [(15, { pulseEnd := some 0 })] } : State).marker 15).pulseEnd = some 0 ∧ 0 ≤ up.now (15 / 8) := by
  decide +kernel

/-! ### Hypotheses: threads -/

/-- A thread's instruction word: its opcode in [63:56] and fields, each with the place of its lowest bit. -/
def word (op : Nat) (fields : List (Nat × Nat)) : BitVec 64 := BitVec.ofNat 64 (fields.foldl (fun a f => a + f.1 * 2 ^ f.2) (op * 2 ^ 56))

/-- A READY thread of run 0 of the device partition at PC 1,048,575 of H1, whose word there is w. -/
def threaded (t : Nat) (w : BitVec 64) (x : Thread := {}) : State :=
  ({ up with
    run := [(0, { st := .running, owner := 4, threads := [t], t0 := some 0 })]
    thr := [(t, { x with st := .ready, pc := 1048575 })] } : State).write .prog (t / 256) 8388600 (leBytes 8 w.toNat)

theorem test_hyp_IssueChecksTheFetch :
    ((0x00, Instr.tNop 511 .ok) ∈ threadInstrs 511 .ok .ok ∧ (threaded 511 0).served (511 / 32) = some 511) ∧
      (let s : State := { up with thr := [(511, { st := .ready, pc := 1048576 })] }
       s.served 15 = some 511 ∧ 1048576 ≤ (s.thread 511).pc) ∧
      (((threaded 511 0).thread 511).pc < 1048576 ∧ Ecc.corrected ≠ .uncorrectable ∧
        (threaded 511 0).ownProgPage 1 (1048575 / 8192) = some ((threaded 511 0).runOf 0).owner) ∧
      ({ threaded 511 0 with parts := [] } : State).served 15 = some 511 ∧ (threaded 511 0x0300000000000000).served 15 = some 511 ∧
      (({ threaded 511 0 with parts := [] } : State).ownProgPage 1 (1048575 / 8192) ≠ some ((threaded 511 0).runOf 0).owner) ∧
      threadOpcodes.contains (bits ((threaded 511 0x0300000000000000).progWord 1 1048575) 63 56) = false := by
  decide +kernel

theorem test_hyp_ThreadFlowActs :
    (let w := word 0 []; (threaded 511 w).fetches 511 0x00 w ∧ bits w 55 0 = 0) ∧
      (let w := word 0x01 []; (threaded 511 w).fetches 511 0x01 w ∧ bits w 55 0 = 0) ∧
      (let w := word 0x02 []; (threaded 511 w).fetches 511 0x02 w ∧ bits w 55 0 = 0) ∧
      (let w := word 0x08 [(0xFFFFFFFFFF, 0)]
       (threaded 511 w).fetches 511 0x08 w ∧ bit w 55 = false ∧ bits w 54 51 = 0 ∧ bits w 50 40 = 0) ∧
      (let w := word 0x08 [(0x1F, 51)]
       (threaded 511 w).fetches 511 0x08 w ∧ bit w 55 = true ∧ bits w 50 40 = 0 ∧ bits w 39 0 = 0) ∧
      (let w := word 0x09 [(3, 54), (0xFFFFFFFFFFFF, 0)]; (threaded 511 w).fetches 511 0x09 w ∧ bits w 53 48 = 0) ∧
      (let w := word 0x0A [(63, 50)]; let s := threaded 511 w
       let s := s.modBarrier 63 fun b => { b with run := some 0, members := [511, 0] }
       s.fetches 511 0x0A w ∧ bits w 49 0 = 0 ∧ (s.barrier (bits w 55 50)).run = some ((s.issued 511).thread 511).run ∧
         (s.barrier (bits w 55 50)).members.contains 511 = true) ∧
      (let w := word 0x21 [(1, 55), (0xFFFF, 36), (0xFFFF, 20)]
       (threaded 511 w).fetches 511 0x21 w ∧ bits w 54 52 = 0 ∧ bits w 35 20 &&& bits w 51 36 = bits w 35 20) ∧
      (let w := word 0x29 [(1023, 46), (5, 0)]; let s := threaded 511 w
       s.fetches 511 0x29 w ∧ bits w 28 20 = 0 ∧ s.ownEvent (bits w 55 46) = some ((s.issued 511).partOf 511)) := by
  simp only [State.fetches]; and_intros <;> decide +kernel

theorem test_hyp_ThreadFlowActs_2 :
    (let w := word 0x30 [(7, 0)]; let s := threaded 511 w
      s.fetches 511 0x30 w ∧ bits w 50 44 = 0 ∧ bit w 55 = false ∧ bits w 54 51 = 0 ∧ (0 : Word) = BitVec.ofNat 32 (bits w 43 20)) ∧
      (let w := word 0x30 [(0x1F, 51)]; let s := threaded 511 w { g := [(15, 9)], depth := 3 }
       s.fetches 511 0x30 w ∧ bits w 50 44 = 0 ∧ bit w 55 = true ∧ bits w 43 20 = 0 ∧ (9 : Word) = ((s.issued 511).thread 511).reg (bits w 54 51) ∧
         ((s.issued 511).thread 511).depth < 4) ∧
      (let w := word 0x30 [(1, 20)]; let s := threaded 511 w { depth := 4 }
       s.fetches 511 0x30 w ∧ bit w 55 = false ∧ bits w 43 20 ≠ 0 ∧ 4 ≤ ((s.issued 511).thread 511).depth) ∧
      (let w := word 0x31 []; let s := threaded 511 w { depth := 1, lc := [(0, 1)] }
       s.fetches 511 0x31 w ∧ bits w 55 0 = 0 ∧ ((s.issued 511).thread 511).depth ≠ 0 ∧ (((threaded 511 w).issued 511).thread 511).depth = 0) ∧
      (let w := word 0x32 [(0xFFFFF, 0)]; (threaded 511 w).fetches 511 0x32 w ∧ bit w 55 = false ∧ bits w 54 51 = 0 ∧ bits w 50 20 = 0) ∧
      (let w := word 0x32 [(0x1F, 51)]; let s := threaded 511 w { g := [(15, 0xFFFFF)] }
       s.fetches 511 0x32 w ∧ bit w 55 = true ∧ bits w 50 20 = 0 ∧ bits w 19 0 = 0 ∧ bits (((s.issued 511).thread 511).reg (bits w 54 51)) 31 20 = 0) ∧
      (let w := word 0x33 [(14, 52)]; (threaded 511 w).fetches 511 0x33 w ∧ bits w 51 20 = 0 ∧ bits w 55 52 ≠ 15) ∧
      (let w := word 0x34 []; let s := threaded 511 w
       s.fetches 511 0x34 w ∧ bit w 55 = false ∧ bits w 54 51 = 0 ∧ bits w 50 20 = 0 ∧ ((s.issued 511).thread 511).call = false ∧
         (((threaded 511 w { call := true }).issued 511).thread 511).call = true) ∧
      (let w := word 0x35 []; let s := threaded 511 w { call := true }
       s.fetches 511 0x35 w ∧ bits w 55 0 = 0 ∧ ((s.issued 511).thread 511).call = true ∧ (((threaded 511 w).issued 511).thread 511).call = false) := by
  simp only [State.fetches]; and_intros <;> decide +kernel

/-- The bits of a word of the register form that are as the spec gives them. -/
def dataOk (w : BitVec 64) (wr sh : Bool) : Prop := bits w 45 36 = 0 ∧ (sh = false → bit w 46 = false) ∧ (wr = false → bits w 55 52 = 0) ∧
  (bit w 47 = true → bits w 35 32 = 0) ∧ (bit w 47 = false → bits w 31 0 = 0)

theorem test_hyp_ThreadDataActs :
    (∀ op ∈ [0x42, 0x43, 0x44, 0x45, 0x46, 0x47, 0x48],
      let w := word op [(15, 52), (15, 48), (1, 47), (0xFFFFFFFF, 0)]
      (threaded 0 w).fetches 0 op w ∧ dataOk w true (op == 0x48)) ∧
      (let w := word 0x48 [(15, 52), (1, 46), (15, 32)]; (threaded 0 w).fetches 0 0x48 w ∧ dataOk w true true) ∧
      (let w := word 0x49 [(15, 48), (15, 32)]; (threaded 0 w).fetches 0 0x49 w ∧ dataOk w false false) ∧
      (∀ x ∈ threadAlu 0 .ok 0, let w := word x.1 [(1, 36)]; (threaded 0 w).fetches 0 x.1 w ∧ ¬ dataOk w x.2.2.2.1 x.2.2.2.2) := by
  unfold State.fetches dataOk; and_intros <;> decide +kernel

theorem test_hyp_ThreadDataActs_2 :
    (let w := word 0x40 [(15, 52), (0xFFFFFFFF, 0)]; (threaded 0 w).fetches 0 0x40 w ∧ bits w 51 32 = 0) ∧
      (let w := word 0x40 [(1, 51)]; (threaded 0 w).fetches 0 0x40 w ∧ bits w 51 32 ≠ 0) ∧
      (let w := word 0x41 [(19, 51), (15, 46)]; let s := threaded 0 w { g := [(15, 7)] }
       s.fetches 0 0x41 w ∧ bits w 45 0 = 0 ∧ bits w 55 51 < 20 ∧ (s.issued 0).movSrc 0 (bits w 50 46) = some 7) ∧
      (let w := word 0x41 [(31, 46)]; (threaded 0 w).fetches 0 0x41 w ∧ ((threaded 0 w).issued 0).movSrc 0 (bits w 50 46) = none) ∧
      (let w := word 0x41 [(1, 0)]; (threaded 0 w).fetches 0 0x41 w ∧ bits w 45 0 ≠ 0) ∧
      (let w := word 0x41 [(20, 51)]; (threaded 0 w).fetches 0 0x41 w ∧ 20 ≤ bits w 55 51) := by
  simp only [State.fetches]; and_intros <;> decide +kernel

/-- Thread 0 of H0 with `now` at row 1,000, queue q assigned to it and entry 5 of q's table of 40 envelope samples at gauge 4. -/
def timedThread (q : Nat) (w : BitVec 64) : State :=
  { (threaded 0 w { now := 32000, g := [(4, 0xD8ADAB9F), (5, 0x3E5F)] }).modQueue q fun x => { x with owner := some (0, 0) } with
    segtab := [(1024 * qTable q + 5, BitVec.ofNat 128 (40 * 2 ^ 88 + 4 * 2 ^ 84))] }

theorem test_hyp_TimedInstructionsPush :
    (let w := word 0x10 [(1, 55), (2, 42), (5, 32)]; let s := timedThread 2 w; let u := s.issued 0
     s.fetches 0 0x10 w ∧ firstFault (u.playChecks 0 .ok w) = none ∧ (u.tableRead 0 true .ok).pushes 0 (u.playPush 0 w)) ∧
      (let w := word 0x10 [(3, 42), (5, 32)]; let s := timedThread 2 w
       s.fetches 0 0x10 w ∧ firstFault ((s.issued 0).playChecks 0 .ok w) = some .notOwner) ∧
      (let w := word 0x11 [(2, 40), (8, 24)]
       let s := (timedThread 2 w).setStream 2 (some { ring := 1, stage := 0, size := 4096, ready := true }); let u := s.issued 0
       s.fetches 0 0x11 w ∧ firstFault (u.playsChecks 0 w) = none ∧ u.pushes 0 (u.playsPush 0 w) ∧
         firstFault (((timedThread 2 w).issued 0).playsChecks 0 w) = some .range) ∧
      (let w := word 0x12 [(1, 55), (1, 54), (5, 44), (99, 19)]
       let s := (timedThread 1029 w).setReg .KS_CFG 0 20 0 0x80000000; let u := s.issued 0
       s.fetches 0 0x12 w ∧ firstFault (u.measChecks 0 .ok w) = none ∧ (u.tableRead 0 (!bit w 54) .ok).pushes 0 (u.measPush 0 w)) ∧
      (let w := word 0x12 [(1, 54), (6, 44)]; let s := timedThread 1029 w
       s.fetches 0 0x12 w ∧ firstFault ((s.issued 0).measChecks 0 .ok w) = some .notOwner) ∧
      (let w := word 0x13 [(1, 53), (10, 45), (0xFFFF, 26)]; let s := timedThread 1546 w; let u := s.issued 0
       s.fetches 0 0x13 w ∧ firstFault (u.fluxChecks 0 .ok w) = none ∧ u.pushes 0 (u.fluxPush 0 w)) ∧
      (let w := word 0x13 [(2, 53), (10, 45)]; let s := timedThread 1546 w
       s.fetches 0 0x13 w ∧ firstFault ((s.issued 0).fluxChecks 0 .ok w) = some .range) := by
  simp only [State.fetches, State.pushes]; and_intros <;> decide +kernel

theorem test_hyp_TimedInstructionsPush_2 :
    (let w := word 0x18 [(1, 53), (2, 44), (4, 40)]; let s := timedThread 2 w; let u := s.issued 0
     s.fetches 0 0x18 w ∧ u.oscMine 0 w = true ∧ bits w 43 40 % 2 = 0 ∧ bits w 39 20 = 0 ∧
       u.pushes 0 (u.oscPush 0 w true (.setf 0x3E5FD8ADAB9F))) ∧
      (let w := word 0x19 [(1, 53), (2, 44), (4, 20)]; let s := timedThread 2 w; let u := s.issued 0
       s.fetches 0 0x19 w ∧ u.oscMine 0 w = true ∧ bit w 53 = true ∧ bits w 43 24 = 0 ∧ (0xD8ADAB9F : Word) = (u.thread 0).reg (bits w 23 20) ∧
         u.pushes 0 (u.oscPush 0 w false (.addph 0xD8ADAB9F))) ∧
      (let w := word 0x1A [(2, 44), (0xFFFFFF, 20)]; let s := timedThread 2 w; let u := s.issued 0
       s.fetches 0 0x1A w ∧ u.oscMine 0 w = true ∧ bit w 53 = false ∧ (0xFFFFFF00 : Word) = BitVec.ofNat 32 (256 * bits w 43 20) ∧
         u.pushes 0 (u.oscPush 0 w false (.setph 0xFFFFFF00))) ∧
      (let w := word 0x1B [(2, 44)]; let s := timedThread 2 w; let u := s.issued 0
       s.fetches 0 0x1B w ∧ u.oscMine 0 w = true ∧ bits w 43 20 = 0 ∧ u.pushes 0 (u.oscPush 0 w (bit w 53) .rstph)) ∧
      (let w := word 0x2A [(1023, 46), (1, 45), (2, 34)]; let s := timedThread 2 w; let u := s.issued 0
       s.fetches 0 0x2A w ∧ u.signalForeign 0 w = false ∧ u.ecClass (bits w 55 46) ≠ 2 ∧ bit w 45 = true ∧ bits w 33 20 = 0 ∧
         carrierQ (bits w 44 43) (bits w 42 34) = some 2 ∧ u.assigned 0 2 = true ∧ u.pushes 0 (u.signalPush 0 w 2)) ∧
      (let w := word 0x2A [(4, 46)]; let s := timedThread 2 w; let u := s.issued 0
       s.fetches 0 0x2A w ∧ u.signalForeign 0 w = false ∧ u.ecClass (bits w 55 46) ≠ 2 ∧ bit w 45 = false ∧ bits w 44 0 = 0) ∧
      (let w := word 0x2B [(7, 52), (2, 50), (255, 42), (2, 31)]
       let s : State := { timedThread 2 w with marks := [(7, { owner := some (0, 0) })] }; let u := s.issued 0
       s.fetches 0 0x2B w ∧ u.markForeign 0 w = false ∧ bits w 30 20 = 0 ∧ bits w 51 50 = 2 ∧ bits w 49 42 ≠ 0 ∧
         carrierQ (bits w 41 40) (bits w 39 31) = some 2 ∧ u.assigned 0 2 = true ∧ u.pushes 0 (u.markPush 0 w 2)) := by
  simp only [State.fetches, State.pushes]; and_intros <;> decide +kernel

theorem test_hyp_WaitsAndResumesAct :
    (let w := word 0x20 [(300, 45), (94, 33)]
     let s := (threaded 0 w).setReg .THR_SUB 0 0 7 (0x80000000 ||| 300); let u := s.issued 0
     s.fetches 0 0x20 w ∧ bits w 32 20 = 0 ∧ u.ownSource (bit w 54) (bits w 53 45) = some (u.partOf 0) ∧ u.subOf 0 (bit w 54) (bits w 53 45) = some 7) ∧
      (let w := word 0x28 [(1023, 46), (0xFFF, 34), (0xFFFF, 18)]; let s := threaded 0 w
       s.fetches 0 0x28 w ∧ bits w 17 0 = 0 ∧ (s.issued 0).ownEvent (bits w 55 46) = some ((s.issued 0).partOf 0)) ∧
      (let w := word 0x50 [(15, 52), (0x0D0F, 32)]; (threaded 0 w).fetches 0 0x50 w ∧ bits w 51 48 = 0 ∧ bits w 31 0 = 0) ∧
      (let w := word 0x58 []; (threaded 0 w).fetches 0 0x58 w) ∧
      (let y : Wait := { sub := 0, asap := false, table := false, src := 5, lat := 75, dtgt := 0, x := 0 }
       let s : State := { up with thr := [(0, { st := .stalled, stall := .waittk, wait := some y })], c0 := 3200 }
       (s.thread 0).wait = some y ∧ s.defaultRow 0 y ≤ (s.row 0 : Int)) ∧
      (let f : Fire := ⟨.threads 0, 4, 0, 99⟩; let y : EvWait := ⟨4, 8, 20, 90⟩
       let s : State := { up with thr := [(0, { st := .stalled, stall := .waitev, evwait := some y })], fires := [f], c0 := 3200 }
       s.nextFiring 0 = some f ∧ s.nextFiring 1 = some f ∧ (s.thread 0).evwait = some y ∧ y.ec = f.ch ∧ y.ec ≠ 5 ∧ s.row 0 < y.row + y.tmo ∧
         y.tmo ≠ 0 ∧ y.row + y.tmo ≤ ({ s with c0 := 3520 } : State).row 0) ∧
      (let p : Push := { cmds := [(2, ⟨32000, 0, 0, 0, .rstph⟩)], newNow := none, free := [] }
       let s : State := { up with thr := [(0, { st := .stalled, stall := .fullQueue, push := some p })] }
       (s.thread 0).push = some p ∧ (s.thread 0).st = .stalled ∧ (s.thread 0).stall = .fullQueue ∧ (∀ qc ∈ p.cmds, (s.queue qc.1).cmds.length < 64) ∧
         (({ up with thr := [(0, { st := .stalled, stall := .runAhead, push := some p })] } : State).thread 0).stall = .runAhead ∧
         (∀ qc ∈ p.cmds, s.ahead qc.1 qc.2.stamp ≤ s.runAhead (thrHalf 0))) ∧
      (let s : State := { up with bar := [(63, { run := some 0, members := [0, 1], arrived := [(0, 5), (1, 9)] })] }
       (s.barrier 63).arrived = (0, 5) :: [(1, 9)] ∧ (∀ m ∈ (s.barrier 63).members, s.counted 63 m = true) ∧ s.barrierHeard 63 = true) ∧
      (let w := word 0x58 [(511, 44)]
       let s := ({ threaded 0 w with thr := [(0, { st := .stalled, stall := .strm, pc := 1048575 })], rings := [(1, { st := .enabled })] } : State).setStream
         511 (some { ring := 1, stage := 0, size := 4096, fetched := 64 })
       (s.thread 0).st = .stalled ∧ (s.thread 0).stall = .strm ∧
         s.stream (let v := s.progWord (thrHalf 0) (s.thread 0).pc
           if bits v 55 54 = 2 then 1536 + bits v 52 44 % 128 else kindQ (bits v 55 54 == 1) (bits v 52 44)) =
           some { ring := 1, stage := 0, size := 4096, fetched := 64 } ∧ (s.ring 1).st = .enabled) := by
  simp only [State.fetches]; and_intros <;> decide +kernel

theorem test_hyp_PushesAppendTheirCommands :
    let p : Push := { cmds := [(2, ⟨32000, 0, 0, 0, .rstph⟩), (514, ⟨32000, 0, 0, 0, .rstph⟩)], newNow := none, free := [] }
    let s := (up.setReg .DAC_CTL 0 0 0 1).setReg .DAC_CTL 0 16 0 1
    (p.cmds.map (·.1)).Nodup ∧ (∀ qc ∈ p.cmds, s.disabled qc.1 = false ∧ s.isLate qc.1 qc.2.stamp = false) := by
  decide +kernel

/-! ### Hypotheses: runs, patterns, windows, tokens, outputs and monitors -/

/-- `up` with run 0 of thread 511, ended, as u says. -/
def running (u : Run) : State :=
  { up with run := [(63, { u with owner := 4, threads := [511] })], thr := [(511, { st := .ended, run := 63 })] }

theorem test_hyp_RunEventsAct :
    (let s := running { st := .running, t0 := some 0, shots := [{ num := 0, s := 0 }] }; let u := s.runOf 63
     u.threads = 511 :: [] ∧ u.active = true ∧ u.stopped = false ∧ u.st ≠ .committed ∧ s.shotOver 63 = true ∧ u.isFinal = false) ∧
      (let s := running { st := .armed, t0 := some 0 }; let u := s.runOf 63; u.t0 = some 0 ∧ u.st = .armed ∧ u.stopped = false ∧ 0 ≤ s.now 0) ∧
      (let s := running { st := .stopping, t0 := some 0, final := some 0 }; (s.runOf 63).st = .stopping ∧ s.committed 63 = true) ∧
      (let s := running { st := .committed, t0 := some 0 }; let u := s.runOf 63
       u.st = .committed ∧ u.shots = [] ∧ (∀ w ∈ s.wins, w.run ≠ 63) ∧ ((s.avgRecords 63).shutPack u.recRing).recWaits 63 = false ∧
         ((({ s with recs := [⟨1, 0, some 63, [0]⟩] } : State).avgRecords 63).shutPack u.recRing).recWaits 63 = true) ∧
      (let s := running { st := .committed, t0 := some 0, shots := [{ num := 0, s := 0 }] }; let u := s.runOf 63
       u.shots = { num := 0, s := 0 } :: [] ∧ u.active = true ∧ u.st = .committed ∧ s.shotBusy 63 0 = false) ∧
      (let s := running { st := .running, t0 := some 0, shots := [{ num := 0, s := 0 }, { num := 1, s := 0 }] }
       (s.runOf 63).shots = { num := 0, s := 0 } :: { num := 1, s := 0 } :: [] ∧ 0 ≤ s.now 0 ∧ s.shotBusy 63 0 = false) ∧
      (let s := running { st := .stopping, stopped := true, shots := [{ num := 0, s := 0 }] }; let u := s.runOf 63
       u.shots = { num := 0, s := 0 } :: [] ∧ u.active = true ∧ u.stopped = true ∧ s.shotBusy 63 0 = false) := by
  and_intros <;> decide +kernel

/-- `up` with queue q in pattern play as p says, entry 5 of its table with LAST, entry 6 without. -/
def playing (q : Nat) (p : Pattern) : State :=
  { up.modPattern q fun _ => p with
    que := [(q, { pat := true })]
    segtab := [(1024 * qTable q + 5, BitVec.ofNat 128 (40 * 2 ^ 88 + 2 ^ 36)), (1024 * qTable q + 6, BitVec.ofNat 128 (40 * 2 ^ 88 + 5 * 2 ^ 62))]
    c0 := 3200, c1 := 3200 }

theorem test_hyp_PatternWindowAndTokenEventsAct :
    (QKind.slot ≠ .flux ∨ (511 : Fin 512).val < 128) ∧
      (let s := playing 511 { active := true, ended := some 3200 }; let p := s.pattern 511
       s.segmentDue 511 = false ∧ p.active = true ∧ p.ended = some 3200 ∧ 3200 ≤ s.now (qHalf 511)) ∧
      (let s := playing 511 { active := true, entry := 6, left := 2, dur := 40 }; let p := s.pattern 511
       p.active = true ∧ p.ended = none ∧ p.lastRow < s.row (qHalf 511) + qLead 511 ∧ 0 < p.left ∧ p.jump = none) ∧
      (let s := playing 511 { active := true, entry := 6, jump := some { target := 5 }, dur := 40 }; let p := s.pattern 511
       p.active = true ∧ p.ended = none ∧ p.lastRow < s.row (qHalf 511) + qLead 511 ∧ p.jump = some { target := 5 }) ∧
      (let s := playing 511 { active := true, entry := 6, dur := 40 }; let p := s.pattern 511
       p.active = true ∧ p.ended = none ∧ p.lastRow < s.row (qHalf 511) + qLead 511 ∧ p.left = 0 ∧ p.jump = none ∧ (s.entry 511 p.entry).last = false) ∧
      (let s := playing 511 { active := true, entry := 6, jump := some { target := 5, wait := true }, dur := 40 }; let p := s.pattern 511
       p.left = 0 ∧ p.jump = some { target := 5, wait := true }) ∧
      (let s := playing 511 { active := true, entry := 5, dur := 40 }; let p := s.pattern 511
       p.jump = none ∧ p.left = 0 ∧ (s.entry 511 p.entry).last = true) ∧
      (let s : State := { playing 511 { active := true, entry := 6, dur := 40000 } with jumps := [{ q := 511 }] }
       s.jumps.find? (fun j => j.q == 511 && j.tok.isSome == false) = some { q := 511 } ∧ s.segmentDue 511 = false ∧ (s.queue 511).pat = true) ∧
      (let s : State := { playing 511 { active := true, entry := 6, dur := 40 } with jumps := [{ q := 511 }] }; s.segmentDue 511 = true) := by
  and_intros <;> decide +kernel

/-- `playing` for a queue of run 63, with the token k of a jump request waiting and run 63 in its second shot. -/
def jumping (k : Token) : State :=
  let s := playing 511 { active := true, entry := 6, run := 63, dur := 40000 }
  ({ s with jumps := [{ q := 511, tok := some k }], run := [(63, { shots := [{ num := 0, s := 0 }, { num := 1, s := 32 }] })] } : State).modQueue 511
    fun x => { x with owner := some (511, 63) }

theorem test_hyp_PatternWindowAndTokenEventsAct_3 :
    (let t : Token := { run := 63, shot := 1, value := 0 }; let s := jumping t
     s.jumps.find? (fun j => j.q == 511 && j.tok.isSome == true) = some { q := 511, tok := some t } ∧ s.segmentDue 511 = false ∧
       (s.queue 511).pat = true ∧ t.run ∈ s.runOfQueue 511 ∧
       ((s.runOf t.run).ballShot (32 * (s.row (qHalf 511) + qLead 511))).map (BitVec.ofNat 32) = some t.shot ∧
       bits t.value 1 0 = (s.entry 511 (s.patEntry 511)).cmpState) ∧
      (let t : Token := { run := 62, shot := 1, value := 0 }; t.run ∉ (jumping t).runOfQueue 511) ∧
      (let t : Token := { run := 63, shot := 0, value := 0 }; let s := jumping t
       ((s.runOf t.run).ballShot (32 * (s.row (qHalf 511) + qLead 511))).map (BitVec.ofNat 32) ≠ some t.shot) ∧
      (let t : Token := { run := 63, shot := 1, value := 3 }; let s := jumping t; bits t.value 1 0 ≠ (s.entry 511 (s.patEntry 511)).cmpState) ∧
      (let t : Token := {}; let s := (jumping t).modQueue 511 fun x => { x with pat := false }; (s.queue 511).pat = false) := by
  and_intros <;> decide +kernel

theorem test_hyp_PatternWindowAndTokenEventsAct_2 :
    (let p : Pulse := { q := 511, t := 896, spec := { length := 1, stream := true } }; let s : State := { up with pulses := [p] }
     let y : Stream := { ring := 0, stage := 0, size := 4096, staged := 1 }
     s.pulses.find? (fun p => p.q == 511 && p.spec.stream && !p.missed && decide (p.taken.length < s.dueSamples p)) = some p ∧ s.stream 511 = none ∧
       (s.setStream 511 (some y)).stream 511 = some y ∧ (s.setStream 511 (some y)).dueSamples p ≤ y.upTo (p.pos + p.taken.length) - p.pos) ∧
      (let x : Window := { ch := 511, t := 0, len := 32, ksel := 0, run := 0, shot := 0 }; let s : State := { up with wins := [x], c1 := 1024 }
       s.wins.find? (fun x => x.ch == 511) = some x ∧ (x.t + x.len + 31) / 32 + 31 ≤ s.row (511 / 256)) ∧
      (let r : AdcRow := { row := 0, x := [], ovr := true }
       (({ up with adc := [(15, [r])] } : State).adcRows 15).find? (fun r => r.ovr && !r.told) = some r) ∧
      (let x : Delivery := ⟨.group 175, {}⟩; ({ up with deliveries := [x] } : State).deliveries.find? (fun x => x.sub == .group 175) = some x) := by
  and_intros <;> decide +kernel

/-- `up` with a ramp of F127 that has reached its end. -/
def ramped (k : RampKind) : State := { up.modFlux 127 fun c => { c with ramp := some ⟨k, 1, 0, 0, 1000, 1⟩, phase := .rampDown } with c1 := 32 }

theorem test_hyp_OutputEventsAct :
    (let s := (up.setReg .DAC_CTL 1 23 0 1).enSet (enDac 1 23) (some 0); bit (s.reg .DAC_CTL 1 23) 0 = true ∧ bit (s.reg .DAC_STATUS 1 23) 15 = false ∧
        ({ s with c1 := 1000000 } : State).enLate (enDac 1 23) 1000000 = true) ∧ up.muted 1 23 = true ∧
      (let s := (up.setReg .IN_CTL 1 7 0 1).enSet (enInput 15) (some 0); bit (s.reg .IN_CTL (15 / 8) (15 % 8)) 0 = true ∧
        bit (s.reg .IN_STATUS (15 / 8) (15 % 8)) 15 = false ∧ s.enLate (enInput 15) 1000000 = true) ∧
      (let s := (up.setReg .FLX_CTL 1 63 0 1).enSet (enFlux 127) (some 0); bit (s.flxCtl 127) 0 = true ∧ s.fluxRails (127 / 64) = true ∧
        bit (s.reg .FLX_STATUS (127 / 64) (127 % 64)) 14 = false ∧ s.enLate (enFlux 127) 1000000 = true) ∧
      (∀ k ∈ [RampKind.rangeDown, .rangeUp, .park, .cal], ((ramped k).fluxCh 127).ramp = some ⟨k, 1, 0, 0, 1000, 1⟩ ∧ 0 < (ramped k).now (127 / 64) ∧
        ((Ramp.mk k 1 0 0 1000 1).code (((ramped k).now (127 / 64) - 0 + 7) / 8)).2 = true) ∧
      (let s := up.modFlux 127 fun c => { c with phase := .wait, waitEnd := 0 }; (s.fluxCh 127).phase = .wait ∧ (s.fluxCh 127).waitEnd ≤ s.now 1) ∧
      (let s := ((up.setReg .FLX_CTL 1 63 0 1).setReg .FLX_STATUS 1 63 0 0x4000).modFlux 127 fun c => { c with code := 1000 }
       bit (s.reg .FLX_STATUS (127 / 64) (127 % 64)) 1 = false ∧ s.complyCan 127 false = true ∧ s.complyCan 127 true = true) := by
  and_intros <;> decide +kernel

theorem test_hyp_MonitorEventsAct :
    (let s := up.setReg .MON_CFG 1 95 0 1; bit (s.reg .MON_CFG (monHalf 191) (monLocal 191)) 0 = true ∧ s.monSees 1 95 32767 = true ∧ s.monSees 1 95 (-1) = false ∧
      bit ((up.setReg .MON_CFG 1 95 0 0).reg .MON_CFG (monHalf 191) (monLocal 191)) 0 = false) ∧
      (let s : State := { (up.setReg .MON_CFG 1 95 0 1).setReg .MON_BLANK 1 95 0 5 with blanks := [191] }
       s.blanks.contains 191 = true ∧ bit (s.reg .MON_CFG (monHalf 191) (monLocal 191)) 0 = true ∧
         bits (s.reg .MON_BLANK (monHalf 191) (monLocal 191)) 15 0 ≠ 0) ∧
      (let s : State := { up.modAux 1 fun a => { a with busy := true, mask := 0x80 } with c1 := 40000 }
       (s.auxOf 1).busy = true ∧ (s.auxOf 1).k + 1250 ≤ s.row 1) ∧
      (let s : State := { up.modAux 1 fun a => { a with busy := true, ready := true, mask := 0x80 } with c1 := 60000 }
       (s.auxOf 1).busy = true ∧ (s.auxOf 1).ready = true ∧ (s.auxOf 1).k + 1250 + 625 * ((s.auxOf 1).done + 1) ≤ s.row 1) ∧
      (let s : State := { (up.modAux 1 fun a => { a with last := some 0 }).setReg .AUX_PERIOD 1 0 0 1 with c1 := 20000 }
       (s.auxOf 1).last = some 0 ∧ bits (s.reg .AUX_PERIOD 1) 19 0 ≠ 0 ∧ 0 + 625 * bits (s.reg .AUX_PERIOD 1) 19 0 ≤ s.row 1) := by
  and_intros <;> decide +kernel

/-! ### Hypotheses: capture and lanes -/

theorem test_hyp_CaptureEventsAct :
    (let s := up.modCap 3 fun c => { c with st := .armed, ks := some 0 }; (s.cap 3).ks = some 0 ∧ (s.cap 3).st = .armed ∧ 0 ≤ s.row (3 / 2)) ∧
      (let p : CapSample := { n := 0, t := 0, item := none, x := some 5 }
       let s := (up.modCap 3 fun c => { c with st := .opened, work := [p], conds := [⟨true, 0, 0⟩] })
       ((s.capRun 3).cap 3).work = p :: [] ∧ ((s.capRun 3).cap 3).st = .opened ∧ (s.capRun 3).capTriggered 3 p = true) ∧
      (let s := up.modCap 3 fun c => { c with st := .opened, items := [(0, 0, [1])] }; let t : State := { s with c1 := 20000 }
       ((t.capRun 3).cap 3).items = (0, 0, [1]) :: [] ∧ ((t.capRun 3).cap 3).st = .opened ∧ 0 + 20000 ≤ t.now (3 / 2)) ∧
      (let s := up.modCap 3 fun c => { c with st := .opened, gap := some (1, 32) }
       ((s.capRun 3).cap 3).gap = some (1, 32) ∧ ((s.capRun 3).cap 3).buf.length ≤ 2032) := by
  and_intros <;> decide +kernel

/-- Lane 31 running at PC 0 with the word w there. -/
def laned (w : Word) (x : Lane := {}) : State := (up.modLane 31 fun _ => { x with st := .running }).write .dsp 1 (262144 * 15) (leBytes 4 w.toNat)

/-- A lane's instruction word: its opcode in [31:26] and fields, each with the place of its lowest bit. -/
def laneWord (op : Nat) (fields : List (Nat × Nat)) : Word := BitVec.ofNat 32 (fields.foldl (fun a f => a + f.1 * 2 ^ f.2) (op * 2 ^ 26))

/-- `laned` at governor level 8 with its block masked. -/
def paced : State := { (laned 0).setReg .GOV_CTL 1 0 0 0x02000000 with gov := [(1, { level := 8 })] }

theorem test_hyp_LaneIssueChecksTheFetch : (0x00, Instr.lNop 31 .ok) ∈ laneInstrs 31 .ok .ok ∧ (up.lane 31).st ≠ .running ∧
    paced.paced (laneHalf 31) 25 = true ∧ ((laned 0).lane 31).st = .running ∧ (laned 0).paced (laneHalf 31) 25 = false ∧
    laneOpcodes.contains (bits ((laned (laneWord 0x3F [])).laneWord 31 0) 31 26) = false := by
  and_intros <;> decide +kernel

theorem test_hyp_LaneArithmeticActs :
    (∀ op ∈ [0x08, 0x09, 0x0A, 0x0B, 0x0C, 0x13], let w := laneWord op [(31, 21), (31, 16), (31, 11)]; (laned w).laneFetches 31 op w ∧ bits w 10 0 = 0) ∧
      (∀ op ∈ [0x0D, 0x0E, 0x0F, 0x10], let w := laneWord op [(31, 21), (31, 16), (0xFFFF, 0)]; (laned w).laneFetches 31 op w) ∧
      (∀ x ∈ laneAlu 31 .ok 0, x.2.2.2 = true → let w := laneWord x.1 [(1, 10)]; (laned w).laneFetches 31 x.1 w ∧ bits w 10 0 ≠ 0) := by
  unfold State.laneFetches; and_intros <;> decide +kernel

theorem test_hyp_LaneMemoryAndAccumulatorsAct :
    (let w := laneWord 0x02 [(31, 21), (0xFFFF, 0)]; (laned w).laneFetches 31 0x02 w ∧ bits w 20 16 = 0) ∧
      (let w := laneWord 0x03 [(31, 21), (0xFFFF, 0)]; (laned w).laneFetches 31 0x03 w ∧ bits w 20 16 = 0) ∧
      (let w := laneWord 0x04 [(31, 21), (7, 18)]; (laned w).laneFetches 31 0x04 w ∧ bits w 13 0 = 0 ∧ Reads.ok.bad = none ∧
        (Reads.mk 0 (some 0)).bad.isSome = true) ∧
      (let w := laneWord 0x05 [(31, 21), (7, 18)]; (laned w).laneFetches 31 0x05 w ∧ bits w 13 0 = 0) ∧
      (let w := laneWord 0x06 [(1, 25), (7, 22), (0xFFFF, 0)]; (laned w).laneFetches 31 0x06 w) ∧
      (let w := laneWord 0x11 [(31, 16), (31, 11)]; (laned w).laneFetches 31 0x11 w ∧ bits w 25 21 = 0 ∧ bits w 10 0 = 0) ∧
      (let w := laneWord 0x12 [(31, 16), (0xFFFF, 0)]; (laned w).laneFetches 31 0x12 w ∧ bits w 25 21 = 0) ∧
      (let w := laneWord 0x18 [(3, 24), (31, 16), (31, 11)]; (laned w).laneFetches 31 0x18 w ∧ bits w 22 21 = 0 ∧ bits w 10 0 = 0) ∧
      (let w := laneWord 0x19 [(2, 24), (7, 21)]; (laned w).laneFetches 31 0x19 w ∧ bits w 25 24 % 2 = 0 ∧ bits w 9 0 = 0) ∧
      (let w := laneWord 0x1A [(31, 21), (3, 19), (63, 13)]; (laned w).laneFetches 31 0x1A w ∧ bits w 12 0 = 0) ∧
      (let w := laneWord 0x1B [(15, 22)]; (laned w).laneFetches 31 0x1B w ∧ bits w 21 0 = 0) ∧
      (let w := laneWord 0x1C [(30, 21), (2, 18), (1, 0)]; let s := (laned w).count .DSP_ECC_CORRECTED 1 0 0
       s.laneFetches 31 0x1C w ∧ bits w 25 21 % 2 = 0 ∧ bits w 14 0 ≠ 0 ∧
         s.searchWords 31 (bits w 14 0) ((s.lane 31).pr 2) ((s.lane 31).mr 0) = (w :: [], 0)) ∧
      (let w := laneWord 0x1D [(12, 21), (2, 18), (1, 0)]; let s := (laned w).count .DSP_ECC_CORRECTED 1 0 0
       s.laneFetches 31 0x1D w ∧ bits w 25 21 % 2 = 0 ∧ bits w 14 0 ≠ 0 ∧
         s.searchWords 31 (bits w 14 0) ((s.lane 31).pr 2) ((s.lane 31).mr 0) = (w :: [], 0)) := by
  simp only [State.laneFetches]; and_intros <;> decide +kernel

/-- A result that a lane's queue holds. -/
def result : LaneResult := { xi := 5, run := 1 }

theorem test_hyp_LaneFlowActs :
    (let w := laneWord 0x00 []; (laned w).laneFetches 31 0x00 w ∧ bits w 25 0 = 0) ∧
      (let w := laneWord 0x01 []; (laned w).laneFetches 31 0x01 w ∧ bits w 25 0 = 0) ∧
      (let w := laneWord 0x20 [(1, 12), (0xFFF, 0)]; let x := (laned w).lane 31
       (laned w).laneFetches 31 0x20 w ∧ bits w 19 12 ≠ 0 ∧ bit w 25 = false ∧ 0 < bits w 11 0 ∧ x.pc + bits w 19 12 ≤ 65535 ∧ x.reps = [] ∧
         x.reps.length < 4) ∧
      (let w := laneWord 0x20 [(1, 25), (255, 12)]; let s := laned w { reps := [⟨0, 255, 1⟩] }; let x := s.lane 31
       s.laneFetches 31 0x20 w ∧ bits w 19 12 ≠ 0 ∧ bit w 25 = true ∧ bits w 11 0 = 0 ∧ (x.dr (bits w 24 20)).toNat = 0 ∧
         x.reps = ⟨0, 255, 1⟩ :: [] ∧ x.pc + bits w 19 12 ≤ 255) ∧
      (let w := laneWord 0x21 [(0xFFFF, 0)]; (laned w).laneFetches 31 0x21 w ∧ bits w 25 16 = 0) ∧
      (let w := laneWord 0x22 [(14, 22), (0xFFFF, 0)]; (laned w).laneFetches 31 0x22 w ∧ bits w 25 22 ≠ 15 ∧ bits w 21 16 = 0) ∧
      (let w := laneWord 0x23 [(0xFFFF, 0)]; (laned w).laneFetches 31 0x23 w ∧ bits w 25 16 = 0 ∧ ((laned w).lane 31).call = false ∧
        ((laned w { call := true }).lane 31).call = true) ∧
      (let w := laneWord 0x24 []; (laned w).laneFetches 31 0x24 w ∧ bits w 25 0 = 0) ∧
      (let w := laneWord 0x28 [(26, 21)]; let s := (laned w { queue := [result] })
       s.laneFetches 31 0x28 w ∧ bits w 19 0 = 0 ∧ bits w 25 21 ≤ 26 ∧ (s.lane 31).queue = result :: [] ∧ ((laned w).lane 31).queue = [] ∧
         bit w 20 = false ∧ bit ((up.setReg .LANE_CTL 1 15 0 1).reg .LANE_CTL 1 15) 0 = true) ∧
      (let w := laneWord 0x28 [(26, 21), (1, 20)]; (laned w).laneFetches 31 0x28 w ∧ bits w 19 0 = 0 ∧ bit w 20 = true) ∧
      (let s := up.modLane 31 fun x => { x with st := .stalled, queue := [result] }
       (s.lane 31).st = .stalled ∧ (s.lane 31).queue = result :: [] ∧ bit (s.reg .LANE_CTL (laneHalf 31) (laneLocal 31)) 0 = false) ∧
      (let w := laneWord 0x29 [(26, 21), (63, 15)]; let s := (laned w).setReg .DT_CFG 1 63 0 0xC0000F00
       s.laneFetches 31 0x29 w ∧ bits w 14 0 = 0 ∧ bits w 25 21 ≤ 26 ∧ s.ownTable (64 * 1 + bits w 20 15) = s.ownLane 31 ∧
         bit (s.reg .DT_CFG 1 (bits w 20 15)) 31 = true ∧ bit (s.reg .DT_CFG 1 (bits w 20 15)) 30 = true ∧
         bits (s.reg .DT_CFG 1 (bits w 20 15)) 11 8 = laneLocal 31) ∧
      (let w := laneWord 0x2A [(26, 21), (28, 16), (0xFFFF, 0)]; let s := laned w
       s.laneFetches 31 0x2A w ∧ bits w 25 21 ≤ 26 ∧ bits w 20 16 ≤ 28 ∧ (s.runOf (bits ((s.lane 31).dr (bits w 25 21 + 4)) 15 10)).active = false ∧
         (({ s with run := [(0, { st := .running, owner := 4 })] } : State).runOf 0).active = true ∧ some 4 = s.ownLane 31) ∧
      (let w := laneWord 0x2B [(1023, 16)]; let s := laned w
       s.laneFetches 31 0x2B w ∧ bits w 15 0 = 0 ∧ s.ownEvent (bits w 25 16) = s.ownLane 31 ∧ s.ecClass (bits w 25 16) ≠ 2) := by
  simp only [State.laneFetches]; and_intros <;> decide +kernel

/-! ### Hypotheses: calibration, ports, rings, network time and the die link -/

/-- `up` with sequencer 1 holding a CAL_RUN of a routine and a target, which is enabled and ready. -/
def calibrating (routine target : Nat) : State :=
  (((((up.setReg .DAC_CTL 1 15 0 1).setReg .DAC_STATUS 1 15 0 0x8000).setReg .IN_CTL 1 7 0 1).setReg .IN_STATUS 1 7 0 0x8000).setReg
    .FLX_CTL 1 63 0 1).setReg .FLX_STATUS 1 63 0 0x4000 |>.modCal 1 fun c => { c with waiting := [⟨0, routine, target⟩] }

/-- The same once the routine runs. -/
def inRoutine (routine target : Nat) : State :=
  (calibrating routine target).modCal 1 fun c => { c with waiting := [], job := some ⟨0, routine, target⟩ }

theorem test_hyp_CalibrationAndTaskEventsAct :
    ((calibrating 1 31).calOf 1).job = none ∧ ((calibrating 1 31).calOf 1).waiting = ⟨0, 1, 31⟩ :: [] ∧ (calibrating 1 31).paced 1 27 = false ∧
      (∀ x ∈ [(1, 31), (5, 127), (3, 15), (4, 15)],
        ((calibrating x.1 x.2).modCal 1 fun c => { c with waiting := [] }).calCheck x.1 x.2
          (((calibrating x.1 x.2).modCal 1 fun c => { c with waiting := [] }).ownCal x.1 x.2) = none) ∧
      ((calibrating 1 32).modCal 1 fun c => { c with waiting := [] }).calCheck 1 32
        (((calibrating 1 32).modCal 1 fun c => { c with waiting := [] }).ownCal 1 32) = some 0x09 ∧
      ((calibrating 3 15).reg .CAL_QUIET_TH 1).toInt < (2147483647 : Int) ∧
      ((inRoutine 5 127).calOf 1).job = some ⟨0, 5, 127⟩ ∧ ((inRoutine 5 127).calOf 1).applying = none ∧ ((inRoutine 5 127).fluxCh 127).calSeq = [] ∧
      ((inRoutine 5 127).fluxCh 127).ramp = none ∧ ((inRoutine 5 127).fluxCh 127).nextRamp = none ∧
      ((inRoutine 3 15).calOf 1).job = some ⟨0, 3, 15⟩ ∧ ((inRoutine 3 15).calOf 1).applying = none ∧
      ({ } : CalResult).power ≤ ((inRoutine 3 15).reg .CAL_QUIET_TH 1).toInt ∧
      plausible 3 {} = true ∧ plausible 3 { gain := 0 } = false ∧
      up.row 1 % 1024 = 0 ∧ (up.calOf 1).lastStep ≠ some (up.row 1 / 1024) ∧
      (let s := ((up.setReg .IN_CTL 1 7 0 1).setReg .BG_CTL 1 0 0 0x80).modCal 1 fun c =>
         { c with force := [(coreKey 14, { valid := true }), (coreKey 15, { valid := true }), (pairKey 7, { valid := true })], usable := [(7, 524288)] }
       s.tracking 15 = true ∧ 524288 ≤ mget 0 (s.calOf (15 / 8)).usable (15 % 8)) ∧
      bit up.pins (15 : MarkIx).val ≠ true := by
  and_intros <;> decide +kernel

theorem test_hyp_CalibrationAndTaskEventsAct_2 :
    (let f : Fire := ⟨.task 1 0x96, 0, 0, 0⟩; let s : State := { up with fires := [f], c1 := 32 }
     s.fires.find? (s.taskDue 1 0x96) = some f ∧ taskExists 1 0x96 = true ∧ s.taskAsync 0x96 0 = false ∧
       mget none s.taskRow (512 * 1 + 0x96) ≠ some (s.row 1) ∧
       mget none ({ s with taskRow := [(512 * 1 + 0x96, some 1)] } : State).taskRow (512 * 1 + 0x96) = some (s.row 1)) ∧
      (let f : Fire := ⟨.task 1 0x40, 512, 0, 0⟩; let s : State := { up.setReg .EC_CFG 1 0 0 0x40000000 with fires := [f] }
       s.fires.find? (s.taskDue 1 0x40) = some f ∧ taskExists 1 0x40 = true ∧ s.taskAsync 0x40 512 = true) := by
  and_intros <;> decide +kernel

theorem test_hyp_PortAndRingEventsAct :
    (up.port 3).perst = false ∧ up.boot.st ≠ .cold ∧ up.ready = true ∧
      (let s : State := { up with rings := [(15, { st := .disabled })] }
       s.reaches 3 .RING_OP 1 (s.opIx 3 1) ∧ s.portPart (2 * 1 + s.opIx 3 1) = some 4 ∧ s.ringIn 4 15 = true ∧ s.ringIn 4 1048575 = false ∧
         (s.ring 15).st = .disabled) ∧
      (let s : State := { up with parts := [] }; s.reaches 3 .RING_OP 1 (s.opIx 3 1) ∧ s.portPart (2 * 1 + s.opIx 3 1) = none) ∧
      (let s : State := { up with rings := [(15, { st := .enabled, kind := 2 }), (1, { st := .enabled, kind := 1, cq := 15 })] }
       (s.ring 15).kind = 2 ∧ (∃ e ∈ s.rings, e.2.kind = 1 ∧ e.2.cq = 15 ∧ (e.2.st = .enabled ∨ e.2.st = .draining)) ∧ (s.ring 15).st ≠ .disabled) ∧
      (let c : HostCmd := { ring := 15, port := 0, part := 4, op := 1, nocomp := false, user := 0, seq := 0 }
       let s : State := { up with rings := [(15, { st := .enabled, kind := 1 })], cmds := [(0, some c)] }
       (s.ring 15).kind = 1 ∧ s.ringBusy 15 = true ∧ ({ s with cmds := [] } : State).ringBusy 15 = false) ∧
      ((up.port 1).cfg.d3hot = false ∧ up.unsecured 1 = false ∧ portHalf 1 ≠ 1 ∧ up.linkUp = true ∧
        (up.modDlk 0 fun d => { d with st := .down }).linkUp = false) ∧
      (let s : State := { up with rings := [(1048575, { st := .draining })] }; (s.ring 1048575).st = .draining ∧ s.ringBusy 1048575 = false) ∧
      (let s := { (up.setReg .PORT_CTL 1 1 0 1) with c1 := 200000 }
       s.portOn 3 = true ∧ bit (s.reg .PORT_CTL (portHalf 3) (portIx 3)) 0 = true ∧ s.polling 3 = false ∧
         (s.port 3).pollAt + 20 * s.pollEvery 3 ≤ s.now (portHalf 3) ∧ ((s.modPort 3 fun x => { x with kicked := true }).port 3).kicked = true) ∧
      (let c : HostCmd := { ring := 7, port := 0, part := 4, op := 1, nocomp := false, user := 0, seq := 0 }
       let s : State := { up with cmds := [(0, some c)] }
       s.firstFence 7 = some (0, c) ∧
         (s.cmds.any fun e => match e.2 with | some b => b.ring == 7 && decide (b.seq < c.seq) | none => false) = false) ∧
      (let s : State := { up with rings := [(7, { st := .enabled, modTime := 1, firstUnit := some 0 })], c0 := 20000 }
       (s.ring 7).firstUnit = some 0 ∧ (s.ring 7).st = .enabled ∧ 0 + 20000 * (s.ring 7).modTime ≤ s.now (portHalf (s.ring 7).port)) := by
  unfold State.reaches; and_intros <;> decide +kernel

/-- A PTP message of a type, with a source and a sequence number of 5 and a body after its header. -/
def ptp (typ : Byte) (flags : Byte) (body : List Byte) : List Byte :=
  [typ, 2, 0, 44, 0, 0, flags, 0] ++ List.replicate 12 0 ++ List.replicate 10 9 ++ [0, 5, 0, 0] ++ body

/-- The frame that carries it. -/
def ptpFrame (m : List Byte) : List Byte := withFcs ([0x01, 0x1B, 0x19, 0, 0, 0] ++ List.replicate 6 2 ++ [0x88, 0xF7] ++ m)

/-- `up` with network time on, the link of NT0 up and a master selected. -/
def slaved (v : Servo) : State :=
  { up.setReg .NT_CTL 0 0 0 0x80000000 with ntLink := [(0, true)], servo := { v with st := 2, master := some (List.replicate 10 9) } }

theorem test_hyp_NetworkTimeEventsAct :
    (let m := ptp 0 2 (List.replicate 10 0); let s := slaved {}
     s.ptpIn 0 (ptpFrame m) 0 = some m ∧ s.servo.master = some (sourceOf m)) ∧
      (let m := ptp 8 0 (List.replicate 10 0); let s := slaved { twoStep := some (5, 0, 7) }
       s.ptpIn 0 (ptpFrame m) 8 = some m ∧ s.servo.twoStep = some (5, 0, 7) ∧ s.servo.master = some (sourceOf m) ∧ 5 = seqOf m) ∧
      (let s := slaved {}; s.servo.st ≠ 0 ∧ s.servo.master ≠ none ∧ mget false s.ntLink s.activePort = true ∧ s.servo.reqLast = none) ∧
      (let s := slaved { req := some (5, 1), sync := some (1, 2) }; let m := ptp 9 0 (List.replicate 10 0 ++ s.ownIdentity)
       s.ptpIn 0 (ptpFrame m) 9 = some m ∧ s.servo.req = some (5, 1) ∧ s.servo.sync = some (1, 2) ∧ s.servo.master = some (sourceOf m) ∧
         5 = seqOf m ∧ slice m 44 10 = s.ownIdentity) ∧
      (let m := ptp 11 0 (List.replicate 10 0); (slaved {}).ptpIn 0 (ptpFrame m) 11 = some m) ∧
      (let s : State := { slaved { foreign := [⟨List.replicate 10 9, [], 100, [0]⟩], lastSync := 0 } with c0 := 320 }
       s.servo.st = 2 ∧ s.servo.master = some (List.replicate 10 9) ∧
         (s.servo.foreign.find? fun f => f.id == List.replicate 10 9) = some ⟨List.replicate 10 9, [], 100, [0]⟩ ∧ s.servo.lastSync + 3 * 100 ≤ s.now 0) := by
  dsimp only; and_intros <;> first
    | (unfold State.ptpIn ptpFrame; rw [frameBody_withFcs (by decide +kernel)]; decide +kernel)
    | exact frameBody_withFcs (by decide +kernel)
    | decide +kernel

theorem test_hyp_NetworkTimeEventsAct_2 :
    (let s := (slaved {}).setReg .NT_CTL 0 0 0 0xE0000000; let b : List Byte := List.replicate 12 0 ++ [0x88, 0xF7] ++ ptp 0 0 (List.replicate 10 0)
     bit (s.reg .NT_CTL 0) 30 = true ∧ mget false s.ntLink 0 = true ∧ frameBody (withFcs b) = some b ∧ (withFcs b).length ≤ 1536 ∧
       beField b 12 2 ≠ 0x8808 ∧ ptpAt b 12 = some (14, false) ∧ bit (s.reg .NT_CTL 0) 29 = true ∧ beField b 14 1 % 16 ≤ 3) ∧
      (let s := (slaved {}).setReg .NT_CTL 0 0 0 0xC0000000; let b : List Byte := List.replicate 12 0 ++ [0x81, 0] ++ List.replicate 20 0
       frameBody (withFcs b) = some b ∧ beField b 12 2 = 0x8100 ∧ ptpAt b 16 = none ∧ bit (s.reg .NT_CTL 0) 29 = false) ∧
      (let s : State := { up with ntUpd := [(1, [⟨0, none, 5⟩])] }; ((mget [] s.ntUpd 1).find? fun u => decide (u.t ≤ s.now 1)) = some ⟨0, none, 5⟩) ∧
      (let s := up.setReg .TRIG_STATE 1 4 0 0x80000000; bit (s.reg .TRIG_STATE 1 4) 31 = true ∧ s.pair .TRIG_ST_LO .TRIG_ST_HI 1 4 ≤ s.now 1) ∧
      mget false (slaved {}).ntLink (0 : Fin 2) = true := by
  dsimp only; and_intros <;> first
    | (unfold State.ptpIn ptpFrame; rw [frameBody_withFcs (by decide +kernel)]; decide +kernel)
    | exact frameBody_withFcs (by decide +kernel)
    | decide +kernel

theorem test_hyp_FlitCodeCorrectsOneBit : 265 < 266 := by decide

/-- The body of a flit of a kind with SEQ q and a payload. -/
def body (kind q p : Nat) : BitVec 256 := BitVec.ofNat 256 (kind * 2 ^ 12 + q * 2 ^ 4 + p * 2 ^ 16)

/-- H0 with a message on its way to H1. -/
def carrying (m : DlkMsg) : State := up.modDlk 0 fun d => { d with msgs := [m] }

theorem test_hyp_FlitsAct :
    up.receives 1 (flitOf (body 0 0 0)) (body 0 0 0) false ∧ bits (body 0 0 0) 15 12 = 0 ∧
      (let b := body 1 0 0; up.receives 1 (flitOf b ^^^ 1) b true ∧ bits b 15 12 = 1 ∧ payload b 10 9 = 0 ∧ ((up.received 1 b true).dlkOf 1).acks ((up.received 1 b true).dlkOf (far 1)) b = true ∧
        (let c := body 1 0 (2 ^ 8); up.receives 1 (flitOf c) c false ∧ ((up.received 1 c false).dlkOf 1).acks ((up.received 1 c false).dlkOf (far 1)) c = false)) ∧
      (let b := body 1 0 (2 ^ 9); let s := up.modDlk 0 fun d => { d with asked := true }
       s.receives 1 (flitOf b) b false ∧ bits b 15 12 = 1 ∧ payload b 9 9 = 1 ∧ ((s.received 1 b false).dlkOf (far 1)).asked = true ∧
         ((s.received 1 b false).dlkOf 1).acks ((s.received 1 b false).dlkOf (far 1)) b = true) ∧
      (let b := body 1 0 (2 ^ 10); let s := (up.modDlk 1 fun d => { d with asked := true }).modDlk 0 fun d => { d with answered := true }
       s.receives 1 (flitOf b) b false ∧ payload b 10 10 = 1 ∧ ((s.received 1 b false).dlkOf 1).asked = true ∧
         ((s.received 1 b false).dlkOf (far 1)).answered = true ∧ ((s.received 1 b false).dlkOf 1).acks ((s.received 1 b false).dlkOf (far 1)) b = true) ∧
      (let b := body 6 1 0; up.receives 1 (flitOf b) b false ∧ bits b 15 12 = 6 ∧
        ((up.received 1 b false).dlkOf (far 1)).canSend (kindClass 6) (bits b 11 4) = true ∧ bits b 11 4 ≠ ((up.received 1 b false).dlkOf 1).expect) ∧
      (let b := body 2 0 0xFFFF; let s := carrying (.token (tokenOf b)); let t := s.received 1 b false
       s.receives 1 (flitOf b) b false ∧ bits b 15 12 = 2 ∧ t.expects 1 b ∧
         ((t.inOrder 1 b).dlkOf (far 1)).msgs.find? DlkMsg.isToken = some (.token (tokenOf b))) ∧
      (let b := body 3 0 (1023 + 7 * 2 ^ 10 + 2 ^ 13); let s := carrying (.event 1023 7); let t := s.received 1 b false
       s.receives 1 (flitOf b) b false ∧ bits b 15 12 = 3 ∧ t.expects 1 b ∧ eventsOf b = [(1023, 7)] ∧
         ((t.inOrder 1 b).dlkOf (far 1)).msgs.find? DlkMsg.isEvent = some (.event 1023 7)) ∧
      (let b := body 4 0 (0x3FFFFC + 2 ^ 22 + 2 ^ 24 + 0xFFFFFFFF * 2 ^ 36); let m := DlkMsg.regWrite 1 0x7FFFFC 0xFFFFFFFF
       let s := carrying m; let t := s.received 1 b false
       s.receives 1 (flitOf b) b false ∧ bits b 15 12 = 4 ∧ t.expects 1 b ∧ regSpells b m = true ∧
         ((t.inOrder 1 b).dlkOf (far 1)).msgs.find? DlkMsg.isReg = some m) ∧
      (let b := body 7 0 (5 + 3 * 2 ^ 160); let m := DlkMsg.time 3 (payload b 159 0); let s := carrying m; let t := s.received 1 b false
       s.receives 1 (flitOf b) b false ∧ bits b 15 12 = 7 ∧ payload b 161 160 = 3 ∧ t.expects 1 b ∧
         ((t.inOrder 1 b).dlkOf (far 1)).msgs.find? (DlkMsg.isTime 3) = some m) ∧
      (let b := body 7 0 (64 * 0); let s := carrying (.time 0 0); let t := s.received 1 b false; let u := t.inOrder 1 b
       s.receives 1 (flitOf b) b false ∧ bits b 15 12 = 7 ∧ payload b 161 160 = 0 ∧ t.expects 1 b ∧
         (u.dlkOf 0).msgs.find? (DlkMsg.isTime 0) = some (.time 0 0) ∧ 0 ≤ payload b 63 0 ∧
         near4 (payload b 63 0 + (u.reg .LINK_LAT 1).toNat) (u.now 0 + 0) = true ∧
         (payload b 159 112, payload b 111 80, payload b 79 64) = ntParts (u.ntAt 0 (payload b 63 0)) ∧
         bit ((s.setReg .CLK_STATUS 1 0 0 4).reg .CLK_STATUS 1) 2 = true ∧ bit ((s.setReg .CLK_STATUS 1 0 0 0).reg .CLK_STATUS 1) 2 = false) := by
  simp only [State.receives, State.expects]; and_intros <;> decide +kernel

/-- A forwarded write of 31 bytes to 0x1000 of HP1. -/
def forward : Forward := .access 1 { cls := 2, part := 4, src := 1, act := .write 0x1000 (List.replicate 31 1), half := 0 }

theorem test_hyp_FlitsAct_2 :
    (let b := body 8 0 0; let s := carrying .faultN; let t := s.received 1 b false
     s.receives 1 (flitOf b) b false ∧ bits b 15 12 = 8 ∧ t.expects 1 b ∧
       ((t.inOrder 1 b).dlkOf (far 1)).msgs.find? DlkMsg.isMgmt = some .faultN) ∧
      (let x : Forward := .access 1 { cls := 4, part := 4, src := 1, act := .read 0x1000 64, half := 0 }
       let b := body 5 0 (0x1000 + 64 * 2 ^ 64 + 2 ^ 77); let s := carrying (.dma x); let t := s.received 1 b false; let u := t.inOrder 1 b
       s.receives 1 (flitOf b) b false ∧ bits b 15 12 = 5 ∧ t.expects 1 b ∧ (u.dlkOf (far 1)).msgs.find? DlkMsg.isDma = some (.dma x) ∧
         (u.dlkOf 1).dataFlits = 0 ∧
         (payload b 63 0, payload b 76 64, payload b 78 77, payload b 79 79 == 1, payload b 80 80 == 1) = x.header ∧ x.data = []) ∧
      (let b := body 5 0 (0x1000 + 31 * 2 ^ 64 + 2 ^ 77 + 2 ^ 79); let s := carrying (.dma forward); let t := s.received 1 b false
       let u := t.inOrder 1 b
       s.receives 1 (flitOf b) b false ∧ bits b 15 12 = 5 ∧ t.expects 1 b ∧ (u.dlkOf (far 1)).msgs.find? DlkMsg.isDma = some (.dma forward) ∧
         (u.dlkOf 1).dataFlits = 0 ∧
         (payload b 63 0, payload b 76 64, payload b 78 77, payload b 79 79 == 1, payload b 80 80 == 1) = forward.header ∧ forward.data ≠ []) ∧
      (∀ n ∈ [0, 1],
       let b := body 6 0 (if n = 0 then 1 else ofLE (List.replicate 30 1))
       let s := (carrying (.dma forward)).modDlk 1 fun d => { d with dataFlits := n + 1 }; let t := s.received 1 b false; let u := t.inOrder 1 b
       s.receives 1 (flitOf b) b false ∧ bits b 15 12 = 6 ∧ t.expects 1 b ∧ (u.dlkOf (far 1)).msgs.find? DlkMsg.isDma = some (.dma forward) ∧
         (u.dlkOf 1).dataFlits = n + 1 ∧
         payload b 239 0 = leField (slice forward.data (30 * ((forward.data.length + 29) / 30 - (n + 1))) 30) 0 30) := by
  unfold State.receives State.expects; and_intros <;> decide +kernel

theorem test_hyp_LinkTrainingAndLossAct :
    (up.dlkOf 1).st = .active ∧ flitBody (flitOf 0 ^^^ 3) = none ∧
      (let s : State := { up.modDlk 1 fun d => { d with kept := [255], lastAck := 0 } with c1 := 40000 }
       (s.dlkOf 1).st = .active ∧ (s.dlkOf 1).kept = 255 :: [] ∧ (s.dlkOf 1).lastAck + 40000 ≤ s.now 1) ∧
      (let s : State := { up.setReg .DLK_CTL 1 0 0 2 with c1 := 20000 }; s.restReady 1 = true ∧ (s.dlkOf (far 1)).st = .active) ∧
      (let s := up.modDlk 1 fun d => { d with st := .rest, msgs := [.time 0 0] }; (s.dlkOf 1).st = .rest ∧ (s.dlkOf 1).msgs ≠ []) ∧
      (let s := up.modDlk 1 fun d => { d with resends := 4, markBad := [(7, 2)] }
       (∃ e ∈ (s.dlkOf 1).markBad, 2 ≤ e.2) ∧ 4 ≤ (s.dlkOf 1).resends) ∧
      (let d : Dlk := {}; let s := up.modDlk 1 fun _ => d; (s.dlkOf 1).st = .training ∧ (s.dlkOf 1).trained = false ∧ (s.dlkOf 1).lost = false ∧
        (s.dlkOf 1).wake = false ∧ (s.dlkOf 1).attempts < 2) ∧
      (let s := up.modDlk 1 fun _ => { lost := true }; (s.dlkOf 1).st = .training ∧ (s.dlkOf 1).lost = true ∧ (s.dlkOf 1).wake = false) ∧
      (let s := up.modDlk 1 fun _ => { wake := true }; (s.dlkOf 1).st = .training ∧ (s.dlkOf 1).wake = true) ∧
      (let s : State := { up.modDlk 1 fun _ => { attempts := 2 } with boot := { st := .selftest } }
       (s.dlkOf 1).st = .training ∧ (s.count .TRAIN_COUNT 1 0).boot.st = .selftest ∧ 2 ≤ (s.dlkOf 1).attempts) ∧
      (let s := up.modDlk 1 fun _ => { st := .down, retryAt := some 0 }; (s.dlkOf 1).retryAt = some 0 ∧ (s.dlkOf 1).st = .down ∧ 0 ≤ s.now 1) ∧
      (let s := up.modDlk 1 fun _ => { lost := true, trained := true }
       (s.dlkOf 1).lost = true ∧ (s.dlkOf 1).trained = true ∧ (s.dlkOf (far 1)).st = .active) ∧
      (let b : BitVec 66 := BitVec.ofNat 66 (0xF0E1D2C3B4A596 * 2 ^ 10 + 8 * 2 ^ 6 + 7 * 2 ^ 2 + 1)
       bits b 1 0 = 1 ∧ bits b 5 2 = 7 ∧ bits b 9 6 = 15 - 7 ∧ bits b 65 10 = 0xF0E1D2C3B4A596) ∧
      (let b := body 7 0 (2 ^ 160); let s := up.modDlk 1 fun _ => { }
       flitBody (flitOf b) = some (b, false) ∧ bits b 15 12 = 7 ∧ (s.dlkOf 1).st = .training ∧ payload b 161 160 = 1) ∧
      (let b := body 7 0 (2 * 2 ^ 160); let s := (up.modDlk 1 fun _ => { probe := some 0 }).modDlk 0 fun d => { d with echoDue := some 0 }
       payload b 161 160 = 2 ∧ (s.dlkOf 1).probe = some 0 ∧ (s.dlkOf (far 1)).echoDue = some 0) ∧
      up.now 0 % 1048576 = 0 ∧ up.linkUp = true := by
  and_intros <;> decide +kernel

/-! ### Hypotheses: faults, power, test access, completions and records -/

theorem test_hyp_FaultAndPowerEventsAct :
    (let s : State := { up with faultN := { asserted := false, reassert := some 0 } }; s.faultN.reassert = some 0 ∧ 0 ≤ s.now 0) ∧
      (let s : State := { up with shadowsF := [⟨0, 1, .all⟩] }; s.shadowsF[0]? = some ⟨0, 1, .all⟩ ∧ (⟨0, 1, .all⟩ : Shadow).half = 1 ∧ 0 ≤ s.now 1) ∧
      (let q : Quiet := { on := true, granted := true, lastReq := some 0 }
       let s : State := { (up.modQuiet 0 fun _ => q).modQuiet 1 fun _ => q with c0 := 32, c1 := 32 }
       (s.quietOf 0).granted = true ∧ (s.quietOf 1).granted = true ∧ (s.quietOf 0).lastReq = some 0 ∧ (s.quietOf 1).lastReq = some 0 ∧
         0 < s.row 0 ∧ 0 < s.row 1) ∧
      (up.govLevel 1 0 ≤ (up.govOf 1).level ∧ (up.govOf 1).level < up.govLevel 1 1000) ∧
      (let s : State := { up.modGov 1 fun g => { g with below := some 0, level := 1 } with c1 := 20000 }
       (s.govOf 1).below = some 0 ∧ 0 < (s.govOf 1).level ∧ 0 + 20000 * s.govField 1 23 16 ≤ s.now 1) ∧
      (let s : State := { up.modGov 1 fun g => { g with since := some 0 } with c1 := 2000032 }
       (s.govOf 1).since = some 0 ∧ (s.govOf 1).sagged = false ∧ 0 + 2000000 < s.now 1) ∧
      ((up.govOf 1).level = 0 ∧ 8 ≤ (paced.govOf 1).level ∧ bit (paced.reg .GOV_CTL 1) 25 = true ∧ bit (paced.reg .GOV_CTL 1) 24 = false) ∧
      (List.replicate 8 (0x7300 : BitVec 16)).length = 8 := by
  and_intros <;> decide +kernel

theorem test_hyp_TestAccessFollowsItsController :
    (up.tap.st ≠ .captureIr ∧ up.tap.st ≠ .shiftIr ∧ up.tap.st ≠ .captureDr ∧ up.tap.st ≠ .shiftDr) ∧ up.tap.st = .reset ∧
      (∀ b ∈ [TapSt.shiftIr, .shiftDr, .captureDr], ({ up with tap := { up.tap with st := b } } : State).tap.st = b) ∧ up.tapInstr = .bypass := by
  decide +kernel

/-- A plain command of opcode 0. -/
def command : HostCmd := { ring := 7, port := 0, part := 4, op := 0, nocomp := false, user := 0, seq := 0 }

/-- `up` with command ring 7 and its completion ring 8 of 4 KiB enabled, the host one descriptor ahead. -/
def ringed : State := { up with rings := [(7, { st := .enabled, kind := 1, log2 := 12, cq := 8, host := 1 }), (8, { st := .enabled, kind := 2, log2 := 12 })] }

/-- With a region of the device partition at host addresses 0 to 0xFFFFF, readable and writable. -/
def hosted : State := (ringed.setReg .RGN_SIZE_LO 0 4 0 0x100000).setReg .RGN_CTL 0 4 0 0x80000003

/-- A record of run 63 for ring 8, from half h. -/
def rec8 (h : Nat) : BufRec := ⟨h, 8, some 63, List.replicate 64 1⟩

/-- What the ring then waits to write. -/
def wait8 (h : Nat) : Waiting := ⟨h, some 63, none, List.replicate 64 1⟩

theorem test_hyp_CompletionsAndRecordsAct :
    (let c : HostCmd := { command with done := some (0, 5) }; let s : State := { hosted with cmds := [(0, some c)] }
     mget none s.cmds 0 = some c ∧ c.prefill = none ∧ s.cmdReady 0 c = true ∧ s.paced (portHalf c.port) 26 = false ∧ c.discard = false ∧
       ¬ (c.nocomp = true ∧ (0 : BitVec 8) = 0) ∧
       (s.ring 8).st = .enabled ∧ (s.ring 8).held < (s.ring 8).units_ ∧ s.portOn (s.ring 8).port = true ∧
       (∀ e ∈ s.cmds, ∀ d ∈ e.2, (s.ring d.ring).cq = 8 → d.order < c.order → s.cmdReady e.1 d = true → d.discard = true)) ∧
      (let c : HostCmd := { command with done := some (0, 5), nocomp := true }; let s : State := { hosted with cmds := [(0, some c)] }
       mget none s.cmds 0 = some c ∧ s.cmdReady 0 c = true ∧ c.discard = false ∧ c.nocomp = true) ∧
      (let c : HostCmd := { command with done := some (0, 5), discard := true }; let s : State := { hosted with cmds := [(0, some c)] }
       mget none s.cmds 0 = some c ∧ s.cmdReady 0 c = true ∧ c.discard = true) ∧
      (let c : HostCmd := { command with done := some (0, 5) }
       let s : State := { hosted.modRing 8 fun x => { x with st := .error } with cmds := [(0, some c)] }
       mget none s.cmds 0 = some c ∧ s.cmdReady 0 c = true ∧ c.discard = false ∧ (s.ring 8).st ≠ .enabled) ∧
      (let s : State := { hosted with recs := [⟨0, 9, some 63, List.replicate 64 1⟩] }; s.waiting 9 = some (wait8 0) ∧ (s.ring 9).st ≠ .enabled) ∧
      (let s : State := { hosted with recs := [rec8 0] }
       s.waiting 8 = some (wait8 0) ∧ (s.ring 8).st = .enabled ∧ (wait8 0).half = portHalf (s.ring 8).port ∧ s.portOn (s.ring 8).port = true ∧
         s.paced (portHalf (s.ring 8).port) 26 = false ∧ s.recordCrosses 8 = false ∧
         (s.ring 8).skein = false ∧ (s.ring 8).lost = 0 ∧ (s.putRecord 8 1 [63] (wait8 0).bytes).isSome = true) ∧
      (let s : State := { hosted with recs := [rec8 1] }
       s.waiting 8 = some (wait8 1) ∧ s.linkUp = true ∧ s.recordCrosses 8 = false ∧ (wait8 1).half ≠ portHalf (s.ring 8).port ∧ (s.ring 8).lost = 0 ∧
         (s.putRecord 8 1 [63] (wait8 1).bytes).isSome = true) ∧
      (let s : State := { hosted.modRing 8 fun x => { x with lost := 3 } with recs := [rec8 0] }
       s.waiting 8 = some (wait8 0) ∧ (s.ring 8).lost ≠ 0 ∧
         ((s.putRecord 8 0 [] (lossRecord (s.ring 8))).any fun t =>
           ((t.modRing 8 fun x => { x with lost := 0, lostRun := none }).putRecord 8 1 [63] (wait8 0).bytes).isSome) = true) := by
  and_intros <;> decide +kernel

/-- `hosted` with ring 8 of the skein form, the pack p in it and the record of half h waiting. -/
def packed (h : Nat) (x : Ring → Ring) : State := { hosted.modRing 8 fun y => x { y with skein := true } with recs := [rec8 h] }

theorem test_hyp_CompletionsAndRecordsAct_skein :
    (∀ h ∈ [0, 1], let s := packed h id
      s.waiting 8 = some (wait8 h) ∧ (s.ring 8).st = .enabled ∧ s.linkUp = true ∧ s.recordCrosses 8 = false ∧ (s.ring 8).skein = true ∧
        (s.ring 8).made = [] ∧ (s.ring 8).shut = none ∧ (s.ring 8).joins (wait8 h) = true) ∧
      (let s := packed 0 fun x => { x with pack := { count := 1, content := 2 } }
       s.waiting 8 = some (wait8 0) ∧ (s.ring 8).made = [] ∧ (s.ring 8).shut = none ∧ (s.ring 8).joins (wait8 0) = false) ∧
      (let s := packed 0 fun x => { x with made := [1] }; s.waiting 8 = some (wait8 0) ∧ (s.ring 8).made ≠ []) ∧
      (let s := packed 0 fun x => { x with shut := some {} }; s.waiting 8 = some (wait8 0) ∧ (s.ring 8).made = [] ∧ (s.ring 8).shut ≠ none) ∧
      (let s : State := { hosted.modDlk 0 fun d => { d with st := .training } with recs := [rec8 1], run := [(63, { stopped := true })] }
       s.waiting 8 = some (wait8 1) ∧ (s.ring 8).st = .enabled ∧ (wait8 1).half ≠ portHalf (s.ring 8).port ∧ s.linkUp = false ∧
         (wait8 1).run = some 63 ∧ (s.runOf 63).stopped = true) ∧
      (let s : State := hosted.modRing 8 fun x => { x with skein := true, made := List.replicate 64 2 }
       s.waiting 8 = none ∧ (s.ring 8).st = .enabled ∧ (s.ring 8).made ≠ [] ∧ s.portOn (s.ring 8).port = true ∧
         s.paced (portHalf (s.ring 8).port) 26 = false ∧ (s.putRecord 8 0 [] (s.ring 8).made).isSome = true) := by
  and_intros <;> decide +kernel

/-- `up` with the access q read by HP3 as access 5. -/
def reading (q : DmaReq) : State := up.modPort 3 fun x => { x with reads := [(5, q)] }

theorem test_hyp_CompletionsAndRecordsAct_2 :
    (∀ a ∈ [DmaAct.msix 3, .read 0 64], let q : DmaReq := { cls := 4, part := 4, src := 1, act := a, half := 1 }
     let s := up.modPort 3 fun x => { x with reqs := [q] }
     s.nextGrant 3 = some q ∧ s.portOn 3 = true ∧ s.paced (portHalf 3) 26 = false ∧ q.cls = (3 : Fin 4).val + 1 ∧ (s.port 3).reads.length < 768) ∧
      ({ up with boot := { st := .verify } } : State).boot.st = .verify ∧
      (∀ h ∈ [0, 1], ∀ w ∈ [DmaWhy.none, .desc 7, .context 7, .data 0, .line, .words 3, .stream 511 0],
       let q : DmaReq := { cls := 4, part := 4, src := 1, why := w, act := .read 64 2, half := h }; let s := reading q
       s.boot.st ≠ .verify ∧ (s.port 3).reads.find? (fun e => e.1 == 5) = some (5, q) ∧ q.act = .read 64 [1, 2].length ∧
         (q.why = .none ∨ (s.port 3).reads.find? (fun f => f.2.src == q.src && f.2.why != .none) = some (5, q)) ∧ s.linkUp = true ∧ portHalf 3 = 1) ∧
      ((reading { cls := 4, part := 4, src := 1, act := .read 64 2, half := 0 }).modDlk 0 fun d => { d with st := .down }).linkUp = false ∧
      (let y : Stream := { ring := 8, stage := 0, size := 4096, dead := true }
       let s := (up.modCmp 1 fun c => { c with cur := some (.stream 511) }).setStream 511 (some y)
       ((s.cmpPick 1).cmpOf 1).cur = some (.stream 511) ∧ (s.cmpPick 1).encodes 1 (.stream 511) = false) ∧
      (let s := up.modCmp 1 fun c => { c with cur := some (.pack 8) }
       ((s.cmpPick 1).cmpOf 1).cur = some (.pack 8) ∧ encoderForm [3] = true) ∧
      (let j : CmpJob := { tag := 3, part := 4, port := 3, kind := .decompress, data := [], left := 0 }
       let s := up.modCmp 1 fun c => { c with cur := some (.job 3), jobs := [j] }
       ((s.cmpPick 1).cmpOf 1).cur = some (.job 3) ∧
         (((s.cmpPick 1).modCmp 1 fun c => { c with cur := none }).cmpOf 1).jobs.find? (fun j => j.tag == 3) = some j ∧
         ((((s.cmpPick 1).modCmp 1 fun c => { c with cur := none }).occur 1 0x152 { parts := [4] }).cmpOf 1).jobs.find? (fun j => j.tag == 3) = some j) ∧
      (let s : State := { up with rings := [(8, { pack := { count := 1, first := 0 } })], c0 := 2000000 }
       0 < (s.ring 8).pack.count ∧ (s.ring 8).shut = none ∧
         (s.ring 8).pack.first + 20000 * max 1 (s.reg .SKEIN_FLUSH (portHalf (s.ring 8).port)).toNat ≤ s.now (portHalf (s.ring 8).port)) := by
  and_intros <;> decide +kernel

/-! ### Hypotheses: the DOE mailbox -/

/-- A session that is set up. -/
def secret : Session := { id := 0x10001, secret := [1, 2], transcript := [3], up := true }

/-- `up` with HP3's connection negotiated and that session. -/
def talking (z : Session := secret) : State := up.modSpdm 3 fun x => { x with stage := 3, sessions := [z] }

/-- A request outside a session is received and admitted. -/
theorem asked_plain (m : List Byte) (ver code : Nat) (early : Bool) (h : m.length % 4 = 0 ∧ m.length ≤ 262000)
    (hv : leField m 0 1 = ver) (hc : leField m 1 1 = code) : talking.asked 3 (objectOf 1 m) m none ver code early := by
  refine ⟨?_, by decide +kernel, hv, hc, .inl (by decide +kernel)⟩
  have z : roundUp m.length 4 - m.length = 0 := by unfold roundUp; omega
  unfold State.requestIn
  rw [objectParts_objectOf (by decide) h.2, z]
  simp

/-- A request over the session is received and admitted. -/
theorem asked_sealed (z : Session) (hz : z.id = 0x10001) (m : List Byte) (ver code : Nat) (early : Bool) (h : m.length < 65000)
    (hv : leField m 0 1 = ver) (hc : leField m 1 1 = code) : (talking z).asked 3 (sealedObject z m) m (some z) ver code early := by
  refine ⟨requestIn_sealedObject (ys := []) (zs := []) ?_ (by simp) (by rw [hz]; decide) h, ?_, hv, hc, .inl ?_⟩
  · rfl
  · show up.responds 3 = true; decide +kernel
  · show up.ready = true; decide +kernel

theorem test_hyp_SpdmRequestsAct :
    (objectParts (objectOf 0 [2, 0, 0, 0]) = some (0, [2, 0, 0, 0]) ∧ up.responds 3 = true) ∧
      (∀ x ∈ [(0x10, 0x84), (0x12, 0xE1), (0x12, 0xE3), (0x12, 0x81), (0x12, 0x82), (0x12, 0x83)],
        talking.asked 3 (objectOf 1 [BitVec.ofNat 8 x.1, BitVec.ofNat 8 x.2, 0, 0]) [BitVec.ofNat 8 x.1, BitVec.ofNat 8 x.2, 0, 0] none x.1 x.2 true) ∧
      3 ≤ ((talking.heard 3 none).spdmOf 3).stage ∧
      (talking.asked 3 (objectOf 1 [0x12, 0xE0, 0, 1]) [0x12, 0xE0, 0, 1] none 0x12 0xE0 true ∧ 1 ∈ measurementIndices) ∧
      (talking.asked 3 (objectOf 1 [0x12, 0xE4, 0, 0]) [0x12, 0xE4, 0, 0] none 0x12 0xE4 false ∧ ((talking.heard 3 none).spdmOf 3).sessions.length < 2) ∧
      (∀ x ∈ [(0xE8, 0), (0xE9, 1), (0xE9, 2), (0xEC, 0)],
        talking.asked 3 (sealedObject secret [0x12, BitVec.ofNat 8 x.1, BitVec.ofNat 8 x.2, 0]) [0x12, BitVec.ofNat 8 x.1, BitVec.ofNat 8 x.2, 0]
          (some secret) 0x12 x.1 false) ∧ secret.up = true := by
  refine ⟨by decide +kernel, ?_, by decide +kernel, ⟨?_, by decide⟩, ⟨?_, by decide +kernel⟩, ?_, rfl⟩
  · intro x hx
    simp only [List.mem_cons, List.not_mem_nil, or_false] at hx
    rcases hx with rfl | rfl | rfl | rfl | rfl | rfl <;> exact asked_plain _ _ _ _ (by decide) (by decide) (by decide)
  · exact asked_plain _ _ _ _ (by decide) (by decide) (by decide)
  · exact asked_plain _ _ _ _ (by decide) (by decide) (by decide)
  · intro x hx
    simp only [List.mem_cons, List.not_mem_nil, or_false] at hx
    rcases hx with rfl | rfl | rfl | rfl <;> exact asked_sealed _ rfl _ _ _ _ (by decide) (by decide) (by decide)

/-- A GET_CERTIFICATE at an offset inside the chain, whose first four bytes are in the spec's layout. -/
theorem test_hyp_certificate : leField [(0x12 : Byte), 0x82, 0, 0] 4 2 < certChain.length := by
  have : 4 ≤ certChain.length := by unfold certChain; simp [leBytes_length]; omega
  exact Nat.lt_of_lt_of_le (by decide) this

/-- The session before its FINISH. -/
def opening : Session := { secret with up := false }

/-- The verify data that the responder expects of that session's FINISH. -/
def verify : BitVec 384 := Config.spdmVerify opening.secret (opening.transcript ++ [0x12, 0xE5, 0, 0]) true

/-- A FINISH with verify data v. -/
def finishing (v : BitVec 384) : List Byte := [0x12, 0xE5, 0, 0] ++ beBytes 48 v.toNat

theorem finishing_asked (v : BitVec 384) :
    (talking opening).asked 3 (sealedObject opening (finishing v)) (finishing v) (some opening) 0x12 0xE5 false := by
  refine asked_sealed _ rfl _ _ _ _ ?_ ?_ ?_
  · simp [finishing, beBytes, leBytes_length]
  · simp [finishing, leField, slice, ofLE]
  · simp [finishing, leField, slice, ofLE]

theorem finishing_data (v : BitVec 384) : slice (finishing v) 4 48 = beBytes 48 v.toNat := by
  have l : (beBytes 48 v.toNat).length = 48 := by simp [beBytes, leBytes_length]
  have := slice_middle [0x12, 0xE5, 0, 0] (beBytes 48 v.toNat) []
  rw [l] at this
  simpa [finishing] using this

/-- A FINISH whose verify data is right, and one whose every bit is wrong. -/
theorem test_hyp_finish :
    ((talking opening).asked 3 (sealedObject opening (finishing verify)) (finishing verify) (some opening) 0x12 0xE5 false ∧ opening.up = false ∧
      slice (finishing verify) 4 48 =
        beBytes 48 (Config.spdmVerify opening.secret (opening.transcript ++ (finishing verify).take 4) true).toNat) ∧
    ((talking opening).asked 3 (sealedObject opening (finishing (~~~ verify))) (finishing (~~~ verify)) (some opening) 0x12 0xE5 false ∧
      slice (finishing (~~~ verify)) 4 48 ≠
        beBytes 48 (Config.spdmVerify opening.secret (opening.transcript ++ (finishing (~~~ verify)).take 4) true).toNat) := by
  have t : ∀ v, (finishing v).take 4 = [0x12, 0xE5, 0, 0] := fun _ => rfl
  refine ⟨⟨finishing_asked _, rfl, ?_⟩, finishing_asked _, ?_⟩
  · rw [t, finishing_data]; rfl
  · rw [t, finishing_data]
    intro h
    have h : beBytes 48 (~~~ verify).toNat = beBytes 48 verify.toNat := h
    have e := List.reverse_inj.mp h
    have lt : ∀ v : BitVec 384, v.toNat < 256 ^ 48 := fun v => Nat.lt_of_lt_of_eq v.isLt (by decide +kernel)
    have n : (~~~ verify).toNat = verify.toNat := by
      rw [← ofLE_leBytes_of_lt (lt (~~~ verify)), e, ofLE_leBytes_of_lt (lt verify)]
    have a := BitVec.eq_of_toNat_eq n
    generalize verify = v at a
    have b := congrArg (fun x : BitVec 384 => x.getLsbD 0) a
    simp at b

theorem test_hyp_unsupported :
    (talking.requestIn 3 (objectOf 1 [0x12, 0xFF, 0, 0]) = some ([0x12, 0xFF, 0, 0], none) ∧ 0xFF ∉ spdmCodes ∧
      isIdeKm [0x12, 0xFF, 0, 0] = false ∧ talking.ready = true) ∧
      (talking.requestIn 3 (objectOf 1 [0x13, 0x81, 0, 0]) = some ([0x13, 0x81, 0, 0], none) ∧ talking.responds 3 = true) := by
  decide +kernel

theorem test_hyp_IdeKeyRequestsAct :
    (∀ o ∈ [[0, 0, 0, 0, 0, 0, 0], [2, 0, 0, 0, 1, 0, 0], [2, 0, 0, 0, 2, 0, 0], [4, 0, 0, 0, 1, 0, 0], [5, 0, 0, 0, 1, 0, 0]],
      let m := ideRsp o
      talking.asked 3 (sealedObject secret ([0x12, 0xFE] ++ m.drop 2)) ([0x12, 0xFE] ++ m.drop 2) (some secret) 0x12 0xFE false ∧
        isIdeKm ([0x12, 0xFE] ++ m.drop 2) = true ∧ leField ([0x12, 0xFE] ++ m.drop 2) 12 1 = ((o.getD 0 0 : Byte)).toNat) ∧
      ideKey 1 0 ∈ keySet 1 0 ++ keySet 1 1 ∧ ideKey 1 0 ∉ ((talking.heard 3 (some secret)).spdmOf 3).going ∧
      mget [] ((((talking.modSpdm 3 fun x => { x with keys := [(ideKey 1 0, [7])] })).heard 3 (some secret)).spdmOf 3).keys (ideKey 1 0) ≠ [] := by
  refine ⟨?_, by decide +kernel, by decide +kernel, by decide +kernel⟩
  intro o ho
  simp only [List.mem_cons, List.not_mem_nil, or_false] at ho
  rcases ho with rfl | rfl | rfl | rfl | rfl <;>
    exact ⟨asked_sealed _ rfl _ _ _ _ (by decide +kernel) (by decide +kernel) (by decide +kernel), by decide +kernel, by decide +kernel⟩

/-! ### Hypotheses: commands of the host's rings and reads -/

/-- A descriptor of an opcode: values at byte offsets, little-endian. -/
def desc (op : Nat) (l : List (Nat × Nat)) : BitVec 512 := BitVec.ofNat 512 (l.foldl (fun a x => a + x.1 * 2 ^ (8 * x.2)) op)

/-- `s` with the descriptor d read for command ring 7. -/
def offering (s : State) (d : BitVec 512) : State := s.modRing 7 fun x => { x with desc := [d] }

/-- `s` with a command of that descriptor that is reading host memory and no read of it waiting. -/
def awaits (s : State) (d : BitVec 512) (short : Bool := false) : State :=
  { s with cmds := [(0, some { s.commandOf 7 d with reading := true, short := short })] }

/-- The command once its last data has come. -/
def hasCome (s : State) (d : BitVec 512) (data : List Byte) (short : Bool := false) : HostCmd :=
  { s.commandOf 7 d with reading := true, short := short, data := data }

/-- The data of such a command comes. -/
theorem awaits_comes (s : State) (d : BitVec 512) (data : List Byte) (short : Bool)
    (h : (awaits s d short).accessWaits (fun q => q.why == .data 0) = false) : (awaits s d short).comes 0 data (hasCome s d data short) :=
  ⟨_, rfl, rfl, h, rfl⟩

theorem test_hyp_CommandsEndAtTheFirstFailedCheck :
    (let d := desc 0x00 [(1, 9)]; let s := offering hosted d
     (0x00, .cmdNop 7, plainChecks d, 0) ∈ (s.accepted 7 d).hostCommands 7 (s.commandOf 7 d) {} ∧ s.takes 7 0x00 d ∧
       firstStatus (plainChecks d) = some 0x06) ∧
      (let d := desc 0x21 []
       let s : State := { offering hosted d with boot := { hosted.boot with sect := 0 } }
       s.takes 7 0x21 d ∧ firstStatus ((s.accepted 7 d).stopChecks (s.commandOf 7 d)) = some 0x16) ∧
      (let d := desc 0x30 [(1, 9)]; (offering hosted d).takes 7 0x30 d ∧ zeroBut d [(8, 1), (10, 2)] = false) ∧
      (let d := desc 0x30 [(0xFF, 8)]; let s := offering hosted d
       s.takes 7 0x30 d ∧ zeroBut d [(8, 1), (10, 2)] = true ∧ ((s.accepted 7 d).calCheck 0xFF 0 (some 4)).isSome = true) ∧
      (let d := desc 0x30 [(3, 8), (15, 10)]
       let s := (offering ((hosted.setReg .IN_CTL 1 7 0 1).setReg .IN_STATUS 1 7 0 0x8000) d).modDlk 0 fun d => { d with st := .down }
       s.takes 7 0x30 d ∧ zeroBut d [(8, 1), (10, 2)] = true ∧ (s.accepted 7 d).calCheck 3 15 (some 4) = none ∧
         (s.accepted 7 d).farDown (s.commandOf 7 d) (calHalf 3 15) = true) ∧
      (let d := desc 0xEE []; (offering hosted d).takes 7 (dField d 0 1) d ∧ opcodes.contains (dField d 0 1) = false) := by
  refine ⟨⟨by simp [State.hostCommands]; decide +kernel, ?_, by decide +kernel⟩, ?_, ?_, ?_, ?_, ?_⟩ <;> (unfold State.takes; decide +kernel)

/-- The descriptors of the commands that read host memory, each with the bytes that it reads: from host address 0. -/
def readers : List (Nat × BitVec 512 × Nat) :=
  [(0x10, desc 0x10 [(8, 32)], 8), (0x11, desc 0x11 [(1, 9), (15, 10), (262136, 24), (8, 32)], 8), (0x12, desc 0x12 [(8, 32)], 8),
   (0x13, desc 0x13 [(127, 8)], 292), (0x14, desc 0x14 [(1, 8), (87, 9), (1023, 10), (1, 12)], 16), (0x20, desc 0x20 [(96, 24)], 96),
   (0x32, desc 0x32 [(96, 24)], 96), (0x38, desc 0x38 [(1, 8), (9, 9), (1, 10), (16, 24), (0x1000, 32), (64, 40)], 16),
   (0x39, desc 0x39 [(1, 8), (1, 24), (0x1000, 32), (64, 40)], 1), (0x40, desc 0x40 [(2, 24)], 16)]

theorem test_hyp_LoadsAndJobsAct_reads :
    (∀ op ∈ [0x00, 0x01], (offering hosted (desc op [])).passes 7 (desc op []) {} op) ∧
      (∀ x ∈ readers, let s := offering hosted x.2.1; let t := s.accepted 7 x.2.1; let c := s.commandOf 7 x.2.1
        s.passes 7 x.2.1 {} x.1 ∧ 0 < x.2.2 ∧ t.allowed c.port c.part (dField x.2.1 16 8) x.2.2 false = x.2.2) ∧
      (let d := desc 0x12 [(0xFF000, 16), (8192, 32)]; let s := offering hosted d; let a := (s.accepted 7 d).allowed 0 4 0xFF000 8192 false
       s.passes 7 d {} 0x12 ∧ 0 < a ∧ a < dField d 32 4) ∧
      (let d := desc 0x12 [(0x100000, 16), (8, 32)]; let s := offering hosted d
       s.passes 7 d {} 0x12 ∧ (s.accepted 7 d).allowed 0 4 0x100000 (dField d 32 4) false = 0) := by
  unfold State.passes State.takes; and_intros <;> decide +kernel

theorem test_hyp_LoadsAndJobsAct_comes :
    (∀ x ∈ readers, ∀ z ∈ [false, true], (awaits hosted x.2.1 z).accessWaits (fun q => q.why == .data 0) = false ∧
      (hasCome hosted x.2.1 [] z).op = x.1 ∧ (hasCome hosted x.2.1 [] z).short = z) ∧
      (∀ op ∈ [0x10, 0x11, 0x12], ∀ skein ∈ [0, 1], let c := hasCome hosted (desc op [(skein, 12)]) []
        c.op = op ∧ dField c.desc 12 1 = skein) := by
  decide +kernel

theorem test_hyp_LoadsAndJobsAct_tables :
    (let d := desc 0x13 [(127, 8)]; let t := (awaits hosted d).came 0 []
     let l (data : List Byte) : Checks :=
       let ins := (List.range 8).map fun k => imageWord data (1 + k)
       [(false, 0x07), (imageWord data 0 &&& ~~~ Reg.DT_CFG.info.rw != 0 || ins.any fun w => w &&& ~~~ Reg.DT_IN.info.rw != 0, 0x06),
        (ins.any fun w => bit w 31 && decide (127 ≤ bits w 8 0), 0x09), (ins.any fun w => t.ownSource (bit w 31) (bits w 8 0) != some 4, 0x08),
        (t.tableUsed 127, 0x0A), (t.farDown (hasCome hosted d data) 1, 0x14)]
     firstStatus (l (List.replicate 292 0)) = none ∧ firstStatus (l (List.replicate 292 0xFF)) = some 0x06) ∧
      (let d := desc 0x14 [(1, 8), (87, 9), (1023, 10), (1, 12)]; let t := (awaits hosted d).came 0 []
       let l (data : List Byte) : Checks :=
         [(false, 0x07), ((List.range 1).any fun i => entryBad (segEntry data i), 0x06),
          (!(t.groupQueues 1 87).isEmpty || (decide (24 ≤ 87) && t.fluxChanging (64 * 1 + (87 - 24))), 0x0A), (t.farDown (hasCome hosted d data) 1, 0x14)]
       firstStatus (l (List.replicate 16 0)) = some 0x06 ∧
         ((List.range 16).any fun i => firstStatus (l ((List.replicate i 0 ++ leBytes 4 64 ++ List.replicate 12 0).take 16)) == none) = true) := by
  and_intros <;> decide +kernel

/-- With the compression engine of half 1 enabled. -/
def packing : State := hosted.setReg .CMP_CTL 1 0 0 1

theorem test_hyp_LoadsAndJobsAct_jobs :
    (∀ x ∈ readers, x.1 = 0x38 ∨ x.1 = 0x39 → dField x.2.1 8 1 = 1 ∧ ((awaits packing x.2.1).came 0 []).cmpOn 1 = true ∧
      ((awaits (hosted.setReg .CMP_CTL 1 0 0 0) x.2.1).came 0 []).cmpOn 1 = false) := by
  decide +kernel

theorem test_hyp_ServiceCommandsAct_cal :
    (let d := desc 0x30 [(3, 8), (15, 10)]; let s := offering ((hosted.setReg .IN_CTL 1 7 0 1).setReg .IN_STATUS 1 7 0 0x8000) d
     s.takes 7 0x30 d ∧ zeroBut d [(8, 1), (10, 2)] = true ∧ (s.accepted 7 d).calCheck 3 15 (some 4) = none ∧
       (s.accepted 7 d).farDown (s.commandOf 7 d) (calHalf 3 15) = false) ∧
      (let d := desc 0x31 [(1, 8), (4096, 24)]; (offering hosted d).passes 7 d {} 0x31) ∧
      (let d := desc 0x32 [(96, 24)]; let t := (awaits hosted d).came 0 []
       (hasCome hosted d [] true).op = 0x32 ∧ (hasCome hosted d [] true).short = true ∧ t.blobCheck 0 4 (List.replicate 96 0) = some 0x06) := by
  unfold State.passes State.takes; and_intros <;> decide +kernel

/-- The bytes before a blob's CRC: half 0, one record, the part's UID. -/
def blobHead : List Byte :=
  leBytes 4 0x42435154 ++ leBytes 2 1 ++ leBytes 1 0 ++ leBytes 1 0 ++ leBytes 4 (State.reset.reg .REV 0).toNat ++ leBytes 4 1 ++
    leBytes 8 (Config.uid 0).toNat ++ leBytes 8 0 ++ leBytes 2 0 ++ leBytes 2 0 ++ leBytes 4 96

/-- A valid record: the tap of input 0. -/
def blobTap : List Byte := [3, 0, 0, 0, 1, 0, 0, 0, 64] ++ List.replicate 23 0

/-- The blob. -/
def blobOne : List Byte := blobHead ++ leBytes 4 (crc32c (blobHead ++ leBytes 4 0 ++ (List.replicate 20 0 ++ blobTap))).toNat ++ (List.replicate 20 0 ++ blobTap)

/-- A blob that passes every check, with no run and no calibration in the way. -/
theorem test_hyp_ServiceCommandsAct_blob : ((awaits hosted (desc 0x32 [(96, 24)])).came 0 []).blobCheck 0 4 blobOne = none := by
  have hl : blobHead.length = 40 := by simp [blobHead, leBytes_length]
  generalize hc : (crc32c (blobHead ++ leBytes 4 0 ++ (List.replicate 20 0 ++ blobTap))).toNat = crc
  have hcl : crc < 2 ^ 32 := by rw [← hc]; exact BitVec.isLt _
  have e : blobOne = blobHead ++ leBytes 4 crc ++ (List.replicate 20 0 ++ blobTap) := by rw [blobOne, hc]
  have l : blobOne.length = 96 := by rw [e]; simp [hl, leBytes_length, blobTap]
  have t : blobOne.take 40 = blobHead := by rw [e, ← hl, List.append_assoc, List.take_left]
  have dr : blobOne.drop 44 = List.replicate 20 0 ++ blobTap := by
    have : (blobHead ++ leBytes 4 crc).length = 44 := by simp [hl, leBytes_length]
    rw [e, ← this, List.drop_left]
  have f40 : leField blobOne 40 4 = crc := by
    have := leField_middle blobHead (List.replicate 20 0 ++ blobTap) (n := 4) (v := crc) (by simpa using hcl)
    rwa [hl, ← e] at this
  have mid : ∀ (a : List Byte) (n v : Nat) (c : List Byte) (o : Nat), blobOne = a ++ leBytes n v ++ c → a.length = o → v < 256 ^ n →
      leField blobOne o n = v := fun a n v c o h ho hv => by rw [h, ← ho]; exact leField_middle a c hv
  have f0 : leField blobOne 0 4 = 0x42435154 := mid [] _ _ _ _ (by rw [e, blobHead]; simp only [List.append_assoc, List.nil_append]; rfl) rfl (by decide)
  have f4 : leField blobOne 4 2 = 1 := mid (leBytes 4 0x42435154) _ _ _ _ (by rw [e, blobHead]; simp only [List.append_assoc]; rfl) rfl (by decide)
  have f8 : leField blobOne 8 4 = (State.reset.reg .REV 0).toNat :=
    mid (leBytes 4 0x42435154 ++ leBytes 2 1 ++ leBytes 1 0 ++ leBytes 1 0) _ _ _ _ (by rw [e, blobHead]; simp only [List.append_assoc]; rfl) rfl
      (by simpa using BitVec.isLt _)
  have f12 : leField blobOne 12 4 = 1 :=
    mid (leBytes 4 0x42435154 ++ leBytes 2 1 ++ leBytes 1 0 ++ leBytes 1 0 ++ leBytes 4 (State.reset.reg .REV 0).toNat) _ _ _ _
      (by rw [e, blobHead]; simp only [List.append_assoc]; rfl) (by simp [leBytes_length]) (by decide)
  have f16 : leField blobOne 16 8 = (Config.uid 0).toNat :=
    mid (leBytes 4 0x42435154 ++ leBytes 2 1 ++ leBytes 1 0 ++ leBytes 1 0 ++ leBytes 4 (State.reset.reg .REV 0).toNat ++ leBytes 4 1) _ _ _ _
      (by rw [e, blobHead]; simp only [List.append_assoc]; rfl) (by simp [leBytes_length]) (by simpa using (Config.uid 0).isLt)
  have f36 : leField blobOne 36 4 = 96 :=
    mid (leBytes 4 0x42435154 ++ leBytes 2 1 ++ leBytes 1 0 ++ leBytes 1 0 ++ leBytes 4 (State.reset.reg .REV 0).toNat ++ leBytes 4 1 ++
      leBytes 8 (Config.uid 0).toNat ++ leBytes 8 0 ++ leBytes 2 0 ++ leBytes 2 0) _ _ _ _
      (by rw [e, blobHead]; simp only [List.append_assoc]; rfl) (by simp [leBytes_length]) (by decide)
  have r : blobRecords blobOne 1 = [blobTap] := by
    have e' : blobOne = (blobHead ++ leBytes 4 crc ++ List.replicate 20 0) ++ blobTap ++ [] := by rw [e]; simp only [List.append_assoc, List.append_nil]
    have := slice_middle (blobHead ++ leBytes 4 crc ++ List.replicate 20 0) blobTap []
    rw [← e'] at this
    simp [hl, leBytes_length] at this
    simpa [blobRecords, blobTap] using this
  unfold State.blobCheck
  simp only [f0, f4, f12, f36, l, f40, t, dr, hc, f16, f8, r]
  have g1 : (!([blobTap].all recordOk)) = false := by decide +kernel
  have g2 : (((awaits hosted (desc 0x32 [(96, 24)])).came 0 []).reg Reg.REV 0) = State.reset.reg .REV 0 := by decide +kernel
  have g3 : ([blobTap].any fun r => ((awaits hosted (desc 0x32 [(96, 24)])).came 0 []).blobOwner 0 (recordTarget r) != some 4) = false := by decide +kernel
  have g4 : ([blobTap].any fun r => ((awaits hosted (desc 0x32 [(96, 24)])).came 0 []).blobBusy 0 (recordTarget r)) = false := by decide +kernel
  have g5 : (!([blobTap].all recordPlausible)) = false := by decide +kernel
  rw [g1, g2, g3, g4, g5]
  simp

theorem test_hyp_ServiceCommandsAct_reads :
    (let d := desc 0x41 [(4, 9), (0xFFFFF8, 24), (8, 32)]; (offering hosted d).passes 7 d { bad := some 3 } 0x41 ∧ dField d 9 1 = 4) ∧
      (∀ bad ∈ [none, some 7, some 8], let d := desc 0x41 [(1, 8), (3, 9), (15, 10), (8, 32)]
        (offering hosted d).passes 7 d ⟨1, bad⟩ 0x41 ∧ dField d 9 1 ≠ 4 ∧ 7 < dField d 32 4) ∧
      (hasCome hosted (desc 0x40 [(2, 24)]) []).op = 0x40 := by
  unfold State.passes State.takes; and_intros <;> decide +kernel

/-- With network time locked. -/
def locked : State := { hosted with servo := { hosted.servo with st := 3 } }

theorem test_hyp_ServiceCommandsAct_time :
    (∀ k ∈ [0, 1], let d := desc 0x48 [(k, 8), (1, 9), (if k = 0 then 3 else 0, 10), (1000000, 24)]; (offering locked d).passes 7 d {} 0x48) ∧
      (let d := desc 0x49 [(2 ^ 63, 16), (0xFFFF, 24)]; (offering locked d).passes 7 d {} 0x49) := by
  unfold State.passes State.takes; and_intros <;> decide +kernel

/-- A run descriptor of one thread (0), no resource and no barrier, 1 shot, records to ring 8. -/
def oneThread : List Byte :=
  leBytes 2 1 ++ leBytes 6 0 ++ leBytes 8 1 ++ leBytes 4 8 ++ List.replicate 44 0 ++ List.replicate 32 0

/-- A START_RUN of `oneThread` in a mode, of a channel, at nanosecond ns. -/
def startDesc (mode ch ns : Nat) : BitVec 512 := desc 0x20 [(mode, 8), (ch, 10), (96, 24), (ns, 40)]

/-- The checks of `oneThread` in state s. -/
def started (s : State) (d : BitVec 512) : Option (BitVec 8) := firstStatus (((awaits s d).came 0 oneThread).runChecks (hasCome s d oneThread))

theorem test_hyp_RunAndStreamCommandsAct_start :
    (∀ m ∈ [0, 1, 2], let d := startDesc m 0 (1000000 * (m % 2))
      (awaits locked d).accessWaits (fun q => q.why == .data 0) = false ∧ (hasCome locked d oneThread).op = 0x20 ∧ started locked d = none ∧
        dField d 8 1 = m) ∧
      started locked (startDesc 3 0 0) = some 0x09 ∧
      (let u := (awaits locked (startDesc 1 0 1000000)).came 0 oneThread
       firstStatus (u.ntChecks (u.ntRows 0 (ntTime 0 1000000 0)) (u.startLead [0]) 0x0F) = none ∧
         firstStatus (u.ntChecks (u.ntRows 0 (ntTime 0 0 0)) (u.startLead [0]) 0x0F) = some 0x0F) := by
  and_intros <;> decide +kernel

theorem test_hyp_RunAndStreamCommandsAct_rest :
    (let d := desc 0x21 []; let s := offering hosted d; s.passes 7 d {} 0x21 ∧ (s.accepted 7 d).runByUser 4 0 = none) ∧
      (let d := desc 0x21 []; let s : State := { offering hosted d with run := [(63, { st := .running, owner := 4 })] }
       s.passes 7 d {} 0x21 ∧ (s.accepted 7 d).runByUser 4 0 = some 63) ∧
      (∀ x ∈ [(4, 0, 0), (6, 0, 0), (0, 0, 8), (1, 1, 8), (2, 1, 8)],
        let d := desc 0x22 [(x.1, 8), (x.2.1, 9), (127, 10), (x.2.2, 20)]
        (offering hosted d).passes 7 d {} 0x22 ∧ detaches d = decide (4 ≤ x.1) ∧ dField d 9 1 = x.2.1) ∧
      (∀ m ∈ [0, 1, 2], let d := desc 0x28 [(3, 8), (m, 9), (1000000 * (m % 2), 24), (8, 32)]; let s := offering locked d
        s.passes 7 d {} 0x28 ∧ dField d 9 1 = m ∧
          firstStatus ((s.accepted 7 d).ntChecks ((s.accepted 7 d).ntRows 1 (ntTime 0 1000000 0)) 64 0x09) = none) ∧
      (let s := offering locked (desc 0x28 [(3, 8), (1, 9), (8, 32)])
       (firstStatus (s.ntChecks (s.ntRows 1 (ntTime 0 0 0)) 64 0x09)).isSome = true) ∧
      (∀ st ∈ [CapSt.free, .armed, .opened, .closing], let d := desc 0x29 [(3, 8)]
        let s := offering (hosted.modCap 3 fun x => { x with st := st }) d
        s.passes 7 d {} 0x29 ∧ ((s.accepted 7 d).cap 3).st = st) := by
  unfold State.passes State.takes; and_intros <;> decide +kernel

theorem test_hyp_ReadsCaptureSnapshots :
    up.outside 3 none = false ∧ guarded.outside 0 none = true ∧ up.admits 3 none ∧
      (up.readable 0 .ST_LO 0 0 ∧ Reg.ST_LO.shadowed = false ∧ Reg.ST_HI ∈ Reg.ST_LO.captures ∧ (1 : Nat) < 4 ∧ (1 : Nat) ≠ (0 : Port).val) ∧
      (up.readable 3 .NT_ST_HI 1 0 ∧ Reg.NT_ST_HI.shadowed = true) ∧
      (up.readable 0 .LAST_XI 0 255 ∧ up.readable 2 .LAST_XI 1 0) ∧
      (({ up with parts := [(0, ownAll &&& ~~~ 0xF0000), (4, 0xF0000)] } : State).mayRead .DAC_CTL 1 15 3 = false) ∧
      ((0x400000 : BitVec 24).toNat % 4 = 0 ∧ addrHalf (0x400000 : BitVec 24).toNat = far (portHalf (0 : Port)) ∧ up.linkUp = true) ∧
      (2 ≤ addrHalf (0x800000 : BitVec 24).toNat ∧ Reg.find (addrOff (0x7FFFFC : BitVec 24).toNat) = none) ∧
      (up.modDlk 0 fun d => { d with st := .training }).linkUp = false ∧
      (let s := up.modPort 3 fun x => { x with cfg := { x.cfg with d3hot := true } }; s.outside 3 none = false ∧ (s.port 3).cfg.d3hot = true) := by
  unfold State.readable State.admits; and_intros <;> decide +kernel

end Sys2Proof.Tests
end

section
/-!
Times beside the counter (R58): extension of a 48-bit time moves the counter by the signed 48-bit difference.
-/
namespace Sys2Proof.Machine

/-- Truncation to 48 bits forgets nothing that the low 48 bits of a distance need. -/
theorem truncate_add_ofInt (c : Word64) (d : Int) :
    (c + BitVec.ofInt 64 d).truncate 48 = t48 c.toNat + BitVec.ofInt 48 d := by
  have hc : c.truncate 48 = t48 c.toNat := rfl
  have hd : (BitVec.ofInt 64 d).truncate 48 = BitVec.ofInt 48 d := by
    apply BitVec.eq_of_toNat_eq
    simp only [BitVec.truncate_eq_setWidth, BitVec.toNat_setWidth, BitVec.toNat_ofInt]
    omega
  rw [← hc, ← hd]
  exact BitVec.setWidth_add c _ (by decide)

/-- R58's extension adds to the counter the signed difference of the time from the counter's low 48 bits. -/
theorem ext64_eq_add_sdiff48 (c : Word64) (t : T48) :
    ext64 c.toNat t = c + BitVec.ofInt 64 (sdiff48 t (t48 c.toNat)) := by
  rw [ext64, BitVec.ofInt_add]
  simp

/-- The signed difference is a 48-bit two's-complement number (R56). -/
theorem sdiff48_bounds (a b : T48) : -2 ^ 47 ≤ sdiff48 a b ∧ sdiff48 a b ≤ 2 ^ 47 - 1 :=
  ⟨BitVec.le_toInt _, Int.le_sub_one_of_lt (BitVec.toInt_lt (w := 48))⟩

/-- A time that stands d samples from another, d a 48-bit two's-complement number, has the signed difference d from it. -/
theorem sdiff48_add_ofInt (a : T48) {d : Int} (hl : -2 ^ 47 ≤ d) (hu : d ≤ 2 ^ 47 - 1) :
    sdiff48 (a + BitVec.ofInt 48 d) a = d := by
  rw [sdiff48, BitVec.add_comm, BitVec.add_sub_cancel, BitVec.toInt_ofInt]
  exact Int.bmod_eq_of_le (by omega) (by omega)

/-- The low 48 bits of an extended time are the time. -/
theorem truncate_ext64 (c : Word64) (t : T48) : (ext64 c.toNat t).truncate 48 = t := by
  rw [ext64_eq_add_sdiff48, truncate_add_ofInt, sdiff48, BitVec.ofInt_toInt, BitVec.add_comm, BitVec.sub_add_cancel]

/-- A value within 2^47 samples of the counter is the extension of its own low 48 bits. -/
theorem ext64_truncate_add (c : Word64) {d : Int} (hl : -2 ^ 47 ≤ d) (hu : d ≤ 2 ^ 47 - 1) :
    ext64 c.toNat ((c + BitVec.ofInt 64 d).truncate 48) = c + BitVec.ofInt 64 d := by
  rw [ext64_eq_add_sdiff48, truncate_add_ofInt, sdiff48_add_ofInt _ hl hu]

/-- Settles O8: the extension moves the counter by the signed 48-bit difference, and that difference is the only distance of its
range with the time's low bits. -/
theorem timeExtendsNearTheCounter : Obligations.TimeExtendsNearTheCounter := by
  unfold Obligations.TimeExtendsNearTheCounter
  constructor
  · intro c t
    obtain ⟨hl, hu⟩ := sdiff48_bounds t (t48 c.toNat)
    exact ⟨truncate_ext64 c t, _, hl, hu, ext64_eq_add_sdiff48 c t⟩
  · rintro c _ d hl hu rfl
    exact ext64_truncate_add c hl hu

end Sys2Proof.Machine
end

section
/-!
What every event keeps, those that move the sample-time counters included: `kept_exec` speaks of the others, and here each of the seven
that may move one is shown to leave both at row boundaries (R51, R65, R69, R71).
-/
namespace Sys2Proof.Machine

/-! ### Row boundaries -/

/-- A counter's low 5 bits are zero just when it is a multiple of 32. -/
theorem rowTime_iff (c : Word64) : c &&& 31 = 0 ↔ c.toNat % 32 = 0 := by
  rw [← BitVec.toNat_inj, BitVec.toNat_and, show BitVec.toNat (31 : Word64) = 2 ^ 5 - 1 from rfl, Nat.and_two_pow_sub_one_eq_mod]
  rfl

/-- The counter stands at a row boundary again after one row (R51). -/
theorem rowTime_add_row {c : Word64} (h : c &&& 31 = 0) : (c + 32) &&& 31 = 0 := by
  rw [rowTime_iff] at h ⊢
  rw [BitVec.toNat_add, show BitVec.toNat (32 : Word64) = 32 from rfl]
  omega

/-- A counter that a boundary may concern. -/
theorem rowTime_ite_row {c : Word64} {p : Prop} [Decidable p] (h : c &&& 31 = 0) : (if p then c else c + 32) &&& 31 = 0 := by
  split
  · exact h
  · exact rowTime_add_row h

theorem State.inv.row0 {s : State} (h : s.inv) : s.c0 &&& 31 = 0 := h.2.2.1

theorem State.inv.row1 {s : State} (h : s.inv) : s.c1 &&& 31 = 0 := h.2.2.2

/-- The counter of H0 reads a multiple of 32. -/
theorem now0_mod {s : State} (h : s.inv) : s.now 0 % 32 = 0 := (rowTime_iff s.c0).1 h.row0

/-- t comes from s as `Kept s t` says, but for the counters, which may have moved to other row boundaries. -/
structure KeptRows (s t : State) : Prop where
  mem : Memory.wf t.mem = true
  regs : risingFrom 0 t.regs = true
  pending : t.pending = s.pending
  row0 : t.c0 &&& 31 = 0
  row1 : t.c1 &&& 31 = 0
  fuses : s.fuses.count ≤ t.fuses.count
  revoked : s.fuses.revoked &&& t.fuses.revoked = s.fuses.revoked

/-- A meaning: its next state, where it has one. -/
def KeptRowsR (s : State) (r : Res) : Prop := match r with | .next t => KeptRows s t | _ => True

theorem KeptRows.inv {s t : State} (k : KeptRows s t) : t.inv := ⟨k.mem, k.regs, k.row0, k.row1⟩

/-- What comes from a base that differs from s in its counters alone, the base's counters being at row boundaries. -/
theorem Kept.keptRows {s b t : State} (k : Kept b t) (hp : b.pending = s.pending) (hf : b.fuses = s.fuses) (h0 : b.c0 &&& 31 = 0)
    (h1 : b.c1 &&& 31 = 0) : KeptRows s t :=
  ⟨k.mem, k.regs, k.pending.trans hp, by rw [k.c0]; exact h0, by rw [k.c1]; exact h1, hf ▸ k.fuses, hf ▸ k.revoked⟩

/-- What leaves the counters alone leaves them at row boundaries. -/
theorem State.inv.keptRows {s t : State} (h : s.inv) (k : Kept s t) : KeptRows s t :=
  k.keptRows rfl rfl h.row0 h.row1

theorem State.inv.keptRowsR {s : State} {r : Res} (h : s.inv) (k : KeptR s r) : KeptRowsR s r := by
  cases r with
  | next t => exact h.keptRows k
  | fault _ => trivial
  | refused _ => trivial

theorem KeptRows.trans {s u t : State} (k : KeptRows s u) (l : KeptRows u t) : KeptRows s t :=
  ⟨l.mem, l.regs, l.pending.trans k.pending, l.row0, l.row1, Nat.le_trans k.fuses l.fuses, by
    rw [← k.revoked, BitVec.and_assoc, l.revoked]⟩

/-- The counters have moved, and then an operation leaves them alone. -/
theorem KeptRows.kept {s u t : State} (k : KeptRows s u) (l : Kept u u → Kept u t) : KeptRows s t :=
  k.trans (k.inv.keptRows (l k.inv.kept))

/-- A half's counter has moved to a row boundary, and the other half's has not moved. -/
theorem State.inv.keptRows_moved {s t : State} (h : s.inv) {g : Nat} {x y : Word64}
    (k : Kept { s with c0 := if g = 0 then x else s.c0, c1 := if g = 0 then s.c1 else y } t) (hx : x &&& 31 = 0) (hy : y &&& 31 = 0) :
    KeptRows s t := by
  refine k.keptRows rfl rfl ?_ ?_
  · show (if g = 0 then x else s.c0) &&& 31 = 0
    split
    · exact hx
    · exact h.row0
  · show (if g = 0 then s.c1 else y) &&& 31 = 0
    split
    · exact h.row1
    · exact hy

/-- Both counters stand at zero. -/
theorem keptRows_zero {s t : State} (k : Kept { s with c0 := 0, c1 := 0 } t) : KeptRows s t :=
  k.keptRows rfl rfl BitVec.zero_and BitVec.zero_and

theorem keptRows_ite {s x y : State} {c : Prop} [Decidable c] (hx : KeptRows s x) (hy : KeptRows s y) :
    KeptRows s (if c then x else y) := by
  split <;> assumption

/-! ### Rails and resets -/

/-- A reset to COLD starts the counters from zero. -/
theorem keptRows_cold {s : State} (h : s.inv) (low : Bool) : KeptRows s (s.cold low) :=
  keptRows_zero ⟨rfl, risingFrom_filter _ _ _ h.kept.regs, rfl, rfl, rfl, Nat.le_refl _, BitVec.and_self⟩

theorem keptRows_execPinReset {s : State} (h : s.inv) : KeptRowsR s (execPinReset s) := keptRows_cold h true

theorem keptRows_execRailInvalid {s : State} (h : s.inv) (g : Half) (rail : Fin 9) : KeptRowsR s (execRailInvalid g rail s) := by
  have k : Kept s (s.regBit .PWR_STATUS g 0 rail.val false) := kept_regBit _ _ _ _ _ _ h.kept
  have r := h.keptRows k
  refine keptRows_ite (h.keptRows h.kept) (keptRows_ite ?_ (keptRows_ite ?_ r))
  · exact r.trans (keptRows_cold r.inv _)
  · exact h.keptRows (kept_forEach (kept_occur _ _ _ _ k) fun _ c k => kept_fluxDead _ _ c k)

/-! ### Reloads of a counter (R65, R69, R71) -/

theorem keptRows_reclock {s : State} (h : s.inv) (g now : Nat) {v : Nat} (hv : v % 32 = 0) : KeptRows s (s.reclock g now v) :=
  h.keptRows_moved (kept_reclock s g now v h.kept) (rowTime_and v hv) (rowTime_and v hv)

theorem keptRows_placeRow {s : State} (h : s.inv) (g part : Nat) {v : Nat} (hv : v % 32 = 0) : KeptRows s (s.placeRow g part v) :=
  h.keptRows_moved (kept_placeRow s g part v h.kept) (rowTime_and v hv) (rowTime_and v hv)

/-- H1's reload sets its counter to H0's. -/
theorem keptRows_realign {s : State} (h : s.inv) : KeptRows s s.realign := by
  obtain ⟨_, k, hp, hf, h0, h1⟩ := kept_realign s h
  exact k.keptRows hp hf h0 h1

theorem keptRows_execPllRelock {s : State} (h : s.inv) (g : Half) (locked : Bool) : KeptRowsR s (execPllRelock g locked s) := by
  have k : Kept s (s.forEach [0, 1] fun s g => s.regBit .CLK_STATUS g 0 0 true) :=
    kept_forEach h.kept fun _ _ k => kept_regBit _ _ _ _ _ _ k
  have r := h.keptRows (kept_regBit _ .CLK_STATUS g 0 1 true k)
  exact keptRows_ite (h.keptRows h.kept) (keptRows_ite (r.trans (keptRows_realign r.inv)) (h.keptRows k))

theorem keptRows_execLinkUp {s : State} (h : s.inv) (g : Half) : KeptRowsR s (execLinkUp g s) := by
  unfold execLinkUp
  extract_lets d f _ s1 s2 s3
  have k1 : Kept s s1 := kept_modDlk _ _ _ h.kept
  have k3 : Kept s s3 := kept_occur _ _ _ _ (kept_ite (kept_alignCheck _ _ _ _ k1) k1)
  have r := h.keptRows (kept_rejoin _ k3)
  exact keptRows_ite (keptRows_ite (r.trans (keptRows_realign r.inv)) (h.keptRows k3)) (h.keptRows h.kept)

/-- Where SELFTEST ends, the counters start from zero after power-on or a pin reset, and H1's is aligned with H0's after a recast (R49,
R53). -/
theorem keptRows_selftestCounters {s : State} (h : s.inv) :
    KeptRows s (if s.boot.started then s.reclock 1 (s.now 1) (s.now 0) else { s with c0 := 0, c1 := 0 }) :=
  keptRows_ite (keptRows_reclock h 1 _ (now0_mod h))
    (keptRows_zero (kept_self (s := { s with c0 := 0, c1 := 0 }) h.kept.mem h.kept.regs))

theorem keptRows_execSelftestEnd {s : State} (h : s.inv) (res : SelfTest) : KeptRowsR s (execSelftestEnd res s) := by
  unfold execSelftestEnd
  refine keptRows_ite (h.keptRows h.kept) ?_
  split
  · extract_lets s1 s2 s3
    have r : KeptRows s s1 := keptRows_selftestCounters h
    have k (l : Kept s1 s1) : Kept s1 s3 := kept_forEach (kept_upd (h := l) ..) fun _ _ k => kept_setReg _ _ _ _ _ _ k
    exact keptRows_ite (r.kept fun l => kept_modBoot _ _ (k l)) (h.keptRows h.kept)
  · exact h.keptRows (kept_modBoot _ _ h.kept)

/-- Both halves load the same multiple of 32 (R65). -/
theorem keptRows_execSyncInstant {s : State} (h : s.inv) : KeptRowsR s (execSyncInstant s) := by
  unfold execSyncInstant
  change KeptRows s _
  split
  · refine keptRows_ite ?_ (h.keptRows h.kept)
    extract_lets v part s1 _ s2
    have hv : v % 32 = 0 := Nat.mul_mod_left _ 32
    have k1 : Kept s s1 := kept_setPair _ _ _ _ _ _ h.kept
    have k2 : Kept s s2 := kept_upd (h := kept_regBit _ _ _ _ _ _ (kept_setReg _ _ _ _ _ _ k1)) ..
    have r := (h.keptRows k2).trans (keptRows_placeRow (h.keptRows k2).inv 0 part hv)
    exact r.trans (keptRows_placeRow r.inv 1 part hv)
  · exact h.keptRows h.kept

/-! ### The row boundary (R51) -/

/-- Before the counters start a boundary changes nothing (R52). -/
theorem execRowBoundary_notStarted {b : RowInput} {s : State} (hw : b.wf = true) (hs : s.boot.started = false) :
    execRowBoundary b s = .next s := by
  simp [execRowBoundary, hw, hs]

/-- A boundary of one half alone does not occur while the counters are kept equal (R27). -/
theorem execRowBoundary_aligned {b : RowInput} {s : State} (hw : b.wf = true) (ho : b.only ≠ none) (ha : s.aligned = true) :
    execRowBoundary b s = .next s := by
  obtain ⟨g, hg⟩ := Option.ne_none_iff_exists'.1 ho
  simp [execRowBoundary, hw, hg, ha]

theorem execRowBoundary_one {b : RowInput} {s : State} {g : Half} (hw : b.wf = true) (hs : s.boot.started = true) (hg : b.only = some g)
    (ha : s.aligned = false) : execRowBoundary b s = .next ((s.endRow b g).settleFaultN).reassertFaultN := by
  simp [execRowBoundary, hw, hs, hg, ha]

theorem execRowBoundary_both {b : RowInput} {s : State} (hw : b.wf = true) (hs : s.boot.started = true) (ho : b.only = none) :
    execRowBoundary b s = .next (((s.endRow b 0).endRow b 1).settleFaultN).reassertFaultN := by
  simp [execRowBoundary, hw, hs, ho]

/-- The counters of s after the row boundary that b brings: those of the halves that it concerns are 32 further. -/
def rowAfter (b : RowInput) (s : State) : State :=
  { s with c0 := if b.only = some 1 then s.c0 else s.c0 + 32, c1 := if b.only = some 0 then s.c1 else s.c1 + 32 }

theorem rowAfter_both {b : RowInput} (s : State) (ho : b.only = none) : rowAfter b s = afterRow (afterRow s 0) 1 := by
  simp [rowAfter, afterRow, ho]

theorem rowAfter_one {b : RowInput} (s : State) {g : Half} (hg : b.only = some g) : rowAfter b s = afterRow s g := by
  match g with
  | 0 => simp [rowAfter, afterRow, hg]
  | 1 => simp [rowAfter, afterRow, hg]

/-- A row boundary that occurs moves the counters of the halves that it concerns, and no other operation of it moves one. -/
theorem execRowBoundary_moves {b : RowInput} {s : State} (hw : b.wf = true) (h : s.inv) (hs : s.boot.started = true)
    (ho : b.only = none ∨ s.aligned = false) : ∃ t, execRowBoundary b s = .next t ∧ Kept (rowAfter b s) t := by
  have close {u v : State} (k : Kept u v) : Kept u v.settleFaultN.reassertFaultN := kept_reassertFaultN _ (kept_settleFaultN _ k)
  match hg : b.only with
  | none =>
    rw [rowAfter_both s hg]
    exact ⟨_, execRowBoundary_both hw hs hg, close (kept_endRow _ b 1 (kept_endRow _ b 0 h.kept))⟩
  | some g =>
    have ha : s.aligned = false := by simpa [hg] using ho
    rw [rowAfter_one s hg]
    exact ⟨_, execRowBoundary_one hw hs hg ha, close (kept_endRow _ b g h.kept)⟩

theorem keptRows_execRowBoundary {s : State} (h : s.inv) (b : RowInput) : KeptRowsR s (execRowBoundary b s) := by
  cases hw : b.wf with
  | false => simp [execRowBoundary, hw, KeptRowsR]
  | true =>
    cases hs : s.boot.started with
    | false => rw [execRowBoundary_notStarted hw hs]; exact h.keptRows h.kept
    | true =>
      by_cases ho : b.only = none ∨ s.aligned = false
      · obtain ⟨t, ht, k⟩ := execRowBoundary_moves hw h hs ho
        rw [ht]
        exact k.keptRows rfl rfl (rowTime_ite_row h.row0) (rowTime_ite_row h.row1)
      · rw [not_or, Bool.not_eq_false] at ho
        rw [execRowBoundary_aligned hw ho.1 ho.2]; exact h.keptRows h.kept

/-! ### Every event -/

/-- Whatever the event, it keeps what `KeptRows` lists. -/
theorem keptRows_exec {s : State} (h : s.inv) (c : Instr) : KeptRowsR s (exec c s) := by
  by_cases hc : Clocks c
  · unfold Clocks at hc
    split at hc
    case h_1 g => exact keptRows_execLinkUp h g
    case h_2 => exact keptRows_execPinReset h
    case h_3 g locked => exact keptRows_execPllRelock h g locked
    case h_4 g rail => exact keptRows_execRailInvalid h g rail
    case h_5 b => exact keptRows_execRowBoundary h b
    case h_6 res => exact keptRows_execSelftestEnd h res
    case h_7 => exact keptRows_execSyncInstant h
    case h_8 => exact hc.elim
  · exact h.keptRowsR (kept_exec h hc)

/-- A step that answers leaves both counters at row boundaries. -/
theorem exec_keptRows {c : Instr} {s t : State} (h : s.inv) (e : exec c s = .next t) : KeptRows s t := by
  have k := keptRows_exec h c
  rwa [e] at k

/-- An event that moves no counter leaves both as they are. -/
theorem exec_counters_eq {c : Instr} {s t : State} (h : s.inv) (hc : ¬ Clocks c) (e : exec c s = .next t) : t.c0 = s.c0 ∧ t.c1 = s.c1 := by
  have k := kept_exec h hc
  rw [e] at k
  exact ⟨Kept.c0 k, Kept.c1 k⟩

/-- Settles O6, by what a row boundary moves, what the seven clock events keep and what the other events leave alone. -/
theorem countersMoveByRowsAlone : Obligations.CountersMoveByRowsAlone := by
  unfold Obligations.CountersMoveByRowsAlone
  refine ⟨⟨?rows, ?boundaries⟩, ?others⟩
  case rows =>
    intro b s hw h hs
    refine ⟨fun ⟨ho, ha⟩ => execRowBoundary_aligned hw ho ha, fun ho => ?_⟩
    obtain ⟨t, ht, k⟩ := execRowBoundary_moves hw h hs ho
    exact ⟨t, ht, k.c0, k.c1⟩
  case boundaries =>
    intro c s t h e
    have k := exec_keptRows h e
    exact ⟨k.row0, k.row1⟩
  case others =>
    intro c s t h e hc
    refine exec_counters_eq h (fun hk => ?_) e
    unfold Clocks at hk
    split at hk
    case h_8 => exact hk
    all_goals exact hc

end Sys2Proof.Machine
end

section
/-!
Flux ramps (R291, R292): how far a ramp has come at its n-th flux sample, and the code that it plays there.
-/
namespace Sys2Proof.Machine

/-- The codes by which a ramp has moved at its n-th flux sample, were there no target (R291; a SLEW of 0 is 1, R292). -/
def Ramp.distance (r : Ramp) (n : Nat) : Nat :=
  (2 * n * max 1 r.slew * 32768 + 6250000 * r.gain) / (2 * 6250000 * r.gain)

/-- The distance is no more than half a code beyond the exact ratio of R291. -/
theorem Ramp.distance_le (r : Ramp) (n : Nat) :
    2 * (6250000 * r.gain * r.distance n) ≤ 2 * (n * max 1 r.slew * 32768) + 6250000 * r.gain := by
  have quotient : 2 * 6250000 * r.gain * r.distance n ≤ 2 * n * max 1 r.slew * 32768 + 6250000 * r.gain := Nat.mul_div_le _ _
  rwa [Nat.mul_assoc 2 6250000, Nat.mul_assoc 2 (6250000 * r.gain), Nat.mul_assoc 2 n, Nat.mul_assoc 2 (n * max 1 r.slew)] at quotient

/-- One code more than the distance is more than half a code beyond the exact ratio of R291. -/
theorem Ramp.lt_distance_succ (r : Ramp) (n : Nat) (hg : 0 < r.gain) :
    2 * (n * max 1 r.slew * 32768) + 6250000 * r.gain < 2 * (6250000 * r.gain * (r.distance n + 1)) := by
  have quotient : 2 * n * max 1 r.slew * 32768 + 6250000 * r.gain < 2 * 6250000 * r.gain * (r.distance n + 1) :=
    Nat.lt_mul_div_succ _ (Nat.mul_pos (by decide) hg)
  rwa [Nat.mul_assoc 2 6250000, Nat.mul_assoc 2 (6250000 * r.gain), Nat.mul_assoc 2 n, Nat.mul_assoc 2 (n * max 1 r.slew)] at quotient

/-- The code of a ramp by its distance: the target once the distance covers the way, before that the start moved toward it. -/
theorem Ramp.code_eq (r : Ramp) (n : Nat) :
    r.code n = if (r.c1 - r.c0).natAbs ≤ r.distance n then (r.c1, true)
      else (r.c0 + (if r.c1 - r.c0 < 0 then -(r.distance n : Int) else (r.distance n : Int)), false) := rfl

theorem Ramp.code_of_reached {r : Ramp} {n : Nat} (h : (r.c1 - r.c0).natAbs ≤ r.distance n) : r.code n = (r.c1, true) := by
  rw [Ramp.code_eq, if_pos h]

theorem Ramp.code_of_below {r : Ramp} {n : Nat} (h : r.c0 + r.distance n < r.c1) : r.code n = (r.c0 + r.distance n, false) := by
  have short : ¬ (r.c1 - r.c0).natAbs ≤ r.distance n := by omega
  have upward : ¬ r.c1 - r.c0 < 0 := by omega
  rw [Ramp.code_eq, if_neg short, if_neg upward]

theorem Ramp.code_of_above {r : Ramp} {n : Nat} (h : r.c1 < r.c0 - r.distance n) : r.code n = (r.c0 - r.distance n, false) := by
  have short : ¬ (r.c1 - r.c0).natAbs ≤ r.distance n := by omega
  have downward : r.c1 - r.c0 < 0 := by omega
  rw [Ramp.code_eq, if_neg short, if_pos downward, Int.sub_eq_add_neg]

/-- Settles O12: the ramp's distance is the rounded quotient of R291, and the code follows from whether it covers the way. -/
theorem rampFollowsTheSlew : Obligations.RampFollowsTheSlew := by
  unfold Obligations.RampFollowsTheSlew
  intro r n hg
  exact ⟨r.distance n, r.distance_le n, r.lt_distance_succ n hg, Ramp.code_of_reached, Ramp.code_of_below, Ramp.code_of_above⟩

end Sys2Proof.Machine
end

section
/-!
Trims (R390, R391): rounding half up by its two bounds, the trimmed sample of an ADC core, and the code that a flux converter
receives.
-/
namespace Sys2Proof.Machine

/-! ### Rounding half up -/

theorem mul_roundHalfUp_le (x : Int) (n : Nat) : 2 ^ n * roundHalfUp x n ≤ x + 2 ^ n / 2 :=
  Int.mul_ediv_self_le (Int.ne_of_gt (Int.pow_pos (by decide)))

theorem lt_mul_roundHalfUp_succ (x : Int) (n : Nat) : x + 2 ^ n / 2 < 2 ^ n * (roundHalfUp x n + 1) := by
  rw [Int.mul_add, Int.mul_one]
  exact Int.lt_mul_ediv_self_add (Int.pow_pos (by decide))

/-- A clamped value fits its field: written to w bits it reads back. -/
theorem toInt_ofInt_clampS {w : Nat} (hw : 0 < w) (x : Int) : (BitVec.ofInt w (clampS w x)).toInt = clampS w x := by
  have positive : (0 : Int) < 2 ^ (w - 1) := Int.pow_pos (by decide)
  refine BitVec.toInt_ofInt_eq_self hw ?_ ?_ <;> unfold clampS <;> omega

/-! ### The trim of an ADC core -/

/-- The trimmed value of R390 before its saturation. -/
def trimValue (t : Trim) (code : BitVec 12) : Int := roundHalfUp ((16 * code.toInt - t.ofs.toInt) * t.gain.toNat) 14

theorem trimCode_eq (t : Trim) (code : BitVec 12) : trimCode t code =
    (BitVec.ofInt 16 (clampS 16 (trimValue t code)),
      decide (clampS 16 (trimValue t code) ≠ trimValue t code) || decide (code.toInt = -2048) || decide (code.toInt = 2047)) := rfl

/-- The trimmed sample is the trimmed value saturated to Q1.15 (R390). -/
theorem trimCode_toInt (t : Trim) (code : BitVec 12) : (trimCode t code).1.toInt = max (-32768) (min 32767 (trimValue t code)) := by
  rw [trimCode_eq, toInt_ofInt_clampS (by decide)]
  rfl

/-- A saturation makes the sample over-range (R390, R210). -/
theorem trimCode_overRange_of_saturated {t : Trim} {code : BitVec 12} (h : trimValue t code < -32768 ∨ 32767 < trimValue t code) :
    (trimCode t code).2 = true := by
  have moved : clampS 16 (trimValue t code) ≠ trimValue t code := by unfold clampS; omega
  rw [trimCode_eq, decide_eq_true moved, Bool.true_or, Bool.true_or]

/-! ### The trim of a flux channel -/

/-- FGAIN of a flux channel's range (R391). -/
def Trim.fgain (x : Trim) (range : Bool) : BitVec 16 := if range then x.gain1 else x.gain

/-- FOFS of a flux channel's range (R391). -/
def Trim.fofs (x : Trim) (range : Bool) : BitVec 16 := if range then x.ofs1 else x.ofs

/-- The product of a flux code and its gain, rounded to units of 1/4 code (R391). -/
def fluxScaled (c g : BitVec 16) : Int := roundHalfUp (4 * c.toInt * g.toNat) 14

/-- The trims of the range in force act on the code (R391). -/
theorem State.fluxConv_eq (s : State) (f : Nat) (c : BitVec 16) (range : Bool) :
    s.fluxConv f (c, range) = BitVec.ofInt 19 (fluxScaled c ((s.trim (f / 64) (fluxKey (f % 64))).fgain range) +
      ((s.trim (f / 64) (fluxKey (f % 64))).fofs range).toInt) := by
  cases range <;> rfl

/-- With a plausible gain the product lies between those of the two end codes with the largest gain. -/
theorem code_mul_gain_bounds (c : BitVec 16) {g : BitVec 16} (hg : g.toNat ≤ 16876) :
    -32768 * 16876 ≤ c.toInt * g.toNat ∧ c.toInt * g.toNat ≤ 32767 * 16876 := by
  have lowest : -32768 ≤ c.toInt := BitVec.le_toInt c
  have highest : c.toInt ≤ 32767 := Int.le_of_lt_add_one (BitVec.toInt_lt (x := c))
  constructor
  · calc (-32768 * 16876 : Int) ≤ -32768 * g.toNat := by omega
      _ ≤ c.toInt * g.toNat := Int.mul_le_mul_of_nonneg_right lowest (Int.natCast_nonneg _)
  · calc c.toInt * g.toNat ≤ 32767 * g.toNat := Int.mul_le_mul_of_nonneg_right highest (Int.natCast_nonneg _)
      _ ≤ 32767 * 16876 := by omega

/-- With a plausible gain the scaled code lies between −135,008 and 135,004 (R391, less its offset of at most 256). -/
theorem fluxScaled_bounds (c : BitVec 16) {g : BitVec 16} (hg : g.toNat ≤ 16876) :
    -135008 ≤ fluxScaled c g ∧ fluxScaled c g ≤ 135004 := by
  have below : 2 ^ 14 * fluxScaled c g ≤ 4 * c.toInt * g.toNat + 2 ^ 14 / 2 := mul_roundHalfUp_le _ 14
  have above : 4 * c.toInt * g.toNat + 2 ^ 14 / 2 < 2 ^ 14 * (fluxScaled c g + 1) := lt_mul_roundHalfUp_succ _ 14
  obtain ⟨least, greatest⟩ := code_mul_gain_bounds c hg
  rw [Int.mul_assoc] at below above
  omega

/-- Within the plausibility limits the sum of scaled code and offset keeps to the extremes of R391. -/
theorem fluxSum_bounds (c : BitVec 16) {g o : BitVec 16} (hg : g.toNat ≤ 16876) (hl : -256 ≤ o.toInt) (hu : o.toInt ≤ 256) :
    -135264 ≤ fluxScaled c g + o.toInt ∧ fluxScaled c g + o.toInt ≤ 135260 := by
  obtain ⟨least, greatest⟩ := fluxScaled_bounds c hg
  omega

/-- A value within the extremes of R391 fits the converter's 19 bits. -/
theorem toInt_ofInt_converter {y : Int} (hl : -135264 ≤ y) (hu : y ≤ 135260) : (BitVec.ofInt 19 y).toInt = y :=
  BitVec.toInt_ofInt_eq_self (by decide) (by omega) (by omega)

/-- Settles O11: both trims are the quotient rounded half up; saturation is what moves a sample's value, and a flux value within the
plausibility limits fits the 19 bits of its converter. -/
theorem trimsFollowTheirFormulas : Obligations.TrimsFollowTheirFormulas := by
  unfold Obligations.TrimsFollowTheirFormulas
  constructor
  · intro t code
    exact ⟨trimValue t code, mul_roundHalfUp_le _ 14, lt_mul_roundHalfUp_succ _ 14, trimCode_toInt t code,
      trimCode_overRange_of_saturated⟩
  · intro s f c range x g o y hg hl hu
    obtain ⟨least, greatest⟩ := fluxSum_bounds c hg hl hu
    have received : y = fluxScaled c g + o.toInt :=
      (congrArg BitVec.toInt (s.fluxConv_eq f c range)).trans (toInt_ofInt_converter least greatest)
    rw [received, Int.add_sub_cancel]
    exact ⟨mul_roundHalfUp_le _ 14, lt_mul_roundHalfUp_succ _ 14, least, greatest⟩

end Sys2Proof.Machine
end

section
/-!
Single steps: what a step takes from the queue, what it keeps, and that it always answers.
-/
namespace Sys2Proof.Machine

/-! ### The queue of commands -/

theorem step_of_empty {s : State} (h : s.pending = []) : step s = .next s := by
  simp [step, h]

theorem step_of_cons {s : State} {c : Instr} {cs : List Instr} (h : s.pending = c :: cs) :
    step s = exec c { s with pending := cs } := by
  simp [step, h]

/-- The queue is no part of the invariant. -/
theorem State.inv.dequeue {s : State} (h : s.inv) (cs : List Instr) : { s with pending := cs }.inv := h

/-- A step either idles or is one event on the state that has it no longer in its queue. -/
theorem step_keptRows {s t : State} (h : s.inv) (e : step s = .next t) : KeptRows { s with pending := s.pending.tail } t := by
  match hp : s.pending with
  | [] =>
    have same : s = t := by simpa [step_of_empty hp] using e
    have idle : { s with pending := [].tail } = s := by rw [List.tail_nil, ← hp]
    rw [idle, ← same]
    exact h.keptRows h.kept
  | c :: cs =>
    rw [step_of_cons hp] at e
    exact exec_keptRows (h.dequeue cs) e

/-- Settles O1, by the definition of a step. -/
theorem stepRunsFront : Obligations.StepRunsFront := by
  unfold Obligations.StepRunsFront
  exact fun c cs s => step_of_cons rfl

/-- Settles O2: every event keeps the queue that it finds. -/
theorem stepTakesOneCommand : Obligations.StepTakesOneCommand := by
  unfold Obligations.StepTakesOneCommand
  exact ⟨fun s h => step_of_empty h, fun s t h e => (step_keptRows h e).pending⟩

/-- Settles O4: the state right after reset has empty memories, an empty register file and counters at zero. -/
theorem invariantAtReset : Obligations.InvariantAtReset := by
  unfold Obligations.InvariantAtReset State.inv
  decide

/-- Settles O5, by what every event keeps. -/
theorem invariantKept : Obligations.InvariantKept := by
  unfold Obligations.InvariantKept
  exact fun s t h e => (step_keptRows h e).inv

/-- A bit that both words of a masked pair need stands in the second one. -/
theorem bit_of_and_eq {w : Nat} {x y : BitVec w} (h : x &&& y = x) {b : Nat} (hb : bit x b = true) : bit y b = true := by
  have both : bit (x &&& y) b = true := by rwa [h]
  simp only [bit, BitVec.getLsbD_and, Bool.and_eq_true] at both
  exact both.2

/-- Settles O7: no event lowers the count or clears a bit of the revoked keys. -/
theorem fusesOnlyAccumulate : Obligations.FusesOnlyAccumulate := by
  unfold Obligations.FusesOnlyAccumulate
  intro s t h e
  have k := step_keptRows h e
  exact ⟨k.fuses, fun _ => bit_of_and_eq k.revoked⟩

end Sys2Proof.Machine
end

section
/-!
Every event that can occur answers a next state, and an operand that no event can have ends in illFormed.
-/
namespace Sys2Proof.Machine

theorem QId.wf_eq_false_iff (q : QId) : q.wf = false ↔ q.kind = .flux ∧ 128 ≤ q.idx.val := by
  obtain ⟨kind, idx⟩ := q
  cases kind <;> simp [QId.wf]

/-- A meaning that rejects the queues that no flux channel has. -/
theorem answers_of_queue {q : QId} {f : Host.Outcome State Fault Refusal} (t : State)
    (hf : f = if q.kind = .flux ∧ 128 ≤ q.idx.val then .fault .illFormed else .next t) :
    (q.wf = true → ∃ u, f = .next u) ∧ (q.wf = false → f = .fault .illFormed) := by
  rw [← Bool.not_eq_false, QId.wf_eq_false_iff]
  refine ⟨fun h => ⟨t, ?_⟩, fun h => ?_⟩
  · rw [hf, if_neg h]
  · rw [hf, if_pos h]

theorem execRowBoundary_answers (b : RowInput) (s : State) :
    (b.wf = true → ∃ t, execRowBoundary b s = .next t) ∧ (b.wf = false → execRowBoundary b s = .fault .illFormed) := by
  refine ⟨fun hw => ?_, fun hw => by simp [execRowBoundary, hw]⟩
  cases hs : s.boot.started with
  | false => exact ⟨s, execRowBoundary_notStarted hw hs⟩
  | true => exact ⟨_, by simp [execRowBoundary, hw, hs]; rfl⟩

/-- Settles O3: five events name a queue and one a row's samples, whose operands may be ill-formed; every other event has a next
state by its definition. -/
theorem everyEventAnswers : Obligations.EveryEventAnswers := by
  unfold Obligations.EveryEventAnswers
  intro c s
  cases c with
  | queueRelease q => exact answers_of_queue _ rfl
  | timedCommandApply q w => exact answers_of_queue _ rfl
  | patternSegmentEnd q e w => exact answers_of_queue _ rfl
  | patternJumpRequest q compare => exact answers_of_queue _ rfl
  | streamDeadline q => exact answers_of_queue _ rfl
  | rowBoundary b => exact execRowBoundary_answers b s
  | _ => exact ⟨fun _ => ⟨_, rfl⟩, fun h => nomatch h⟩

end Sys2Proof.Machine
end

section
/-!
Numbers: the order of 48-bit times and their grain (R55 to R57), and narrowing (R9).
-/
namespace Sys2Proof.Machine

/-! ### The order of times -/

/-- The signed difference of two times is their difference modulo 2^48. -/
theorem sdiff48_emod (a b : T48) : (sdiff48 a b - ((a.toNat : Int) - b.toNat)) % 2 ^ 48 = 0 := by
  rw [sdiff48, BitVec.toInt_sub, BitVec.toInt_eq_toNat_bmod, BitVec.toInt_eq_toNat_bmod, Int.bmod_sub_bmod, Int.sub_bmod_bmod]
  exact Int.emod_eq_zero_of_dvd (Int.dvd_bmod_sub_self (m := 2 ^ 48))

theorem max_min_of_later {a b : T48} (h : sdiff48 b a > 0) : max48 a b = b ∧ min48 a b = a :=
  ⟨if_pos h, if_neg (by omega)⟩

theorem max_min_of_earlier {a b : T48} (h : sdiff48 b a < 0) : max48 a b = a ∧ min48 a b = b :=
  ⟨if_neg (by omega), if_pos h⟩

/-- Of two times less than 2^47 samples apart the later one has the positive difference (R57). -/
theorem sdiff48_pos_of_near {x y : Nat} (hlt : x < y) (near : y - x < 2 ^ 47) : sdiff48 (t48 y) (t48 x) > 0 := by
  have apart : t48 y = t48 x + BitVec.ofInt 48 ((y : Int) - x) := by
    rw [Int.sub_eq_add_neg, BitVec.ofInt_add, BitVec.ofInt_neg, BitVec.ofInt_natCast, BitVec.ofInt_natCast]
    rw [← BitVec.sub_eq_add_neg, BitVec.add_comm]
    exact (BitVec.sub_add_cancel (t48 y) (t48 x)).symm
  rw [apart, sdiff48_add_ofInt _ (by omega) (by omega)]
  omega

/-! ### Grains -/

theorem le_roundUp (t : Nat) {g : Nat} (hg : 0 < g) : t ≤ roundUp t g := by
  have below : t + g - 1 < ((t + g - 1) / g + 1) * g := Nat.lt_mul_of_div_lt (Nat.lt_succ_self _) hg
  rw [Nat.add_mul] at below
  unfold roundUp
  omega

theorem roundUp_lt (t : Nat) {g : Nat} (hg : 0 < g) : roundUp t g < t + g := by
  have reached : (t + g - 1) / g * g ≤ t + g - 1 := Nat.div_mul_le_self _ _
  unfold roundUp
  omega

theorem qGrain_pos (q : Nat) : 0 < qGrain q := by
  unfold qGrain; split <;> decide

/-- Settles O9: the signed difference is the difference modulo 2^48 in the range of 48 bits, and the grain's multiple is the rounded
quotient times the grain. -/
theorem timesCompareAndRound : Obligations.TimesCompareAndRound := by
  unfold Obligations.TimesCompareAndRound
  refine ⟨⟨fun a b => ?range, fun a b => max_min_of_later, fun a b => max_min_of_earlier, fun x y => sdiff48_pos_of_near⟩, fun t q => ?grain⟩
  case range =>
    obtain ⟨least, greatest⟩ := sdiff48_bounds a b
    exact ⟨least, by omega, sdiff48_emod a b⟩
  case grain =>
    exact ⟨roundUp t.toNat (qGrain q), le_roundUp _ (qGrain_pos q), roundUp_lt _ (qGrain_pos q), Nat.mul_mod_left _ _, rfl⟩

/-! ### Narrowing -/

theorem clampS_of_fits {w : Nat} {y : Int} (hl : -2 ^ (w - 1) ≤ y) (hu : y < 2 ^ (w - 1)) : clampS w y = y := by
  unfold clampS; omega

theorem clampS_of_below {w : Nat} {y : Int} (h : y < -2 ^ (w - 1)) : clampS w y = -2 ^ (w - 1) := by
  unfold clampS; omega

theorem clampS_of_above {w : Nat} {y : Int} (h : 2 ^ (w - 1) ≤ y) : clampS w y = 2 ^ (w - 1) - 1 := by
  have positive : (0 : Int) < 2 ^ (w - 1) := Int.pow_pos (by decide)
  unfold clampS; omega

theorem narrow_eq (w n : Nat) (x : Int) :
    narrow w n x = (clampS w (roundHalfUp x n), decide (clampS w (roundHalfUp x n) ≠ roundHalfUp x n)) := rfl

/-- Rounding half up by its two bounds, doubled so that the half is a whole number. -/
theorem two_pow_succ_roundHalfUp (x : Int) (n : Nat) :
    2 ^ (n + 1) * roundHalfUp x n ≤ 2 * x + 2 ^ n ∧ 2 * x + 2 ^ n < 2 ^ (n + 1) * (roundHalfUp x n + 1) := by
  have below := mul_roundHalfUp_le x n
  have above := lt_mul_roundHalfUp_succ x n
  rw [Int.pow_succ', Int.mul_assoc, Int.mul_assoc]
  cases n with
  | zero => simp only [Int.pow_zero, Int.one_mul] at *; omega
  | succ n => rw [Int.pow_succ] at *; omega

/-- Settles O10: the rounded value is the quotient rounded half up, and clamping changes exactly what lies outside the field. -/
theorem narrowingRoundsHalfUp : Obligations.NarrowingRoundsHalfUp := by
  unfold Obligations.NarrowingRoundsHalfUp
  intro w n x _
  obtain ⟨below, above⟩ := two_pow_succ_roundHalfUp x n
  refine ⟨roundHalfUp x n, below, above, fun ⟨hl, hu⟩ => ?fits, fun h => ?low, fun h => ?high⟩
  case fits => rw [narrow_eq, clampS_of_fits hl hu]; simp
  case low =>
    rw [narrow_eq, clampS_of_below h, decide_eq_true]
    exact Int.ne_of_gt h
  case high =>
    rw [narrow_eq, clampS_of_above h, decide_eq_true]
    omega

end Sys2Proof.Machine
end

section
/-!
Byte order (R6), the on-die memories (R40), and register writes by their access codes (R10, R11).
-/
namespace Sys2Proof.Machine

/-! ### Little-endian bytes -/

theorem leBytes_getElem? {n i : Nat} (v : Nat) (h : i < n) : (leBytes n v)[i]? = some (BitVec.ofNat 8 (v / 2 ^ (8 * i))) := by
  induction n generalizing v i with
  | zero => omega
  | succ n ih =>
    cases i with
    | zero => simp [leBytes]
    | succ i =>
      have shift : v / 2 ^ (8 * (i + 1)) = v / 256 / 2 ^ (8 * i) := by
        rw [Nat.div_div_eq_div_mul, Nat.mul_succ, Nat.pow_add, Nat.mul_comm]
      rw [leBytes, List.getElem?_cons_succ, ih (v / 256) (by omega), shift]

theorem ofLE_leBytes (n v : Nat) : ofLE (leBytes n v) = v % 2 ^ (8 * n) := by
  induction n generalizing v with
  | zero => simp [leBytes, ofLE, Nat.mod_one]
  | succ n ih =>
    rw [leBytes, ofLE, ih, Nat.mul_succ, Nat.pow_add, Nat.mul_comm (2 ^ (8 * n)), Nat.mod_mul, BitVec.toNat_ofNat]

theorem leBytes_ofLE (bs : List Byte) : leBytes bs.length (ofLE bs) = bs := by
  induction bs with
  | nil => rfl
  | cons b bs ih =>
    have low : BitVec.ofNat 8 (b.toNat + 256 * ofLE bs) = b := by
      apply BitVec.eq_of_toNat_eq
      rw [BitVec.toNat_ofNat, Nat.add_mul_mod_self_left]
      exact Nat.mod_eq_of_lt b.isLt
    have high : (b.toNat + 256 * ofLE bs) / 256 = ofLE bs := by
      rw [Nat.add_mul_div_left _ _ (by decide), Nat.div_eq_of_lt b.isLt, Nat.zero_add]
    rw [List.length_cons, leBytes, ofLE, low, high, ih]

/-! ### The on-die memories -/

theorem memRead_length (m : List Host.Cell) (a n : Nat) : (memRead m a n).length = n := by
  induction n generalizing a with
  | zero => rfl
  | succ n ih => simp [memRead, ih]

theorem memRead_getElem {m : List Host.Cell} {a n i : Nat} (h : i < (memRead m a n).length) :
    (memRead m a n)[i] = memGet m (a + i) := by
  induction n generalizing a i with
  | zero => simp [memRead] at h
  | succ n ih =>
    cases i with
    | zero => rfl
    | succ i =>
      show (memRead m (a + 1) n)[i]'(by simpa [memRead] using h) = _
      rw [ih, Nat.add_assoc, Nat.add_comm 1 i]

theorem memRead_memWrite (m : List Host.Cell) (a : Nat) (bs : List Byte) : memRead (memWrite m a bs) a bs.length = bs := by
  apply List.ext_getElem (memRead_length _ _ _)
  intro i _ hi
  rw [memRead_getElem, memGet_memWrite_in m a i bs hi]

theorem memRead_one (m : List Host.Cell) (a : Nat) : memRead m a 1 = [memGet m a] := rfl

/-- Two places of the model's one address space are different where memory, half or offset differ (R40). -/
theorem Mem.base_apart {k k' : Mem} {h h' a off n : Nat} (hh : h < 2) (hh' : h' < 2) (ha : a < k'.size) (hn : off + n ≤ k.size)
    (differ : k' ≠ k ∨ h' ≠ h ∨ a < off ∨ off + n ≤ a) : k'.base h' + a < k.base h + off ∨ k.base h + off + n ≤ k'.base h' + a := by
  by_cases same : k' = k
  · subst same
    have elsewhere := differ.resolve_left (not_not_intro rfl)
    cases k' <;> simp only [Mem.size, Mem.base] at * <;> omega
  · clear differ
    cases k <;> cases k' <;> simp only [Mem.size, Mem.base, not_true_eq_false] at * <;> omega

/-- A byte outside what is written reads as before. -/
theorem State.read_write_of_apart {s : State} {k k' : Mem} {h h' a off : Nat} {bs : List Byte} (hh : h < 2) (hh' : h' < 2)
    (ha : a < k'.size) (hn : off + bs.length ≤ k.size) (differ : k' ≠ k ∨ h' ≠ h ∨ a < off ∨ off + bs.length ≤ a) :
    (s.write k h off bs).read k' h' a 1 = s.read k' h' a 1 :=
  congrArg (fun b => [b]) (memGet_memWrite_out _ _ _ _ (Mem.base_apart hh hh' ha hn differ))

/-- Settles O13: bytes by induction over them, memory by what one write of bytes reads back and leaves alone. -/
theorem bytesAndMemoryReadBack : Obligations.BytesAndMemoryReadBack := by
  unfold Obligations.BytesAndMemoryReadBack
  refine ⟨⟨fun n v i => leBytes_getElem? v, ofLE_leBytes, leBytes_ofLE⟩, fun s k h off bs hh hn => ⟨?back, memWrite_wf _ _ _, ?frame⟩⟩
  case back => exact memRead_memWrite _ _ _
  case frame => exact fun k' h' a hh' ha => State.read_write_of_apart hh hh' ha hn

/-! ### Access codes -/

/-- A bit of what a write leaves (R10, R11). -/
theorem bit_written (d : RegDef) (old v : Word) {b : Nat} (hb : b < 32) : bit (written d old v) b =
    (((bit old b && !bit d.rw b) || (bit v b && bit d.rw b)) && !(bit v b && bit d.w1c b) || (bit v b && bit d.w1s b)) := by
  simp [bit, written, hb]

/-- Settles O16: the written bit, read off code by code. -/
theorem accessCodesDecideEachBit : Obligations.AccessCodesDecideEachBit := by
  unfold Obligations.AccessCodesDecideEachBit
  intro d old v b hb
  rw [bit_written d old v hb]
  refine ⟨?_, ?_, ?_, ?_⟩ <;> intro hs hc hr <;> simp [hs, hc, hr]

end Sys2Proof.Machine
end

section
/-!
The flags of register arithmetic (R165) and the conditions of BCC (R162).
-/
namespace Sys2Proof.Machine

/-- A bit of a word is that bit of its number. -/
theorem bit_iff {w : Nat} (x : BitVec w) (i : Nat) : bit x i = true ↔ x.toNat / 2 ^ i % 2 = 1 := by
  rw [bit, ← BitVec.testBit_toNat, Nat.testBit_eq_decide_div_mod_eq, decide_eq_true_eq]

/-- Every arithmetic function sets Z and N from its result. -/
theorem Alu.of_zn (r : Word) (c v : Bool) : ((Alu.of r c v).z = true ↔ (Alu.of r c v).r = 0) ∧ (Alu.of r c v).n = bit (Alu.of r c v).r 31 :=
  ⟨decide_eq_true_iff, rfl⟩

/-! ### Sums and differences -/

/-- The sum of two words overflows where it leaves the range of a signed word. -/
theorem toInt_add_ne_iff (a b : Word) :
    (a + b).toInt ≠ a.toInt + b.toInt ↔ a.toInt + b.toInt < -2 ^ 31 ∨ 2 ^ 31 ≤ a.toInt + b.toInt := by
  have ha := BitVec.le_toInt a
  have ha' := BitVec.toInt_lt (x := a)
  have hb := BitVec.le_toInt b
  have hb' := BitVec.toInt_lt (x := b)
  rw [BitVec.toInt_add, Int.bmod_def]
  omega

theorem toInt_sub_ne_iff (a b : Word) :
    (a - b).toInt ≠ a.toInt - b.toInt ↔ a.toInt - b.toInt < -2 ^ 31 ∨ 2 ^ 31 ≤ a.toInt - b.toInt := by
  have ha := BitVec.le_toInt a
  have ha' := BitVec.toInt_lt (x := a)
  have hb := BitVec.le_toInt b
  have hb' := BitVec.toInt_lt (x := b)
  rw [BitVec.toInt_sub, Int.bmod_def]
  omega

theorem toNat_sub_emod (a b : Word) : ((a - b).toNat : Int) = ((a.toNat : Int) - b.toNat) % 2 ^ 32 := by
  have ha := a.isLt
  have hb := b.isLt
  rw [BitVec.toNat_sub]
  omega

/-! ### Shifts -/

/-- The last bit that a shift to the left by n takes out of the word. -/
theorem aluShl_carry (a : Word) (n : Nat) : (aluShl a n).c = true ↔ 0 < n ∧ a.toNat / 2 ^ (32 - n) % 2 = 1 := by
  cases n with
  | zero => simp [aluShl, Alu.of]
  | succ n => exact (bit_iff a _).trans (by simp)

/-- The last bit that a shift to the right by n takes out of the word. -/
theorem aluShr_carry (k : Bool) (a : Word) (n : Nat) : (aluShr k a n).c = true ↔ 0 < n ∧ a.toNat / 2 ^ (n - 1) % 2 = 1 := by
  cases n with
  | zero => simp [aluShr, Alu.of]
  | succ n => exact (bit_iff a _).trans (by simp)

theorem aluShl_toNat (a : Word) (n : Nat) : (aluShl a n).r.toNat = a.toNat * 2 ^ n % 2 ^ 32 := by
  rw [← Nat.shiftLeft_eq]
  exact BitVec.toNat_shiftLeft

theorem aluShr_toNat (a : Word) (n : Nat) : (aluShr false a n).r.toNat = a.toNat / 2 ^ n := by
  rw [← Nat.shiftRight_eq_div_pow]
  exact BitVec.toNat_ushiftRight a n

theorem aluShr_toInt (a : Word) (n : Nat) : (aluShr true a n).r.toInt = a.toInt / 2 ^ n := by
  have shifted := BitVec.toInt_sshiftRight (x := a) (n := n)
  rw [Int.shiftRight_eq_div_pow] at shifted
  exact_mod_cast shifted

/-- Settles O14: carries and overflows by the ranges of the words, the shifts by their numbers, the conditions by their table. -/
theorem flagsAndConditions : Obligations.FlagsAndConditions := by
  unfold Obligations.FlagsAndConditions
  refine ⟨⟨?add, ?sub, ?shl, ?shr, fun r => ⟨rfl, rfl, rfl⟩, ?zn⟩, ?conditions⟩
  case add => exact fun a b => ⟨BitVec.toNat_add a b, decide_eq_true_iff, decide_eq_true_iff.trans (toInt_add_ne_iff a b)⟩
  case sub => exact fun a b => ⟨toNat_sub_emod a b, decide_eq_true_iff, decide_eq_true_iff.trans (toInt_sub_ne_iff a b)⟩
  case shl => exact fun a n _ => ⟨aluShl_toNat a n, aluShl_carry a n, rfl⟩
  case shr => exact fun a n _ => ⟨aluShr_toNat a n, aluShr_toInt a n, fun k => ⟨aluShr_carry k a n, rfl⟩⟩
  case zn =>
    intro a b n k x hx
    simp only [List.mem_cons, List.not_mem_nil, or_false] at hx
    obtain rfl | rfl | rfl | rfl | rfl := hx <;> exact Alu.of_zn _ _ _
  case conditions => decide

end Sys2Proof.Machine
end

section
/-!
The SEC-DED code of a flit (R557). Both parts of the check are linear over exclusive or, so what a changed bit does to them does not
depend on the flit: the syndrome takes the position of the bit, and the parity turns.
-/
namespace Sys2Proof.Machine

/-! ### Parity -/

theorem parity_succ (n v : Nat) : parity (n + 1) v = (parity n v ^^ v.testBit n) := by
  simp [parity, List.range_succ]

theorem parity_xor (n v w : Nat) : parity n (v ^^^ w) = (parity n v ^^ parity n w) := by
  induction n with
  | zero => rfl
  | succ n ih =>
    rw [parity_succ, parity_succ, parity_succ, ih, Nat.testBit_xor]
    generalize parity n v = a, parity n w = b, v.testBit n = c, w.testBit n = d
    revert a b c d
    decide

/-- The parity of a number with no bit below n. -/
theorem parity_eq_false {n v : Nat} (h : ∀ i < n, v.testBit i = false) : parity n v = false := by
  induction n with
  | zero => rfl
  | succ n ih => rw [parity_succ, ih fun i hi => h i (by omega), h n (by omega)]; rfl

/-- The parity of a number from its bit m on. -/
theorem parity_add (m n v : Nat) : parity (m + n) v = (parity m v ^^ parity n (v >>> m)) := by
  induction n with
  | zero => simp [parity]
  | succ n ih => rw [← Nat.add_assoc, parity_succ, parity_succ, ih, Nat.testBit_shiftRight, Bool.xor_assoc]

/-- The parity of a number's low n bits is that of the rest of its division by 2^n. -/
theorem parity_mod (n v : Nat) : parity n (v % 2 ^ n) = parity n v := by
  have rest : parity n (v % 2 ^ n ^^^ v) = false := by
    refine parity_eq_false fun i hi => ?_
    rw [Nat.testBit_xor, Nat.testBit_mod_two_pow, decide_eq_true hi, Bool.true_and, Bool.xor_self]
  rw [parity_xor] at rest
  exact bne_eq_false_iff_eq.mp rest

theorem parity_two_pow {n i : Nat} (h : i < n) : parity n (2 ^ i) = true := by
  induction n with
  | zero => omega
  | succ n ih =>
    rw [parity_succ, Nat.testBit_two_pow]
    by_cases last : i = n
    · rw [last, parity_eq_false fun j hj => by rw [Nat.testBit_two_pow]; simp; omega]
      simp
    · rw [ih (by omega), decide_eq_false last]; rfl

/-! ### The check bits -/

/-- The exclusive or of the positions of a list that stand at a body's set bits. -/
def xorPositions (l : List (Nat × Nat)) (b : BitVec 256) : Nat :=
  (l.filter fun x => bit b x.2).foldl (fun c x => c ^^^ x.1) 0

theorem checkBits_eq (b : BitVec 256) : checkBits b = xorPositions bodyPositions.zipIdx b := rfl

theorem foldl_xor_init (l : List (Nat × Nat)) (c : Nat) :
    l.foldl (fun c x => c ^^^ x.1) c = c ^^^ l.foldl (fun c x => c ^^^ x.1) 0 := by
  induction l generalizing c with
  | nil => simp
  | cons x l ih => rw [List.foldl_cons, List.foldl_cons, ih (c ^^^ x.1), ih (0 ^^^ x.1), Nat.zero_xor, Nat.xor_assoc]

theorem xorPositions_cons (x : Nat × Nat) (l : List (Nat × Nat)) (b : BitVec 256) :
    xorPositions (x :: l) b = (if bit b x.2 then x.1 else 0) ^^^ xorPositions l b := by
  unfold xorPositions
  cases h : bit b x.2 with
  | true => rw [List.filter_cons, if_pos h, List.foldl_cons, foldl_xor_init, Nat.zero_xor, if_pos rfl]
  | false => rw [List.filter_cons, if_neg (by simp [h]), if_neg (by simp), Nat.zero_xor]

theorem xorPositions_xor (l : List (Nat × Nat)) (b c : BitVec 256) :
    xorPositions l (b ^^^ c) = xorPositions l b ^^^ xorPositions l c := by
  induction l with
  | nil => exact (Nat.xor_self 0).symm
  | cons x l ih =>
    have split : (if bit (b ^^^ c) x.2 then x.1 else 0) = (if bit b x.2 then x.1 else 0) ^^^ (if bit c x.2 then x.1 else 0) := by
      cases hb : bit b x.2 <;> cases hc : bit c x.2 <;> simp_all [bit]
    rw [xorPositions_cons, xorPositions_cons, xorPositions_cons, ih, split]
    ac_rfl

theorem checkBits_xor (b c : BitVec 256) : checkBits (b ^^^ c) = checkBits b ^^^ checkBits c := xorPositions_xor _ b c

theorem xorPositions_lt {l : List (Nat × Nat)} {k : Nat} (h : ∀ x ∈ l, x.1 < 2 ^ k) (b : BitVec 256) : xorPositions l b < 2 ^ k := by
  induction l with
  | nil => exact Nat.two_pow_pos k
  | cons x l ih =>
    rw [xorPositions_cons]
    refine Nat.xor_lt_two_pow ?_ (ih fun y hy => h y (List.mem_cons_of_mem x hy))
    split
    · exact h x List.mem_cons_self
    · exact Nat.two_pow_pos k

set_option maxRecDepth 4000 in
theorem bodyPositions_small : ∀ x ∈ bodyPositions.zipIdx, x.1 < 2 ^ 9 := by decide +kernel

theorem checkBits_lt (b : BitVec 256) : checkBits b < 2 ^ 9 := xorPositions_lt bodyPositions_small b

theorem bit_two_pow {i : Nat} (h : i < 256) (j : Nat) : bit (BitVec.ofNat 256 (2 ^ i)) j = decide (i = j) := by
  rw [bit, BitVec.getLsbD_ofNat, Nat.testBit_two_pow]
  by_cases same : i = j
  · simp [← same, h]
  · simp [same]

/-- Of a list of positions one bit of the body alone selects the one beside its number. -/
theorem xorPositions_zipIdx (l : List Nat) (k : Nat) {i : Nat} (h : i < 256) :
    xorPositions (l.zipIdx k) (BitVec.ofNat 256 (2 ^ i)) = if k ≤ i then l.getD (i - k) 0 else 0 := by
  induction l generalizing k with
  | nil => simp [xorPositions]
  | cons x l ih =>
    rw [List.zipIdx_cons, xorPositions_cons, ih, bit_two_pow h]
    obtain before | here | after := Nat.lt_trichotomy i k
    · rw [decide_eq_false (by omega), if_neg (by simp), if_neg (by omega), if_neg (by omega), Nat.xor_self]
    · subst here
      rw [decide_eq_true rfl, if_pos rfl, if_neg (by omega), if_pos (Nat.le_refl _), Nat.sub_self, Nat.xor_zero, List.getD_cons_zero]
    · obtain ⟨d, hd⟩ := Nat.exists_eq_add_of_lt after
      have next : i - k = (i - (k + 1)) + 1 := by omega
      rw [decide_eq_false (by omega), if_neg (by simp), if_pos (by omega), if_pos (by omega), next, Nat.zero_xor, List.getD_cons_succ]

/-- One bit of the body alone has its position as check bits. -/
theorem checkBits_two_pow {i : Nat} (h : i < 256) : checkBits (BitVec.ofNat 256 (2 ^ i)) = bodyPositions.getD i 0 := by
  rw [checkBits_eq, xorPositions_zipIdx _ 0 h, if_pos (Nat.zero_le i), Nat.sub_zero]

theorem bodyPositions_length : bodyPositions.length = 256 := by decide +kernel

theorem bodyPositions_nodup : bodyPositions.Nodup :=
  List.Pairwise.filter _ (List.Pairwise.map Nat.succ (fun _ _ apart same => apart (Nat.succ.inj same)) List.nodup_range)

/-- No position of a body bit is zero or a power of two. -/
theorem bodyPositions_noPower {n : Nat} (h : n ∈ bodyPositions) :
    n ≠ 0 ∧ [1, 2, 4, 8, 16, 32, 64, 128, 256].contains n = false := by
  obtain ⟨inRange, noPower⟩ := List.mem_filter.mp h
  obtain ⟨m, _, rfl⟩ := List.mem_map.mp inRange
  exact ⟨Nat.succ_ne_zero m, by simpa using noPower⟩

/-- The position of a body bit leads back to that bit. -/
theorem findIdx?_bodyPositions {i : Nat} (h : i < bodyPositions.length) : bodyPositions.findIdx? (· == bodyPositions[i]) = some i := by
  rw [List.findIdx?_eq_some_iff_getElem]
  refine ⟨h, beq_self_eq_true _, fun j hj => ?_⟩
  rw [beq_iff_eq]
  exact List.pairwise_iff_getElem.mp bodyPositions_nodup j i (Nat.lt_trans hj h) h hj

/-! ### The parts of a flit -/

/-- The body that a flit carries, as it was received. -/
def flitData (f : BitVec 272) : BitVec 256 := f.truncate 256

/-- The syndrome of a flit: the check bits of its body against those that it carries (R557). -/
def syndrome (f : BitVec 272) : Nat := checkBits (flitData f) ^^^ bits f 264 256

/-- The parity of a flit over all 266 bits (R557). -/
def flitParity (f : BitVec 272) : Bool := parity 266 f.toNat

theorem bits_xor {w : Nat} (x y : BitVec w) (hi lo : Nat) : bits (x ^^^ y) hi lo = bits x hi lo ^^^ bits y hi lo := by
  rw [bits, bits, bits, BitVec.toNat_xor, Nat.xor_div_two_pow, Nat.xor_mod_two_pow]

theorem flitData_xor (f g : BitVec 272) : flitData (f ^^^ g) = flitData f ^^^ flitData g := BitVec.setWidth_xor

theorem syndrome_xor (f g : BitVec 272) : syndrome (f ^^^ g) = syndrome f ^^^ syndrome g := by
  rw [syndrome, syndrome, syndrome, flitData_xor, checkBits_xor, bits_xor]
  ac_rfl

theorem flitParity_xor (f g : BitVec 272) : flitParity (f ^^^ g) = (flitParity f ^^ flitParity g) := by
  rw [flitParity, BitVec.toNat_xor, parity_xor]; rfl

/-! ### What the check makes of the parts -/

theorem flitBody_clean {f : BitVec 272} (hs : syndrome f = 0) (hp : flitParity f = false) : flitBody f = some (flitData f, false) := by
  have clean : syndrome f = 0 ∧ (!flitParity f) = true := ⟨hs, by rw [hp]; rfl⟩
  exact if_pos clean

/-- An odd flit has one wrong bit: whatever the syndrome, the body is not taken as it is. -/
theorem flitBody_odd {f : BitVec 272} (hp : flitParity f = true) : flitBody f =
    if syndrome f = 0 ∨ [1, 2, 4, 8, 16, 32, 64, 128, 256].contains (syndrome f) then some (flitData f, true)
    else match bodyPositions.findIdx? (· == syndrome f) with
      | some i => some (flitData f ^^^ BitVec.ofNat 256 (2 ^ i), true)
      | none => none := by
  have odd : ¬ (!flitParity f) = true := by rw [hp]; decide
  exact (if_neg fun h => odd h.2).trans (if_neg odd)

/-- The wrong bit is the overall parity bit or a check bit. -/
theorem flitBody_checkBit {f : BitVec 272} (hp : flitParity f = true)
    (hs : syndrome f = 0 ∨ [1, 2, 4, 8, 16, 32, 64, 128, 256].contains (syndrome f) = true) : flitBody f = some (flitData f, true) := by
  rw [flitBody_odd hp, if_pos hs]

/-- The wrong bit is the body bit whose position the syndrome gives. -/
theorem flitBody_bodyBit {f : BitVec 272} {i : Nat} (hi : i < 256) (hp : flitParity f = true)
    (hs : syndrome f = bodyPositions.getD i 0) : flitBody f = some (flitData f ^^^ BitVec.ofNat 256 (2 ^ i), true) := by
  rw [← bodyPositions_length] at hi
  rw [← List.getElem_eq_getD (h := hi)] at hs
  obtain ⟨nonzero, noPower⟩ := bodyPositions_noPower (List.getElem_mem hi)
  rw [flitBody_odd hp, hs, if_neg (by rw [noPower]; simp [nonzero]), findIdx?_bodyPositions hi]

/-! ### A sound flit -/

/-- The overall parity bit of a body (R557). -/
def parityBit (b : BitVec 256) : Bool := parity 256 b.toNat ^^ parity 9 (checkBits b)

/-- The body in the low 256 bits, over it the check bits, over them the parity bit. -/
theorem flitOf_toNat (b : BitVec 256) : (flitOf b).toNat = b.toNat + 2 ^ 256 * (checkBits b + 2 ^ 9 * (parityBit b).toNat) := by
  have hb := b.isLt
  have hc := checkBits_lt b
  have placed : flitOf b = BitVec.ofNat 272 (b.toNat + 2 ^ 256 * (checkBits b + 2 ^ 9 * (parityBit b).toNat)) := by
    rw [Nat.mul_add, ← Nat.add_assoc]
    unfold flitOf
    cases h : parityBit b <;> exact congrArg _ (congrArg _ (by rw [show (_ ^^ _) = _ from h]; rfl))
  have hp := (parityBit b).toNat_le
  rw [placed, BitVec.toNat_ofNat]
  omega

theorem flitData_flitOf (b : BitVec 256) : flitData (flitOf b) = b := by
  apply BitVec.eq_of_toNat_eq
  rw [flitData, BitVec.truncate_eq_setWidth, BitVec.toNat_setWidth, flitOf_toNat, Nat.add_mul_mod_self_left]
  exact Nat.mod_eq_of_lt b.isLt

/-- What stands above the body. -/
theorem flitOf_shiftRight (b : BitVec 256) : (flitOf b).toNat >>> 256 = checkBits b + 2 ^ 9 * (parityBit b).toNat := by
  rw [Nat.shiftRight_eq_div_pow, flitOf_toNat, Nat.add_mul_div_left _ _ (Nat.two_pow_pos 256), Nat.div_eq_of_lt b.isLt, Nat.zero_add]

theorem syndrome_flitOf (b : BitVec 256) : syndrome (flitOf b) = 0 := by
  have carried : bits (flitOf b) 264 256 = checkBits b := by
    rw [bits, ← Nat.shiftRight_eq_div_pow, flitOf_shiftRight, Nat.add_mul_mod_self_left]
    exact Nat.mod_eq_of_lt (checkBits_lt b)
  rw [syndrome, flitData_flitOf, carried, Nat.xor_self]

/-- The parity bit makes the parity of a flit even. -/
theorem flitParity_flitOf (b : BitVec 256) : flitParity (flitOf b) = false := by
  have body : parity 256 (flitOf b).toNat = parity 256 b.toNat := by
    rw [flitOf_toNat, ← parity_mod, Nat.add_mul_mod_self_left, parity_mod]
  have check : parity 9 (checkBits b + 2 ^ 9 * (parityBit b).toNat) = parity 9 (checkBits b) := by
    rw [← parity_mod, Nat.add_mul_mod_self_left, parity_mod]
  have top : parity 1 ((checkBits b + 2 ^ 9 * (parityBit b).toNat) >>> 9) = parityBit b := by
    rw [Nat.shiftRight_eq_div_pow, Nat.add_mul_div_left _ _ (Nat.two_pow_pos 9), Nat.div_eq_of_lt (checkBits_lt b), Nat.zero_add]
    cases parityBit b <;> rfl
  rw [flitParity, parity_add 256 10, body, flitOf_shiftRight, parity_add 9 1, check, top, ← Bool.xor_assoc]
  exact Bool.xor_self _

/-! ### A changed bit -/

/-- A flit with the one bit i. -/
def flitBit (i : Nat) : BitVec 272 := BitVec.ofNat 272 (2 ^ i)

theorem flitBit_toNat {i : Nat} (h : i < 266) : (flitBit i).toNat = 2 ^ i := by
  rw [flitBit, BitVec.toNat_ofNat]
  exact Nat.mod_eq_of_lt (Nat.pow_lt_pow_right (by decide) (by omega))

theorem flitParity_flitBit {i : Nat} (h : i < 266) : flitParity (flitBit i) = true := by
  rw [flitParity, flitBit_toNat h, parity_two_pow h]

theorem syndrome_flitBit_body {i : Nat} (h : i < 256) :
    flitData (flitBit i) = BitVec.ofNat 256 (2 ^ i) ∧ syndrome (flitBit i) = bodyPositions.getD i 0 := by
  have data : flitData (flitBit i) = BitVec.ofNat 256 (2 ^ i) := BitVec.setWidth_ofNat_of_le (by decide) _
  have small : 2 ^ i < 2 ^ 256 := Nat.pow_lt_pow_right (by decide) h
  have carried : bits (flitBit i) 264 256 = 0 := by
    rw [bits, flitBit_toNat (by omega), Nat.div_eq_of_lt small, Nat.zero_mod]
  exact ⟨data, by rw [syndrome, data, carried, checkBits_two_pow h, Nat.xor_zero]⟩

theorem syndrome_flitBit_check : ∀ i < 266, 256 ≤ i → flitData (flitBit i) = 0#256 ∧
    (syndrome (flitBit i) = 0 ∨ [1, 2, 4, 8, 16, 32, 64, 128, 256].contains (syndrome (flitBit i)) = true) := by decide +kernel

/-- Settles O48: the syndrome and the parity of a sound flit are zero, so that with one bit changed they are those of that bit alone. -/
theorem flitCodeCorrectsOneBit : Obligations.FlitCodeCorrectsOneBit := by
  unfold Obligations.FlitCodeCorrectsOneBit
  intro b
  have sound : flitBody (flitOf b) = some (b, false) := by
    rw [flitBody_clean (syndrome_flitOf b) (flitParity_flitOf b), flitData_flitOf]
  refine ⟨sound, fun i hi => ?_⟩
  change flitBody (flitOf b ^^^ flitBit i) = some (b, true)
  have data : flitData (flitOf b ^^^ flitBit i) = b ^^^ flitData (flitBit i) := by rw [flitData_xor, flitData_flitOf]
  have syn : syndrome (flitOf b ^^^ flitBit i) = syndrome (flitBit i) := by rw [syndrome_xor, syndrome_flitOf, Nat.zero_xor]
  have odd : flitParity (flitOf b ^^^ flitBit i) = true := by
    rw [flitParity_xor, flitParity_flitOf, flitParity_flitBit hi, Bool.false_xor]
  by_cases body : i < 256
  · obtain ⟨hd, hs⟩ := syndrome_flitBit_body body
    rw [flitBody_bodyBit body odd (syn.trans hs), data, hd, BitVec.xor_assoc, BitVec.xor_self, BitVec.xor_zero]
  · obtain ⟨hd, hs⟩ := syndrome_flitBit_check i hi (by omega)
    rw [flitBody_checkBit odd (syn ▸ hs), data, hd, BitVec.xor_zero]

end Sys2Proof.Machine
end

section
/-!
The register map (R13), the register file, and the pairs of registers that commit with their high half (R75).
-/
namespace Sys2Proof.Machine

/-! ### Offsets -/

theorem Reg.offset_aligned (r : Reg) (i j : Nat) : r.offset i j % 4 = 0 := by
  have ok := List.all_eq_true.mp Reg.all_inHalf r r.mem_all
  simp only [Bool.and_eq_true, decide_eq_true_eq] at ok
  obtain ⟨⟨⟨hI, hJ⟩, hO⟩, _⟩ := ok
  have alongI : i * r.info.stepI % 4 = 0 := by rw [Nat.mul_mod, hI]; simp
  have alongJ : j * r.info.stepJ % 4 = 0 := by rw [Nat.mul_mod, hJ]; simp
  unfold Reg.offset
  omega

theorem Reg.offset_lt {r : Reg} {i j : Nat} (hi : i < r.info.cntI) (hj : j < r.info.cntJ) : r.offset i j < 0x400000 := by
  have ok := List.all_eq_true.mp Reg.all_inHalf r r.mem_all
  simp only [Bool.and_eq_true, decide_eq_true_eq] at ok
  have alongI : i * r.info.stepI ≤ (r.info.cntI - 1) * r.info.stepI := Nat.mul_le_mul_right _ (by omega)
  have alongJ : j * r.info.stepJ ≤ (r.info.cntJ - 1) * r.info.stepJ := Nat.mul_le_mul_right _ (by omega)
  have last := ok.2
  unfold RegDef.last at last
  unfold Reg.offset
  omega

/-- An offset leads back to its element, so no two elements share one. -/
theorem Reg.offset_inj {r r' : Reg} {i j i' j' : Nat} (hi : i < r.info.cntI) (hj : j < r.info.cntJ) (hi' : i' < r'.info.cntI)
    (hj' : j' < r'.info.cntJ) (e : r.offset i j = r'.offset i' j') : r = r' ∧ i = i' ∧ j = j' := by
  have found := r.find_offset hi hj
  rw [e, r'.find_offset hi' hj'] at found
  simpa [eq_comm] using found

/-- Settles O15: the map's laws give the offsets, and different elements have different keys in the register file. -/
theorem registersHaveTheirAddresses : Obligations.RegistersHaveTheirAddresses := by
  unfold Obligations.RegistersHaveTheirAddresses
  refine ⟨⟨fun r i j hi hj => ⟨r.offset_aligned i j, Reg.offset_lt hi hj, r.find_offset hi hj⟩,
    fun r r' i j i' j' => Reg.offset_inj⟩, fun s r h i j v hi hj hh => ⟨s.reg_setReg_self r h i j v, ?frame⟩⟩
  case frame =>
    intro r' h' i' j' hi' hj' hh' differ
    refine s.reg_setReg_ne r r' h i j h' i' j' v fun same => ?_
    obtain ⟨hr, hI, hJ, hH⟩ := Reg.key_inj hi' hj' hh' hi hj hh same
    obtain h | h | h | ⟨h, m⟩ := differ
    · exact h hr
    · exact h hI
    · exact h hJ
    · exact h (hH (hr ▸ m))

/-! ### Other registers at the same element -/

/-- Different registers have different keys at the same element. -/
theorem Reg.key_ne {r r' : Reg} (ne : r ≠ r') {h : Nat} (hh : h < 2) (i j : Nat) : r.key h i j ≠ r'.key h i j := by
  intro same
  apply ne
  apply Reg.num_inj
  unfold Reg.key at same
  have hm : (if r.info.mirror then 0 else h) < 2 := by split <;> omega
  have hm' : (if r'.info.mirror then 0 else h) < 2 := by split <;> omega
  omega

/-- A write leaves the other registers of its element alone. -/
theorem State.reg_setReg_other (s : State) {r r' : Reg} (ne : r' ≠ r) {h : Nat} (hh : h < 2) (i j : Nat) (v : Word) :
    (s.setReg r h i j v).reg r' h i j = s.reg r' h i j :=
  s.reg_setReg_ne r r' h i j h i j v (Reg.key_ne ne hh i j)

/-! ### Staged halves and shadows -/

/-- The staging registers of different elements, or of different ports, are different. -/
theorem shadowKey_ne {r r' : Reg} {h i j p h' i' j' q : Nat} (hi : i < r.info.cntI) (hj : j < r.info.cntJ) (hh : h < 2) (hp : p < 4)
    (hi' : i' < r'.info.cntI) (hj' : j' < r'.info.cntJ) (hh' : h' < 2) (hq : q < 4)
    (differ : r' ≠ r ∨ i' ≠ i ∨ j' ≠ j ∨ q ≠ p ∨ (h' ≠ h ∧ r.info.mirror = false)) :
    shadowKey r' h' i' j' q ≠ shadowKey r h i j p := by
  unfold shadowKey
  intro same
  obtain ⟨hr, hI, hJ, hH⟩ := Reg.key_inj hi' hj' hh' hi hj hh (by omega : r'.key h' i' j' = r.key h i j)
  obtain h | h | h | h | ⟨h, m⟩ := differ
  · exact h hr
  · exact h hI
  · exact h hJ
  · omega
  · exact h (hH (hr ▸ m))

theorem State.stage_frame (s : State) (r : Reg) (h i j p : Nat) (v : Word) :
    s.stage r h i j p v = { s with staged := (s.stage r h i j p v).staged } := rfl

theorem State.staged_stage_self (s : State) (r : Reg) (h i j p : Nat) (v : Word) :
    mget 0 (s.stage r h i j p v).staged (shadowKey r h i j p) = v := mget_mset_self _ _ _ _

theorem State.commit_frame (s : State) (lo hi : Reg) (h i j p : Nat) (v : Word) :
    s.commit lo hi h i j p v = { s with regs := (s.commit lo hi h i j p v).regs } := rfl

theorem State.reg_commit_high (s : State) (lo hi : Reg) (h i j p : Nat) (v : Word) :
    (s.commit lo hi h i j p v).reg hi h i j = v &&& hi.info.rw := State.reg_setReg_self _ _ _ _ _ _

theorem State.reg_commit_low (s : State) {lo hi : Reg} {h i j : Nat} (p : Nat) (v : Word) (differ : lo.key h i j ≠ hi.key h i j) :
    (s.commit lo hi h i j p v).reg lo h i j = mget 0 s.staged (shadowKey lo h i j p) := by
  rw [State.commit, State.reg_setReg_ne _ _ _ _ _ _ _ _ _ _ differ, State.reg_setReg_self]

/-! ### Writes through a port -/

theorem portHalf_lt (p : Port) : portHalf p < 2 := by
  have hp := p.isLt
  unfold portHalf
  omega

/-- An address of an element fits the 24 bits of BAR0. -/
theorem Reg.addr_lt {r : Reg} {h i j : Nat} (hh : h < 2) (hi : i < r.info.cntI) (hj : j < r.info.cntJ) : r.addr h i j < 2 ^ 24 := by
  have off := Reg.offset_lt hi hj
  unfold Reg.addr
  omega

theorem Reg.toNat_addr {r : Reg} {h i j : Nat} (hh : h < 2) (hi : i < r.info.cntI) (hj : j < r.info.cntJ) :
    (BitVec.ofNat 24 (r.addr h i j)).toNat = r.addr h i j :=
  Nat.mod_eq_of_lt (Reg.addr_lt hh hi hj)

/-- A write by PAIR_COMMIT_WRITE that reaches its register is that register's store. -/
theorem exec_pairCommitWrite_of_reaches {s : State} {p : Port} {r : Reg} {i : Nat} (v : Word) (hr : s.reaches p r (portHalf p) i)
    (hi : i < r.info.cntI) (hj : 0 < r.info.cntJ) :
    exec (.pairCommitWrite p (BitVec.ofNat 24 (r.addr (portHalf p) i 0)) v) s = .next (s.store r (portHalf p) i 0 p v) := by
  rw [← wr_of_reaches hr p.isLt hi hj]
  exact congrArg (fun a => Host.Outcome.next (s.hostWrite p a 4 v)) (Reg.toNat_addr (portHalf_lt p) hi hj)

/-- The pairs of R75 whose low half is staged and whose high half commits, with nothing else to their writes. -/
def plainPairs : List (Reg × Reg) :=
  [(.SYNC_LOAD_LO, .SYNC_LOAD_HI), (.CTX_BASE_LO, .CTX_BASE_HI), (.DB_BASE_LO, .DB_BASE_HI), (.NT_MAC_LO, .NT_MAC_HI)]

/-- What the map and the stores say of these pairs. -/
theorem plainPairs_spec {lo hi : Reg} (h : (lo, hi) ∈ plainPairs) :
    lo ≠ hi ∧ hi.info.cntI = lo.info.cntI ∧ lo.info.cntJ = 1 ∧ hi.info.cntJ = 1 ∧
      ∀ (s : State) (h i p : Nat) (v : Word), s.store lo h i 0 p v = s.stage lo h i 0 p v ∧
        s.store hi h i 0 p v = s.commit lo hi h i 0 p v := by
  simp only [plainPairs, List.mem_cons, List.not_mem_nil, or_false, Prod.mk.injEq] at h
  obtain ⟨rfl, rfl⟩ | ⟨rfl, rfl⟩ | ⟨rfl, rfl⟩ | ⟨rfl, rfl⟩ := h <;>
    exact ⟨by decide, rfl, rfl, rfl, fun _ _ _ _ _ => ⟨rfl, rfl⟩⟩

/-- Settles O18: staging changes one staging register of one port, and the commit writes both registers of the pair. -/
theorem pairsCommitWithTheHighHalf : Obligations.PairsCommitWithTheHighHalf := by
  unfold Obligations.PairsCommitWithTheHighHalf
  intro p lo hi i v s pair bound
  obtain ⟨different, counts, loOne, hiOne, stores⟩ := plainPairs_spec pair
  have hh := portHalf_lt p
  refine ⟨fun reach => ?low, fun reach => ?high⟩
  case low =>
    refine ⟨s.stage lo (portHalf p) i 0 p v, ?_, s.stage_frame _ _ _ _ _ _, s.staged_stage_self _ _ _ _ _ _, ?_⟩
    · rw [exec_pairCommitWrite_of_reaches v reach bound (by omega), (stores _ _ _ _ _).1]
    · intro r h' i' j' q hh' hi' hj' hq differ
      exact mget_mset_ne _ _ _ _ _ (shadowKey_ne bound (by omega) hh p.isLt hi' hj' hh' hq differ)
  case high =>
    refine ⟨s.commit lo hi (portHalf p) i 0 p v, ?_, s.commit_frame _ _ _ _ _ _ _, s.reg_commit_low p v ?_, s.reg_commit_high _ _ _ _ _ _ _⟩
    · rw [exec_pairCommitWrite_of_reaches v reach (counts ▸ bound) (by omega), (stores _ _ _ _ _).2]
    · exact fun same => different (Reg.key_inj bound (by omega) hh (counts ▸ bound) (by omega) hh same).1

end Sys2Proof.Machine
end

section
/-!
Where a host write goes (R32 to R34, R42 to R44, R75, R426, R480, R490).
-/
namespace Sys2Proof.Machine

/-! ### Addresses -/

theorem Reg.addr_parts {r : Reg} {h i j : Nat} (hi : i < r.info.cntI) (hj : j < r.info.cntJ) :
    addrHalf (r.addr h i j) = h ∧ addrOff (r.addr h i j) = r.offset i j ∧ r.addr h i j % 4 = 0 := by
  have aligned := r.offset_aligned i j
  have inside := Reg.offset_lt hi hj
  unfold addrHalf addrOff Reg.addr
  omega

/-! ### Writes of BAR0 -/

/-- What an admitted write of BAR0 needs to know of its port: it takes memory requests (R426) and need not be secured (R480). -/
def State.opensBar0 (s : State) (p : Nat) : Prop := (s.port p).cfg.d3hot = false ∧ s.unsecured p = false

theorem State.admits.opensBar0 {s : State} {p : Nat} {via : Via} (h : s.admits p via) : s.opensBar0 p := ⟨h.1, h.2.1⟩

theorem hostWrite_of_d3hot {s : State} {p : Nat} (h : (s.port p).cfg.d3hot = true) (a size : Nat) (v : Word) :
    s.hostWrite p a size v = s := by
  simp [State.hostWrite, h]

theorem hostWrite_of_unsecured {s : State} {p : Nat} (hd : (s.port p).cfg.d3hot = false) (h : s.unsecured p = true) (a size : Nat)
    (v : Word) : s.hostWrite p a size v = s.foreign p := by
  simp [State.hostWrite, hd, h]

/-- R10, R41: an access that is no aligned word of the two halves has no effect. -/
theorem hostWrite_of_misshapen {s : State} {p a size : Nat} (ho : s.opensBar0 p) (h : size ≠ 4 ∨ a % 4 ≠ 0 ∨ 2 ≤ addrHalf a) (v : Word) :
    s.hostWrite p a size v = s := by
  obtain ⟨hd, hu⟩ := ho
  simp [State.hostWrite, hd, hu, h]

theorem hostWrite_near {s : State} {p a : Nat} (ho : s.opensBar0 p) (ha : a % 4 = 0) (hp : portHalf p < 2) (h : addrHalf a = portHalf p)
    (v : Word) : s.hostWrite p a 4 v = s.writeAt (portHalf p) (addrOff a) p v := by
  obtain ⟨hd, hu⟩ := ho
  have shaped : ¬ 2 ≤ portHalf p := Nat.not_le.mpr hp
  simp [State.hostWrite, hd, hu, ha, h, shaped]

theorem far_ne (g : Nat) : far g ≠ g := by unfold far; omega

theorem far_lt {g : Nat} (h : g < 2) : far g < 2 := by unfold far; omega

/-- R32, R34: a write to the far half leaves over the die link. -/
theorem hostWrite_far {s : State} {p a : Nat} (ho : s.opensBar0 p) (ha : a % 4 = 0) (hp : portHalf p < 2)
    (h : addrHalf a = far (portHalf p)) (v : Word) : s.hostWrite p a 4 v =
      if !s.answers (addrOff a) then s
      else if s.linkUp then s.send (portHalf p) (.regWrite p a v) else s.count .FAR_WR_DISCARD (portHalf p) 0 := by
  obtain ⟨hd, hu⟩ := ho
  have shaped : ¬ 2 ≤ far (portHalf p) := Nat.not_le.mpr (far_lt hp)
  simp [State.hostWrite, hd, hu, ha, h, shaped, far_ne]

theorem writeAt_of_none {s : State} {h off p : Nat} (hn : Reg.find off = none) (v : Word) : s.writeAt h off p v = s := by
  rw [State.writeAt, hn]

/-- R44: a write that the port's partition may not make is ignored and counted. -/
theorem writeAt_of_foreign {s : State} {r : Reg} {h i j p : Nat} (hi : i < r.info.cntI) (hj : j < r.info.cntJ)
    (answers : (s.ready || r.early) = true) (live : r.inert h i = false) (hr : r ≠ .BOOT_RECAST) (hm : s.mayWrite r h i p = false) (v : Word) :
    s.writeAt h (r.offset i j) p v = s.foreignWrite r h i p := by
  rw [State.writeAt, r.find_offset hi hj]
  simp [answers, live, hm, hr]

/-! ### The commands -/

theorem exec_registerWrite (p : Port) (x : Target) (via : Via) (v : Word) (s : State) :
    exec (.registerWrite p x via v) s = execRegisterWrite p x via v s := rfl

theorem exec_registerWrite_bar0 {s : State} {p : Port} {via : Via} (ho : s.outside p via = false) (a : BitVec 24) (size : Nat) (v : Word) :
    exec (.registerWrite p (.bar0 a size) via v) s = .next (s.hostWrite p a.toNat size v) := by
  simp [exec_registerWrite, execRegisterWrite, ho]

theorem exec_registerWrite_bar0_outside {s : State} {p : Port} {via : Via} (ho : s.outside p via = true) (a : BitVec 24) (size : Nat)
    (v : Word) : exec (.registerWrite p (.bar0 a size) via v) s = .next (s.foreign p) := by
  simp [exec_registerWrite, execRegisterWrite, ho]

/-- R426: BAR2 takes no write outside a Secure stream that is required, and none in D3hot. -/
theorem exec_registerWrite_bar2_refused {s : State} {p : Port} {via : Via} (h : s.outside p via = true ∨ (s.port p).cfg.d3hot = true)
    (b : BitVec 16) (v : Word) : exec (.registerWrite p (.bar2 b) via v) s = .next s := by
  rw [exec_registerWrite, execRegisterWrite, if_pos h]

theorem exec_registerWrite_bar2 {s : State} {p : Port} {via : Via} (h : s.admits p via) (b : BitVec 16) (v : Word) :
    exec (.registerWrite p (.bar2 b) via v) s =
      .next ((s.modPort p fun y => { y with cfg := y.cfg.bar2Write b.toNat v }).settleMsix p) := by
  obtain ⟨hd, _, ho⟩ := h
  simp [exec_registerWrite, execRegisterWrite, ho, hd]

theorem exec_pairCommitWrite (p : Port) (a : BitVec 24) (v : Word) (s : State) :
    exec (.pairCommitWrite p a v) s = .next (s.hostWrite p a.toNat 4 v) := rfl

/-- An admitted write of BAR0 goes where `WritesGo` says. -/
theorem writesGo_of_admits {s : State} {p : Port} {via : Via} (v : Word) (h : s.admits p via) :
    s.WritesGo p v (fun a size => .registerWrite p (.bar0 a size) via v) := by
  have opens := h.opensBar0
  have half := portHalf_lt p
  unfold State.WritesGo
  simp only [exec_registerWrite_bar0 h.2.2, Host.Outcome.next.injEq]
  refine ⟨?reaches, ?foreign, ?far, ?misshapen, ?nowhere⟩
  case reaches =>
    intro r i j hi hj reach
    rw [Reg.toNat_addr half hi hj]
    exact wr_of_reaches reach p.isLt hi hj
  case foreign =>
    intro r i j hi hj answers live hr hm
    obtain ⟨hHalf, hOff, aligned⟩ := Reg.addr_parts (r := r) (h := portHalf p) hi hj
    rw [Reg.toNat_addr half hi hj, hostWrite_near opens aligned half hHalf, hOff]
    exact writeAt_of_foreign hi hj answers live hr hm v
  case far => exact fun a ha hh => hostWrite_far opens ha half hh v
  case misshapen => exact fun a size hs => hostWrite_of_misshapen opens hs v
  case nowhere =>
    intro a ha hh hn
    rw [hostWrite_near opens ha half hh, writeAt_of_none hn]

/-- Settles O17: a write of BAR0 is sorted by its address, one that is not admitted by what refuses it, one of the other two targets by
the port's link and power state. -/
theorem writesOfBarGoToTheirRegister : Obligations.WritesOfBarGoToTheirRegister := by
  unfold Obligations.WritesOfBarGoToTheirRegister
  refine ⟨fun p via v s h => ⟨writesGo_of_admits v h, fun a => (exec_registerWrite_bar0 h.2.2 a 4 v).symm⟩, ?refused, ?others⟩
  case refused =>
    intro p via a size b v s
    refine ⟨fun ho => ⟨exec_registerWrite_bar0_outside ho a size v, exec_registerWrite_bar2_refused (.inl ho) b v⟩, fun hd hu => ?_,
      fun hd ho => ⟨?_, exec_registerWrite_bar2_refused (.inr hd) b v, ?_⟩⟩
    · rw [exec_pairCommitWrite, hostWrite_of_unsecured hd hu]
    · rw [exec_registerWrite_bar0 ho, hostWrite_of_d3hot hd]
    · rw [exec_pairCommitWrite, hostWrite_of_d3hot hd]
  case others =>
    intro p via b x v s
    refine ⟨fun h => exec_registerWrite_bar2 h b v, fun h => ?_, fun h => ?_⟩ <;> simp [exec_registerWrite, execRegisterWrite, h]

end Sys2Proof.Machine
end

section
/-!
What a host read answers, and what it captures for its port (R32, R34, R42 to R44, R73, R74, R238, R426, R480, R490).
-/
namespace Sys2Proof.Machine

/-! ### Captures -/

/-- Shadows under other keys stay. -/
theorem mget_shadows_forEach_ne {f : Reg → Word} {h i j p k : Nat} (l : List Reg) (hk : ∀ x ∈ l, k ≠ shadowKey x h i j p) (t : State) :
    mget 0 (t.forEach l fun t x => { t with shadows := mset 0 t.shadows (shadowKey x h i j p) (f x) }).shadows k = mget 0 t.shadows k := by
  unfold State.forEach
  induction l generalizing t with
  | nil => rfl
  | cons x l ih =>
    rw [List.foldl_cons, ih (fun y hy => hk y (List.mem_cons_of_mem x hy))]
    exact mget_mset_ne _ _ _ _ _ (hk x List.mem_cons_self)

/-- A shadow that is written for the registers of a list, each with its own value, holds that of each of them. -/
theorem mget_shadows_forEach {f : Reg → Word} {h i j p : Nat} (hh : h < 2) {l : List Reg} {x : Reg} (hx : x ∈ l) (t : State) :
    mget 0 (t.forEach l fun t x => { t with shadows := mset 0 t.shadows (shadowKey x h i j p) (f x) }).shadows (shadowKey x h i j p) =
      f x := by
  unfold State.forEach
  induction l generalizing t with
  | nil => cases hx
  | cons y l ih =>
    by_cases later : x ∈ l
    · exact ih later _
    · have same : x = y := (List.mem_cons.mp hx).resolve_right later
      subst same
      refine (mget_shadows_forEach_ne l (fun z hz => ?_) _).trans (mget_mset_self _ _ _ _)
      have keys := Reg.key_ne (fun e : x = z => later (e ▸ hz)) hh i j
      unfold shadowKey
      omega

/-- Only the shadows change. -/
theorem forEach_shadows_frame {f : Reg → Word} {h i j p : Nat} (l : List Reg) (t : State) :
    let u := t.forEach l fun t x => { t with shadows := mset 0 t.shadows (shadowKey x h i j p) (f x) }
    u = { t with shadows := u.shadows } := by
  unfold State.forEach
  induction l generalizing t with
  | nil => rfl
  | cons x l ih =>
    dsimp only [List.foldl_cons] at ih ⊢
    exact ih _

theorem readReg_of_shadowed {s : State} {r : Reg} (hs : r.shadowed = true) (h i j p : Nat) :
    s.readReg r h i j p = (mget 0 s.shadows (shadowKey r h i j p), s) := by
  rw [State.readReg, if_pos hs]

theorem readReg_of_not_shadowed {s : State} {r : Reg} (hs : r.shadowed = false) (h i j p : Nat) : s.readReg r h i j p =
    (s.load r h i j p,
      s.forEach r.captures fun t x => { t with shadows := mset 0 t.shadows (shadowKey x h i j p) (s.load x h i j p) }) := by
  rw [State.readReg, if_neg (by simp [hs])]

/-! ### Reads of BAR0 -/

theorem hostRead_of_d3hot {s : State} {p : Nat} (h : (s.port p).cfg.d3hot = true) (a size : Nat) :
    s.hostRead p a size = s.answer p 0xFFFFFFFF := by
  simp [State.hostRead, h]

theorem hostRead_of_misshapen {s : State} {p a size : Nat} (ho : s.opensBar0 p) (h : size ≠ 4 ∨ a % 4 ≠ 0 ∨ 2 ≤ addrHalf a) :
    s.hostRead p a size = s.answer p 0 := by
  obtain ⟨hd, hu⟩ := ho
  simp [State.hostRead, hd, hu, h]

theorem hostRead_near {s : State} {p a : Nat} (ho : s.opensBar0 p) (ha : a % 4 = 0) (hp : portHalf p < 2) (h : addrHalf a = portHalf p) :
    s.hostRead p a 4 = (s.readAt (portHalf p) (addrOff a) p).2.answer p (s.readAt (portHalf p) (addrOff a) p).1 := by
  obtain ⟨hd, hu⟩ := ho
  have shaped : ¬ 2 ≤ portHalf p := Nat.not_le.mpr hp
  simp [State.hostRead, hd, hu, ha, h, shaped]

/-- R32, R34: a read of the far half leaves over the die link. -/
theorem hostRead_far {s : State} {p a : Nat} (ho : s.opensBar0 p) (ha : a % 4 = 0) (hp : portHalf p < 2)
    (h : addrHalf a = far (portHalf p)) : s.hostRead p a 4 =
      if !s.answers (addrOff a) then s.answer p 0
      else if s.linkUp then s.send (portHalf p) (.regRead p a) else s.answer p 0xFFFFFFFF := by
  obtain ⟨hd, hu⟩ := ho
  have shaped : ¬ 2 ≤ far (portHalf p) := Nat.not_le.mpr (far_lt hp)
  simp [State.hostRead, hd, hu, ha, h, shaped, far_ne]

/-- R42, R44, R490: a register that does not answer the port reads zero. -/
theorem readAt_of_silent {s : State} {r : Reg} {h i j p : Nat} (hi : i < r.info.cntI) (hj : j < r.info.cntJ)
    (hs : (s.ready || r.early) = false ∨ r.inert h i = true ∨ s.mayRead r h i p = false) : s.readAt h (r.offset i j) p = (0, s) := by
  rw [State.readAt, r.find_offset hi hj]
  refine if_neg ?_
  simp only [Bool.and_eq_true, Bool.not_eq_true']
  rintro ⟨⟨answers, live⟩, may⟩
  obtain h | h | h := hs <;> simp_all

theorem readAt_of_none {s : State} {h off p : Nat} (hn : Reg.find off = none) : s.readAt h off p = (0, s) := by
  rw [State.readAt, hn]

/-- A read that a register of the near half answers. -/
theorem hostRead_of_readable {s : State} {p : Port} {r : Reg} {h i j : Nat} (hr : s.readable p r h i) (hi : i < r.info.cntI)
    (hj : j < r.info.cntJ) : s.hostRead p (r.addr h i j) 4 = (s.readReg r h i j p).2.answer p (s.readReg r h i j p).1 := by
  obtain ⟨rfl, hd, hu, answers, live, may⟩ := hr
  obtain ⟨hHalf, hOff, aligned⟩ := Reg.addr_parts (r := r) (h := portHalf p) hi hj
  have read : s.readAt (portHalf p) (r.offset i j) p = s.readReg r (portHalf p) i j p := by
    rw [State.readAt, r.find_offset hi hj]
    exact if_pos (by simp [answers, live, may])
  rw [hostRead_near ⟨hd, hu⟩ aligned (portHalf_lt p) hHalf, hOff, read]

/-- R73: a read of a register captures the rest of its value and answers the port. -/
theorem hostRead_captures {s : State} {p : Port} {r : Reg} {h i j : Nat} (hr : s.readable p r h i) (hi : i < r.info.cntI)
    (hj : j < r.info.cntJ) (hs : r.shadowed = false) :
    ∃ t, s.hostRead p (r.addr h i j) 4 = t ∧ t.lastRead = mset 0 s.lastRead p (s.load r h i j p) ∧
      t = { s with lastRead := t.lastRead, shadows := t.shadows } ∧
      (∀ x ∈ r.captures, mget 0 t.shadows (shadowKey x h i j p) = s.load x h i j p) ∧
      (∀ (x : Reg) (h' i' j' q : Nat), q < 4 → q ≠ p.val →
        mget 0 t.shadows (shadowKey x h' i' j' q) = mget 0 s.shadows (shadowKey x h' i' j' q)) := by
  have half : h < 2 := hr.1 ▸ portHalf_lt p
  have frame := forEach_shadows_frame (f := fun x => s.load x h i j p) (h := h) (i := i) (j := j) (p := p) r.captures s
  rw [hostRead_of_readable hr hi hj, readReg_of_not_shadowed hs]
  refine ⟨_, rfl, ?answer, ?frame, ?captured, ?others⟩
  case answer => rw [frame]; rfl
  case frame => rw [frame]; rfl
  case captured => exact fun x hx => mget_shadows_forEach half hx s
  case others =>
    intro x h' i' j' q hq ne
    refine mget_shadows_forEach_ne _ (fun y _ => ?_) s
    have hp := p.isLt
    unfold shadowKey
    omega

/-! ### The commands -/

theorem exec_snapshotRead (p : Port) (bar2 : Bool) (a : BitVec 24) (size : Nat) (via : Via) (s : State) :
    exec (.snapshotRead p bar2 a size via) s = execSnapshotRead p bar2 a size via s := rfl

theorem exec_snapshotRead_bar0 {s : State} {p : Port} {via : Via} (ho : s.outside p via = false) (a : BitVec 24) (size : Nat) :
    exec (.snapshotRead p false a size via) s = .next (s.hostRead p a.toNat size) := by
  simp [exec_snapshotRead, execSnapshotRead, ho]

/-- R480: a read outside a required Secure stream is counted and answers all ones. -/
theorem exec_snapshotRead_outside {s : State} {p : Port} {via : Via} (ho : s.outside p via = true) (a : BitVec 24) (size : Nat) :
    exec (.snapshotRead p false a size via) s = .next ((s.foreign p).answer p 0xFFFFFFFF) := by
  simp [exec_snapshotRead, execSnapshotRead, ho]

theorem exec_snapshotRead_bar2_refused {s : State} {p : Port} {via : Via} (h : s.outside p via = true ∨ (s.port p).cfg.d3hot = true)
    (a : BitVec 24) (size : Nat) : exec (.snapshotRead p true a size via) s = .next (s.answer p 0xFFFFFFFF) := by
  rw [exec_snapshotRead, execSnapshotRead, if_pos rfl, if_pos h]

theorem exec_snapshotRead_bar2 {s : State} {p : Port} {via : Via} (ho : s.outside p via = false) (hd : (s.port p).cfg.d3hot = false)
    (a : BitVec 24) (size : Nat) : exec (.snapshotRead p true a size via) s = .next (s.answer p ((s.port p).cfg.bar2Read a.toNat)) := by
  simp [exec_snapshotRead, execSnapshotRead, ho, hd]

/-- An admitted read of the near half that no register answers. -/
theorem hostRead_of_silent {s : State} {p : Port} {r : Reg} {i j : Nat} (ho : s.opensBar0 p) (hi : i < r.info.cntI) (hj : j < r.info.cntJ)
    (hs : (s.ready || r.early) = false ∨ r.inert (portHalf p) i = true ∨ s.mayRead r (portHalf p) i p = false) :
    s.hostRead p (r.addr (portHalf p) i j) 4 = s.answer p 0 := by
  obtain ⟨hHalf, hOff, aligned⟩ := Reg.addr_parts (r := r) (h := portHalf p) hi hj
  rw [hostRead_near ho aligned (portHalf_lt p) hHalf, hOff, readAt_of_silent hi hj hs]

/-- R238: LAST_XI captures the two registers of its result. -/
theorem exec_lastXiRead_captures {s : State} {p : Port} {c : ChIx} (hr : s.readable p .LAST_XI (c.val / 256) (c.val % 256)) :
    ∃ t, exec (.lastXiRead p c) s = .next t ∧
      t.lastRead = mset 0 s.lastRead p (s.load .LAST_XI (c.val / 256) (c.val % 256) 0 p) ∧
      t = { s with lastRead := t.lastRead, shadows := t.shadows } ∧
      mget 0 t.shadows (shadowKey .LAST_XQ (c.val / 256) (c.val % 256) 0 p) = s.load .LAST_XQ (c.val / 256) (c.val % 256) 0 p ∧
      mget 0 t.shadows (shadowKey .LAST_TOKEN (c.val / 256) (c.val % 256) 0 p) =
        s.load .LAST_TOKEN (c.val / 256) (c.val % 256) 0 p := by
  have element : c.val % 256 < Reg.LAST_XI.info.cntI := Nat.mod_lt _ (by decide)
  obtain ⟨t, ht, answer, frame, captured, _⟩ := hostRead_captures hr element (by decide : 0 < Reg.LAST_XI.info.cntJ) rfl
  exact ⟨t, congrArg Host.Outcome.next ht, answer, frame, captured _ List.mem_cons_self,
    captured _ (List.mem_cons_of_mem _ List.mem_cons_self)⟩

/-- Settles O60: an admitted read of BAR0 is sorted by its address and by what the port may read there, any other by what refuses it. -/
theorem readsCaptureSnapshots : Obligations.ReadsCaptureSnapshots := by
  unfold Obligations.ReadsCaptureSnapshots
  intro p via s read
  have half := portHalf_lt p
  refine ⟨fun ho => ?inside, fun ho a size => exec_snapshotRead_outside ho a size,
    fun a size => ⟨fun h => exec_snapshotRead_bar2_refused h a size, fun ho hd => exec_snapshotRead_bar2 ho hd a size⟩,
    fun c => exec_lastXiRead_captures⟩
  have hread (a : BitVec 24) (size : Nat) : read a size = .next (s.hostRead p a.toNat size) := exec_snapshotRead_bar0 ho a size
  simp only [hread, Host.Outcome.next.injEq]
  refine ⟨?captures, ?shadowed, ?admitted, fun hd a size => hostRead_of_d3hot hd _ _⟩
  case captures =>
    intro r i j hi hj hr hs
    rw [Reg.toNat_addr half hi hj]
    exact hostRead_captures hr hi hj hs
  case shadowed =>
    intro r i j hi hj hr hs
    rw [Reg.toNat_addr half hi hj, hostRead_of_readable hr hi hj, readReg_of_shadowed hs]
  case admitted =>
    intro h
    have opens := h.opensBar0
    refine ⟨fun r i j hi hj hs => ?_, fun a size hs => hostRead_of_misshapen opens hs, fun a ha hh hn => ?_,
      fun a ha hh => hostRead_far opens ha half hh⟩
    · rw [Reg.toNat_addr half hi hj, hostRead_of_silent opens hi hj hs]
    · rw [hostRead_near opens ha half hh, readAt_of_none hn]

end Sys2Proof.Machine
end

section
/-!
The writes of the drive and readout registers.
-/
namespace Sys2Proof.Machine

/-- A write that reaches a register of its own half, where the store is known. -/
theorem next_wr_of_reaches {s t : State} {p : Port} {r : Reg} {h i j : Nat} {v : Word} (hr : s.reaches p r h i) (hi : i < r.info.cntI)
    (hj : j < r.info.cntJ) (hs : s.store r h i j p v = t) :
    (Host.Outcome.next (s.wr p r h i j v) : Host.Outcome State Fault Refusal) = .next t := by
  rw [wr_of_reaches hr p.isLt hi hj, hs]

/-! ### DAC_CTL -/

/-- R189: with MODE as it is, or EN off before, the whole operand is stored. -/
theorem wrDacCtl_of_modeOk {s : State} {h k : Nat} {v : Word} (hm : bit v 1 = bit (s.reg .DAC_CTL h k) 1 ∨ bit (s.reg .DAC_CTL h k) 0 = false) :
    s.wrDacCtl h k v =
      let t := s.setReg .DAC_CTL h k 0 (v &&& 7)
      if bit v 0 && !bit (s.reg .DAC_CTL h k) 0 then (t.testOff h k).enSet (enDac h k) (some (s.now h))
      else if bit (s.reg .DAC_CTL h k) 0 && !bit v 0 then
        let t := (t.forEach (dacQueues h k) fun s q => s.disableQueue q).enSet (enDac h k) none
        if t.calDac h k then t.endCal h 0x02 else t
      else t := by
  have modeOk : (bit v 1 == bit (s.reg .DAC_CTL h k) 1 || !bit (s.reg .DAC_CTL h k) 0) = true := by
    obtain h | h := hm <;> simp [h]
  unfold State.wrDacCtl
  simp only [modeOk, if_true]
  rfl

/-- R189: while EN is on, a change of MODE is counted and ignored. -/
theorem wrDacCtl_of_modeBlocked {s : State} {h k : Nat} {v : Word} (hm : bit v 1 ≠ bit (s.reg .DAC_CTL h k) 1)
    (on : bit (s.reg .DAC_CTL h k) 0 = true) (hv : bit v 0 = true) :
    s.wrDacCtl h k v = (s.count .DRV_IGNORED_WRITES h 0).setReg .DAC_CTL h k 0 (setBit v 1 (bit (s.reg .DAC_CTL h k) 1) &&& 7) := by
  simp [State.wrDacCtl, hm, on, hv]

/-! ### SLOT_CTL and DAC_SCALE -/

/-- The slot's mute of a write, in force from the next row on (R200). -/
def State.slotMuted (s : State) (h i : Nat) (v : Word) : State :=
  (s.setReg .SLOT_CTL h i 0 (v &&& 1)).delay (Reg.SLOT_CTL.key h i 0) (s.row h + 1) (v &&& 1)

theorem wrSlotCtl_eq (s : State) (h i : Nat) (v : Word) : s.wrSlotCtl h i v =
    if bit v 1 then
      if s.slotInRun h i then (s.slotMuted h i v).count .DRV_IGNORED_WRITES h 0
      else (s.slotMuted h i v).oscSet (slotQ h i) (s.nextBoundary h) fun o => { o with p := 0, tref := t48 (s.nextBoundary h) }
    else s.slotMuted h i v := rfl

/-- Settles O19: each clause is the branch of the register's write that its hypotheses select. -/
theorem driveWritesAct : Obligations.DriveWritesAct := by
  unfold Obligations.DriveWritesAct
  intro p h k i v s
  refine ⟨fun reach => ?dacCtl, fun reach => next_wr_of_reaches reach k.isLt Nat.one_pos rfl, fun reach => ?slotCtl,
    fun reach => next_wr_of_reaches reach k.isLt Nat.one_pos rfl⟩
  case dacCtl =>
    refine ⟨fun off on => ?_, fun on off same => ?_, fun was off => ?_, fun same mode => ?_, fun was on mode => ?_⟩ <;>
      refine next_wr_of_reaches reach k.isLt Nat.one_pos ?_
    · exact (wrDacCtl_of_modeOk (.inr off)).trans (by simp [off, on])
    · exact (wrDacCtl_of_modeOk (.inl same)).trans (by simp [off, on])
    · exact (wrDacCtl_of_modeOk (.inr was)).trans (by simp [was, off])
    · exact (wrDacCtl_of_modeOk (.inl mode)).trans (by simp [same])
    · exact wrDacCtl_of_modeBlocked mode was on
  case slotCtl =>
    refine ⟨fun noReset => ?_, fun reset free => ?_, fun reset run => ?_⟩ <;>
      refine next_wr_of_reaches reach i.isLt Nat.one_pos ((wrSlotCtl_eq _ _ _ _).trans ?_)
    · rw [if_neg (by simp [noReset])]; rfl
    · rw [if_pos reset, if_neg (by simp [free])]; rfl
    · rw [if_pos reset, if_pos run]; rfl

/-! ### IN_CTL -/

theorem wrInCtl_on {s : State} {i : Nat} {v : Word} (was : bit (s.reg .IN_CTL (i / 8) (i % 8)) 0 = false) (on : bit v 0 = true) :
    s.wrInCtl i v =
      ((s.setReg .IN_CTL (i / 8) (i % 8) 0 (v &&& 1)).testOff (i / 8) (88 + i % 8)).enSet (enInput i) (some (s.now (i / 8))) := by
  simp only [State.wrInCtl, was, on, Bool.not_false, Bool.and_self, if_true]
  rfl

theorem wrInCtl_off {s : State} {i : Nat} {v : Word} (was : bit (s.reg .IN_CTL (i / 8) (i % 8)) 0 = true) (off : bit v 0 = false) :
    s.wrInCtl i v =
      let t := (s.setReg .IN_CTL (i / 8) (i % 8) 0 (v &&& 1)).forEach (inQueues i) fun s q => s.disableQueue q
      let t := { t with wins := t.wins.filter fun w => w.ch / 32 ≠ i || decide (w.t + w.len ≤ s.nextBoundary (i / 8)) }
      let t := (t.capSourceOff i).enSet (enInput i) none
      if t.calOn (i / 8) 3 i || t.calOn (i / 8) 4 i then t.endCal (i / 8) 0x02 else t := by
  simp only [State.wrInCtl, was, off, Bool.not_true, Bool.not_false, Bool.and_self, Bool.false_eq_true, if_false, if_true]
  rfl

/-! ### CH_CTL -/

/-- A channel that no run holds takes a write unless it names a lane of another owner (R237). -/
theorem wrChCtl_of_taken {s : State} {c : Nat} {v : Word} (free : s.inRun (1024 + c) = false)
    (lane : bit v 7 = true → s.ownLane (16 * (c / 256) + bits v 11 8) = s.ownPair (c / 32)) : s.wrChCtl c v =
      let t := s.setReg .CH_CTL (c / 256) (c % 256) 0 (v &&& 0xF83)
      let t := if bit v 3 then t.clearAvg c else t
      if bit v 2 then t.oscSet (1024 + c) (t.nextBoundary (c / 256)) fun o => { o with p := 0, tref := t48 (t.nextBoundary (c / 256)) }
      else t := by
  have allowed : (bit v 7 && s.ownLane (16 * (c / 256) + bits v 11 8) != s.ownPair (c / 32)) = false := by
    cases h : bit v 7 with
    | false => rfl
    | true => simp [lane h]
  simp only [State.wrChCtl, free, allowed, Bool.false_eq_true, if_false]

/-- Settles O20: each clause is the branch of the register's write that its hypotheses select. -/
theorem readoutWritesAct : Obligations.ReadoutWritesAct := by
  unfold Obligations.ReadoutWritesAct
  intro p i c v s
  have input : 8 * (i.val / 8) + i.val % 8 = i := Nat.div_add_mod _ _
  have channel : 256 * (c.val / 256) + c.val % 256 = c := Nat.div_add_mod _ _
  refine ⟨fun reach => ?inCtl, fun reach free lane => ?chCtl⟩
  case inCtl =>
    have stored : s.store .IN_CTL (i / 8) (i % 8) 0 p v = s.wrInCtl i v := congrArg (s.wrInCtl · v) input
    refine ⟨fun was on => ?_, fun was off => ?_⟩ <;>
      refine next_wr_of_reaches reach (Nat.mod_lt _ (by decide)) Nat.one_pos (stored.trans ?_)
    · exact wrInCtl_on was on
    · exact wrInCtl_off was off
  case chCtl =>
    have stored : s.store .CH_CTL (c / 256) (c % 256) 0 p v = s.wrChCtl c v := congrArg (s.wrChCtl · v) channel
    refine ⟨fun clear noReset => ?_, fun noClear reset => ?_⟩ <;>
      refine next_wr_of_reaches reach (Nat.mod_lt _ (by decide)) Nat.one_pos (stored.trans ((wrChCtl_of_taken free lane).trans ?_))
    · simp only [clear, noReset, if_true, Bool.false_eq_true, if_false]
    · simp only [noClear, reset, if_true, Bool.false_eq_true, if_false]
      rfl

end Sys2Proof.Machine
end

section
/-!
The writes of the flux, monitor, auxiliary and lane registers.
-/
namespace Sys2Proof.Machine

/-! ### The flux registers -/

/-- R295: a channel that changes its range takes no write but one that clears EN of a channel in no phase of a change. -/
theorem wrFlxCtl_of_changing {s : State} {f : Nat} {v : Word} (hc : s.fluxChanging f = true)
    (keeps : bit (s.flxCtl f) 0 = false ∨ bit v 0 = true ∨ (s.fluxCh f).phase ≠ .none) : s.wrFlxCtl f v = s.flxIgnored (f / 64) := by
  have refused : (s.fluxChanging f && !(bit (s.flxCtl f) 0 && !bit v 0 && (s.fluxCh f).phase == .none)) = true := by
    obtain h | h | h := keeps <;> simp [hc, h]
  exact if_pos refused

/-- R306: a write that only clears EN disables the channel. -/
theorem wrFlxCtl_off {s : State} {f : Nat} {v : Word} (taken : s.fluxChanging f = false ∨ (s.fluxCh f).phase = .none)
    (was : bit (s.flxCtl f) 0 = true) (off : bit v 0 = false) (mode : bit v 1 = bit (s.flxCtl f) 1) (range : bit v 2 = bit (s.flxCtl f) 2) :
    s.wrFlxCtl f v = (s.setReg .FLX_CTL (f / 64) (f % 64) 0 (setBit (setBit (s.flxCtl f) 0 false) 3 (bit v 3))).fluxDisable f := by
  obtain h | h := taken <;> simp [State.wrFlxCtl, h, was, off, mode, range]

/-- R286: with every channel of the group free, a strobe is queued. -/
theorem wrFgStrobe_of_free {s : State} {g : Nat} {v : Word} (strobe : bit v 0 = true) (free : ∀ i < 8, s.inRun (fluxQ (8 * g + i)) = false) :
    s.wrFgStrobe g v = { s with strobes := s.strobes ++ [⟨g, s.nextBoundary (g / 8) + 640⟩] } := by
  have none : ((List.range 8).any fun i => s.inRun (fluxQ (8 * g + i))) = false := by
    rw [List.any_eq_false]
    intro i hi
    rw [free i (List.mem_range.mp hi)]
    decide
  simp only [State.wrFgStrobe, strobe, none, Bool.not_true, Bool.false_eq_true, if_false]

/-- Settles O21: each clause is the branch of the register's write that its hypotheses select. -/
theorem fluxWritesAct : Obligations.FluxWritesAct := by
  unfold Obligations.FluxWritesAct
  intro p f g v s
  have channel : 64 * (f.val / 64) + f.val % 64 = f := Nat.div_add_mod _ _
  have group : 8 * (g.val / 8) + g.val % 8 = g := Nat.div_add_mod _ _
  have half : f.val / 64 < 2 := Nat.div_lt_of_lt_mul f.isLt
  have acts {u : State} (reach : s.reaches p .FLX_CTL (f / 64) (f % 64)) (h : s.wrFlxCtl f v = u) :
      (Host.Outcome.next (s.wr p .FLX_CTL (f / 64) (f % 64) 0 v) : Host.Outcome State Fault Refusal) = .next u :=
    next_wr_of_reaches reach (Nat.mod_lt _ (by decide)) Nat.one_pos ((congrArg (s.wrFlxCtl · v) channel).trans h)
  refine ⟨fun reach still => ⟨?enable, ?rangeOn, ?rangeOff, ?modeOff, ?modeOn⟩,
    fun reach taken was off mode range => acts reach (wrFlxCtl_off taken was off mode range),
    fun reach changing keeps => acts reach (wrFlxCtl_of_changing changing keeps), fun reach => ?level, fun reach strobe free => ?strobe⟩
  case enable =>
    intro was on mode range
    exact acts reach (by simp [State.wrFlxCtl, still, was, on, mode, range])
  case rangeOn =>
    intro was on mode range free
    refine acts reach ?_
    simp [State.wrFlxCtl, still, was, on, mode, range, free, State.reg_setReg_other _ (by decide : Reg.FLX_SLEW ≠ .FLX_CTL) half]
    rfl
  case rangeOff =>
    intro was off mode range
    exact acts reach (by simp [State.wrFlxCtl, still, was, off, mode, range])
  case modeOff =>
    intro was off mode range free
    exact acts reach (by simp [State.wrFlxCtl, still, was, off, mode, range, free])
  case modeOn =>
    intro was on mode range free
    exact acts reach (by simp [State.wrFlxCtl, still, was, on, mode, range, free])
  case level =>
    exact next_wr_of_reaches reach (Nat.mod_lt _ (by decide)) Nat.one_pos (congrArg (s.wrFlxLevel · v) channel)
  case strobe =>
    exact next_wr_of_reaches reach (Nat.mod_lt _ (by decide)) Nat.one_pos
      ((congrArg (s.wrFgStrobe · v) group).trans (wrFgStrobe_of_free strobe free))

/-! ### The monitor registers -/

/-- A field under a mask that has all its bits keeps its value. -/
theorem bits_and_of_ones {w : Nat} (v m : BitVec w) {hi lo : Nat} (h : bits m hi lo = 2 ^ (hi + 1 - lo) - 1) :
    bits (v &&& m) hi lo = bits v hi lo := by
  rw [bits] at h
  rw [bits, bits, BitVec.toNat_and, Nat.and_div_two_pow, Nat.and_mod_two_pow, h, Nat.and_two_pow_sub_one_eq_mod, Nat.mod_mod]

/-- The bits that MON_CFG of monitor m holds (R319, R326). -/
def monMask (m : Nat) : Word := if 24 ≤ m ∧ m < 88 then 0xFF03001D else 0xFF03000D

theorem monMask_keeps (m : Nat) (v : Word) : bits (v &&& monMask m) 17 16 = bits v 17 16 ∧ bit (v &&& monMask m) 0 = bit v 0 := by
  refine ⟨bits_and_of_ones v _ (by unfold monMask; split <;> decide), ?_⟩
  have kept : bit (monMask m) 0 = true := by unfold monMask; split <;> decide
  rw [bit, BitVec.getLsbD_and, show BitVec.getLsbD (monMask m) 0 = true from kept, Bool.and_true, bit]

/-- R323: a monitor that is switched off forgets its blanking. -/
def State.monOff (s : State) (h m : Nat) : State :=
  let t := { s with blanks := s.blanks.filter fun x => x != 96 * h + m }
  t.setReg .MON_STATUS h m 0 (setBit (setBit (t.reg .MON_STATUS h m) 31 false) 30 false)

theorem wrMonCfg_of_locked {s : State} {h m : Nat} (locked : bit (s.reg .MON_CFG h m) 2 = true) (v : Word) :
    s.wrMonCfg h m v = s.count .MON_IGNORED_WRITES h 0 := if_pos locked

/-- A write that an unlocked monitor takes whole: it sets no test mode, or watches nothing (R326). -/
theorem wrMonCfg_of_taken {s : State} {h m : Nat} {v : Word} (unlocked : bit (s.reg .MON_CFG h m) 2 = false)
    (taken : bits v 17 16 = 0 ∨ s.monWatchedOn h m = false) : s.wrMonCfg h m v =
      let t := s.setReg .MON_CFG h m 0 (v &&& monMask m)
      let t := if bits (s.reg .MON_CFG h m) 17 16 ≠ 0 ∧ bits v 17 16 = 0 then t.monInside h m else t
      if bit v 0 then t else t.monOff h m := by
  have allowed : (bits v 17 16 != 0 && s.monWatchedOn h m) = false := by
    obtain h | h := taken <;> simp [h]
  obtain ⟨test, enable⟩ := monMask_keeps m v
  have masked : (v &&& if 24 ≤ m ∧ m < 88 then 0xFF03001D else 0xFF03000D) = v &&& monMask m := rfl
  simp only [State.wrMonCfg, unlocked, allowed, Bool.false_eq_true, if_false, masked, test, enable]
  rfl

theorem wrMonStatus_eq (s : State) (h m : Nat) (v : Word) : s.wrMonStatus h m v =
    let t := if bit v 8 then s.monInside h m else s
    if bit v 0 then t.regBit .MON_STATUS h m 0 false else t := rfl

/-- Settles O22: each clause is the branch of the register's write that its hypotheses select. -/
theorem monitorWritesAct : Obligations.MonitorWritesAct := by
  unfold Obligations.MonitorWritesAct
  intro p h m v s
  have element : m.val % 96 < 96 := Nat.mod_lt _ (by decide)
  refine ⟨fun reach => ?status, ?cfg, fun reach start => ?aux⟩
  case status =>
    refine ⟨fun clear keep => ?_, fun keep ever => ?_, fun keep ever => ?_⟩ <;>
      refine next_wr_of_reaches reach element Nat.one_pos ((wrMonStatus_eq _ _ _ _).trans ?_) <;> simp [*]
  case cfg =>
    intro reach old mask
    have acts {u : State} (h : s.wrMonCfg (m / 96) (m % 96) v = u) :
        (Host.Outcome.next (s.wr p .MON_CFG (m / 96) (m % 96) 0 v) : Host.Outcome State Fault Refusal) = .next u :=
      next_wr_of_reaches reach element Nat.one_pos h
    refine ⟨fun unlocked was none on _ => acts ?_, fun unlocked was none off => acts ?_, fun unlocked test unwatched on => acts ?_,
      fun unlocked was none on => acts ?_, fun locked => ?_⟩
    · rw [wrMonCfg_of_taken unlocked (.inl none), if_pos on, if_neg fun h => h.1 was]; rfl
    · rw [wrMonCfg_of_taken unlocked (.inl none), if_neg (by simp [off]), if_neg fun h => h.1 was]; rfl
    · rw [wrMonCfg_of_taken unlocked (.inr unwatched), if_pos on, if_neg fun h => test h.2]; rfl
    · rw [wrMonCfg_of_taken unlocked (.inl none), if_pos on, if_pos ⟨was, none⟩]; rfl
    · exact ⟨acts (wrMonCfg_of_locked locked v), acts (wrMonCfg_of_locked locked v), acts (wrMonCfg_of_locked locked v)⟩
  case aux => exact next_wr_of_reaches reach Nat.one_pos Nat.one_pos (if_pos start)

/-! ### The lane registers -/

theorem wrLaneCtl_eq (s : State) (l : Nat) (v : Word) : s.wrLaneCtl l v =
    let t := s.setReg .LANE_CTL (laneHalf l) (laneLocal l) 0 (v &&& 1)
    let t := if bit v 0 then t
      else (t.count .QDROP (laneHalf l) (laneLocal l) (t.lane l).queue.length).modLane l fun x => { x with queue := [] }
    let t := if bit v 2 then t.modLane l abortLane else t
    if bit v 1 then (if t.laneCanStart l then t.laneStart l none else t.count .DSP_IGNORED_WRITES (laneHalf l) 0) else t := rfl

theorem wrLaneStatus_of_fault {s : State} {l : Nat} {v : Word} (clear : bit v 1 = true) (fault : (s.lane l).st = .fault) :
    s.wrLaneStatus l v = (s.setReg .DSP_LANE_STATUS (laneHalf l) (laneLocal l) 0
      (s.reg .DSP_LANE_STATUS (laneHalf l) (laneLocal l) &&& ~~~ (v &&& 5))).modLane l fun x => { x with st := .idle, code := 0 } :=
  if_pos (by rw [clear, Bool.true_and, beq_iff_eq]; exact fault)

/-- Settles O23: each clause is the branch of the register's write that its hypotheses select. -/
theorem laneWritesAct : Obligations.LaneWritesAct := by
  unfold Obligations.LaneWritesAct
  intro p l v s
  have lane : 16 * (l.val / 16) + l.val % 16 = l := Nat.div_add_mod _ _
  have element : l.val % 16 < 16 := Nat.mod_lt _ (by decide)
  refine ⟨?ctl, fun reach clear fault => ?status⟩
  case ctl =>
    intro reach t
    have acts {u : State} (h : s.wrLaneCtl l v = u) :
        (Host.Outcome.next (s.wr p .LANE_CTL (l / 16) (l % 16) 0 v) : Host.Outcome State Fault Refusal) = .next u :=
      next_wr_of_reaches reach element Nat.one_pos ((congrArg (s.wrLaneCtl · v) lane).trans h)
    refine ⟨fun on start run can => acts ?_, fun on start run cannot => acts ?_, fun on start abort => acts ?_, fun off start run => acts ?_⟩ <;>
      rw [wrLaneCtl_eq]
    · simp only [on, start, run, if_true, Bool.false_eq_true, if_false]
      exact if_pos can
    · simp only [on, start, run, if_true, Bool.false_eq_true, if_false]
      exact if_neg (by simp only [Bool.not_eq_true]; exact cannot)
    · simp only [on, start, abort, if_true, Bool.false_eq_true, if_false]
      rfl
    · simp only [off, start, run, Bool.false_eq_true, if_false]
      rfl
  case status =>
    exact next_wr_of_reaches reach element Nat.one_pos ((congrArg (s.wrLaneStatus · v) lane).trans (wrLaneStatus_of_fault clear fault))

end Sys2Proof.Machine
end

section
/-!
The writes of the event router's, the rings', the regions', the boot, time, die-link and fault registers.
-/
namespace Sys2Proof.Machine

/-! ### Events, regions, the compressor -/

/-- R421: CLR of a task input whose selection the write leaves as it is. -/
theorem wrTaskSel_of_clr {s : State} {h u : Nat} {v : Word} (low : 0x68 ≤ u) (high : u < 0x70) (clear : bit v 30 = true)
    (same : v &&& 0x9FF803FF = (s.regBit .TASK_SEL h u 29 false).reg .TASK_SEL h u &&& 0x9FF803FF) :
    s.wrTaskSel h u v = s.regBit .TASK_SEL h u 29 false := by
  have input : 0x68 ≤ u ∧ u < 0x70 ∧ bit v 30 = true := ⟨low, high, clear⟩
  simp only [State.wrTaskSel, if_neg (show ¬ u < 0x40 by omega), if_pos input, if_pos same]

/-- R476: a write that leaves a region off, or switches on one that the limits allow. -/
theorem wrRgnCtl_of_stored {s : State} {k r : Nat} {v : Word} (h : bit v 31 = false ∨ bit (s.reg .RGN_CTL 0 k r) 31 = false ∧
      s.regionSize k r ≠ 0 ∧ s.regionBase k r + s.regionSize k r ≤ 2 ^ 64 ∧ s.regionTotal k + s.regionSize k r ≤ 2 ^ 41) :
    s.wrRgnCtl k r v = s.setReg .RGN_CTL 0 k r (v &&& 0x80000003) := by
  unfold State.wrRgnCtl
  cases on : bit v 31 with
  | false => simp
  | true =>
    obtain ⟨off, size, base, total⟩ := h.resolve_left (by simp [on])
    simp only [off, Bool.not_true, Bool.false_eq_true, if_false]
    exact if_neg (by omega)

theorem wrRgnCtl_of_refused {s : State} {k r : Nat} {v : Word} (on : bit v 31 = true) (was : bit (s.reg .RGN_CTL 0 k r) 31 = false)
    (h : s.regionSize k r = 0 ∨ 2 ^ 64 < s.regionBase k r + s.regionSize k r ∨ 2 ^ 41 < s.regionTotal k + s.regionSize k r) :
    s.wrRgnCtl k r v = s.rgnIgnored k := by
  simp only [State.wrRgnCtl, on, was, Bool.not_true, Bool.false_eq_true, if_false]
  exact if_pos h

/-- Settles O24: each clause is the branch of the register's write that its hypotheses select. -/
theorem eventAndRingWritesAct : Obligations.EventAndRingWritesAct := by
  unfold Obligations.EventAndRingWritesAct
  intro p h v s
  refine ⟨fun reach => ?fire, fun u reach low high clear same => ?clr, fun i reach => ?kick, fun k r reach => ?region,
    fun reach was off => ?compressor⟩
  case fire =>
    refine ⟨fun half owner cls => ?_, fun refused => ?_⟩ <;> refine next_wr_of_reaches reach Nat.one_pos Nat.one_pos ?_
    · exact if_neg (by simp [half, owner, cls])
    · exact if_pos refused
  case clr => exact next_wr_of_reaches reach u.isLt Nat.one_pos (wrTaskSel_of_clr low high clear same)
  case kick => exact next_wr_of_reaches reach i.isLt Nat.one_pos rfl
  case region =>
    refine ⟨fun off => ?_, fun on was size base total => ?_, fun on was refused => ?_⟩ <;>
      refine next_wr_of_reaches reach k.isLt r.isLt ?_
    · exact wrRgnCtl_of_stored (.inl off)
    · exact wrRgnCtl_of_stored (.inr ⟨was, size, base, total⟩)
    · exact wrRgnCtl_of_refused on was refused
  case compressor => exact next_wr_of_reaches reach Nat.one_pos Nat.one_pos (if_pos ⟨was, by simp [off]⟩)

/-! ### Time -/

theorem wrNtRate_of_servo {s : State} {h : Nat} {v : Word} (on : bit (s.reg .NT_CTL 0) 28 = true) (h0 : s.servo.st ≠ 0) (h4 : s.servo.st ≠ 4)
    (h5 : s.servo.st ≠ 5) : s.wrNtRate h v = s.ntUpdate (clampRate v) 0 :=
  if_neg (by simp [on, h0, h4, h5])

theorem bit_and (v m : Word) (i : Nat) : bit (v &&& m) i = (bit v i && bit m i) := BitVec.getLsbD_and

/-- R542: a write that arms nothing, leaves EN as it is and asks for no slave without a master. -/
theorem wrNtCtl_of_stored {s : State} {h : Nat} {v : Word} (unarmed : s.anyArmed = false) (same : bit v 31 = bit (s.reg .NT_CTL 0) 31)
    (order : bit v 29 = true → bit v 30 = true) :
    s.wrNtCtl h v = (s.setReg .NT_CTL 0 0 0 (v &&& 0xFC0000FF)).setReg .NT_CTL 1 0 0 (v &&& 0xFC0000FF) := by
  have kept (i : Nat) (hi : bit (0xFC0000FF : Word) i = true) : bit (v &&& 0xFC0000FF) i = bit v i := by
    rw [bit_and, hi, Bool.and_true]
  have b29 := kept 29 (by decide)
  have b30 := kept 30 (by decide)
  have b31 := kept 31 (by decide)
  simp only [State.wrNtCtl, unarmed, b29, b30, b31, same]
  cases h31 : bit (s.reg .NT_CTL 0) 31 <;> cases h29 : bit v 29 <;> simp_all

/-! ### The fault unit -/

/-- R588: an acknowledgement 100 µs after the assertion, or later, deasserts FAULT_N at once. -/
theorem wrFnAck_of_due {s : State} (h : Nat) (mode : bit (s.reg .FLT_CTL 0) 4 = false) (on : s.faultN.asserted = true)
    (quiet : s.faultN.reassert = none) (idle : s.faultN.pending = false) (due : s.faultN.since + 20000 ≤ s.now 0) :
    s.wrFnAck h = { s with faultN := { s.faultN with asserted := false, release := none, again := false } } := by
  unfold State.wrFnAck
  rw [if_neg (by simp [mode]), if_neg (by simp [quiet, on])]
  simp [due, idle, quiet]

/-- R588: an earlier one deasserts it then. -/
theorem wrFnAck_of_early {s : State} (h : Nat) (mode : bit (s.reg .FLT_CTL 0) 4 = false) (on : s.faultN.asserted = true)
    (quiet : s.faultN.reassert = none) (idle : s.faultN.pending = false) (early : s.now 0 < s.faultN.since + 20000) :
    s.wrFnAck h = { s with faultN := { s.faultN with release := some (s.faultN.since + 20000) } } := by
  unfold State.wrFnAck
  rw [if_neg (by simp [mode]), if_neg (by simp [quiet, on])]
  simp [Nat.max_eq_right (Nat.le_of_lt early), Nat.not_le_of_lt early, idle]

/-! ### The BOOT block through a port of H1 -/

/-- R23: a write of H0's BOOT block through a port of H1 leaves over the die link. -/
theorem wr_boot_of_far {s : State} {p : Port} {r : Reg} {v : Word} (hp : portHalf p = 1) (hd : (s.port p).cfg.d3hot = false)
    (hu : s.unsecured p = false) (up : s.linkUp = true) (early : r.early = true) (hi : 0 < r.info.cntI) (hj : 0 < r.info.cntJ) :
    s.wr p r 0 0 0 v = s.send 1 (.regWrite p (r.addr 0 0 0) v) := by
  obtain ⟨hHalf, hOff, aligned⟩ := Reg.addr_parts (r := r) (h := 0) hi hj
  have answers : s.answers (r.offset 0 0) = true := by rw [State.answers, r.find_offset hi hj]; simp [early]
  have other : addrHalf (r.addr 0 0 0) = far (portHalf p) := by rw [hHalf, hp]; rfl
  rw [State.wr, hostWrite_far ⟨hd, hu⟩ aligned (portHalf_lt p) other, hOff, answers, hp]
  simp [up]

/-- Settles O25: each clause is the branch of the register's write that its hypotheses select. -/
theorem clockBootAndFaultWritesAct : Obligations.ClockBootAndFaultWritesAct := by
  unfold Obligations.ClockBootAndFaultWritesAct
  refine ⟨fun p h v s => ⟨?abort, ?recast, ?far, ?sync, ?timeValid, ?rate, ?ctl, ?disarm⟩,
    fun p h i v s => ⟨?dlk, ?force, ?latched, ?first, ?ack, ?mode, ?quiet⟩⟩
  case abort => exact fun reach => next_wr_of_reaches reach Nat.one_pos Nat.one_pos rfl
  case recast =>
    intro reach
    refine ⟨fun owner => ?_, fun owner => ?_⟩ <;> refine next_wr_of_reaches reach Nat.one_pos Nat.one_pos ?_
    · exact if_pos owner
    · exact if_neg owner
  case far =>
    intro hp hd hu up
    exact ⟨congrArg Host.Outcome.next (wr_boot_of_far hp hd hu up rfl Nat.one_pos Nat.one_pos),
      congrArg Host.Outcome.next (wr_boot_of_far hp hd hu up rfl Nat.one_pos Nat.one_pos)⟩
  case sync =>
    intro reach
    refine ⟨fun idle => ?_, fun busy => ?_, ?_⟩ <;> refine next_wr_of_reaches reach Nat.one_pos Nat.one_pos ?_
    · exact if_pos idle
    · exact if_neg (by simp [busy])
    · rfl
  case timeValid => exact fun reach => next_wr_of_reaches reach Nat.one_pos Nat.one_pos rfl
  case rate =>
    intro reach
    refine ⟨fun on h0 h4 h5 => ?_, fun off => ?_⟩ <;> refine next_wr_of_reaches reach Nat.one_pos Nat.one_pos ?_
    · exact wrNtRate_of_servo on h0 h4 h5
    · exact if_pos (.inl (by simp [off]))
  case ctl =>
    exact fun reach unarmed same order => next_wr_of_reaches reach Nat.one_pos Nat.one_pos (wrNtCtl_of_stored unarmed same order)
  case disarm => exact fun a reach disarm => next_wr_of_reaches reach a.isLt Nat.one_pos (if_pos disarm)
  case dlk =>
    intro reach t
    refine ⟨fun on was may => ?_, fun on was barred => ?_, fun off was => ?_⟩ <;> refine next_wr_of_reaches reach Nat.one_pos Nat.one_pos ?_
    · exact (if_pos ⟨on, Bool.not_eq_true' _ ▸ was⟩).trans (if_pos may)
    · exact (if_pos ⟨on, Bool.not_eq_true' _ ▸ was⟩).trans (if_neg (ne_true_of_eq_false barred))
    · exact (if_neg (by simp [off])).trans (if_pos ⟨by simp [off], was⟩)
  case force => exact fun reach on exists_ => next_wr_of_reaches reach i.isLt Nat.one_pos (if_pos ⟨on, exists_⟩)
  case latched => exact fun reach clear => next_wr_of_reaches reach i.isLt Nat.one_pos (if_pos clear)
  case first => exact fun reach clear => next_wr_of_reaches reach Nat.one_pos Nat.one_pos (if_pos clear)
  case ack =>
    intro reach mode on quiet idle
    exact ⟨fun due => next_wr_of_reaches reach Nat.one_pos Nat.one_pos (wrFnAck_of_due h mode on quiet idle due),
      fun early => next_wr_of_reaches reach Nat.one_pos Nat.one_pos (wrFnAck_of_early h mode on quiet idle early)⟩
  case mode =>
    intro reach
    refine ⟨fun on => ?_, fun off was => ?_⟩ <;> refine next_wr_of_reaches reach Nat.one_pos Nat.one_pos ?_
    · exact if_pos on
    · exact (if_neg (by simp [off])).trans (if_neg (by simp [was]))
  case quiet =>
    intro reach
    refine ⟨fun noExit bind => ?_, fun leave noBind inQuiet => ?_, fun leave noBind notQuiet => ?_⟩ <;>
      refine next_wr_of_reaches reach Nat.one_pos Nat.one_pos (show s.wrQuietCtl h v = _ from ?_)
    · simp [State.wrQuietCtl, noExit, bind]
    · simp [State.wrQuietCtl, leave, noBind, inQuiet]
    · simp [State.wrQuietCtl, leave, noBind, notQuiet]

end Sys2Proof.Machine
end

section
/-!
Rails, resets and cast-on.
-/
namespace Sys2Proof.Machine

/-! ### Rails -/

theorem execRailValid_eq (h : Half) (r : Fin 9) (s : State) : exec (.railValid h r) s =
    .next (if 7 ≤ r.val ∧ (!decide (bits (s.reg .PWR_STATUS h) 8 7 = 3)) = true ∧
        bits ((s.regBit .PWR_STATUS h 0 r true).reg .PWR_STATUS h) 8 7 = 3 then
      (s.regBit .PWR_STATUS h 0 r true).forEach (List.range 64) fun s c => s.fluxDead h c
    else s.regBit .PWR_STATUS h 0 r true) := rfl

/-- A pin of a half with a rail missing that it needs. -/
theorem powered_of_missing {s : State} {h r : Nat} {l : List Nat} (hr : r ∈ l) (missing : bit (s.reg .PWR_STATUS h) r = false) :
    s.powered h l = false := by
  rw [State.powered, Bool.and_eq_false_iff, List.all_eq_false]
  exact .inr ⟨r, hr, by simp [missing]⟩

/-- No pin is driven while RESET_N is low (R625). -/
theorem powered_of_resetLow {s : State} (low : s.boot.resetLow = true) (h : Nat) (l : List Nat) : s.powered h l = false := by
  simp [State.powered, low]

theorem rfPin_of_unpowered {s : State} {h : Nat} (dead : s.powered h [2, 3] = false) (k : Nat) : s.rfPin h k = .highZ := by
  simp [State.rfPin, dead]

theorem inPin_of_unpowered {s : State} {h : Nat} (dead : s.powered h [2, 3] = false) (k : Nat) : s.inPin h k = .highZ := by
  simp [State.inPin, dead]

theorem auxPin_of_unpowered {s : State} {h : Nat} (dead : s.powered h [3] = false) (k : Nat) : s.auxPin h k = .highZ := by
  simp [State.auxPin, dead]

theorem fluxPin_of_noRails {s : State} {f : Nat} (dead : s.fluxRails (f / 64) = false) : s.fluxPin f = .highZ := by
  simp [State.fluxPin, dead]

/-- R625: in a pin reset every pin is at high impedance. -/
theorem pins_of_resetLow {s : State} (low : s.boot.resetLow = true) (h k : Nat) :
    s.rfPin h k = .highZ ∧ s.inPin h k = .highZ ∧ s.auxPin h k = .highZ ∧ s.faultPin = .highZ :=
  ⟨rfPin_of_unpowered (powered_of_resetLow low _ _) k, inPin_of_unpowered (powered_of_resetLow low _ _) k,
    auxPin_of_unpowered (powered_of_resetLow low _ _) k, by simp [State.faultPin, powered_of_resetLow low]⟩

/-- Settles O26: rails by the two bits of the flux supplies, resets by what COLD keeps, pins by the rails they need. -/
theorem railsAndResetsAct : Obligations.RailsAndResetsAct := by
  unfold Obligations.RailsAndResetsAct
  intro h r s
  refine ⟨fun core => ?valid, fun flux one => ?oneFlux, fun flux was both => ?bothFlux, fun was core => ?invalid, fun was flux both => ?loss,
    ⟨_, rfl, rfl, rfl, rfl, rfl, rfl, rfl, rfl, rfl, rfl, rfl, fun h k => pins_of_resetLow rfl h k⟩, fun k missing => ?rf,
    fun k missing => ?aux, fun k dead hk => ?flux, fun cold rails clock => ?selftest⟩
  case valid => rw [execRailValid_eq, if_neg fun h => by omega]
  case oneFlux => rw [execRailValid_eq, if_neg fun h => one h.2.2]
  case bothFlux => rw [execRailValid_eq, if_pos ⟨flux, by simp [was], both⟩]
  case invalid => exact congrArg Host.Outcome.next ((if_neg (by simp [was])).trans (if_pos core))
  case loss =>
    exact congrArg Host.Outcome.next ((if_neg (by simp [was])).trans ((if_neg (Nat.not_lt.mpr flux)).trans (if_pos (decide_eq_true both))))
  case rf =>
    have dead : s.powered h [2, 3] = false := missing.elim (powered_of_missing (by simp)) (powered_of_missing (by simp))
    exact ⟨rfPin_of_unpowered dead k, inPin_of_unpowered dead k⟩
  case aux => exact auxPin_of_unpowered (powered_of_missing (by simp) missing) k
  case flux => exact fluxPin_of_noRails (by rwa [show (64 * h.val + k) / 64 = h by omega])
  case selftest => exact congrArg Host.Outcome.next (if_pos ⟨cold, rails, clock⟩)

/-! ### Cast-on -/

/-- R488, R489: SELFTEST has passed, with the link and the clocks there. -/
theorem exec_selftestEnd_passed {s : State} (st : s.boot.st = .selftest) (up : s.linkUp = true) (clocked : s.clocked = true) :
    exec (.selftestEnd .passed) s = .next (
      let s := if s.boot.started then s.reclock 1 (s.now 1) (s.now 0) else { s with c0 := 0, c1 := 0 }
      let s := { s with nt := [], ntUpd := [] }
      let s := s.forEach [0, 1] fun s h =>
        s.setReg .CLK_STATUS h 0 0 (if s.boot.recast then s.reg .CLK_STATUS h ||| 0x7 else 0xF)
      s.modBoot fun b => { b with st := .awaitImage, recast := false, started := true }) :=
  congrArg Host.Outcome.next ((if_neg (not_not_intro st)).trans (if_pos ⟨up, clocked⟩))

/-- R491: whether GO's registers may describe an image. -/
def State.goSized (s : State) (p : Nat) : Prop :=
  (s.reg .BOOT_LEN 0 p).toNat % 64 = 0 ∧ 3648 ≤ (s.reg .BOOT_LEN 0 p).toNat ∧ (s.reg .BOOT_LEN 0 p).toNat ≤ 33554432 ∧
    1 ≤ (s.reg .BOOT_RING_COUNT 0 p).toNat ∧ (s.reg .BOOT_RING_COUNT 0 p).toNat ≤ 1024

theorem bootGo_of_queued {s : State} {p : Nat} {ring : List Byte} {cs : List (Nat × Nat)} (opens : s.goOpen p) (sized : s.goSized p)
    (chunks : bootChunks ring (s.reg .BOOT_RING_COUNT 0 p).toNat = some cs)
    (whole : cs.foldl (fun a c => a + c.2) 0 = (s.reg .BOOT_LEN 0 p).toNat) :
    s.bootGo p ring =
      (s.modBootPort p fun _ => { st := .queued, chunks := cs }).modBoot fun b => { b with queue := b.queue ++ [p] } := by
  unfold State.goSized at sized
  unfold State.bootGo
  rw [if_pos opens]
  simp only [if_pos sized, chunks, whole, if_true]

theorem bootGo_of_missized {s : State} {p : Nat} (ring : List Byte) (opens : s.goOpen p) (missized : ¬ s.goSized p) :
    s.bootGo p ring = s.refuse p 0x15 := by
  unfold State.goSized at missized
  unfold State.bootGo
  rw [if_pos opens]
  simp only [if_neg missized]

theorem exec_go_near {s : State} {p : Port} (ring : List Byte) (hd : (s.port p).cfg.d3hot = false) (hu : s.unsecured p = false)
    (near : portHalf p = 0) : exec (.go p ring) s = .next (s.bootGo p ring) :=
  congrArg Host.Outcome.next ((if_neg (by simp [hd])).trans ((if_neg (by simp [hu])).trans (if_pos near)))

/-- R498: the image in VERIFY is judged once it has come, a read has failed, or its header fails. -/
theorem exec_verifyEnd_of_due {s : State} {q : Nat} (rep : VerifyReport) (loading : s.loading = some q) (st : s.boot.st = .verify)
    (due : (s.bootPort q).data.length = (s.reg .BOOT_LEN 0 q).toNat ∨ (s.bootPort q).failed = true ∨
      (512 ≤ (s.bootPort q).data.length ∧ (s.headerFailure q (s.bootPort q).data).isSome = true)) :
    exec (.verifyEnd rep) s = .next (match s.imageFailure q (s.bootPort q).data (s.bootPort q).failed rep with
      | some c => ((s.refuse q c).modBoot fun b => { b with refusal := if 0x40 ≤ c then c else b.refusal }).afterRefusal
      | none => s.winImage q (s.bootPort q).data rep) := by
  change execVerifyEnd rep s = _
  unfold execVerifyEnd
  rw [loading]
  refine congrArg Host.Outcome.next (if_pos ⟨st, ?_⟩)
  simpa using due

/-- Settles O27: each clause is the branch of its event that its hypotheses select. -/
theorem castOnAdvances : Obligations.CastOnAdvances := by
  unfold Obligations.CastOnAdvances
  intro p ring rep s
  refine ⟨fun st up clocked => ?passed, fun st r failed => ?failed, fun hd hu far => ?goFar, fun cs hd hu near st idle => ?goQueued,
    fun hd hu near st idle missized => ?goRefused, fun q l queue st free => ?verifyStart,
    fun q loading st due => exec_verifyEnd_of_due rep loading st due, fun st => congrArg Host.Outcome.next (if_pos st),
    fun st => congrArg Host.Outcome.next (if_pos st), fun ready => congrArg Host.Outcome.next (if_pos ready)⟩
  case passed =>
    refine ⟨_, exec_selftestEnd_passed st up clocked, ?_, fun fresh => ?_, fun running => ?_, ?_, rfl, rfl⟩
    · cases h : s.boot.started <;> rfl
    · simp only [fresh]; exact ⟨rfl, rfl⟩
    · simp only [running]; exact ⟨rfl, BitVec.ofNat_toNat _ _⟩
    · cases h : s.boot.started <;> rfl
  case failed =>
    refine congrArg Host.Outcome.next ((if_neg (not_not_intro st)).trans ?_)
    cases r with
    | passed => exact absurd rfl failed
    | _ => rfl
  case goFar =>
    exact congrArg Host.Outcome.next ((if_neg (by simp [hd])).trans ((if_neg (by simp [hu])).trans (if_neg (by simp [far]))))
  case goQueued =>
    intro multiple least most some_ few chunks whole
    rw [exec_go_near ring hd hu near, bootGo_of_queued ⟨st, idle⟩ ⟨multiple, least, most, some_, few⟩ chunks whole]
  case goRefused =>
    have bad : ¬ s.goSized p := by unfold State.goSized; omega
    rw [exec_go_near ring hd hu near, bootGo_of_missized ring ⟨st, idle⟩ bad]
  case verifyStart =>
    change execVerifyStart s = _
    unfold execVerifyStart
    rw [queue]
    exact congrArg Host.Outcome.next (if_pos ⟨st, free⟩)

end Sys2Proof.Machine
end

section
/-!
Synchronisation, the clocks, and the timed queues.
-/
namespace Sys2Proof.Machine

/-! ### Synchronisation and clocks -/

/-- The state in which SYNC_INSTANT places its row boundaries: the counter that would have been is noted, the arm is spent (R65). -/
def State.syncNoted (s : State) (t : Nat) : State :=
  { ((s.setPair .SYNC_PREV_LO .SYNC_PREV_HI 0 0 (t / 32 * 32)).setReg .SYNC_CTL 0 0 0 0).regBit .SYNC_STATUS 0 0 1 true with syncAt := none }

/-- The value that SYNC_INSTANT loads (R65). -/
def State.syncValue (s : State) : Nat := s.pair .SYNC_LOAD_LO .SYNC_LOAD_HI 0 0 / 32 * 32

theorem kept_syncNoted {s : State} (h : s.inv) (t : Nat) : Kept s (s.syncNoted t) :=
  kept_upd (h := kept_regBit _ _ _ _ _ _ (kept_setReg _ _ _ _ _ _ (kept_setPair _ _ _ _ _ _ h.kept))) ..

theorem exec_syncInstant_of_due {s : State} {t : Nat} (armed : s.syncAt = some t) (due : t < s.now 0 + 32) :
    exec .syncInstant s =
      .next (((s.syncNoted t).placeRow 0 (t - s.now 0) s.syncValue).placeRow 1 (t - s.now 0) s.syncValue) := by
  change execSyncInstant s = _
  unfold execSyncInstant
  rw [armed]
  exact congrArg Host.Outcome.next (if_pos due)

/-- Placing a row on both halves leaves both counters at its value. -/
theorem counters_placeRow {s u : State} (k : Kept s u) (part v : Nat) :
    ((u.placeRow 0 part v).placeRow 1 part v).c0 = BitVec.ofNat 64 v ∧ ((u.placeRow 0 part v).placeRow 1 part v).c1 = BitVec.ofNat 64 v :=
  have placed := kept_placeRow _ 1 part v (kept_placeRow u 0 part v k)
  ⟨placed.c0, placed.c1⟩

/-- Settles O28: each clause is the branch of its event that its hypotheses select; the loaded counters follow from what placing a row
keeps. -/
theorem clockEventsAct : Obligations.ClockEventsAct := by
  unfold Obligations.ClockEventsAct
  intro h off s
  refine ⟨fun armed idle => congrArg Host.Outcome.next (if_pos ⟨armed, idle⟩), fun t armed due => ?instant, fun running clock => ?refLoss,
    fun running clock lock => ?unlock, fun alive => ?relocked, fun alive => ?unlocked,
    fun time up => congrArg Host.Outcome.next (if_pos ⟨time, up⟩)⟩
  case instant => exact ⟨_, exec_syncInstant_of_due armed due, rfl, fun inv => counters_placeRow (kept_syncNoted inv t) _ _⟩
  case refLoss => exact congrArg Host.Outcome.next (if_neg (by simp [running, clock]))
  case unlock => exact congrArg Host.Outcome.next (if_neg (by simp [running, clock, lock]))
  case relocked | unlocked =>
    have goes : ¬ (s.boot.st = .cold ∧ (!s.boot.recast) = true) := by obtain h | h := alive <;> simp [h]
    exact congrArg Host.Outcome.next (if_neg goes)

/-! ### Queues -/

/-- An event names a queue that exists. -/
theorem not_illFormed_of_exists {q : QId} (hq : q.kind ≠ .flux ∨ q.idx.val < 128) : ¬ (q.kind = .flux ∧ 128 ≤ q.idx.val) := by
  rintro ⟨kind, index⟩
  exact hq.elim (fun h => h kind) (fun h => by omega)

/-- R62: the head of a queue leaves it, and its command is released. -/
def State.releaseHead (s : State) (q : Nat) (c : Cmd) (cs : List Cmd) : State :=
  { s.modQueue q (fun x => { x with cmds := cs }) with released := s.released ++ [⟨q, c⟩] }

/-- R62, R110, R111: what the take of a command starts beside its release. -/
def State.startTaken (s : State) (q : Nat) (c : Cmd) (t : Nat) : State :=
  match c.act with
  | .pattern n p =>
    let s := s.modPattern q fun _ =>
      { active := true, entry := n, left := (s.entry q n).loops, start := t, dur := p.dur q, run := c.run, shot := c.shot }
    if p.stream then
      let r := s.streamPos { (s.segmentOf q n t c.run c.shot p).1 with live := false }
      r.1.addPulse r.2
    else s
  | .pulse p =>
    if p.stream then
      let r := s.streamPos { q := q, t := t, spec := p, run := c.run, shot := c.shot, live := false }
      r.1.addPulse r.2
    else s
  | _ => s

theorem takeFront_of_due {s : State} {q : Nat} {c : Cmd} {cs : List Cmd} (head : (s.queue q).cmds = c :: cs)
    (due : rowOf (s.ext (qHalf q) c.stamp) ≤ s.row (qHalf q) + qLead q) :
    s.takeFront q = (s.releaseHead q c cs).startTaken q c (s.ext (qHalf q) c.stamp) := by
  unfold State.takeFront
  simp only [head, if_pos due]
  rfl

theorem takeFront_of_early {s : State} {q : Nat} {c : Cmd} {cs : List Cmd} (head : (s.queue q).cmds = c :: cs)
    (early : rowOf (s.ext (qHalf q) c.stamp) > s.row (qHalf q) + qLead q) : s.takeFront q = s := by
  unfold State.takeFront
  simp only [head, if_neg (Nat.not_le.mpr early)]

theorem actFront_of_due {s : State} {q : Nat} {x : Released} (w : WaveCheck) (found : s.released.find? (fun y => y.q == q) = some x)
    (due : rowOf (s.ext (qHalf q) x.cmd.stamp) ≤ s.row (qHalf q)) :
    s.actFront q w = { s with released := s.released.erase x }.applyAct q x.cmd (s.ext (qHalf q) x.cmd.stamp) w := by
  unfold State.actFront
  simp only [found, if_pos due]

theorem endPulse_of_due {s : State} {m t : Nat} (pulse : (s.marker m).pulseEnd = some t) (due : t ≤ s.now (m / 8)) :
    s.endPulse m = s.changeMarker m ⟨s.now (m / 8), 0, 0⟩ := by
  unfold State.endPulse
  simp only [pulse, if_pos due]

/-- A command that is no pattern and no streamed pulse starts nothing when it is taken. -/
theorem startTaken_of_plain (s : State) (q t : Nat) {c : Cmd} (noPattern : ∀ n p, c.act ≠ .pattern n p)
    (noStream : ∀ p, c.act = .pulse p → p.stream = false) : s.startTaken q c t = s := by
  unfold State.startTaken
  split
  case h_1 n p act => exact absurd act (noPattern n p)
  case h_2 p act => rw [if_neg (by simp [noStream p act])]
  case h_3 => rfl

/-- Settles O29: the head's row decides whether it leaves, and its kind what it starts. -/
theorem queuesReleaseAndApply : Obligations.QueuesReleaseAndApply := by
  unfold Obligations.QueuesReleaseAndApply
  intro qi c cs w x m s hq
  have wellFormed := not_illFormed_of_exists hq
  have release : exec (.queueRelease qi) s = .next (s.takeFront (qKey qi)) := if_neg wellFormed
  have apply : exec (.timedCommandApply qi w) s = .next (s.actFront (qKey qi) w) := if_neg wellFormed
  rw [release, apply]
  refine ⟨fun head due noPattern noStream => ?plain, fun n p head due act => ?pattern, fun p head due act stream => ?pulse,
    fun head early => ?early, fun found due => ?applied, fun t pulse due => congrArg Host.Outcome.next (endPulse_of_due pulse due)⟩
  case plain => rw [takeFront_of_due head due, startTaken_of_plain _ _ _ noPattern noStream]; rfl
  case pattern => rw [takeFront_of_due head due, State.startTaken, act]; rfl
  case pulse => rw [takeFront_of_due head due, State.startTaken, act]; exact congrArg Host.Outcome.next (if_pos stream)
  case early => rw [takeFront_of_early head early]
  case applied => rw [actFront_of_due w found due]

end Sys2Proof.Machine
end

section
/-!
The issue of a thread's instruction, and the instructions of arithmetic.
-/
namespace Sys2Proof.Machine

/-! ### Issue -/

/-- Every instruction of a thread has its opcode in the table (R118). -/
theorem threadOpcodes_of_mem {t : ThrIx} {e se : Ecc} {op : Nat} {c : Instr} (h : (op, c) ∈ threadInstrs t e se) :
    threadOpcodes.contains op = true := by
  have opcodes : ∀ o ∈ (threadInstrs t e se).map Prod.fst, threadOpcodes.contains o = true := by
    simp only [threadInstrs, List.map_cons, List.map_nil]
    decide
  exact opcodes op (List.mem_map_of_mem h)

/-- Every instruction of a thread is an issue under its opcode. -/
theorem threadInstrs_issue {t : ThrIx} {e se : Ecc} {op : Nat} {c : Instr} (h : (op, c) ∈ threadInstrs t e se) :
    ∃ f, ∀ s, exec c s = .next (s.issue t e op f) := by
  have all : ∀ x ∈ threadInstrs t e se, ∃ f, ∀ s, exec x.2 s = .next (s.issue t e x.1 f) := by
    simp only [threadInstrs, List.forall_mem_cons, List.not_mem_nil, false_implies, implies_true, and_true]
    and_intros <;> exact ⟨_, fun _ => rfl⟩
  exact all (op, c) h

section
variable {s : State} {t : Nat} {e : Ecc} {op : Nat} (f : State → BitVec 64 → State) (served : s.served (t / 32) = some t)
include served

theorem issue_of_pastMemory (past : 1048576 ≤ (s.thread t).pc) : s.issue t e op f = (s.issued t).threadFault t .range := by
  simp [State.issue, served, past]

theorem issue_of_uncorrectable (inside : (s.thread t).pc < 1048576) (he : e = .uncorrectable) :
    s.issue t e op f = (s.issued t).threadFault t .ecc := by
  simp [State.issue, served, Nat.not_le.mpr inside, he]

theorem issue_of_foreignPage (inside : (s.thread t).pc < 1048576) (he : e ≠ .uncorrectable)
    (foreign : s.ownProgPage (thrHalf t) ((s.thread t).pc / 8192) ≠ some (s.runOf (s.thread t).run).owner) :
    s.issue t e op f = (s.issued t).threadFault t .notOwner := by
  simp [State.issue, served, Nat.not_le.mpr inside, he, foreign]

/-- R120: an opcode outside the table is no instruction's. -/
theorem issue_of_unknown (inside : (s.thread t).pc < 1048576) (he : e ≠ .uncorrectable)
    (own : s.ownProgPage (thrHalf t) ((s.thread t).pc / 8192) = some (s.runOf (s.thread t).run).owner)
    (unknown : threadOpcodes.contains (bits (s.progWord (thrHalf t) (s.thread t).pc) 63 56) = false)
    (known : threadOpcodes.contains op = true) : s.issue t e op f = (s.issued t).threadFault t .range := by
  have other : bits (s.progWord (thrHalf t) (s.thread t).pc) 63 56 ≠ op := by
    rintro rfl
    exact Bool.false_ne_true (unknown.symm.trans known)
  unfold State.issue
  rw [if_neg (not_not_intro served)]
  simp only [if_neg (Nat.not_le.mpr inside), if_neg he, if_neg (not_not_intro own), if_neg other, unknown, Bool.false_eq_true, if_false]

end

/-- Settles O30: every thread instruction is one issue, and the checks of the fetch come before its opcode. -/
theorem issueChecksTheFetch : Obligations.IssueChecksTheFetch := by
  unfold Obligations.IssueChecksTheFetch
  intro t e se op c s member served
  obtain ⟨f, issues⟩ := threadInstrs_issue member
  rw [issues s]
  refine ⟨fun past => ?_, fun inside he => ?_, fun inside he foreign => ?_, fun inside he own unknown => ?_⟩
  · rw [issue_of_pastMemory f served past]
  · rw [issue_of_uncorrectable f served inside he]
  · rw [issue_of_foreignPage f served inside he foreign]
  · rw [issue_of_unknown f served inside he own unknown (threadOpcodes_of_mem member)]

/-- A fetched instruction does what its meaning says, for every instruction whose meaning is known to be an issue. -/
theorem next_issue_of_fetches {s : State} {t op : Nat} {w : BitVec 64} {e : Ecc} {f : State → BitVec 64 → State} {u : State}
    (fetched : s.fetches t op w) (he : e ≠ .uncorrectable) (does : f (s.issued t) w = u) :
    (Host.Outcome.next (s.issue t e op f) : Host.Outcome State Fault Refusal) = .next u := by
  rw [issue_of_fetches f fetched he, does]

theorem ranged_of_ok {s : State} {t : Nat} {bad : Bool} (k : State → State) (ok : bad = false) : s.ranged t bad k = k s := by
  rw [State.ranged, if_neg (by simp [ok])]

theorem ranged_of_bad {s : State} {t : Nat} {bad : Bool} (k : State → State) (h : bad = true) :
    s.ranged t bad k = s.threadFault t .range := if_pos h

/-! ### Arithmetic -/

/-- R163: the reserved bits of an arithmetic word. -/
def aluWordOk (w : BitVec 64) (wr sh : Bool) : Prop :=
  bits w 45 36 = 0 ∧ (sh = false → bit w 46 = false) ∧ (wr = false → bits w 55 52 = 0) ∧ (bit w 47 = true → bits w 35 32 = 0) ∧
    (bit w 47 = false → bits w 31 0 = 0)

/-- The second operand of an arithmetic word (R163). -/
def aluOperand (x : Thread) (w : BitVec 64) : Word := if bit w 47 then BitVec.ofNat 32 (bits w 31 0) else x.reg (bits w 35 32)

theorem reserved_eq_false_iff (w : BitVec 64) (wr sh : Bool) :
    (decide (bits w 45 36 ≠ 0) || (!sh && bit w 46) || (!wr && decide (bits w 55 52 ≠ 0)) || (bit w 47 && decide (bits w 35 32 ≠ 0)) ||
      (!bit w 47 && decide (bits w 31 0 ≠ 0))) = false ↔ aluWordOk w wr sh := by
  unfold aluWordOk
  cases sh <;> cases wr <;> cases bit w 46 <;> cases bit w 47 <;> simp [and_assoc]

theorem arith_of_ok {s : State} {w : BitVec 64} {wr sh : Bool} (ok : aluWordOk w wr sh) (t : Nat) (f : Word → Word → Alu) :
    s.arith t w wr sh f =
      let r := f ((s.thread t).reg (bits w 51 48)) (aluOperand (s.thread t) w)
      s.modThread t fun x => { (if wr then x.setG (bits w 55 52) r.r else x) with z := r.z, n := r.n, c := r.c, v := r.v, pc := x.pc + 1 } := by
  unfold State.arith
  exact ranged_of_ok _ ((reserved_eq_false_iff w wr sh).mpr ok)

theorem arith_of_reserved {s : State} {w : BitVec 64} {wr sh : Bool} (bad : ¬ aluWordOk w wr sh) (t : Nat) (f : Word → Word → Alu) :
    s.arith t w wr sh f = s.threadFault t .range := by
  unfold State.arith
  exact ranged_of_bad _ (Bool.of_not_eq_false fun h => bad ((reserved_eq_false_iff w wr sh).mp h))

/-- Every arithmetic instruction is `arith` with its result and flags. -/
theorem threadAlu_arith {s : State} {t : ThrIx} {e : Ecc} {w : BitVec 64} {op : Nat} {c : Instr} {f : Word → Word → Alu} {wr sh : Bool}
    (member : (op, c, f, wr, sh) ∈ threadAlu t e w) (he : e ≠ .uncorrectable) (fetched : s.fetches t op w) :
    exec c s = .next ((s.issued t).arith t w wr sh f) := by
  have all : ∀ x ∈ threadAlu t e w, s.fetches t x.1 w → exec x.2.1 s = .next ((s.issued t).arith t w x.2.2.2.1 x.2.2.2.2 x.2.2.1) := by
    simp only [threadAlu, List.forall_mem_cons, List.not_mem_nil, false_implies, implies_true, and_true]
    and_intros <;> exact fun fetched => next_issue_of_fetches fetched he rfl
  exact all (op, c, f, wr, sh) member fetched

/-- Settles O32: the arithmetic instructions share one meaning, whose frame is that of a change of one thread. -/
theorem threadDataActs : Obligations.ThreadDataActs := by
  unfold Obligations.ThreadDataActs
  intro t e w s he u x g y ok put
  have does {op : Nat} {c : Instr} {f : Word → Word → Alu} {wr sh : Bool} (member : (op, c, f, wr, sh) ∈ threadAlu t e w)
      (fetched : s.fetches t op w) (hok : ok wr sh) : exec c s = put wr (f g y) :=
    (threadAlu_arith member he fetched).trans (congrArg Host.Outcome.next (arith_of_ok hok t f))
  refine ⟨does (by simp [threadAlu]), does (by simp [threadAlu]), does (f := fun a b => aluLogic (a &&& b)) (by simp [threadAlu]),
    does (f := fun a b => aluLogic (a ||| b)) (by simp [threadAlu]), does (f := fun a b => aluLogic (a ^^^ b)) (by simp [threadAlu]),
    does (f := fun a b => aluShl a (bits b 4 0)) (by simp [threadAlu]),
    does (f := fun a b => aluShr (bit w 46) a (bits b 4 0)) (by simp [threadAlu]), does (by simp [threadAlu]),
    fun fetched zero => ?ldi, fun v fetched zero few source => ?mov,
    fun op c f wr sh member fetched bad => ?reserved, fun fetched bad => ?ldiReserved, fun fetched bad => ?movReserved,
    ?frame, fun n m v => mget_mset _ _ _ _ _⟩
  case ldi => exact next_issue_of_fetches fetched he (ranged_of_ok _ (by simp [zero]))
  case mov =>
    refine next_issue_of_fetches fetched he ?_
    simp only [show (s.issued t).movSrc t (bits w 50 46) = some v from source]
    exact ranged_of_ok _ (by simp [zero, few])
  case reserved => exact (threadAlu_arith member he fetched).trans (congrArg Host.Outcome.next (arith_of_reserved bad t f))
  case ldiReserved => exact next_issue_of_fetches fetched he (ranged_of_bad _ (by simp [bad]))
  case movReserved =>
    refine next_issue_of_fetches fetched he ?_
    cases source : (s.issued t).movSrc t (bits w 50 46) with
    | none => rfl
    | some v =>
      have wrong := bad.resolve_left (by simp [u, source])
      exact ranged_of_bad _ (by simpa using wrong)
  case frame =>
    intro f v
    refine ⟨mget_mset_self _ _ _ _, s.issued_thread t, fun t' ne => ?_, ?_⟩
    · exact (mget_mset_ne _ _ _ _ _ ne).trans (s.issued_other ne)
    · show (s.issued t).modThread t f = _
      rw [s.issued_frame t]
      rfl

end Sys2Proof.Machine
end

section
/-!
The thread instructions of flow.
-/
namespace Sys2Proof.Machine

/-! ### Checks in their order -/

theorem firstFault_cons (b : Bool) (f : TFault) (l : List (Bool × TFault)) :
    firstFault ((b, f) :: l) = if b then some f else firstFault l := by
  cases b <;> simp [firstFault]

theorem firstFault_nil : firstFault [] = none := rfl

theorem targetOf_of_imm {w : BitVec 64} (x : Thread) (imm : bit w 55 = false) (reg : bits w 54 51 = 0) (rest : bits w 50 20 = 0) :
    targetOf x w = (bits w 19 0, false) := by
  simp [targetOf, imm, reg, rest]

theorem targetOf_of_reg {w : BitVec 64} {x : Thread} (reg : bit w 55 = true) (rest : bits w 50 20 = 0) (imm : bits w 19 0 = 0)
    (small : bits (x.reg (bits w 54 51)) 31 20 = 0) : targetOf x w = (bits (x.reg (bits w 54 51)) 19 0, false) := by
  simp [targetOf, reg, rest, imm, small]

/-- A count of 24 bits that is not 0 is not 0 as a word. -/
theorem ofNat_bits_ne_zero {w : BitVec 64} (h : bits w 43 20 ≠ 0) : BitVec.ofNat 32 (bits w 43 20) ≠ 0#32 := by
  have small : bits w 43 20 < 2 ^ 24 := Nat.mod_lt _ (by decide)
  intro zero
  have := congrArg BitVec.toNat zero
  rw [BitVec.toNat_ofNat, Nat.mod_eq_of_lt (by omega)] at this
  exact h this

/-- Changing a barrier and then a thread leaves what the change left in the barrier. -/
theorem barrier_modBarrier_thread (s : State) (b t : Nat) (f : Barrier → Barrier) (g : Thread → Thread) :
    ((s.modBarrier b f).modThread t g).barrier b = f (s.barrier b) :=
  mget_mset_self _ _ _ _

/-- Settles O31: each instruction is one issue (R118 to R121) whose range check its hypotheses pass or fail. -/
theorem threadFlowActs : Obligations.ThreadFlowActs := by
  unfold Obligations.ThreadFlowActs
  refine ⟨fun t e w s he => ⟨?nop, ?endShot, ?halt, ?waitImm, ?waitReg, ?waituntil, ?sync, ?btk, ?bev, ?loop, ?endl, ?brImm, ?brReg,
    ?bcc, ?call, ?ret⟩, fun t e w s he => ⟨?callTwice, ?retAlone, ?endlOutside, ?loopDeep⟩⟩
  case nop | endShot | halt =>
    intro fetched zero
    exact next_issue_of_fetches fetched he (ranged_of_ok _ (by simp [zero]))
  case waitImm =>
    intro fetched imm reg rest
    exact next_issue_of_fetches fetched he ((ranged_of_ok _ (by simp [imm, reg, rest])).trans (by simp only [imm]; rfl))
  case waitReg =>
    intro fetched reg rest zero
    exact next_issue_of_fetches fetched he ((ranged_of_ok _ (by simp [reg, rest, zero])).trans (by simp only [reg]; rfl))
  case waituntil =>
    intro fetched zero
    refine next_issue_of_fetches fetched he ((ranged_of_ok _ (by simp [zero])).trans ?_)
    simp only [plus, BitVec.add_comm]
    rfl
  case sync =>
    intro fetched zero run member
    refine next_issue_of_fetches fetched he ?_
    simp only [firstFault, run, bne_self_eq_false, member, zero, barrier_modBarrier_thread]
    rfl
  case btk =>
    intro fetched rest inMask
    exact next_issue_of_fetches fetched he (ranged_of_ok _ (by simp [rest, inMask]))
  case bev =>
    intro fetched rest own
    refine next_issue_of_fetches fetched he ?_
    simp only [firstFault, own, rest, ne_eq, not_true_eq_false, decide_false]
    rfl
  case loop =>
    intro n fetched rest count
    have does (room : n ≠ 0 → ((s.issued t).thread t).depth < 4) : exec (.tLoop t e) s = .next
        (if n = 0 then (s.issued t).goto t (bits w 19 0) else (s.issued t).modThread t fun x =>
          { (x.setLc x.depth n) with starts := mset 0 x.starts x.depth (x.pc + 1), depth := x.depth + 1, pc := x.pc + 1 }) := by
      refine next_issue_of_fetches fetched he ?_
      obtain ⟨imm, reg, rfl⟩ | ⟨reg, imm, rfl⟩ := count
      · simp only [imm, Bool.false_eq_true, if_false] at room ⊢
        exact ranged_of_ok _ (by simpa [reg, rest] using room)
      · simp only [reg, if_true] at room ⊢
        exact ranged_of_ok _ (by simpa [imm, rest] using room)
    exact ⟨fun zero => (does fun h => absurd zero h).trans (by rw [if_pos zero]),
      fun pos room => (does fun _ => room).trans (by rw [if_neg pos])⟩
  case endl =>
    intro fetched zero inside
    exact next_issue_of_fetches fetched he (ranged_of_ok _ (by simp [zero, inside]))
  case brImm =>
    intro fetched imm reg rest
    have target := targetOf_of_imm ((s.issued t).thread t) imm reg rest
    exact next_issue_of_fetches fetched he ((ranged_of_ok _ (by rw [target])).trans (by rw [target]))
  case brReg =>
    intro fetched reg rest imm small
    have target := targetOf_of_reg reg rest imm small
    exact next_issue_of_fetches fetched he ((ranged_of_ok _ (by rw [target])).trans (by rw [target]))
  case bcc =>
    intro fetched rest known
    exact next_issue_of_fetches fetched he (ranged_of_ok _ (by simp [rest, known]))
  case call =>
    intro fetched imm reg rest free
    refine next_issue_of_fetches fetched he ?_
    simp only [targetOf_of_imm _ imm reg rest, free]
    exact ranged_of_ok _ rfl
  case ret =>
    intro fetched zero called
    exact next_issue_of_fetches fetched he (ranged_of_ok _ (by simp [zero, called]))
  case callTwice =>
    intro fetched called
    exact next_issue_of_fetches fetched he (ranged_of_bad _ (by simp [called]))
  case retAlone =>
    intro fetched free
    exact next_issue_of_fetches fetched he (ranged_of_bad _ (by simp [free]))
  case endlOutside =>
    intro fetched outside
    exact next_issue_of_fetches fetched he (ranged_of_bad _ (by simp [outside]))
  case loopDeep =>
    intro fetched imm count deep
    refine next_issue_of_fetches fetched he ?_
    simp only [imm, Bool.false_eq_true, if_false]
    exact ranged_of_bad _ (by simp [ofNat_bits_ne_zero count, deep])

end Sys2Proof.Machine
end

section
/-!
The timed instructions of a thread, and the push of their commands.
-/
namespace Sys2Proof.Machine

/-! ### Timed instructions -/

theorem timed_of_pushes {s : State} {t : Nat} {checks : List (Bool × TFault)} {p : Push} (passed : firstFault checks = none)
    (h : s.pushes t p) : s.timed t checks p = (s.recorded p).completePush t p := by
  rw [State.timed, passed]
  exact startPush_of_pushes h

theorem timed_of_fault {s : State} {t : Nat} {checks : List (Bool × TFault)} {f : TFault} (failed : firstFault checks = some f) (p : Push) :
    s.timed t checks p = s.threadFault t f := by
  rw [State.timed, failed]

theorem oscCmd_of_pushes {s : State} {t : Nat} {w : BitVec 64} {bad adv : Bool} {a : Act} (mine : s.oscMine t w = true) (ok : bad = false)
    (h : s.pushes t (s.oscPush t w adv a)) :
    s.oscCmd t w bad adv a = (s.recorded (s.oscPush t w adv a)).completePush t (s.oscPush t w adv a) :=
  timed_of_pushes (by simp [firstFault, mine, ok]) h

theorem phaseOf_eq {x : Thread} {w : BitVec 64} {v : Word}
    (h : bit w 53 = true ∧ bits w 43 24 = 0 ∧ v = x.reg (bits w 23 20) ∨ bit w 53 = false ∧ v = BitVec.ofNat 32 (256 * bits w 43 20)) :
    phaseOf x w = (v, false) := by
  obtain ⟨reg, rest, rfl⟩ | ⟨imm, rfl⟩ := h
  · simp [phaseOf, reg, rest]
  · simp [phaseOf, imm]

/-- R148, R152: SIGNAL with T pushes to its carrier. -/
theorem signal_of_pushes {s : State} {t : Nat} {w : BitVec 64} {q : Nat} (own : s.signalForeign t w = false)
    (open_ : s.ecClass (bits w 55 46) ≠ 2) (timed : bit w 45 = true) (rest : bits w 33 20 = 0)
    (carrier : carrierQ (bits w 44 43) (bits w 42 34) = some q) (mine : s.assigned t q = true) (h : s.pushes t (s.signalPush t w q)) :
    s.signal t w = (s.recorded (s.signalPush t w q)).completePush t (s.signalPush t w q) := by
  unfold State.signal
  simp only [timed, if_true, carrier]
  exact timed_of_pushes (by simp [firstFault, own, open_, rest, mine]) h

/-- R148: SIGNAL without T fires its channel at once. -/
theorem signal_of_untimed {s : State} {t : Nat} {w : BitVec 64} (own : s.signalForeign t w = false)
    (open_ : s.ecClass (bits w 55 46) ≠ 2) (untimed : bit w 45 = false) (rest : bits w 44 0 = 0) :
    s.signal t w = (s.next t).fireFrom (thrHalf t) (bits w 55 46) (s.thread t).sigGen := by
  have open' : (s.ecClass (bits w 55 46) == 2) = false := by simpa using open_
  unfold State.signal
  simp only [untimed, own, open', rest]
  rfl

theorem markCmd_of_pushes {s : State} {t : Nat} {w : BitVec 64} {q : Nat} (mine : s.markForeign t w = false) (rest : bits w 30 20 = 0)
    (pulse : bits w 51 50 = 2 → bits w 49 42 ≠ 0) (level : bits w 51 50 ≠ 2 → bits w 49 42 = 0)
    (carrier : carrierQ (bits w 41 40) (bits w 39 31) = some q) (assigned : s.assigned t q = true) (h : s.pushes t (s.markPush t w q)) :
    s.markCmd t w = (s.recorded (s.markPush t w q)).completePush t (s.markPush t w q) := by
  unfold State.markCmd
  simp only [carrier]
  refine timed_of_pushes ?_ h
  by_cases p : bits w 51 50 = 2
  · simp [firstFault, mine, assigned, rest, p, pulse p]
  · simp [firstFault, mine, assigned, rest, p, level p]

/-- Settles O33: a timed instruction is one issue whose checks, in the order of R125, end in the push or in the first fault. -/
theorem timedInstructionsPush : Obligations.TimedInstructionsPush := by
  unfold Obligations.TimedInstructionsPush
  intro t e se w s he u done
  have issue {op : Nat} {f : State → BitVec 64 → State} {v : State} (fetched : s.fetches t op w) (does : f u w = v) :
      (Host.Outcome.next (s.issue t e op f) : Host.Outcome State Fault Refusal) = .next v := next_issue_of_fetches fetched he does
  refine ⟨fun fetched passed h => issue fetched (timed_of_pushes passed h), fun fetched passed h => issue fetched (timed_of_pushes passed h),
    fun fetched passed h => issue fetched (timed_of_pushes passed h), fun fetched passed h => issue fetched (timed_of_pushes passed h),
    ?setf, fun v mine phase => ⟨fun fetched h => ?addph, fun fetched h => ?setph⟩,
    fun fetched mine rest h => issue fetched (oscCmd_of_pushes mine (by simp [rest]) h),
    fun fetched own open_ => ⟨fun q timed rest carrier mine h => issue fetched (signal_of_pushes own open_ timed rest carrier mine h),
      fun untimed rest => issue fetched (signal_of_untimed own open_ untimed rest)⟩,
    fun q fetched mine rest pulse level carrier assigned h =>
      issue fetched (markCmd_of_pushes mine rest pulse level carrier assigned h),
    fun f => ⟨fun fetched failed => issue fetched (timed_of_fault failed _), fun fetched failed => issue fetched (timed_of_fault failed _),
      fun fetched failed => issue fetched (timed_of_fault failed _), fun fetched failed => issue fetched (timed_of_fault failed _)⟩⟩
  case setf =>
    intro fetched mine even rest r f h
    exact issue fetched (oscCmd_of_pushes mine (by simp [even, rest]) h)
  case addph =>
    refine issue fetched ?_
    unfold State.addph
    rw [phaseOf_eq phase]
    exact oscCmd_of_pushes mine rfl h
  case setph =>
    refine issue fetched ?_
    unfold State.setph
    rw [phaseOf_eq phase]
    exact oscCmd_of_pushes mine rfl h

/-! ### The push of commands -/

/-- A queue with one more command at its end; the start of a pattern claims it (R103). -/
def Queue.appended (c : Cmd) (x : Queue) : Queue :=
  { x with cmds := x.cmds ++ [c], pat := match c.act with | .pattern _ _ => true | _ => x.pat }

/-- The state with commands appended to their queues, and nothing else changed. -/
def State.appendAll (s : State) (cmds : List (Nat × Cmd)) : State := s.forEach cmds fun s qc => s.modQueue qc.1 (Queue.appended qc.2)

/-- A command goes into its queue when its resource is enabled and the command is in time. -/
def State.queueable (s : State) (qc : Nat × Cmd) : Prop := s.disabled qc.1 = false ∧ s.isLate qc.1 qc.2.stamp = false

theorem pushOne_of_queueable {s : State} {qc : Nat × Cmd} (h : s.queueable qc) : s.pushOne qc.1 qc.2 = s.modQueue qc.1 (Queue.appended qc.2) := by
  obtain ⟨enabled, inTime⟩ := h
  rw [State.pushOne, if_neg (by simp [enabled]), if_neg (by simp [inTime])]
  rfl

/-- What decides whether a command is taken are registers and counters, which no queue holds. -/
theorem queueable_modQueue {s : State} {qc : Nat × Cmd} (h : s.queueable qc) (q : Nat) (f : Queue → Queue) : (s.modQueue q f).queueable qc := h

theorem pushes_eq_appendAll {s : State} {cmds : List (Nat × Cmd)} (h : ∀ qc ∈ cmds, s.queueable qc) :
    (s.forEach cmds fun s qc => s.pushOne qc.1 qc.2) = s.appendAll cmds := by
  induction cmds generalizing s with
  | nil => rfl
  | cons qc cmds ih =>
    have first : s.forEach (qc :: cmds) (fun s qc => s.pushOne qc.1 qc.2) = (s.modQueue qc.1 (Queue.appended qc.2)).forEach cmds _ :=
      congrArg (State.forEach · cmds _) (pushOne_of_queueable (h qc (by simp)))
    exact first.trans (ih fun x hx => queueable_modQueue (h x (by simp [hx])) _ _)

theorem queue_modQueue_self (s : State) (q : Nat) (f : Queue → Queue) : (s.modQueue q f).queue q = f (s.queue q) := mget_mset_self _ _ _ _

theorem queue_modQueue_ne (s : State) {q q' : Nat} (f : Queue → Queue) (h : q' ≠ q) : (s.modQueue q f).queue q' = s.queue q' :=
  mget_mset_ne _ _ _ _ _ h

theorem appendAll_frame (s : State) (cmds : List (Nat × Cmd)) : s.appendAll cmds = { s with que := (s.appendAll cmds).que } := by
  induction cmds generalizing s with
  | nil => rfl
  | cons qc cmds ih => exact ih (s.modQueue qc.1 (Queue.appended qc.2))

theorem queue_appendAll_of_not_mem {s : State} {cmds : List (Nat × Cmd)} {q : Nat} (h : q ∉ cmds.map (·.1)) :
    (s.appendAll cmds).queue q = s.queue q := by
  induction cmds generalizing s with
  | nil => rfl
  | cons qc cmds ih =>
    rw [List.map_cons, List.mem_cons, not_or] at h
    exact (ih (s := s.modQueue qc.1 (Queue.appended qc.2)) h.2).trans (queue_modQueue_ne _ _ h.1)

theorem queue_appendAll_of_mem {s : State} {cmds : List (Nat × Cmd)} {qc : Nat × Cmd} (once : (cmds.map (·.1)).Nodup) (h : qc ∈ cmds) :
    (s.appendAll cmds).queue qc.1 = (s.queue qc.1).appended qc.2 := by
  induction cmds generalizing s with
  | nil => exact absurd h List.not_mem_nil
  | cons x cmds ih =>
    rw [List.map_cons, List.nodup_cons] at once
    obtain rfl | later := List.mem_cons.mp h
    · exact (queue_appendAll_of_not_mem once.1).trans (queue_modQueue_self _ _ _)
    · have other : qc.1 ≠ x.1 := fun same => once.1 (same ▸ List.mem_map_of_mem later)
      exact (ih once.2 later).trans (congrArg (Queue.appended qc.2) (queue_modQueue_ne _ _ other))

/-- R124: the thread of a push that completes. -/
def Thread.afterPush (p : Push) (x : Thread) : Thread :=
  { x with st := .ready, stall := .none, push := none, pc := x.pc + 1, now := p.newNow.getD x.now }

theorem completePush_of_queueable {s : State} {t : Nat} {p : Push} (h : ∀ qc ∈ p.cmds, s.queueable qc) :
    s.completePush t p = (s.appendAll p.cmds).modThread t (Thread.afterPush p) := by
  rw [State.completePush, pushes_eq_appendAll h]
  unfold Thread.afterPush
  cases p.newNow <;> rfl

/-- Settles O35: a push whose commands are all queued is their appending, queue by queue, and a change of its thread. -/
theorem pushesAppendTheirCommands : Obligations.PushesAppendTheirCommands := by
  unfold Obligations.PushesAppendTheirCommands
  intro t p s once taken
  rw [completePush_of_queueable taken]
  have frame := appendAll_frame s p.cmds
  have thread : ((s.appendAll p.cmds).modThread t (Thread.afterPush p)).thread t = Thread.afterPush p (s.thread t) := by
    rw [State.thread_modThread, if_pos rfl, frame]
    rfl
  refine ⟨fun qc member => congrArg Queue.cmds (queue_appendAll_of_mem once member), fun q other => queue_appendAll_of_not_mem other,
    ?pc, ?st, ?now, (congrArg State.regs frame :), (congrArg State.mem frame :)⟩
  case pc | st | now => rw [thread]; rfl

end Sys2Proof.Machine
end

section
/-!
The waits of a thread and what ends them.
-/
namespace Sys2Proof.Machine

/-! ### Branches on the first fault -/

theorem onFirstFault_of_passed {α : Type} {checks : List (Bool × TFault)} {a : TFault → α} {b : α} (passed : firstFault checks = none) :
    (match firstFault checks with | some f => a f | none => b) = b := by
  rw [passed]

/-! ### Waits -/

theorem dueDefault_of_due {s : State} {t : Nat} {y : Wait} (waits : (s.thread t).wait = some y)
    (due : s.defaultRow t y ≤ (s.row (thrHalf t) : Int)) : s.dueDefault t = s.defaultWait t y := by
  unfold State.dueDefault
  rw [waits]
  exact if_pos due

theorem firingAt_of_waits {s : State} {t ch : Nat} {y : EvWait} (waits : (s.thread t).evwait = some y) (gen : Nat) :
    s.firingAt t ch gen = if y.ec = ch ∧ (y.tmo = 0 ∨ s.row (thrHalf t) < y.row + y.tmo) then
      s.endWaitev t y false (s.row (thrHalf t)) (some gen) else s := by
  unfold State.firingAt
  rw [waits]

theorem evTimeout_of_waits {s : State} {t : Nat} {y : EvWait} (waits : (s.thread t).evwait = some y) (limited : y.tmo ≠ 0)
    (due : y.row + y.tmo ≤ s.row (thrHalf t)) : s.evTimeout t = s.endWaitev t y true (y.row + y.tmo) none := by
  unfold State.evTimeout
  rw [waits]
  exact if_pos ⟨limited, due⟩

theorem execQueueRoomResume_of_room {s : State} {t : ThrIx} {p : Push} (holds : (s.thread t).push = some p)
    (stalled : (s.thread t).st = .stalled) (full : (s.thread t).stall = .fullQueue) (room : ∀ qc ∈ p.cmds, (s.queue qc.1).cmds.length < 64) :
    exec (.queueRoomResume t) s = .next (s.completePush t p) := by
  change execQueueRoomResume t s = _
  unfold execQueueRoomResume
  simp only [holds]
  exact congrArg Host.Outcome.next (if_pos ⟨stalled, full, by simpa using room⟩)

theorem execRunAheadResume_of_near {s : State} {t : ThrIx} {p : Push} (holds : (s.thread t).push = some p)
    (stalled : (s.thread t).st = .stalled) (ahead : (s.thread t).stall = .runAhead)
    (near : ∀ qc ∈ p.cmds, s.ahead qc.1 qc.2.stamp ≤ s.runAhead (thrHalf t)) :
    exec (.runAheadResume t) s =
      .next ((s.modThread t fun x => { x with st := .ready, stall := .none, push := none }).pushOrdered t p) := by
  change execRunAheadResume t s = _
  unfold execRunAheadResume
  simp only [holds]
  exact congrArg Host.Outcome.next (if_pos ⟨stalled, ahead, by simpa using near⟩)

/-- The queue that a STRM names (R168). -/
def strmQueue (w : BitVec 64) : Nat :=
  if bits w 55 54 = 2 then 1536 + bits w 52 44 % 128 else kindQ (bits w 55 54 == 1) (bits w 52 44)

theorem strmGo_of_fetched {s : State} {t : Nat} {y : Stream} (stalled : (s.thread t).st = .stalled) (strm : (s.thread t).stall = .strm)
    (stream : s.stream (strmQueue (s.progWord (thrHalf t) (s.thread t).pc)) = some y) (enabled : (s.ring y.ring).st = .enabled)
    (fetched : 0 < y.fetched) :
    s.strmGo t = (s.setStream (strmQueue (s.progWord (thrHalf t) (s.thread t).pc)) (some { y with ready := true })).modThread t
      fun x => { x with st := .ready, stall := .none, pc := x.pc + 1 } := by
  unfold State.strmGo
  unfold strmQueue at *
  simp only [stalled, strm, and_self, if_true, stream]
  exact if_pos ⟨enabled, fetched⟩

/-- Settles O34: an instruction that waits is one issue; what ends a wait is the branch that its hypotheses select. -/
theorem waitsAndResumesAct : Obligations.WaitsAndResumesAct := by
  unfold Obligations.WaitsAndResumesAct
  intro t e w b s u
  refine ⟨fun fetched he rest inTable own i sub => ?waittk, fun fetched he rest own => ?waitev, fun fetched he high low => ?rec,
    fun fetched he => next_issue_of_fetches fetched he rfl, fun y waits due => congrArg Host.Outcome.next (dueDefault_of_due waits due),
    fun f next => ?firing, fun t' ch gen y waits => ⟨fun same early => ?ends, fun other => ?keeps⟩,
    fun y waits limited due => congrArg Host.Outcome.next (evTimeout_of_waits waits limited due),
    fun p holds stalled => ⟨execQueueRoomResume_of_room holds stalled, execRunAheadResume_of_near holds stalled⟩,
    fun a l arrived all heard => ?barrier, ?strm⟩
  case waittk =>
    have own : (s.issued t).ownSource _ _ = some ((s.issued t).partOf t) := own
    have sub : (s.issued t).subOf t _ _ = some i := sub
    refine next_issue_of_fetches fetched he ((onFirstFault_of_passed ?_).trans (by rw [sub]; rfl))
    simpa [firstFault, own, rest, sub] using inTable
  case waitev =>
    have own : (s.issued t).ownEvent _ = some ((s.issued t).partOf t) := own
    exact next_issue_of_fetches fetched he (onFirstFault_of_passed (by simp [firstFault, own, rest]))
  case rec => exact next_issue_of_fetches fetched he (ranged_of_ok _ (by simp [high, low]))
  case firing =>
    change execWaitevFiring t s = _
    unfold execWaitevFiring
    rw [next]
    rfl
  case ends => rw [firingAt_of_waits waits, if_pos ⟨same, early⟩]
  case keeps => rw [firingAt_of_waits waits, if_neg fun h => other h.1]
  case barrier =>
    change execBarrierComplete b s = _
    unfold execBarrierComplete
    simp only [arrived]
    exact congrArg Host.Outcome.next (if_pos ⟨by simpa using all, heard⟩)
  case strm =>
    intro y stalled strm v q stream enabled fetched
    exact congrArg Host.Outcome.next (strmGo_of_fetched stalled strm stream enabled fetched)

end Sys2Proof.Machine
end

section
/-!
The life of a run.
-/
namespace Sys2Proof.Machine

/-! ### Runs -/

theorem execShotStart_of_over {r : RunIx} {s : State} {t : Nat} {ts : List Nat} (threads : (s.runOf r).threads = t :: ts)
    (active : (s.runOf r).active = true) (runs : (s.runOf r).stopped = false) (open_ : (s.runOf r).st ≠ .committed)
    (ended : s.shotOver r = true) (more : (s.runOf r).isFinal = false) :
    exec (.shotStart r) s = .next ((s.modRun r fun u => { u with done := u.done + 1 }).beginShot r ((s.runOf r).shot + 1)
      (roundUpI (s.extI (thrHalf t) (ts.foldl (fun m t => max48 m (s.thread t).now) (s.thread t).now) + 32 * (s.runOf r).gap) 32)) := by
  change execShotStart r s = _
  unfold execShotStart
  simp only [threads]
  exact congrArg Host.Outcome.next (if_pos ⟨active, by simp [runs], open_, ended, by simp [more]⟩)

theorem reachT0_of_reached {r : Nat} {s : State} {t0 : Nat} (start : (s.runOf r).t0 = some t0) (armed : (s.runOf r).st = .armed)
    (runs : (s.runOf r).stopped = false) (reached : t0 ≤ s.now 0) :
    s.reachT0 r = ((s.leaveArmed r).stampRun r).modRun r fun u => { u with st := if u.final.isSome then .stopping else .running } := by
  unfold State.reachT0
  simp only [start]
  exact if_pos ⟨armed, by simp [runs], reached⟩

/-- A committed run with no record of a shot to come has a last clean-up to do (R236, R519). -/
theorem execRunComplete_of_committed {r : RunIx} {s : State} (committed : (s.runOf r).st = .committed) (recorded : (s.runOf r).shots = [])
    (windows : ∀ w ∈ s.wins, w.run ≠ r.val) :
    exec (.runComplete r) s =
      let t := (s.avgRecords r).shutPack (s.runOf r).recRing
      .next (if t.recWaits r then t
        else (t.finish (t.runOf r).tag (t.runOf r).status (runResult (t.shotsDone r) (t.runOf r).discards r)).freeRun r) :=
  congrArg Host.Outcome.next (if_pos ⟨committed, by simp [recorded], by simpa using windows⟩)

/-- R457: the ball has passed a shot: the run was stopped, a next shot has started, or it is the final one. -/
theorem execShotRecordWrite_of_passed {r : RunIx} {s : State} {x : Shot} {xs : List Shot} (shots : (s.runOf r).shots = x :: xs)
    (active : (s.runOf r).active = true)
    (passed : (s.runOf r).stopped = true ∨ (∃ y ys, xs = y :: ys ∧ y.s ≤ (s.now 0 : Int)) ∨ xs = [] ∧ (s.runOf r).st = .committed)
    (idle : s.shotBusy r x.num = false) :
    exec (.shotRecordWrite r) s =
      let t := s.modRun r fun u => { u with shots := xs }
      .next (t.formRecord (t.runHalf r) (s.runOf r).recRing (some r.val) true
        (shotRecord r x (xs.isEmpty && (s.runOf r).st == .committed))) := by
  change execShotRecordWrite r s = _
  unfold execShotRecordWrite
  simp only [shots]
  refine congrArg Host.Outcome.next (if_pos ⟨active, ?_, by simp [idle]⟩)
  obtain stopped | ⟨y, ys, rfl, reached⟩ | ⟨rfl, committed⟩ := passed
  · simp [stopped]
  · simp [reached]
  · simp [committed]

/-- Settles O36: each event of a run is the branch of its meaning that its hypotheses select. -/
theorem runEventsAct : Obligations.RunEventsAct := by
  unfold Obligations.RunEventsAct
  intro r s u
  refine ⟨fun t ts threads active runs open_ ended more => execShotStart_of_over threads active runs open_ ended more,
    fun t0 start armed runs reached => congrArg Host.Outcome.next (reachT0_of_reached start armed runs reached),
    fun running committed => congrArg Host.Outcome.next (if_pos ⟨running, committed⟩), fun committed recorded windows => ?complete,
    fun x xs shots active passed idle => execShotRecordWrite_of_passed shots active passed idle⟩
  case complete =>
    have completes := execRunComplete_of_committed committed recorded windows
    exact ⟨fun waits => completes.trans (congrArg Host.Outcome.next (if_pos waits)),
      fun written => completes.trans (congrArg Host.Outcome.next (if_neg (ne_true_of_eq_false written)))⟩

end Sys2Proof.Machine
end

section
/-!
Pattern play, streams, measurement windows and tokens.
-/
namespace Sys2Proof.Machine

/-! ### Pattern play -/

/-- An event that names a queue that exists is no fault. -/
theorem next_of_exists {q : QId} (hq : q.kind ≠ .flux ∨ q.idx.val < 128) (s : State) :
    (if q.kind = .flux ∧ 128 ≤ q.idx.val then .fault .illFormed else .next s : Res) = .next s :=
  if_neg (not_illFormed_of_exists hq)

theorem segmentDue_of_passed {s : State} {q : Nat} (active : (s.pattern q).active = true) (playing : (s.pattern q).ended = none)
    (passed : (s.pattern q).lastRow < s.row (qHalf q) + qLead q) : s.segmentDue q = true := by
  simp [State.segmentDue, active, playing, passed]

theorem patternStep_of_due {s : State} {q : Nat} (due : s.segmentDue q = true) (e : Ecc) (w : WaveCheck) :
    s.patternStep q e w = s.segmentOver q e w := if_pos due

theorem patternStep_of_ended {s : State} {q b : Nat} (idle : s.segmentDue q = false) (active : (s.pattern q).active = true)
    (ended : (s.pattern q).ended = some b) (passed : b ≤ s.now (qHalf q)) (e : Ecc) (w : WaveCheck) :
    s.patternStep q e w = s.patternEnd q b := by
  rw [State.patternStep, if_neg (by simp [idle]), active, ended]
  exact if_pos passed

section
variable {s : State} {q : Nat} (e : Ecc) (w : WaveCheck)

/-- R104, R105: a jump is taken at the end of its segment. -/
theorem segmentOver_of_jump {j : Jump} (jump : (s.pattern q).jump = some j) (ready : j.wait = false) :
    s.segmentOver q e w = s.nextSegment q j.target (s.entry q j.target).loops j.late e w := by
  simp [State.segmentOver, jump, ready]

theorem segmentOver_of_loop (waits : ∀ j, (s.pattern q).jump = some j → j.wait = true) (more : 0 < (s.pattern q).left) :
    s.segmentOver q e w = s.nextSegment q (s.pattern q).entry ((s.pattern q).left - 1) false e w := by
  unfold State.segmentOver
  cases jump : (s.pattern q).jump with
  | none => simp [jump, more]
  | some j => simp [jump, waits j jump, more]

theorem segmentOver_of_next (done : (s.pattern q).left = 0)
    (goes : (s.pattern q).jump = none ∧ (s.entry q (s.pattern q).entry).last = false ∨ ∃ j, (s.pattern q).jump = some j ∧ j.wait = true) :
    s.segmentOver q e w = s.nextSegment q (s.entry q (s.pattern q).entry).next
      (s.entry q (s.entry q (s.pattern q).entry).next).loops false e w := by
  unfold State.segmentOver
  obtain ⟨free, more⟩ | ⟨j, jump, waits⟩ := goes
  · simp [free, done, more]
  · simp [jump, waits, done]

theorem segmentOver_of_last (free : (s.pattern q).jump = none) (done : (s.pattern q).left = 0)
    (last : (s.entry q (s.pattern q).entry).last = true) : s.segmentOver q e w = s.patternOver q := by
  simp [State.segmentOver, free, done, last]

end

/-- The state in which a jump request is judged: a segment whose end has come is over first (R104). -/
def State.settleSegment (s : State) (q : Nat) : State := if s.segmentDue q then s.segmentOver q .ok .ok else s

theorem jumpIn_event (s : State) (q : Nat) :
    s.jumpIn q none = if ((s.settleSegment q).queue q).pat then (s.settleSegment q).jump q false else (s.settleSegment q).jumpDropped q := rfl

/-- A compare request is one of the queue's run and of the shot in play, with the state that the entry compares (R107, R253). -/
def State.comparesWith (t : State) (q : Nat) (k : Token) : Prop :=
  (t.queue q).pat = true ∧ k.run ∈ t.runOfQueue q ∧
    ((t.runOf k.run).ballShot (32 * (t.row (qHalf q) + qLead q))).map (BitVec.ofNat 32) = some k.shot ∧
    bits k.value 1 0 = (t.entry q (t.patEntry q)).cmpState

open Classical in
theorem jumpIn_compare (s : State) (q : Nat) (k : Token) :
    s.jumpIn q (some k) =
      if (s.settleSegment q).comparesWith q k then (s.settleSegment q).jump q true else s.settleSegment q := by
  have mine (t : State) : (t.runOfQueue q).any (fun r =>
      r == k.run && ((t.runOf r).ballShot (32 * (t.row (qHalf q) + qLead q))).map (BitVec.ofNat 32) == some k.shot) = true ↔
      k.run ∈ t.runOfQueue q ∧ ((t.runOf k.run).ballShot (32 * (t.row (qHalf q) + qLead q))).map (BitVec.ofNat 32) = some k.shot := by
    rw [List.any_eq_true]
    constructor
    · rintro ⟨r, member, h⟩
      rw [Bool.and_eq_true, beq_iff_eq, beq_iff_eq] at h
      obtain ⟨rfl, shot⟩ := h
      exact ⟨member, shot⟩
    · rintro ⟨member, shot⟩
      exact ⟨k.run, member, by simp [shot]⟩
  refine ite_congr (propext ?_) (fun _ => rfl) (fun _ => rfl)
  rw [Bool.and_eq_true, Bool.and_eq_true, beq_iff_eq, State.comparesWith, and_assoc]
  refine and_congr_right fun _ => ?_
  rw [mine, and_assoc]
  rfl

theorem execPatternJumpRequest_of_found {q : QId} (hq : q.kind ≠ .flux ∨ q.idx.val < 128) {b : Bool} {s : State} {j : JumpReq}
    (found : s.jumps.find? (fun j => j.q == qKey q && j.tok.isSome == b) = some j) :
    exec (.patternJumpRequest q b) s = .next ({ s with jumps := s.jumps.erase j }.jumpIn (qKey q) j.tok) := by
  refine (next_of_exists hq _).trans ?_
  rw [found]

/-! ### Streams, windows and tokens -/

/-- The oldest pulse of a queue whose streamed samples are due and not all taken (R108). -/
def State.starving (s : State) (q : Nat) : Option Pulse :=
  s.pulses.find? fun p => p.q == q && p.spec.stream && !p.missed && decide (p.taken.length < s.dueSamples p)

theorem deadline_of_noStream {s : State} {q : Nat} {x : Pulse} (found : s.starving q = some x) (gone : s.stream q = none) :
    s.deadline q = s.underrun x x.taken.length := by
  unfold State.starving at found
  unfold State.deadline
  simp only [found, gone]

theorem deadline_of_enough {s : State} {q : Nat} {x : Pulse} {y : Stream} (found : s.starving q = some x) (stream : s.stream q = some y)
    (enough : s.dueSamples x ≤ y.upTo (x.pos + x.taken.length) - x.pos) :
    s.deadline q = s.modPulses q x.t fun z =>
      { z with taken := z.taken ++
        (List.range (s.dueSamples x - x.taken.length)).map fun i => s.stagedWord (qHalf q) y (x.pos + x.taken.length + i) } := by
  unfold State.starving at found
  unfold State.deadline
  simp only [found, stream, Nat.min_eq_left enough, Nat.lt_irrefl, if_false]

/-- Settles O37: each event is the branch of its meaning that its hypotheses select. -/
theorem patternWindowAndTokenEventsAct : Obligations.PatternWindowAndTokenEventsAct := by
  unfold Obligations.PatternWindowAndTokenEventsAct
  intro qi e w k c i sub s hq q h p
  have step {u : State} (does : s.patternStep q e w = u) : exec (.patternSegmentEnd qi e w) s = .next u :=
    (next_of_exists hq _).trans (congrArg Host.Outcome.next does)
  refine ⟨fun b idle active ended passed => step (patternStep_of_ended idle active ended passed e w),
    fun active playing passed => ?segment, fun b j found => ?jump,
    fun x found => ⟨fun gone => ?noStream, fun y stream enough => ?stream⟩, fun x found passed => ?window, fun x found => ?overRange,
    fun x found => ?token⟩
  case segment =>
    have due {u : State} (does : s.segmentOver q e w = u) : exec (.patternSegmentEnd qi e w) s = .next u :=
      step ((patternStep_of_due (segmentDue_of_passed active playing passed) e w).trans does)
    exact ⟨fun j jump ready => due (segmentOver_of_jump e w jump ready), fun waits more => due (segmentOver_of_loop e w waits more),
      fun done goes => due (segmentOver_of_next e w done goes), fun free done last => due (segmentOver_of_last e w free done last)⟩
  case jump =>
    have requests := execPatternJumpRequest_of_found hq found
    refine ⟨fun event => ?_, fun k compare => ⟨fun pat mine shot state => ?_, fun other => ?_⟩⟩
    · rw [requests, event, jumpIn_event]
      rfl
    · rw [requests, compare, jumpIn_compare]
      exact congrArg Host.Outcome.next (if_pos ⟨pat, mine, shot, state⟩)
    · rw [requests, compare, jumpIn_compare]
      refine congrArg Host.Outcome.next (if_neg ?_)
      rintro ⟨pat, mine, shot, state⟩
      obtain off | foreign | past | differs := other
      · exact Bool.false_ne_true (off.symm.trans pat)
      · exact foreign mine
      · exact past shot
      · exact differs state
  case noStream => exact (next_of_exists hq _).trans (congrArg Host.Outcome.next (deadline_of_noStream found gone))
  case stream => exact (next_of_exists hq _).trans (congrArg Host.Outcome.next (deadline_of_enough found stream enough))
  case window =>
    refine congrArg Host.Outcome.next ?_
    unfold State.windowOver
    rw [found]
    exact if_pos passed
  case overRange =>
    change execOverRangeRow i s = _
    unfold execOverRangeRow
    rw [found]
  case token =>
    change execTokenDelivery sub e s = _
    unfold execTokenDelivery
    rewrite [found]
    rfl

end Sys2Proof.Machine
end

section
/-!
Outputs, inputs, monitors and captures.
-/
namespace Sys2Proof.Machine

/-! ### Ramps of a flux channel -/

section
variable {s : State} {f : Nat} {r : Ramp} (ramp : (s.fluxCh f).ramp = some r) (started : r.start < s.now (f / 64))
  (reached : (r.code ((s.now (f / 64) - r.start + 7) / 8)).2 = true)
include ramp started reached

theorem rampEnd_of_rangeDown (kind : r.kind = .rangeDown) :
    s.rampEnd f = (s.regBit .FLX_CTL (f / 64) (f % 64) 2 (s.fluxCh f).newRange).modFlux f fun c =>
      { c with code := 0, ramp := none, phase := .wait, waitEnd := s.now (f / 64) + 40000 } := by
  unfold State.rampEnd
  simp only [ramp, started, reached, and_self, if_true, kind]

theorem rampEnd_of_rangeUp (kind : r.kind = .rangeUp) :
    s.rampEnd f = s.modFlux f fun c =>
      { c with code := BitVec.ofInt 16 r.c1, pending := BitVec.ofInt 16 r.c1, ramp := none, phase := .none } := by
  unfold State.rampEnd
  simp only [ramp, started, reached, and_self, if_true, kind]

theorem rampEnd_of_cal (kind : r.kind = .cal) :
    s.rampEnd f = s.modFlux f fun c =>
      match (s.fluxCh f).calSeq with
      | [] => { c with code := BitVec.ofInt 16 r.c1, ramp := none }
      | k :: ks => { c with code := BitVec.ofInt 16 r.c1, ramp := none, calSeq := ks,
                            nextRamp := some { r with c1 := k, start := s.nextBoundary (f / 64) + 640 } } := by
  unfold State.rampEnd
  simp only [ramp, started, reached, and_self, if_true, kind]
  cases (s.fluxCh f).calSeq <;> rfl

theorem rampEnd_of_park (kind : r.kind = .park) :
    s.rampEnd f = (s.regBit .FLX_STATUS (f / 64) (f % 64) 10 true).modFlux f fun c =>
      { c with code := BitVec.ofInt 16 r.c1, pending := BitVec.ofInt 16 r.c1, ramp := none,
               phase := if c.phase = .rampDown then .rampDown else .none, parkAfter := c.parkAfter && c.phase == .rampDown } := by
  unfold State.rampEnd
  simp only [ramp, started, reached, and_self, if_true, kind]

end

/-- Settles O38: each event is the branch of its meaning that its hypotheses select. -/
theorem outputEventsAct : Obligations.OutputEventsAct := by
  unfold Obligations.OutputEventsAct
  intro h k i f s
  refine ⟨fun on => congrArg Host.Outcome.next (if_pos on),
    fun on cold late => congrArg Host.Outcome.next (if_pos ⟨on, by simp [cold], late⟩),
    fun muted => congrArg Host.Outcome.next (if_pos muted),
    fun on => ⟨congrArg Host.Outcome.next (if_pos on),
      fun cold late => congrArg Host.Outcome.next (if_pos ⟨on, by simp [cold], late⟩)⟩,
    fun on => ⟨fun rails => congrArg Host.Outcome.next (if_pos ⟨on, rails⟩),
      fun cold late => congrArg Host.Outcome.next (if_pos ⟨on, by simp [cold], late⟩)⟩,
    fun r ramp started reached => ⟨fun kind => congrArg Host.Outcome.next (rampEnd_of_rangeDown ramp started reached kind),
      fun kind => congrArg Host.Outcome.next (rampEnd_of_rangeUp ramp started reached kind),
      fun kind => congrArg Host.Outcome.next (rampEnd_of_cal ramp started reached kind),
      fun kind => congrArg Host.Outcome.next (rampEnd_of_park ramp started reached kind)⟩,
    fun waits ended => congrArg Host.Outcome.next (if_pos ⟨waits, ended⟩),
    fun l clear can => congrArg Host.Outcome.next (if_neg (by simp [clear, can])), rfl⟩

/-! ### Monitors and auxiliary inputs -/

/-- Settles O39: each event is the branch of its meaning that its hypotheses select. -/
theorem monitorEventsAct : Obligations.MonitorEventsAct := by
  unfold Obligations.MonitorEventsAct
  intro m v h uv s
  refine ⟨fun on sees => congrArg Host.Outcome.next (if_neg (by simp [on, sees])),
    fun blind => congrArg Host.Outcome.next (if_pos ?blind), fun due on long => ?blank, rfl,
    fun busy up => congrArg Host.Outcome.next (if_pos ⟨busy, up⟩),
    fun busy ready due => congrArg Host.Outcome.next (if_pos ⟨busy, ready, due⟩), fun k last periodic due => ?periodic⟩
  case blind => obtain off | unseen := blind <;> simp [*]
  case blank =>
    exact congrArg Host.Outcome.next ((if_pos due).trans (if_pos (Bool.and_eq_true_iff.mpr ⟨on, bne_iff_ne.mpr long⟩)))
  case periodic =>
    change execAuxPeriodicStart h s = _
    unfold execAuxPeriodicStart
    simp only [last]
    exact congrArg Host.Outcome.next (if_pos ⟨periodic, due⟩)

/-! ### Captures -/

theorem capOpen_of_reached {s : State} {e k : Nat} (armed : (s.cap e).st = .armed) (start : (s.cap e).ks = some k)
    (reached : k ≤ s.row (e / 2)) :
    s.capOpen e =
      let t := s.capPut e (startEntry e k)
      let t := match (s.cap e).startTag with | some g => t.finish g 0 0 | none => t
      t.modCap e fun c => { c with st := .opened, nextM := 4 * k, startTag := none } := by
  unfold State.capOpen
  simp only [start]
  exact if_pos ⟨armed, reached⟩

/-- Settles O40: each event of a swatch is the branch of its meaning that its hypotheses select. -/
theorem captureEventsAct : Obligations.CaptureEventsAct := by
  unfold Obligations.CaptureEventsAct
  intro e s
  refine ⟨fun k start armed reached => congrArg Host.Outcome.next (capOpen_of_reached armed start reached),
    fun p l work opened triggered => ?trigger, fun x xs items opened full => ?data, fun g gap room => ?gap⟩
  case trigger =>
    change execTriggerMark e s = _
    unfold execTriggerMark
    simp only [work]
    exact congrArg Host.Outcome.next (if_pos ⟨opened, triggered⟩)
  case data =>
    change execDataEntryWrite e s = _
    unfold execDataEntryWrite
    simp only [items]
    exact congrArg Host.Outcome.next (if_pos ⟨opened, full⟩)
  case gap =>
    change execGapMark e s = _
    unfold execGapMark
    simp only [gap]
    exact congrArg Host.Outcome.next (if_pos room)

end Sys2Proof.Machine
end

section
/-!
The issue of a lane's instruction, and the instructions of arithmetic.
-/
namespace Sys2Proof.Machine

/-! ### Issue -/

/-- Every instruction of a lane has its opcode in the table (R377). -/
theorem laneOpcodes_of_mem {l : LaneIx} {e : Ecc} {de : Reads} {op : Nat} {c : Instr} (h : (op, c) ∈ laneInstrs l e de) :
    laneOpcodes.contains op = true := by
  have opcodes : ∀ o ∈ (laneInstrs l e de).map Prod.fst, laneOpcodes.contains o = true := by
    simp only [laneInstrs, List.map_cons, List.map_nil]
    decide
  exact opcodes op (List.mem_map_of_mem h)

/-- Every instruction of a lane is an issue under its opcode. -/
theorem laneInstrs_issue {l : LaneIx} {e : Ecc} {de : Reads} {op : Nat} {c : Instr} (h : (op, c) ∈ laneInstrs l e de) :
    ∃ f, ∀ s, exec c s = .next (s.laneIssue l e op f) := by
  have all : ∀ x ∈ laneInstrs l e de, ∃ f, ∀ s, exec x.2 s = .next (s.laneIssue l e x.1 f) := by
    simp only [laneInstrs, List.forall_mem_cons, List.not_mem_nil, false_implies, implies_true, and_true]
    and_intros <;> exact ⟨_, fun _ => rfl⟩
  exact all (op, c) h

section
variable {s : State} {l : Nat} {e : Ecc} {op : Nat} (f : State → Word → Lane → State)

theorem laneIssue_of_idle (idle : (s.lane l).st ≠ .running ∨ s.paced (laneHalf l) 25 = true) : s.laneIssue l e op f = s := by
  unfold State.laneIssue
  exact if_pos (by simpa using idle)

theorem laneIssue_of_uncorrectable (runs : (s.lane l).st = .running) (free : s.paced (laneHalf l) 25 = false) (he : e = .uncorrectable) :
    s.laneIssue l e op f = s.laneFault l 8 := by
  unfold State.laneIssue
  exact (if_neg (by simp [runs, free])).trans (if_pos he)

theorem laneIssue_of_unknown (runs : (s.lane l).st = .running) (free : s.paced (laneHalf l) 25 = false) (he : e ≠ .uncorrectable)
    (unknown : laneOpcodes.contains (bits (s.laneWord l (s.lane l).pc) 31 26) = false) (known : laneOpcodes.contains op = true) :
    s.laneIssue l e op f = (s.laneEcc l e).laneFault l 1 := by
  have other : bits (s.laneWord l (s.lane l).pc) 31 26 ≠ op := by
    rintro rfl
    exact Bool.false_ne_true (unknown.symm.trans known)
  unfold State.laneIssue
  exact (if_neg (by simp [runs, free])).trans ((if_neg he).trans ((if_neg other).trans (if_neg (ne_true_of_eq_false unknown))))

end

/-- Settles O41: every lane instruction is one issue, and the checks of the fetch come before its opcode. -/
theorem laneIssueChecksTheFetch : Obligations.LaneIssueChecksTheFetch := by
  unfold Obligations.LaneIssueChecksTheFetch
  intro l e de op c s member
  obtain ⟨f, issues⟩ := laneInstrs_issue member
  rw [issues s]
  exact ⟨fun idle => congrArg Host.Outcome.next (laneIssue_of_idle f idle),
    fun runs free he => congrArg Host.Outcome.next (laneIssue_of_uncorrectable f runs free he),
    fun runs free he unknown => congrArg Host.Outcome.next (laneIssue_of_unknown f runs free he unknown (laneOpcodes_of_mem member))⟩

/-- A fetched instruction does what its meaning says, for every instruction whose meaning is known to be an issue. -/
theorem next_laneIssue_of_fetches {s : State} {l op : Nat} {w : Word} {e : Ecc} {f : State → Word → Lane → State} {u : State}
    (fetched : s.laneFetches l op w) (he : e ≠ .uncorrectable) (does : f (s.laneEcc l e) w (s.lane l) = u) :
    (Host.Outcome.next (s.laneIssue l e op f) : Host.Outcome State Fault Refusal) = .next u := by
  rw [laneIssue_of_fetches f fetched he, does]

/-! ### Arithmetic -/

theorem count_frame (s : State) (r : Reg) (h i n : Nat) : s.count r h i n = { s with regs := (s.count r h i n).regs } := rfl

/-- The count of a corrected word changes registers alone (R386). -/
theorem laneEcc_frame (s : State) (l : Nat) (e : Ecc) : s.laneEcc l e = { s with regs := (s.laneEcc l e).regs } := by
  unfold State.laneEcc
  split
  · exact count_frame _ _ _ _ _
  · rfl

theorem laneEcc_of_ok (s : State) (l : Nat) : s.laneEcc l .ok = s := if_neg (by decide)

theorem lane_laneEcc (s : State) (l : Nat) (e : Ecc) (m : Nat) : (s.laneEcc l e).lane m = s.lane m := by
  rw [laneEcc_frame]
  rfl

/-- The low half of a word as 16 bits. -/
theorem ofNat_bits_low (w : Word) : BitVec.ofNat 16 (bits w 15 0) = BitVec.ofNat 16 w.toNat :=
  BitVec.eq_of_toNat_eq (by simp [bits])

/-- A change of a lane, after a change of registers, leaves everything else. -/
theorem modLane_frame {s u : State} (registers : u = { s with regs := u.regs }) (l : Nat) (f : Lane → Lane) :
    u.modLane l f = { s with lanes := (u.modLane l f).lanes, regs := (u.modLane l f).regs } := by
  generalize u.regs = r at registers
  subst registers
  rfl

/-- A change of a lane is what it makes of the lane's contents. -/
theorem modLane_congr {s : State} {l : Nat} {f g : Lane → Lane} (same : f (s.lane l) = g (s.lane l)) : s.modLane l f = s.modLane l g :=
  congrArg (fun x => { s with lanes := mset {} s.lanes l x }) same

/-- Every arithmetic instruction of a lane puts its result and flags into the lane after one cycle (R379, R381). -/
theorem laneAlu_next {s : State} {l : LaneIx} {e : Ecc} {w : Word} {op : Nat} {c : Instr} {f : Word → Word → Alu} {r : Bool}
    (member : (op, c, f, r) ∈ laneAlu l e w) (he : e ≠ .uncorrectable) (fetched : s.laneFetches l op w) :
    exec c s = .next ((s.laneEcc l e).laneSet l (r && bits w 10 0 != 0)
      ((s.lane l).alu (bits w 25 21) (f ((s.lane l).dr (bits w 20 16)) ((s.lane l).dr (bits w 15 11)))) 1) := by
  have all : ∀ x ∈ laneAlu l e w, s.laneFetches l x.1 w → exec x.2.1 s = .next ((s.laneEcc l e).laneSet l (x.2.2.2 && bits w 10 0 != 0)
      ((s.lane l).alu (bits w 25 21) (x.2.2.1 ((s.lane l).dr (bits w 20 16)) ((s.lane l).dr (bits w 15 11)))) 1) := by
    simp only [laneAlu, List.forall_mem_cons, List.not_mem_nil, false_implies, implies_true, and_true]
    and_intros <;> exact fun fetched => next_laneIssue_of_fetches fetched he rfl
  exact all (op, c, f, r) member fetched

/-- Settles O42: the arithmetic instructions share one meaning, whose frame is that of a change of one lane. -/
theorem laneArithmeticActs : Obligations.LaneArithmeticActs := by
  unfold Obligations.LaneArithmeticActs
  intro l e w s he u x a b put
  have same : u.lane l = x := lane_laneEcc s l e l
  have does {op : Nat} {c : Instr} {f : Word → Word → Alu} {r : Bool} (member : (op, c, f, r) ∈ laneAlu l e w)
      (fetched : s.laneFetches l op w) (ok : (r && bits w 10 0 != 0) = false) : exec c s = put (f a b) := by
    refine (laneAlu_next member he fetched).trans (congrArg Host.Outcome.next ?_)
    rw [State.laneSet, if_neg (ne_true_of_eq_false ok)]
    refine modLane_congr ?_
    rw [show (s.laneEcc l e).lane l = s.lane l from same]
    rfl
  have plain {op : Nat} {c : Instr} {f : Word → Word → Alu} (member : (op, c, f, true) ∈ laneAlu l e w)
      (fetched : s.laneFetches l op w) (zero : bits w 10 0 = 0) : exec c s = put (f a b) := does member fetched (by simp [zero])
  have immediate {op : Nat} {c : Instr} (f : Word → Word → Alu) (member : (op, c, f, false) ∈ laneAlu l e w)
      (fetched : s.laneFetches l op w) : exec c s = put (f a b) := does member fetched rfl
  refine ⟨plain (by simp [laneAlu]), plain (by simp [laneAlu]), plain (f := fun a b => aluLogic (a &&& b)) (by simp [laneAlu]),
    plain (f := fun a b => aluLogic (a ||| b)) (by simp [laneAlu]), plain (f := fun a b => aluLogic (a ^^^ b)) (by simp [laneAlu]),
    ?mul, ?addi, immediate (fun a _ => aluShl a (bits w 4 0)) (by simp [laneAlu]),
    immediate (fun a _ => aluShr false a (bits w 4 0)) (by simp [laneAlu]),
    immediate (fun a _ => aluLogic (BitVec.ofInt 32 (roundHalfUp a.toInt (bits w 4 0)))) (by simp [laneAlu]),
    fun op c f member fetched bad => ?reserved, ?frame, fun n m v => mget_mset _ _ _ _ _⟩
  case mul =>
    rw [ofNat_bits_low, ofNat_bits_low]
    exact plain (f := fun a b => aluLogic (BitVec.ofInt 32 (low16 a * low16 b))) (by simp [laneAlu])
  case addi =>
    rw [ofNat_bits_low]
    exact immediate (fun a _ => aluAdd a (fSImm w)) (by simp [laneAlu])
  case reserved =>
    refine (laneAlu_next member he fetched).trans (congrArg Host.Outcome.next ?_)
    rw [State.laneSet, if_pos (by simp [bad])]
  case frame =>
    intro f v
    refine ⟨?lane, fun l' ne => ?others, ?rest, fun ok => ?regs⟩
    case lane => exact (mget_mset_self _ _ _ _).trans (congrArg f same)
    case others => exact (mget_mset_ne _ _ _ _ _ ne).trans (lane_laneEcc s l e l')
    case rest => exact modLane_frame (laneEcc_frame s l e) l f
    case regs =>
      subst ok
      exact (congrArg State.regs (laneEcc_of_ok s l) :)

end Sys2Proof.Machine
end

section
/-!
The lane instructions of memory, pointers and accumulators.
-/
namespace Sys2Proof.Machine

/-! ### Reads and reserved bits -/

theorem laneSet_of_ok {s : State} {l : Nat} {bad : Bool} (ok : bad = false) (x : Lane) (n : Nat) :
    s.laneSet l bad x n = s.laneSet l false x n := by rw [ok]

theorem laneReads_of_ok {s : State} {l : Nat} {de : Reads} (good : de.bad = none) (k : State → State) :
    s.laneReads l de k = k (s.count .DSP_ECC_CORRECTED (laneHalf l) 0 de.corrected) := if_neg (by simp [good])

theorem laneReads_of_bad {s : State} {l : Nat} {de : Reads} (bad : de.bad.isSome = true) (k : State → State) :
    s.laneReads l de k = (s.count .DSP_ECC_CORRECTED (laneHalf l) 0 de.corrected).laneFault l 8 := if_pos bad

/-- R380: the imaginary parts count with their sign, which CJ turns. -/
theorem cmac_parts (cj : Bool) (a b : Word) :
    let sg : Int := if cj then -1 else 1
    (if cj then low16 a * low16 b + high16 a * high16 b else low16 a * low16 b - high16 a * high16 b) =
        low16 a * low16 b - sg * (high16 a * high16 b) ∧
      (if cj then high16 a * low16 b - low16 a * high16 b else low16 a * high16 b + high16 a * low16 b) =
        sg * (low16 a * high16 b) + high16 a * low16 b := by
  cases cj
  · simp
  · simp only [if_true]
    exact ⟨by omega, by omega⟩

/-! ### Searches (R383) -/

section
variable {s : State} {l : Nat} {e : Ecc} {de : Reads} {op : Nat} {w : Word} (better : Int → Int → Bool)
  (fetched : s.laneFetches l op w) (he : e ≠ .uncorrectable) (even : bits w 25 21 % 2 = 0) (some_ : bits w 14 0 ≠ 0)
include fetched he even some_

theorem laneSearch_of_fetches :
    s.laneSearch l e de op better = (s.laneEcc l e).laneReads l de fun s' =>
      let r := s'.searchWords l (bits w 14 0) ((s.lane l).pr (bits w 20 18)) ((s.lane l).mr (bits w 17 15))
      match r.1 with
      | [] => s'
      | v :: vs =>
        let b := bestOf better vs 1 (v.toInt, 0)
        let y := BitVec.ofInt 32 b.1
        let x := (((s.lane l).setD (bits w 25 21) y).setD (bits w 25 21 + 1) (BitVec.ofNat 32 b.2)).setP (bits w 20 18) r.2
        s'.laneSet l false { x with z := decide (y = 0), n := bit y 31 } (bits w 14 0 + 1) := by
  rw [State.laneSearch, laneIssue_of_fetches _ fetched he]
  exact if_neg (by simp [fD, even, some_])

theorem laneSearch_of_bad (bad : de.bad.isSome = true) :
    s.laneSearch l e de op better =
      ((s.laneEcc l e).count .DSP_ECC_CORRECTED (laneHalf l) 0 de.corrected).laneFault l 8 :=
  (laneSearch_of_fetches better fetched he even some_).trans (laneReads_of_bad bad _)

theorem laneSearch_of_words (good : de.bad = none) {v : Word} {vs : List Word} {p : BitVec 16}
    (found : ((s.laneEcc l e).count .DSP_ECC_CORRECTED (laneHalf l) 0 de.corrected).searchWords l (bits w 14 0)
      ((s.lane l).pr (bits w 20 18)) ((s.lane l).mr (bits w 17 15)) = (v :: vs, p)) :
    s.laneSearch l e de op better =
      let b := bestOf better vs 1 (v.toInt, 0)
      let y := BitVec.ofInt 32 b.1
      let x := (((s.lane l).setD (bits w 25 21) y).setD (bits w 25 21 + 1) (BitVec.ofNat 32 b.2)).setP (bits w 20 18) p
      ((s.laneEcc l e).count .DSP_ECC_CORRECTED (laneHalf l) 0 de.corrected).laneSet l false
        { x with z := decide (y = 0), n := bit y 31 } (bits w 14 0 + 1) := by
  rw [laneSearch_of_fetches better fetched he even some_, laneReads_of_ok good, found]

end

/-- Settles O43: each instruction is one issue whose reserved bits and reads its hypotheses decide. -/
theorem laneMemoryAndAccumulatorsAct : Obligations.LaneMemoryAndAccumulatorsAct := by
  unfold Obligations.LaneMemoryAndAccumulatorsAct
  intro l e de w s he t t' x
  have issue {op : Nat} {f : State → Word → Lane → State} {v : State} (fetched : s.laneFetches l op w) (does : f t w x = v) :
      (Host.Outcome.next (s.laneIssue l e op f) : Host.Outcome State Fault Refusal) = .next v := next_laneIssue_of_fetches fetched he does
  refine ⟨fun fetched zero => issue fetched (laneSet_of_ok (by simp [fA, zero]) _ _),
    fun fetched zero => issue fetched (laneSet_of_ok (by simp [fA, zero]) _ _),
    fun fetched zero good => issue fetched ((if_neg (not_not_intro zero)).trans (laneReads_of_ok good _)),
    fun fetched zero bad => issue fetched ((if_neg (not_not_intro zero)).trans (laneReads_of_bad bad _)),
    fun fetched zero => issue fetched (if_neg (not_not_intro zero)), fun fetched => issue fetched rfl,
    fun fetched d zero => issue fetched (laneSet_of_ok (by simp [fD, d, zero]) _ _),
    fun fetched d => issue fetched (laneSet_of_ok (by simp [fD, d]) _ _),
    fun fetched mid low => issue fetched (if_neg (by simp [mid, low])), fun fetched even zero good => ?cmac,
    fun fetched even zero bad => issue fetched ((if_neg (by simp [even, zero])).trans (laneReads_of_bad bad _)),
    fun even some_ bad => ⟨fun fetched => congrArg Host.Outcome.next (laneSearch_of_bad _ fetched he even some_ bad),
      fun fetched => congrArg Host.Outcome.next (laneSearch_of_bad _ fetched he even some_ bad)⟩,
    fun fetched zero => issue fetched (if_neg (not_not_intro zero)),
    fun fetched zero => issue fetched (laneSet_of_ok (by simp [zero]) _ _),
    fun fetched even some_ good v vs p found => congrArg Host.Outcome.next (laneSearch_of_words _ fetched he even some_ good found),
    fun fetched even some_ good v vs p found => congrArg Host.Outcome.next (laneSearch_of_words _ fetched he even some_ good found)⟩
  case cmac =>
    refine issue fetched ((if_neg (by simp [even, zero])).trans ((laneReads_of_ok good _).trans ?_))
    simp only [(cmac_parts (bit w 11) _ _).1, (cmac_parts (bit w 11) _ _).2]
    rfl

end Sys2Proof.Machine
end

section
/-!
The lane instructions of flow.
-/
namespace Sys2Proof.Machine

/-- R381, R382: a repeat whose body fits the memory, the level around it and the levels that there are. -/
theorem repeat_fits {x : Lane} {last c : Nat} (inside : last ≤ 65535) (nested : ∀ o os, x.reps = o :: os → last ≤ o.last)
    (room : 0 < c → x.reps.length < 4) :
    (decide (65535 < last) || decide (0 < c ∧ 4 ≤ x.reps.length) ||
      (match x.reps with | o :: _ => decide (o.last < last) | [] => false)) = false := by
  have levels : ¬ (0 < c ∧ 4 ≤ x.reps.length) := fun h => absurd (room h.1) (Nat.not_lt.mpr h.2)
  cases reps : x.reps with
  | nil => simp [Nat.not_lt.mpr inside]
  | cons o os =>
    rw [reps] at levels
    simp only [decide_eq_false (Nat.not_lt.mpr inside), decide_eq_false levels,
      decide_eq_false (Nat.not_lt.mpr (nested o os reps)), Bool.or_self]

/-- Settles O44: each instruction is one issue whose branch its hypotheses select. -/
theorem laneFlowActs : Obligations.LaneFlowActs := by
  unfold Obligations.LaneFlowActs
  intro l e w s he t x h
  have issue {op : Nat} {f : State → Word → Lane → State} {v : State} (fetched : s.laneFetches l op w) (does : f t w x = v) :
      (Host.Outcome.next (s.laneIssue l e op f) : Host.Outcome State Fault Refusal) = .next v := next_laneIssue_of_fetches fetched he does
  refine ⟨fun fetched zero => issue fetched (laneSet_of_ok (by simp [zero]) _ _),
    fun fetched zero => issue fetched (if_neg (not_not_intro zero)), fun c fetched body count inside nested => ?rep,
    fun fetched zero => issue fetched (if_neg (not_not_intro zero)),
    fun fetched known zero => issue fetched (if_neg (by simp [known, zero])),
    fun fetched zero => ⟨fun free => ?call, fun called => ?callTwice⟩, fun fetched zero => ⟨fun called => ?ret, fun free => ?retAlone⟩,
    fun fetched zero fits => ⟨fun r q entry => ?pop, fun empty nonblocking => ?popEmpty, fun empty blocking on => ?popStall⟩,
    fun stalled => ⟨fun r q entry => ?resume, fun empty off => ?resumeOff⟩,
    fun fetched zero fits own valid dsp mine => ?tok, fun fetched block words => ?rec, fun fetched zero own open_ => ?sig⟩
  case rep =>
    have long : ¬ (bits w 19 12 = 0 ∨ (bit w 25 = true ∧ bits w 11 0 ≠ 0)) := by
      obtain ⟨_, zero, _⟩ | ⟨imm, _⟩ := count <;> simp [*]
    have names : (if bit w 25 then (x.dr (bits w 24 20)).toNat else bits w 11 0) = c := by
      obtain ⟨reg, _, rfl⟩ | ⟨imm, rfl⟩ := count <;> simp [*]
    have does (room : 0 < c → x.reps.length < 4) : exec (.lRep l e) s = .next
        (if c = 0 then t.modLane l fun y => y.step (x.pc + bits w 19 12) 2
          else t.modLane l fun y =>
            { y with reps := ⟨y.pc + 1, x.pc + bits w 19 12, c - 1⟩ :: y.reps, pc := y.pc + 1, cycles := y.cycles + 1 }) := by
      refine issue fetched ((if_neg long).trans ?_)
      simp only [names]
      exact if_neg (ne_true_of_eq_false (repeat_fits inside nested room))
    exact ⟨fun zero => (does fun pos => absurd zero (Nat.ne_of_gt pos)).trans (congrArg Host.Outcome.next (if_pos zero)),
      fun pos room => (does fun _ => room).trans (congrArg Host.Outcome.next (if_neg (Nat.ne_of_gt pos)))⟩
  case call => exact issue fetched ((if_neg (not_not_intro zero)).trans (if_neg (by simp [free])))
  case callTwice => exact issue fetched ((if_neg (not_not_intro zero)).trans (if_pos called))
  case ret => exact issue fetched ((if_neg (not_not_intro zero)).trans (if_neg (by simp [called])))
  case retAlone => exact issue fetched ((if_neg (not_not_intro zero)).trans (if_pos (by simp [free])))
  case pop =>
    refine issue fetched ((if_neg (not_not_intro zero)).trans ((if_neg (Nat.not_lt.mpr fits)).trans ?_))
    rw [entry]
    rfl
  case popEmpty =>
    refine issue fetched ((if_neg (not_not_intro zero)).trans ((if_neg (Nat.not_lt.mpr fits)).trans ?_))
    rw [empty]
    exact if_pos (.inl nonblocking)
  case popStall =>
    refine issue fetched ((if_neg (not_not_intro zero)).trans ((if_neg (Nat.not_lt.mpr fits)).trans ?_))
    rw [empty]
    exact if_neg (by simpa [blocking] using on)
  case resume =>
    refine congrArg Host.Outcome.next ((if_neg (not_not_intro stalled)).trans ?_)
    rw [entry]
  case resumeOff =>
    refine congrArg Host.Outcome.next ((if_neg (not_not_intro stalled)).trans ?_)
    rw [empty]
    exact if_neg (ne_true_of_eq_false off)
  case tok =>
    refine issue fetched ((if_neg (not_not_intro zero)).trans ((if_neg (Nat.not_lt.mpr fits)).trans (if_neg ?_)))
    simpa using ⟨own, valid, dsp, mine⟩
  case rec =>
    have fits : ¬ (26 < bits w 25 21 ∨ 28 < bits w 20 16) := by omega
    refine ⟨fun active own => ?_, fun idle => ?_⟩
    · exact issue fetched ((if_neg fits).trans ((if_neg (by simpa [fD] using active)).trans (if_neg (not_not_intro own))))
    · exact issue fetched ((if_neg fits).trans (if_pos (by simpa [fD] using idle)))
  case sig => exact issue fetched ((if_neg (not_not_intro zero)).trans (if_neg (by simp [own, open_])))

end Sys2Proof.Machine
end

section
/-!
Calibration, trigger pins and task inputs.
-/
namespace Sys2Proof.Machine

/-! ### Calibration -/

/-- The state in which a job's checks are made: it no longer waits. -/
def State.calTaken (s : State) (h : Nat) (js : List CalJob) : State := s.modCal h fun c => { c with waiting := js }

section
variable {h : Half} {obs : CalObservation} {s : State} {j : CalJob} {js : List CalJob} (idle : (s.calOf h).job = none)
  (waits : (s.calOf h).waiting = j :: js) (free : s.paced h 27 = false)
include idle waits free

/-- R394, R395: the checks of a routine, then what its target shows. -/
theorem execCalRoutineStart_of_refused {st : BitVec 8}
    (refused : (((s.calTaken h js).calCheck j.routine j.target ((s.calTaken h js).ownCal j.routine j.target)).or
      ((s.calTaken h js).calBegins h j obs)) = some st) :
    exec (.calRoutineStart h obs) s = .next ((s.calTaken h js).calDone h j.tag st) := by
  change execCalRoutineStart h obs s = _
  unfold execCalRoutineStart
  simp only [idle, waits]
  refine congrArg Host.Outcome.next ((if_neg (ne_true_of_eq_false free)).trans ?_)
  unfold State.calTaken at refused
  rw [refused]
  rfl

theorem execCalRoutineStart_of_accepted
    (accepted : (((s.calTaken h js).calCheck j.routine j.target ((s.calTaken h js).ownCal j.routine j.target)).or
      ((s.calTaken h js).calBegins h j obs)) = none) :
    exec (.calRoutineStart h obs) s = .next (
      let u := (s.calTaken h js).modCal h fun c => { c with job := some j }
      match j.routine with
      | 1 => u.closeSwitch h (j.target % 16)
      | 2 => u.closeSwitch h (16 + j.target % 8)
      | 5 => u.modFlux j.target fun x =>
          { x with calSeq := [-24576, 0, x.code.toInt],
                   nextRamp := some ⟨.cal, 0, 24576, s.nextBoundary h + 640, (u.reg .FLX_SLEW h (j.target % 64)).toNat,
                     if bit (u.flxCtl j.target) 2 then 2 else 1⟩ }
      | _ => u) := by
  change execCalRoutineStart h obs s = _
  unfold execCalRoutineStart
  simp only [idle, waits]
  refine congrArg Host.Outcome.next ((if_neg (ne_true_of_eq_false free)).trans ?_)
  unfold State.calTaken at accepted
  rw [accepted]
  rfl

end

theorem calBegins_of_loud {s : State} {h : Nat} {j : CalJob} {obs : CalObservation} (pair : j.routine = 3 ∨ j.routine = 4)
    (loud : (s.reg .CAL_QUIET_TH h).toInt < obs.power) : s.calBegins h j obs = some 0x0C := if_pos ⟨pair, loud⟩

theorem calBegins_of_loadOpen {s : State} {h : Nat} {j : CalJob} {obs : CalObservation} (flux : j.routine = 5) (loadOpen : obs.loadOpen = true) :
    s.calBegins h j obs = some 0x0D :=
  (if_neg (by simp [flux])).trans (if_pos ⟨flux, loadOpen⟩)

theorem calBegins_of_quiet {s : State} {h : Nat} {j : CalJob} {obs : CalObservation}
    (quiet : j.routine = 3 ∨ j.routine = 4 → obs.power ≤ (s.reg .CAL_QUIET_TH h).toInt) (loaded : j.routine = 5 → obs.loadOpen = false) :
    s.calBegins h j obs = none := by
  have notLoud : ¬ ((j.routine = 3 ∨ j.routine = 4) ∧ (s.reg .CAL_QUIET_TH h).toInt < obs.power) :=
    fun h => absurd (quiet h.1) (Int.not_le.mpr h.2)
  exact (if_neg notLoud).trans (if_neg fun h => Bool.false_ne_true ((loaded h.1).symm.trans h.2))

section
variable {h : Half} {res : CalResult} {s : State} {j : CalJob} (runs : (s.calOf h).job = some j) (settled : (s.calOf h).applying = none)
  (still : j.routine = 5 → (s.fluxCh j.target).calSeq = [] ∧ (s.fluxCh j.target).ramp = none ∧ (s.fluxCh j.target).nextRamp = none)
include runs settled still

/-- R396 to R403: a routine that has run ends as its observation says. -/
theorem execCalRoutineEnd_of_run :
    exec (.calRoutineEnd h res) s = .next
      (if (j.routine = 3 ∨ j.routine = 4) ∧ (s.reg .CAL_QUIET_TH h).toInt < res.power then (s.calFree h).calDone h j.tag 0x0C
      else if (!plausible j.routine res) = true then
        (((s.calFree h).count .CAL_IMPLAUSIBLE_COUNT h 0).calDone h j.tag 0x0B).occur h 0x110 { parts := (s.ownCal j.routine j.target).toList }
      else s.calApply h j res) := by
  have over_ : ¬ ((s.calOf h).applying.isSome = true ∨ j.routine = 5 ∧ ((!(s.fluxCh j.target).calSeq.isEmpty) = true ∨
      (s.fluxCh j.target).ramp.isSome = true ∨ (s.fluxCh j.target).nextRamp.isSome = true)) := by
    rintro (busy | ⟨flux, moving⟩)
    · simp [settled] at busy
    · simp [still flux] at moving
  change execCalRoutineEnd h res s = _
  unfold execCalRoutineEnd
  simp only [runs]
  exact congrArg Host.Outcome.next (if_neg over_)

end

/-! ### Task inputs -/

theorem execTaskInputRegistration_of_due {h : Half} {u : Fin 448} {s : State} {f : Fire} (found : s.fires.find? (s.taskDue h u) = some f)
    (exists_ : taskExists h u = true) :
    exec (.taskInputRegistration h u) s = .next (
      let t : State := { s with fires := s.fires.erase f }
      if t.taskAsync u f.ch then t.taskAct h u f.gen
      else if mget none t.taskRow (512 * h + u) = some (t.row h) then t.taskDrop h u
      else { t with taskRow := mset none t.taskRow (512 * h + u) (some (t.row h)) }.taskAct h u f.gen) := by
  change execTaskInputRegistration h u s = _
  unfold execTaskInputRegistration
  simp only [found]
  exact congrArg Host.Outcome.next (if_neg (by simp [exists_]))

/-- Settles O45: each event is the branch of its meaning that its hypotheses select. -/
theorem calibrationAndTaskEventsAct : Obligations.CalibrationAndTaskEventsAct := by
  unfold Obligations.CalibrationAndTaskEventsAct
  intro h obs res i est s
  refine ⟨fun j js idle waits free => ⟨fun st check => ?refused, fun check pair loud => ?loud, fun check flux loadOpen => ?loadOpen,
    fun check quiet loaded => ?starts⟩, fun j runs settled still => ?ends, fun boundary fresh => congrArg Host.Outcome.next (if_pos ⟨boundary, fresh⟩),
    fun tracks full => ?estimate, fun m rising off changes => congrArg Host.Outcome.next (if_neg changes), fun u f found exists_ => ?task⟩
  case refused =>
    exact execCalRoutineStart_of_refused idle waits free (congrArg (Option.or · ((s.calTaken h js).calBegins h j obs)) check)
  case loud =>
    exact execCalRoutineStart_of_refused idle waits free ((congrArg (Option.or · _) check).trans (calBegins_of_loud pair loud))
  case loadOpen =>
    exact execCalRoutineStart_of_refused idle waits free ((congrArg (Option.or · _) check).trans (calBegins_of_loadOpen flux loadOpen))
  case starts =>
    exact execCalRoutineStart_of_accepted idle waits free ((congrArg (Option.or · _) check).trans (calBegins_of_quiet quiet loaded))
  case ends =>
    have ends := execCalRoutineEnd_of_run (res := res) runs settled still
    refine ⟨fun pair loud => ends.trans (congrArg Host.Outcome.next (if_pos ⟨pair, loud⟩)), fun quiet => ?_⟩
    have notLoud : ¬ ((j.routine = 3 ∨ j.routine = 4) ∧ (s.reg .CAL_QUIET_TH h).toInt < res.power) :=
      fun h => absurd (quiet h.1) (Int.not_le.mpr h.2)
    exact ⟨fun good => ends.trans (congrArg Host.Outcome.next ((if_neg notLoud).trans (if_neg (by simp [good])))),
      fun bad => ends.trans (congrArg Host.Outcome.next ((if_neg notLoud).trans (if_pos (by simp [bad]))))⟩
  case estimate =>
    intro p e o near r ok u
    have goes : ¬ ((!s.tracking i) = true ∨ mget 0 (s.calOf (i.val / 8)).usable (i % 8) < 524288) := by
      simpa [tracks] using full
    exact ⟨fun good => congrArg Host.Outcome.next ((if_neg goes).trans (if_neg (ne_true_of_eq_false (congrArg not good)))),
      fun bad => congrArg Host.Outcome.next ((if_neg goes).trans (if_pos (congrArg not bad)))⟩
  case task =>
    have registers := execTaskInputRegistration_of_due found exists_
    exact ⟨fun async => registers.trans (congrArg Host.Outcome.next (if_pos async)),
      fun sync twice => registers.trans (congrArg Host.Outcome.next ((if_neg (ne_true_of_eq_false sync)).trans (if_pos twice))),
      fun sync once => registers.trans (congrArg Host.Outcome.next ((if_neg (ne_true_of_eq_false sync)).trans (if_neg once)))⟩

end Sys2Proof.Machine
end

section
/-!
Ports, rings and doorbells.
-/
namespace Sys2Proof.Machine

/-! ### RING_OP -/

/-- The fields of a RING_OP word: the operation and the ring (R431, R433). -/
theorem ringOp_fields {c : Word} {k r : Nat} (hc : c.toNat = 2 ^ 28 * k) (hr : r < 1048576) :
    bits (c ||| word r) 31 28 = k ∧ bits (c ||| word r) 19 0 = r := by
  have value : (c ||| word r).toNat = 2 ^ 28 * k + r := by
    rw [BitVec.toNat_or, hc, word, BitVec.toNat_ofNat, Nat.mod_eq_of_lt (by omega), Nat.two_pow_add_eq_or_of_lt (by omega)]
  have small := (c ||| word r).isLt
  unfold bits
  rw [value] at small ⊢
  omega

theorem store_ringOp (s : State) (h i p : Nat) (v : Word) : s.store .RING_OP h i 0 p v = s.wrRingOp h i p v := rfl

theorem opIx_lt (s : State) (p h : Nat) : s.opIx p h < 2 := by
  unfold State.opIx portIx
  split
  · omega
  · split <;> omega

section
variable {s : State} {p : Port} {h : Half} {r : RingIx}

/-- RING_OP is written to the port's own half: the operation of the ring. -/
theorem next_ringEnable_of_reaches (reach : s.reaches p .RING_OP h (s.opIx p h)) {t : State}
    (does : s.ringEnable p (2 * h.val + s.opIx p h) r = t) : exec (.ringEnable p h r) s = .next t := by
  obtain ⟨op, ring⟩ := ringOp_fields (c := 0x10000000#32) (k := 1) rfl r.isLt
  refine next_wr_of_reaches reach (opIx_lt s p h) Nat.one_pos ?_
  rw [store_ringOp, State.wrRingOp, op, ring]
  exact does

theorem next_ringDisable_of_reaches (reach : s.reaches p .RING_OP h (s.opIx p h)) {t : State}
    (does : s.ringDisable p (2 * h.val + s.opIx p h) r = t) : exec (.ringDisable p h r) s = .next t := by
  obtain ⟨op, ring⟩ := ringOp_fields (c := 0x20000000#32) (k := 2) rfl r.isLt
  refine next_wr_of_reaches reach (opIx_lt s p h) Nat.one_pos ?_
  rw [store_ringOp, State.wrRingOp, op, ring]
  exact does

/-- R32, R34: a RING_OP of the far half leaves over the die link. -/
theorem wr_ringOp_far (hd : (s.port p).cfg.d3hot = false) (hu : s.unsecured p = false) (other : portHalf p ≠ h.val)
    (ready : s.ready = true) (v : Word) : s.wr p .RING_OP h (s.opIx p h) 0 v =
      if s.linkUp then s.send (portHalf p) (.regWrite p (Reg.addr .RING_OP h (s.opIx p h) 0) v)
      else s.count .FAR_WR_DISCARD (portHalf p) 0 := by
  obtain ⟨hHalf, hOff, aligned⟩ := Reg.addr_parts (r := .RING_OP) (h := h.val) (opIx_lt s p h) Nat.one_pos
  have hp := portHalf_lt p
  have far_ : addrHalf (Reg.addr .RING_OP h (s.opIx p h) 0) = far (portHalf p) := by
    rw [hHalf]
    unfold far
    omega
  rw [State.wr, hostWrite_far ⟨hd, hu⟩ aligned hp far_]
  exact if_neg (by simp [State.answers, ready])

end

theorem ringOp_of_unbound {s : State} {q : Nat} (unbound : s.portPart q = none) (p r : Nat) (k : State → Nat → State) :
    s.ringOp p q r k = s := by
  rw [State.ringOp, unbound]

theorem ringOp_of_part {s : State} {q part : Nat} (bound : s.portPart q = some part) (p r : Nat) (k : State → Nat → State) :
    s.ringOp p q r k = if s.ringIn part r then k s part else (s.foreign p).opResult q r 2 := by
  rw [State.ringOp, bound]

/-- R433: a completion ring that an enabled or draining command ring names. -/
def State.busyCq (s : State) (r : Nat) : Prop :=
  (s.ring r).kind = 2 ∧ ∃ e ∈ s.rings, e.2.kind = 1 ∧ e.2.cq = r ∧ (e.2.st = .enabled ∨ e.2.st = .draining)

theorem busyCq_iff (s : State) (r : Nat) : s.busyCq r ↔ (s.ring r).kind = 2 ∧
    (s.rings.any fun e => e.2.kind == 1 && e.2.cq == r && (e.2.st == .enabled || e.2.st == .draining)) = true := by
  simp [State.busyCq, and_assoc]

section
variable {s : State} {q k : Nat} {r : Nat} (bound : s.portPart q = some k)
include bound

theorem ringOp_of_foreign (foreign : s.ringIn k r = false) (p : Nat) (f : State → Nat → State) :
    s.ringOp p q r f = (s.foreign p).opResult q r 2 :=
  (ringOp_of_part bound p r f).trans (if_neg (ne_true_of_eq_false foreign))

variable (own : s.ringIn k r = true) (p : Nat)
include own

theorem ringEnable_of_own : s.ringEnable p q r = if (s.ring r).st ≠ .disabled then s.opResult q r 1
    else (s.opResult q r 0).dmaRead q { cls := 3, part := k, src := srcRing r, why := .context r, act := .msix 0, half := portHalf q }
      (s.contextAt k r) 64 := by
  rw [State.ringEnable, ringOp_of_part bound, if_pos own]

theorem ringDisable_of_busy (busy : s.busyCq r) : s.ringDisable p q r = s.opResult q r 1 := by
  rw [State.ringDisable, ringOp_of_part bound, if_pos own]
  exact if_pos ((busyCq_iff s r).mp busy)

theorem ringDisable_of_free (free : ¬ s.busyCq r) : s.ringDisable p q r =
    if (s.ring r).kind = 1 ∧ s.ringBusy r = true then (s.opResult q r 0).modRing r fun x => { x with st := .draining, desc := [] }
    else (s.opResult q r 0).ringOff r := by
  rw [State.ringDisable, ringOp_of_part bound, if_pos own]
  refine (if_neg fun h => free ((busyCq_iff s r).mpr h)).trans ?_
  rfl

end

/-- Settles O46: each event is the branch of its meaning that its hypotheses select; a RING_OP of the far half is a message. -/
theorem portAndRingEventsAct : Obligations.PortAndRingEventsAct := by
  unfold Obligations.PortAndRingEventsAct
  intro p h r s
  refine ⟨rfl, rfl, rfl, rfl, fun speed width free warm fast wide => congrArg Host.Outcome.next (if_pos ⟨by simp [free], warm, fast, wide⟩),
    fun reach => ?ops, fun hd hu other ready => ?far, fun draining idle => congrArg Host.Outcome.next (if_pos ⟨draining, by simp [idle]⟩),
    fun on enabled idle due => congrArg Host.Outcome.next (if_pos ⟨on, enabled, due, by simp [idle]⟩), fun tag c fence first => ?fence,
    fun t unit enabled due => ?moderation⟩
  case ops =>
    refine ⟨fun unbound => ⟨next_ringEnable_of_reaches reach (ringOp_of_unbound unbound _ _ _),
      next_ringDisable_of_reaches reach (ringOp_of_unbound unbound _ _ _)⟩, fun k bound => ⟨fun foreign => ?_, fun own => ?_⟩⟩
    · exact ⟨next_ringEnable_of_reaches reach (ringOp_of_foreign bound foreign _ _),
        next_ringDisable_of_reaches reach (ringOp_of_foreign bound foreign _ _)⟩
    · have enables := ringEnable_of_own bound own p
      exact ⟨fun on => next_ringEnable_of_reaches reach (enables.trans (if_pos on)),
        fun off => next_ringEnable_of_reaches reach (enables.trans (if_neg (not_not_intro off))),
        fun busy => next_ringDisable_of_reaches reach (ringDisable_of_busy bound own p busy),
        fun free cmd busy => next_ringDisable_of_reaches reach ((ringDisable_of_free bound own p free).trans (if_pos ⟨cmd, busy⟩)),
        fun free idle => next_ringDisable_of_reaches reach ((ringDisable_of_free bound own p free).trans
          (if_neg fun h => idle.elim (fun kind => kind h.1) fun still => Bool.false_ne_true (still.symm.trans h.2)))⟩
  case far =>
    have far_ (v : Word) := wr_ringOp_far hd hu other ready v
    exact ⟨fun up => ⟨congrArg Host.Outcome.next ((far_ _).trans (if_pos up)), congrArg Host.Outcome.next ((far_ _).trans (if_pos up))⟩,
      fun down => ⟨congrArg Host.Outcome.next ((far_ _).trans (if_neg (ne_true_of_eq_false down))),
        congrArg Host.Outcome.next ((far_ _).trans (if_neg (ne_true_of_eq_false down)))⟩⟩
  case fence =>
    change execFenceComplete r s = _
    unfold execFenceComplete
    simp only [fence]
    exact congrArg Host.Outcome.next (if_neg (ne_true_of_eq_false first))
  case moderation =>
    change execIrqModerationTimeout r s = _
    unfold execIrqModerationTimeout
    simp only [unit]
    exact congrArg Host.Outcome.next (if_pos ⟨enabled, due⟩)

end Sys2Proof.Machine
end

section
/-!
Network time.
-/
namespace Sys2Proof.Machine

/-! ### Messages of the master -/

theorem modServo_ite (s : State) (c : Servo → Prop) [DecidablePred c] (f g : Servo → Servo) :
    (s.modServo fun v => if c v then f v else g v) = if c s.servo then s.modServo f else s.modServo g :=
  apply_ite (fun v => { s with servo := v }) _ _ _

theorem execPtpSync_of_master {port : Fin 2} {frame m : List Byte} {s : State} (arrives : s.ptpIn port frame 0 = some m)
    (master : s.servo.master = some (sourceOf m)) (off : Fin 32) :
    exec (.ptpSync port frame off) s = .next (s.modServo fun v =>
      if beField m 6 1 / 2 % 2 = 1 then
        { v with lastSync := s.now 0, gone := false, twoStep := some (seqOf m, correction m + s.asymmetry, s.stampAt port off) }
      else
        { v with lastSync := s.now 0, gone := false,
                 sync := some (stampOfMsg m + (correction m + s.asymmetry), s.stampAt port off), twoStep := none }) := by
  change execPtpSync port frame off s = _
  unfold execPtpSync
  rw [arrives]
  refine congrArg Host.Outcome.next ((if_pos master).trans ?_)
  by_cases two : beField m 6 1 / 2 % 2 = 1
  · simp only [if_pos two]
    rfl
  · simp only [if_neg two]
    rfl

theorem execAnnounce_of_arrives {port : Fin 2} {frame m : List Byte} {s : State} (arrives : s.ptpIn port frame 11 = some m) :
    exec (.announce port frame) s = .next (
      let seen := (match s.servo.foreign.find? fun f => f.id == sourceOf m with | some f => f.seen | none => []) ++ [s.now 0]
      let l := (s.servo.foreign.filter fun f => f.id != sourceOf m) ++
        [{ id := sourceOf m, data := announceData m, interval := logInterval (beField m 33 1), seen := seen.drop (seen.length - 4) }]
      let b := bestMaster l (s.now 0)
      if b = s.servo.master then s.modServo fun v => { v with foreign := l }
      else s.modServo fun v =>
        { v with foreign := l, master := b, sync := none, twoStep := none, req := none, lastSync := s.now 0 }) := by
  change execAnnounce port frame s = _
  unfold execAnnounce
  rw [arrives]
  exact congrArg Host.Outcome.next (modServo_ite s (fun v => _ = v.master) _ _)

/-- R539: the loss of the master is due: nothing came from it for three of its intervals. -/
def State.masterLate (s : State) : Bool :=
  match s.servo.master with
  | none => true
  | some id =>
    match s.servo.foreign.find? fun f => f.id == id with
    | some f => decide (s.servo.lastSync + 3 * f.interval ≤ s.now 0)
    | none => true

theorem masterLate_of_silent {s : State} (silent : ∀ id, s.servo.master = some id → ∀ f,
    (s.servo.foreign.find? fun f => f.id == id) = some f → s.servo.lastSync + 3 * f.interval ≤ s.now 0) : s.masterLate = true := by
  unfold State.masterLate
  split
  · rfl
  · next id master =>
    split
    · next f found => exact decide_eq_true (silent id master f found)
    · rfl

/-! ### Forwarding -/

section
variable {port : Fin 2} {frame : List Byte} {s : State} {residence : Nat} {full : Bool}

theorem execFrameForward_of_off (off : bit (s.reg .NT_CTL 0) 30 = false ∨ mget false s.ntLink port = false) :
    exec (.frameForward port frame residence full) s = .next s :=
  congrArg Host.Outcome.next (if_pos (by simpa using off))

variable (on : bit (s.reg .NT_CTL 0) 30 = true) (link : mget false s.ntLink port = true)
include on link

theorem execFrameForward_of_dropped (dropped : frameBody frame = none ∨
      (∃ b, frameBody frame = some b ∧ (full = true ∨ 1536 < frame.length ∨ beField b 12 2 = 0x8808))) :
    exec (.frameForward port frame residence full) s = .next (s.count .FWD_DROPS port 0) := by
  refine congrArg Host.Outcome.next ((if_neg (by simp [on, link])).trans ?_)
  obtain spoilt | ⟨b, sound, refused⟩ := dropped
  · rw [spoilt]
  · rw [sound]
    exact if_pos refused

/-- The transparent clock adds the residence to the correction of an event message (R533). -/
def correctedFrame (b : List Byte) (k residence : Nat) (udp : Bool) : List Byte :=
  let c := b.take (k + 8) ++ beBytes 8 ((beField b (k + 8) 8 + residence) % 2 ^ 64) ++ b.drop (k + 16)
  if udp then c.take (k - 2) ++ [0, 0] ++ c.drop k else c

variable {b : List Byte} (sound : frameBody frame = some b) (room : full = false) (short : frame.length ≤ 1536)
  (data : beField b 12 2 ≠ 0x8808)
include sound room short data

theorem execFrameForward_of_timed {k : Nat} {udp : Bool} (ptp : ptpAt b (if beField b 12 2 = 0x8100 then 16 else 12) = some (k, udp))
    (timed : bit (s.reg .NT_CTL 0) 29 = true ∧ beField b k 1 % 16 ≤ 3) :
    exec (.frameForward port frame residence full) s = .next
      (((s.count .FWD_FRAMES port 0).count .TC_CORRECTED port 0).emit
        (.frame (1 - port.val) (withFcs (correctedFrame b k residence udp)))) := by
  refine congrArg Host.Outcome.next ((if_neg (by simp [on, link])).trans ?_)
  rw [sound]
  refine (if_neg (by simp [room, short, data])).trans ?_
  simp only [ptp]
  exact if_pos timed

theorem execFrameForward_of_untimed
    (untimed : ∀ k udp, ptpAt b (if beField b 12 2 = 0x8100 then 16 else 12) = some (k, udp) →
      ¬ (bit (s.reg .NT_CTL 0) 29 = true ∧ beField b k 1 % 16 ≤ 3)) :
    exec (.frameForward port frame residence full) s = .next ((s.count .FWD_FRAMES port 0).emit (.frame (1 - port.val) frame)) := by
  refine congrArg Host.Outcome.next ((if_neg (by simp [on, link])).trans ?_)
  rw [sound]
  refine (if_neg (by simp [room, short, data])).trans ?_
  dsimp only
  split
  · next k udp ptp => exact if_neg (untimed k udp ptp)
  · rfl

end

/-- Settles O47: each event is the branch of its meaning that its hypotheses select. -/
theorem networkTimeEventsAct : Obligations.NetworkTimeEventsAct := by
  unfold Obligations.NetworkTimeEventsAct
  intro port frame m off h s
  refine ⟨fun arrives master => execPtpSync_of_master arrives master off, fun q c t2 arrives two master seq => ?followUp,
    fun runs master link due => ?delayReq, fun q t1 t2 t3 arrives req sync master seq mine => ?delayResp,
    fun arrives => execAnnounce_of_arrives arrives, fun runs held silent => ?lost,
    fun residence full on link => ⟨fun dropped => execFrameForward_of_dropped on link dropped, fun b sound room short data => ?forward⟩,
    fun residence full off => execFrameForward_of_off off, fun u due => ?step, fun a armed due => congrArg Host.Outcome.next (if_pos ⟨armed, due⟩),
    fun link => congrArg Host.Outcome.next (if_pos link), rfl⟩
  case followUp =>
    change execFollowUp port frame s = _
    unfold execFollowUp
    rw [arrives, two]
    exact congrArg Host.Outcome.next (if_pos ⟨master, seq⟩)
  case delayReq =>
    have ready : (match s.servo.reqLast with | some t => decide (t + s.servo.reqEvery ≤ s.now s.activePort) | none => true) = true := by
      cases last : s.servo.reqLast with
      | none => rfl
      | some t => exact decide_eq_true (due t last)
    refine congrArg Host.Outcome.next (if_pos ⟨runs, Option.isSome_iff_ne_none.mpr master, link, ?_⟩)
    exact ready
  case delayResp =>
    change execDelayResp port frame s = _
    unfold execDelayResp
    rw [arrives, req, sync]
    exact congrArg Host.Outcome.next (if_pos ⟨master, seq, mine⟩)
  case lost =>
    refine congrArg Host.Outcome.next (if_pos ⟨masterLate_of_silent silent, ?_⟩)
    obtain locked | holds | held := held
    · exact .inl locked
    · exact .inr (.inl holds)
    · exact .inr (.inr ⟨runs, by simp [held]⟩)
  case forward =>
    exact ⟨fun k udp ptp timed => execFrameForward_of_timed on link sound room short data ptp timed,
      fun untimed => execFrameForward_of_untimed on link sound room short data untimed⟩
  case step =>
    change Host.Outcome.next (s.ntApply h) = _
    unfold State.ntApply
    rewrite [due]
    rfl

end Sys2Proof.Machine
end

section
/-!
Flits of the die link.
-/
namespace Sys2Proof.Machine

/-! ### Reception -/

theorem dlkOf_modDlk_ne (s : State) {g h : Nat} (f : Dlk → Dlk) (ne : g ≠ h) : (s.modDlk h f).dlkOf g = s.dlkOf g :=
  mget_mset_ne _ _ _ _ _ ne

section
variable {s : State} {h : Nat} {f : BitVec 272} {b : BitVec 256} {fixed : Bool} (received : s.receives h f b fixed)
include received

theorem flitIn_of_some {pick : BitVec 256 → Bool} {k : State → BitVec 256 → Option State} {w : State} (kind : pick b = true)
    (does : k (s.received h b fixed) b = some w) : s.flitIn h f pick k = w := by
  rw [flitIn_of_receives pick k received kind, does]

theorem flitIn_of_none {pick : BitVec 256 → Bool} {k : State → BitVec 256 → Option State} (kind : pick b = true)
    (refuses : k (s.received h b fixed) b = none) : s.flitIn h f pick k = s := by
  rw [flitIn_of_receives pick k received kind, refuses]

/-- R561: a sequenced flit in its turn does what it brings. -/
theorem flitIn_of_expects {pick : BitVec 256 → Bool} {take : BitVec 256 → State → Option State} {w : State} (kind : pick b = true)
    (hh : h < 2) (turn : (s.received h b fixed).expects h b) (does : take b ((s.received h b fixed).inOrder h b) = some w) :
    s.flitIn h f pick (fun s b => s.sequenced h b (take b)) = w :=
  flitIn_of_some received kind ((sequenced_of_expects _ hh turn).trans does)

/-- R561: a sequenced flit out of its turn is discarded, and one NAK is due. -/
theorem flitIn_of_outOfTurn {pick : BitVec 256 → Bool} {take : BitVec 256 → State → Option State} (kind : pick b = true)
    (sends : ((s.received h b fixed).dlkOf (far h)).canSend (kindClass (bits b 15 12)) (bits b 11 4) = true)
    (other : bits b 11 4 ≠ ((s.received h b fixed).dlkOf h).expect) :
    s.flitIn h f pick (fun s b => s.sequenced h b (take b)) =
      ((s.received h b fixed).modDlk (far h) fun d =>
        d.sent (kindClass (bits b 15 12)) (bits b 11 4) ((s.received h b fixed).now (far h))).modDlk h Dlk.refuses := by
  refine flitIn_of_some received kind ?_
  unfold State.sequenced
  rw [if_neg (by simp [sends])]
  exact if_neg fun e => other (e.trans (congrArg Dlk.expect (dlkOf_modDlk_ne _ _ (far_ne h).symm)))

end

/-! ### Messages -/

/-- The state without a message of half g. -/
def State.dropMsg (s : State) (g : Nat) (m : DlkMsg) : State := s.modDlk g fun d => { d with msgs := d.msgs.erase m }

theorem takeMsg_of_first {s : State} {g : Nat} {cls : DlkMsg → Bool} {m : DlkMsg} (first : (s.dlkOf g).msgs.find? cls = some m) :
    s.takeMsg g cls m = some (s.dropMsg g m) := by
  rw [State.takeMsg, first]
  exact if_pos rfl

theorem takeMsg_map (s : State) (g : Nat) (cls : DlkMsg → Bool) (m : DlkMsg) (f : State → State) :
    (s.takeMsg g cls m).map f = if (s.dlkOf g).msgs.find? cls = some m then some (f (s.dropMsg g m)) else none := by
  unfold State.takeMsg
  cases first : (s.dlkOf g).msgs.find? cls with
  | none => rfl
  | some x =>
    by_cases same : x = m
    · subst same; simp; rfl
    · simp [same]

/-! ### Acknowledgements -/

theorem controlIn_of_acks {s : State} {h : Nat} {b : BitVec 256} (acks : (s.dlkOf h).acks (s.dlkOf (far h)) b = true) :
    s.controlIn h b = some ((if payload b 8 8 = 1 then s.modDlk (far h) fun d => { d with nakDue := false } else s).control h b) :=
  if_pos acks

theorem controlIn_of_noAcks {s : State} {h : Nat} {b : BitVec 256} (acks : (s.dlkOf h).acks (s.dlkOf (far h)) b = false) :
    s.controlIn h b = none := if_neg (ne_true_of_eq_false acks)

/-- A kind of flit that carries a sequence number: the event is its reception, and `take` says what it brings. -/
def takesSequenced (h : Half) (flit : BitVec 272) (b : BitVec 256) (c : Instr) : Prop :=
  ∃ (pick : BitVec 256 → Bool) (take : BitVec 256 → State → Option State), pick b = true ∧ ∀ s, exec c s = .next (s.flitIn h flit pick fun s b => s.sequenced h b (take b))

/-- R557: the kinds of flit that carry a sequence number. -/
theorem takesSequenced_of_kind {h : Half} {flit : BitVec 272} {b : BitVec 256} {k : Nat} {c : Instr}
    (named : (k, c) ∈ [(2, Instr.token h flit), (3, .event h flit), (4, .reg h flit), (5, .dmaHdr h flit), (6, .dmaData h flit),
        (8, .mgmt h flit)] ∨ k = 7 ∧ (payload b 161 160 = 3 ∧ c = .ntUpdate h flit ∨
          payload b 161 160 = 0 ∧ h.val = 1 ∧ ∃ off, c = .periodic h flit off)) (kind : bits b 15 12 = k) :
    takesSequenced h flit b c := by
  obtain listed | ⟨rfl, ⟨typ, rfl⟩ | ⟨typ, half, off, rfl⟩⟩ := named
  · have all : ∀ x ∈ [(2, Instr.token h flit), (3, .event h flit), (4, .reg h flit), (5, .dmaHdr h flit), (6, .dmaData h flit),
        (8, .mgmt h flit)], ∃ take : BitVec 256 → State → Option State, ∀ s, exec x.2 s = .next
          (s.flitIn h flit (fun b => bits b 15 12 == x.1) fun s b => s.sequenced h b (take b)) := by
      simp only [List.forall_mem_cons, List.not_mem_nil, false_implies, implies_true, and_true]
      and_intros <;> exact ⟨_, fun _ => rfl⟩
    obtain ⟨take, receives⟩ := all (k, c) listed
    exact ⟨fun b => bits b 15 12 == k, take, beq_iff_eq.mpr kind, receives⟩
  · exact ⟨_, _, by simp [kind, typ], fun _ => rfl⟩
  · exact ⟨_, _, by simp [kind, typ, half], fun _ => rfl⟩

/-- Settles O49: a flit of an ACTIVE link is received, and in its turn brings what the far half has formed. -/
theorem flitsAct : Obligations.FlitsAct := by
  unfold Obligations.FlitsAct
  intro h flit b fixed s received t u acks v drop
  have inTurn {pick : BitVec 256 → Bool} {take : BitVec 256 → State → Option State} {w : State} (kind : pick b = true) (turn : t.expects h b)
      (does : take b u = some w) :
      (Host.Outcome.next (s.flitIn h flit pick fun s b => s.sequenced h b (take b)) : Res) = .next w :=
    congrArg Host.Outcome.next (flitIn_of_expects received kind h.isLt turn does)
  refine ⟨fun kind => congrArg Host.Outcome.next (flitIn_of_some received (beq_iff_eq.mpr kind) rfl),
    fun kind typ ok => congrArg Host.Outcome.next (flitIn_of_some received (by simp [kind, typ]) (controlIn_of_acks ok)),
    fun kind typ ok => congrArg Host.Outcome.next (flitIn_of_none received (by simp [kind, typ]) (controlIn_of_noAcks ok)),
    fun kind typ ok asked => ?restReq, fun kind typ ok asked answered => ?restAck, fun k c named kind sends other => ?outOfTurn,
    fun kind turn first => inTurn (beq_iff_eq.mpr kind) turn (congrArg (Option.map _) (takeMsg_of_first first)),
    fun w kind turn all => inTurn (beq_iff_eq.mpr kind) turn ?events, fun m kind turn spells first => inTurn (beq_iff_eq.mpr kind) turn ?reg,
    fun m kind turn first => inTurn (beq_iff_eq.mpr kind) turn ?mgmt, fun x kind turn first idle spells => ?dmaHdr,
    fun x n kind turn first left carries => ?dmaData,
    fun kind typ turn first => inTurn (by simp [kind, typ]) turn (congrArg (Option.map _) (takeMsg_of_first first)), ?periodic⟩
  case restReq =>
    refine congrArg Host.Outcome.next (flitIn_of_some received (by simp [kind, typ]) ((if_neg (ne_true_of_eq_false (congrArg not asked))).trans ?_))
    exact congrArg (Option.map _) (controlIn_of_acks ok)
  case restAck =>
    refine congrArg Host.Outcome.next (flitIn_of_some received (by simp [kind, typ]) ((if_neg ?_).trans ?_))
    · exact not_or.mpr ⟨ne_true_of_eq_false (congrArg not asked), ne_true_of_eq_false (congrArg not answered)⟩
    · exact congrArg (Option.map _) (controlIn_of_acks ok)
  case outOfTurn =>
    obtain ⟨pick, take, picks, receives⟩ := takesSequenced_of_kind named kind
    subst kind
    rw [receives]
    exact congrArg Host.Outcome.next (flitIn_of_outOfTurn received picks sends other)
  case events =>
    rw [← all]
    refine congrArg (List.foldl · (some u) (eventsOf b)) (funext fun o => funext fun e => congrArg (Option.bind o) (funext fun x => ?_))
    exact takeMsg_map _ _ _ _ _
  case reg =>
    rw [first]
    exact (if_pos spells).trans (congrArg (Option.map _) (takeMsg_of_first first))
  case mgmt =>
    rw [first]
    exact congrArg (Option.map _) (takeMsg_of_first first)
  case dmaHdr =>
    have ok : ¬ ((!((payload b 63 0, payload b 76 64, payload b 78 77, payload b 79 79 == 1, payload b 80 80 == 1) == x.header)) = true ∨
        (u.dlkOf h).dataFlits ≠ 0) := by
      simp [spells, idle]
    refine ⟨fun none_ => inTurn (beq_iff_eq.mpr kind) turn ?_, fun some_ => inTurn (beq_iff_eq.mpr kind) turn ?_⟩
    · rw [first]
      exact (if_neg ok).trans ((if_pos (List.isEmpty_iff.mpr none_)).trans (congrArg (Option.map _) (takeMsg_of_first first)))
    · rw [first]
      exact (if_neg ok).trans (if_neg fun h => some_ (List.isEmpty_iff.mp h))
  case dmaData =>
    intro w
    have ok : ¬ ((u.dlkOf h).dataFlits = 0 ∨
        payload b 239 0 ≠ leField (slice x.data (30 * ((x.data.length + 29) / 30 - (u.dlkOf h).dataFlits)) 30) 0 30) := by
      rw [left]
      simp [carries]
    have rest : u.modDlk h (fun d => { d with dataFlits := (u.dlkOf h).dataFlits - 1 }) = w := by rw [left]; rfl
    have still : (w.dlkOf (far h)).msgs.find? DlkMsg.isDma = some (.dma x) := by
      rw [dlkOf_modDlk_ne _ _ (far_ne h)]
      exact first
    refine ⟨fun more => inTurn (beq_iff_eq.mpr kind) turn ?_, fun last => inTurn (beq_iff_eq.mpr kind) turn ?_⟩
    · rw [first]
      refine (if_neg ok).trans ((if_neg (by omega)).trans (congrArg some rest))
    · rw [first]
      refine (if_neg ok).trans ((if_pos (by omega)).trans ?_)
      rw [rest, takeMsg_of_first still]
      rfl
  case periodic =>
    intro off c half kind typ turn first sent early near parts w
    have does : exec (.periodic h flit off) s = .next (w.alignCheck sent (w.ntAt 0 sent) (w.now 1 + off.val)) := by
      refine inTurn (by simp [kind, typ, half]) turn ?_
      rw [first]
      refine (if_pos ⟨early, near, parts⟩).trans ?_
      exact congrArg (Option.map _) (takeMsg_of_first first)
    exact ⟨fun off => does.trans (congrArg Host.Outcome.next (if_neg (ne_true_of_eq_false off))),
      fun on => does.trans (congrArg Host.Outcome.next (if_pos on))⟩

end Sys2Proof.Machine
end

section
/-!
Timeouts, Rest, loss and training of the die link.
-/
namespace Sys2Proof.Machine

/-! ### Flits in training and uncorrectable flits -/

theorem refuses_clocked (d : Dlk) : d.clocked.refuses = { d.clocked with nak := true, nakDue := d.nakDue || !d.nak } := by
  simp only [Dlk.refuses, Dlk.clocked]

/-- R557, R558: an uncorrectable flit, or one of a kind that there is not. -/
theorem execUncorrectableFlit_of_bad {h : Half} {flit : BitVec 272} {s : State} (active : (s.dlkOf h).st = .active)
    (bad : flitBody flit = none ∨ (∃ b fixed, flitBody flit = some (b, fixed) ∧ 9 ≤ bits b 15 12)) :
    exec (.uncorrectableFlit h flit) s = .next ((s.count .UNCORR_COUNT h 0).modDlk h fun d =>
      { d.clocked with nak := true, nakDue := d.nakDue || !d.nak }) := by
  change execUncorrectableFlit h flit s = _
  unfold execUncorrectableFlit
  simp only [refuses_clocked]
  refine congrArg Host.Outcome.next (if_pos ⟨active, ?_⟩)
  obtain lost | ⟨b, fixed, body, kind⟩ := bad
  · rw [lost]
  · rw [body]
    exact decide_eq_true kind

theorem resend_of_kept {s : State} {h q : Nat} {l : List Nat} (kept : (s.dlkOf h).kept = q :: l) :
    s.resend h = ((s.modDlk h fun d =>
      { d with resends := if d.resendAt = some q then d.resends + 1 else 1, resendAt := some q, lastAck := s.now h }).count
        .REPLAY_COUNT h 0).occur h 0x161 := by
  rw [State.resend, kept]

section
variable {h : Half} {flit : BitVec 272} {b : BitVec 256} {fixed : Bool} {off : Fin 32} {s : State}
  (body : flitBody flit = some (b, fixed)) (kind : bits b 15 12 = 7) (training : (s.dlkOf h).st = .training)
include body kind training

theorem execProbe_of_training (typ : payload b 161 160 = 1) :
    exec (.probe h flit off) s =
      .next ((s.modDlk (far h) fun d => { d with probe := some (payload b 63 0) }).modDlk h fun d =>
        { d.clocked with echoDue := some (s.now h + off.val + 64) }) := by
  change execProbe h flit off s = _
  unfold execProbe
  rw [body]
  exact congrArg Host.Outcome.next (if_pos ⟨kind, typ, training⟩)

theorem execEcho_of_training {p e : Nat} (typ : payload b 161 160 = 2) (probed : (s.dlkOf h).probe = some p)
    (due : (s.dlkOf (far h)).echoDue = some e) (spells : payload b 63 0 = e) :
    exec (.echo h flit off) s =
      .next (let lat : Word := BitVec.ofNat 32 ((s.now h + off.val - p - 64) / 2 % 65536)
        ((((s.setReg .LINK_LAT 0 0 0 lat).setReg .LINK_LAT 1 0 0 lat).modDlk h fun d => { d.clocked with probe := none }).modDlk (far h)
          fun d => { d with echoDue := none })) := by
  change execEcho h flit off s = _
  unfold execEcho
  rw [body, probed, due]
  exact congrArg Host.Outcome.next (if_pos ⟨kind, typ, training, spells⟩)

end

/-! ### Training -/

/-- The state after a successful attempt: the best presets and the skews of the lanes (R554). -/
def State.trainLanes (s : State) (h : Nat) (res : TrainingResult) : State :=
  s.forEach (List.range 8) fun s l =>
    s.setReg .DLK_LANE_STATUS h l 0
      (BitVec.ofNat 32 ((bestPreset (res.eyes.getD l [])).1 % 16 * 2 ^ 24 +
        (bestPreset (res.eyes.getD l [])).2.toNat * 2 ^ 16 + (res.skews.getD l 0).toNat))

/-- R554, R555: what an attempt of a half in training does. -/
theorem execTrainingAttempt_of_training {h : Half} {res : TrainingResult} {s : State} (training : (s.dlkOf h).st = .training)
    (untrained : (s.dlkOf h).trained = false) :
    exec (.trainingAttempt h res) s = .next (
      let t := s.count .TRAIN_COUNT h 0
      if res.ok then
        if (s.dlkOf h).lost then (t.trainLanes h res).modDlk h fun d => { d with trained := true }
        else (t.trainLanes h res).modDlk h fun d =>
          { d with st := .active, wake := false, attempts := 0, lastSeq := (t.trainLanes h res).now h, lastAck := (t.trainLanes h res).now h }
      else if (s.dlkOf h).wake then t.loseLink h 5
      else if (s.dlkOf h).lost then t.modDlk h fun d => { d with st := .down, retryAt := some (t.now h + 2000000) }
      else if t.boot.st = .selftest ∧ 2 ≤ (s.dlkOf h).attempts then t.modBoot fun b => { b with st := .failed, cause := 3 }
      else t.modDlk h fun d => { d with attempts := d.attempts + 1 }) := by
  change execTrainingAttempt h res s = _
  unfold execTrainingAttempt State.trainLanes
  have attempts : ¬ ((s.dlkOf h).st ≠ .training ∨ (s.dlkOf h).trained = true) := by simp [training, untrained]
  simp only [if_neg attempts]

/-! ### Markers -/

/-- R551: the block of a lane's marker. -/
theorem marker_good {b : BitVec 66} {lane : Fin 8} (sync : bits b 1 0 = 1) (number : bits b 5 2 = lane) (complement : bits b 9 6 = 15 - lane)
    (pattern : bits b 65 10 = 0xF0E1D2C3B4A596) :
    (bits b 1 0 == 1 && bits b 5 2 == lane.val && bits b 9 6 == 15 - lane.val && bits b 65 10 == 0xF0E1D2C3B4A596) = true := by
  simp [sync, number, complement, pattern]

/-- Settles O50: each event is the branch of its meaning that its hypotheses select. -/
theorem linkTrainingAndLossAct : Obligations.LinkTrainingAndLossAct := by
  unfold Obligations.LinkTrainingAndLossAct
  intro h s
  refine ⟨fun flit active bad => execUncorrectableFlit_of_bad active bad, fun q l active kept late => ?replay,
    fun ready active => congrArg Host.Outcome.next (if_pos ⟨ready, active⟩), fun rest waits => ?exit, fun cause up why => ?loss,
    fun res training untrained => ?attempt, fun x retry down due => ?retry, fun lost trained other => ?linkUp,
    fun lane stuff active => ?marker, fun flit b fixed off body kind training => ⟨fun typ => execProbe_of_training body kind training typ,
      fun p e typ probed due spells => execEcho_of_training body kind training typ probed due spells⟩,
    fun boundary up => congrArg Host.Outcome.next (if_pos ⟨boundary, up⟩)⟩
  case replay =>
    refine congrArg Host.Outcome.next ((if_pos ⟨active, by simp [kept], late⟩).trans (resend_of_kept kept))
  case exit => exact congrArg Host.Outcome.next (if_pos ⟨rest, by simpa using waits⟩)
  case loss =>
    refine congrArg Host.Outcome.next (if_pos ⟨up, ?_⟩)
    obtain signal | lock | ⟨marker, bad⟩ | ⟨replays, many⟩ := why
    · simp [signal]
    · simp [lock]
    · simpa [marker] using bad
    · simp [replays, many]
  case attempt =>
    intro t u
    have does := execTrainingAttempt_of_training (res := res) training untrained
    have failed (ok : res.ok = false) := does.trans (congrArg Host.Outcome.next (if_neg (ne_true_of_eq_false ok)))
    refine ⟨fun ok lost => ?_, fun ok held => ?_, fun ok wake => ?_, fun ok awake lost => ?_, fun ok awake held selftest third => ?_,
      fun ok awake held early => ?_⟩
    · exact does.trans (congrArg Host.Outcome.next ((if_pos ok).trans (if_pos lost)))
    · exact does.trans (congrArg Host.Outcome.next ((if_pos ok).trans (if_neg (ne_true_of_eq_false held))))
    · exact (failed ok).trans (congrArg Host.Outcome.next (if_pos wake))
    · exact (failed ok).trans (congrArg Host.Outcome.next ((if_neg (ne_true_of_eq_false awake)).trans (if_pos lost)))
    · exact (failed ok).trans (congrArg Host.Outcome.next
        ((if_neg (ne_true_of_eq_false awake)).trans ((if_neg (ne_true_of_eq_false held)).trans (if_pos ⟨selftest, third⟩))))
    · exact (failed ok).trans (congrArg Host.Outcome.next
        ((if_neg (ne_true_of_eq_false awake)).trans ((if_neg (ne_true_of_eq_false held)).trans (if_neg fun h => absurd h.2 (Nat.not_le.mpr early)))))
  case retry =>
    change execTrainingRetry h s = _
    unfold execTrainingRetry
    rw [retry]
    exact congrArg Host.Outcome.next (if_pos ⟨down, due⟩)
  case linkUp => exact congrArg Host.Outcome.next (if_pos ⟨lost, trained, other⟩)
  case marker =>
    intro errs
    refine ⟨fun b sync number complement pattern => ?_, ?_⟩
    · exact congrArg Host.Outcome.next ((if_neg (not_not_intro active)).trans (if_pos (marker_good sync number complement pattern)))
    · exact congrArg Host.Outcome.next ((if_neg (not_not_intro active)).trans (if_neg Bool.false_ne_true))

end Sys2Proof.Machine
end

section
/-!
Faults, quiet mode, power, temperature and test access.
-/
namespace Sys2Proof.Machine

/-! ### Faults -/

theorem reassertFaultN_of_due {s : State} {t : Nat} (armed : s.faultN.reassert = some t) (due : t ≤ s.now 0) :
    s.reassertFaultN = { s with faultN := { asserted := true, since := s.now 0 } } := by
  rw [State.reassertFaultN, armed]
  exact if_pos due

theorem execShadowEnd_of_over {h : Half} {n : Nat} {s : State} {x : Shadow} (found : s.shadowsF[n]? = some x) (half : x.half = h.val)
    (ended : x.until_ ≤ s.now h) : exec (.shadowEnd h n) s = .next { s with shadowsF := s.shadowsF.eraseIdx n } := by
  change execShadowEnd h n s = _
  unfold execShadowEnd
  rw [found]
  exact congrArg Host.Outcome.next (if_pos ⟨half, ended⟩)

/-! ### The governor -/

theorem now_setLevel (s : State) (h n g : Nat) : (s.setLevel h n).now g = s.now g := by
  unfold State.setLevel
  dsimp only
  split <;> rfl

/-- The registers of an evaluation (R607, R608). -/
def State.govReading (s : State) (h : Nat) (g : GovReading) : State :=
  let u := s.setReg .VCORE_REF h 0 0 (g.mean.zeroExtend 32)
  u.setReg .GOV_STATUS h 0 0
    (setBits (u.reg .GOV_STATUS h) 15 0 (BitVec.ofInt 16 ((g.mean.toNat : Int) - g.low.toNat)).toNat)

theorem execGovEvaluate_eq (h : Half) (g : GovReading) (s : State) :
    let n := s.govLevel h ((g.mean.toNat : Int) - g.low.toNat)
    let t := s.govReading h g
    exec (.govEvaluate h g) s = .next ((if (s.govOf h).level < n then t.setLevel h n else t).modGov h fun x =>
      { x with comp := n, below := if n < x.level then some (x.below.getD (s.now h)) else none }) := by
  intro n t
  let v := if (s.govOf h).level < n then t.setLevel h n else t
  have clock : v.now h = s.now h := (apply_ite (State.now · h) _ _ _).trans ((ite_congr rfl (fun _ => now_setLevel t h n h) fun _ => rfl).trans (ite_self _))
  refine congrArg (fun f => Host.Outcome.next (v.modGov h f)) (funext fun x => ?_)
  obtain ⟨level, comp, below, since, sagged⟩ := x
  rw [← clock]
  cases below <;> rfl

theorem execGovDescent_of_due {h : Half} {s : State} {t : Nat} (below : (s.govOf h).below = some t) (high : 0 < (s.govOf h).level)
    (due : t + 20000 * s.govField h 23 16 ≤ s.now h) :
    exec (.govDescent h) s = .next ((s.setLevel h ((s.govOf h).level - 1)).modGov h fun x =>
      { x with below := if x.comp < x.level then some (t + 20000 * s.govField h 23 16) else none }) := by
  change execGovDescent h s = _
  unfold execGovDescent
  simp only [below]
  exact congrArg Host.Outcome.next (if_pos ⟨high, due⟩)

theorem execSupplySag_of_long {h : Half} {s : State} {t : Nat} (since : (s.govOf h).since = some t) (first : (s.govOf h).sagged = false)
    (long : t + 2000000 < s.now h) :
    exec (.supplySag h) s = .next (((s.modGov h fun g => { g with sagged := true }).count .SAG_COUNT h 0).occur h 0x172) := by
  change execSupplySag h s = _
  unfold execSupplySag
  simp only [since]
  exact congrArg Host.Outcome.next (if_pos ⟨by simp [first], long⟩)

theorem paced_of_free {s : State} {h b : Nat} (free : (s.govOf h).level = 0 ∨ bit (s.reg .GOV_CTL h) b = false) : s.paced h b = false := by
  have level : (mget {} s.gov h).level = (s.govOf h).level := rfl
  rw [State.paced, level]
  obtain low | off := free
  · simp [low]
  · simp [off]

theorem paced_of_full {s : State} {h b : Nat} (full : 8 ≤ (s.govOf h).level) (on : bit (s.reg .GOV_CTL h) b = true) : s.paced h b = true := by
  have level : (mget {} s.gov h).level = (s.govOf h).level := rfl
  have pos : 0 < (s.govOf h).level := by omega
  rw [State.paced, level]
  simp [full, on, pos]

/-- Settles O51: each event is the branch of its meaning that its hypotheses select. -/
theorem faultAndPowerEventsAct : Obligations.FaultAndPowerEventsAct := by
  unfold Obligations.FaultAndPowerEventsAct
  intro h s
  refine ⟨fun t armed due => congrArg Host.Outcome.next (reassertFaultN_of_due armed due),
    fun n x found half ended => execShadowEnd_of_over found half ended, fun r0 r1 g0 g1 l0 l1 p0 p1 => ?quiet, rfl, fun g => ?evaluate,
    fun t below high due => execGovDescent_of_due below high due, fun b free => paced_of_free free, fun b full on => paced_of_full full on,
    fun t since first long => execSupplySag_of_long since first long, fun temps eight => congrArg Host.Outcome.next (if_pos eight)⟩
  case quiet =>
    have due : ((s.quietOf 0).granted && (match (s.quietOf 0).lastReq with | some r => decide (r < s.row 0) | none => false)) = true ∧
        ((s.quietOf 1).granted && (match (s.quietOf 1).lastReq with | some r => decide (r < s.row 1) | none => false)) = true := by
      rw [g0, g1, l0, l1]
      simp [p0, p1]
    exact congrArg Host.Outcome.next (if_pos due)
  case evaluate =>
    have does := execGovEvaluate_eq h g s
    exact ⟨fun low => does.trans (congrArg (fun t => Host.Outcome.next (State.modGov t h _)) (if_neg (Nat.not_lt.mpr low))),
      fun rises => does.trans (congrArg (fun t => Host.Outcome.next (State.modGov t h _)) (if_pos rises))⟩

/-! ### Test access -/

/-- Capture of the data register reads the pins once (R624). -/
def State.sampled (s : State) : State := if s.tap.st = .captureDr ∧ s.tapInstr ≠ .bypass then (s.free 1).2 else s

/-- What a rising edge of TCK makes of the registers of the port. -/
def State.risen (s : State) (tdi : Bool) : Tap :=
  match s.tap.st with
  | .captureIr => { s.tap with ir := true :: List.replicate (Config.tapLength - 1) false }
  | .shiftIr => { s.tap with ir := shiftIn s.tap.ir tdi }
  | .captureDr =>
    { s.tap with dr := match s.sampled.tapInstr with
                  | .bypass => [false]
                  | _ => Config.tapCells.map (s.sampled.pinLevel (bit (s.free 1).1 0)) }
  | .shiftDr => { s.tap with dr := shiftIn s.tap.dr tdi }
  | _ => s.tap

/-- What a falling edge of TCK makes of the registers of the port. -/
def State.fallen (s : State) : Tap :=
  let t := { s.tap with tdo := match s.tap.st with | .shiftDr => s.tap.dr.head? | .shiftIr => s.tap.ir.head? | _ => none }
  match t.st with
  | .reset => { t with instr := .bypass }
  | .updateIr => { t with instr := if Config.tapCode t.ir = 1 then .sample else if Config.tapCode t.ir = 2 then .extest else .bypass }
  | .updateDr => if s.tapInstr = .bypass then t else { t with latch := t.dr }
  | _ => t

theorem execTckEdge_rising (tms tdi : Bool) (s : State) : exec (.tckEdge true tms tdi false) s =
    .next { s.sampled with tap := { s.risen tdi with st := (s.risen tdi).st.next tms } } := rfl

theorem execTckEdge_falling (tms tdi : Bool) (s : State) : exec (.tckEdge false tms tdi false) s = .next { s with tap := s.fallen } := rfl

theorem sampled_of_still {s : State} (h : ¬ (s.tap.st = .captureDr ∧ s.tapInstr ≠ .bypass)) : s.sampled = s := if_neg h

theorem risen_of_other {s : State} (notCaptureIr : s.tap.st ≠ .captureIr) (notShiftIr : s.tap.st ≠ .shiftIr)
    (notCaptureDr : s.tap.st ≠ .captureDr) (notShiftDr : s.tap.st ≠ .shiftDr) (tdi : Bool) : s.risen tdi = s.tap := by
  unfold State.risen
  split
  · contradiction
  · contradiction
  · contradiction
  · contradiction
  · rfl

theorem fallen_of_other {s : State} (other : s.tap.st ∉ [.reset, .shiftDr, .shiftIr, .updateIr, .updateDr]) :
    s.fallen = { s.tap with tdo := none } := by
  simp only [List.mem_cons, List.not_mem_nil, or_false, not_or] at other
  obtain ⟨notReset, notShiftDr, notShiftIr, notUpdateIr, notUpdateDr⟩ := other
  have out : (match s.tap.st with | .shiftDr => s.tap.dr.head? | .shiftIr => s.tap.ir.head? | _ => none) = none := by
    split
    · contradiction
    · contradiction
    · rfl
  unfold State.fallen
  rw [out]
  dsimp only
  split
  · contradiction
  · contradiction
  · contradiction
  · rfl

/-- Settles O52: one branch per state of the controller and edge of TCK. -/
theorem testAccessFollowsItsController : Obligations.TestAccessFollowsItsController := by
  unfold Obligations.TestAccessFollowsItsController
  intro tms tdi s go
  have rises (still : ¬ (s.tap.st = .captureDr ∧ s.tapInstr ≠ .bypass)) {t : Tap} (does : s.risen tdi = t) (same : t.st = s.tap.st) :
      exec (.tckEdge true tms tdi false) s = go t := by
    rw [execTckEdge_rising, sampled_of_still still, does, same]
  refine ⟨fun r => rfl, fun n1 n2 n3 n4 => rises (fun h => n3 h.1) (risen_of_other n1 n2 n3 n4 tdi) rfl,
    fun st => rises (by simp [st]) (by simp only [State.risen, st]) rfl, fun st => rises (by simp [st]) (by simp only [State.risen, st]) rfl,
    fun st => rises (by simp [st]) (by simp only [State.risen, st]) rfl, fun st plain => ?bypass, fun st cells => ?cells,
    ?reset, ?outDr, ?outIr, ?updateIr, ?updateDr, fun other => ?fall, fun b => ?five⟩
  case bypass =>
    have still : ¬ (s.tap.st = .captureDr ∧ s.tapInstr ≠ .bypass) := fun h => h.2 plain
    exact rises still (by simp only [State.risen, st, sampled_of_still still, plain]) rfl
  case cells =>
    have sampled : s.sampled = (s.free 1).2 := if_pos ⟨st, cells⟩
    have captured : s.risen tdi = { s.tap with dr := Config.tapCells.map ((s.free 1).2.pinLevel (bit (s.free 1).1 0)) } := by
      simp only [State.risen, st, sampled]
      split
      · contradiction
      · rfl
    rw [execTckEdge_rising, captured, sampled]
  case reset | outDr | outIr | updateIr | updateDr =>
    intro st
    rw [execTckEdge_falling]
    simp only [State.fallen, st]
  case fall => rw [execTckEdge_falling, fallen_of_other other]
  case five => cases b <;> rfl

end Sys2Proof.Machine
end

section
/-! ## Completions, records, direct memory access and the compression engine -/

namespace Sys2Proof.Machine

/-! ### A command's completion -/

/-- Without a prefill there is nothing to settle before a completion. -/
theorem settlePrefill_of_none {tag : Nat} {c : HostCmd} {s : State} (hc : mget none s.cmds tag = some c) (hp : c.prefill = none) :
    s.settlePrefill tag = s := by
  simp [State.settlePrefill, hc, hp]

section
variable {tag : TagIx} {c : HostCmd} {status : BitVec 8} {result : Word64} {s : State}
variable (hc : mget none s.cmds tag = some c) (hp : c.prefill = none) (hd : c.done = some (status, result))
  (hr : s.cmdReady tag c = true) (hz : s.paced (portHalf c.port) 26 = false)
include hc hp hd hr hz

/-- A completion whose command is withdrawn, or that has no enabled queue to go to, is lost and counted. -/
theorem commandCompletion_lost
    (hl : c.discard = true ∨
      (c.discard = false ∧ (s.ring (s.ring c.ring).cq).st ≠ .enabled ∧ ¬ (c.nocomp = true ∧ status = 0))) :
    exec (.commandCompletion tag) s = .next ((s.count .COMPL_LOST (portHalf c.port) (portIx c.port)).freeTag tag) := by
  change execCommandCompletion tag s = _
  unfold execCommandCompletion
  rw [settlePrefill_of_none hc hp]
  obtain hl | ⟨hf, hst, hn⟩ := hl
  · simp [hc, hd, hr, hz, hl]
  · simp only [hc, hd, hr, hz, hf, if_neg hn, if_pos hst]
    rfl

/-- A command that asked for no completion and ended well frees its tag. -/
theorem commandCompletion_silent (hf : c.discard = false) (hn : c.nocomp = true) (h0 : status = 0) :
    exec (.commandCompletion tag) s = .next (s.freeTag tag) := by
  change execCommandCompletion tag s = _
  unfold execCommandCompletion
  rw [settlePrefill_of_none hc hp]
  simp [hc, hd, hr, hz, hf, hn, h0]

/-- With room in its queue and no older completion waiting for it, a completion is written. -/
theorem commandCompletion_written (hf : c.discard = false) (hn : ¬ (c.nocomp = true ∧ status = 0))
    (hst : (s.ring (s.ring c.ring).cq).st = .enabled)
    (hroom : (s.ring (s.ring c.ring).cq).held < (s.ring (s.ring c.ring).cq).units_)
    (hon : s.portOn (s.ring (s.ring c.ring).cq).port = true)
    (hold : ∀ e ∈ s.cmds, ∀ d, e.2 = some d → (s.ring d.ring).cq = (s.ring c.ring).cq → d.order < c.order →
      s.cmdReady e.1 d = true → d.discard = true) :
    exec (.commandCompletion tag) s =
      .next ((s.modCmd tag fun c => { c with posted := true }).writeEntry (s.ring c.ring).cq 0 [] (some tag)
        (completion c status result
          (((s.ring (s.ring c.ring).cq).own.toNat / (s.ring (s.ring c.ring).cq).units_ + 1) % 2 == 1))) := by
  have hfirst : (s.cmds.any fun e => match e.2 with
      | some d => (s.ring d.ring).cq == (s.ring c.ring).cq && decide (d.order < c.order) && s.cmdReady e.1 d && !d.discard
      | none => false) = false := by
    rw [List.any_eq_false]
    intro e he
    cases hd' : e.2 with
    | none => simp
    | some d =>
      have := hold e he d hd'
      simp only [Bool.and_eq_true, beq_iff_eq, decide_eq_true_eq, Bool.not_eq_true', not_and, Bool.not_eq_false]
      exact fun ⟨⟨h1, h2⟩, h3⟩ => this h1 h2 h3
  change execCommandCompletion tag s = _
  unfold execCommandCompletion
  rw [settlePrefill_of_none hc hp]
  have hfull : ¬ ((s.ring (s.ring c.ring).cq).units_ ≤ (s.ring (s.ring c.ring).cq).held ∨
      (!s.portOn (s.ring (s.ring c.ring).cq).port) = true) := by simp [hon, hroom]
  have hwait : ¬ ((!s.cmdReady tag c) = true ∨ s.paced (portHalf c.port) 26 = true) := by simp [hr, hz]
  simp only [hc, hd, if_neg hwait, hf, if_neg hn, hst, if_neg hfull]
  refine congrArg Host.Outcome.next ?_
  simp only [Bool.false_eq_true, if_false, ne_eq, not_true_eq_false]
  exact if_neg (ne_true_of_eq_false hfirst)
end

/-! ### A record -/

section
variable {r : RingIx} {w : Waiting} {s : State}

/-- A record whose ring is not enabled is lost and counted. -/
theorem recordWrite_disabled (hw : s.waiting r = some w) (hst : (s.ring r).st ≠ .enabled) :
    exec (.recordWrite r) s = .next ((s.countLost w.half r).taken r w) := by
  change execRecordWrite r s = _
  unfold execRecordWrite
  simp only [hw]
  exact congrArg Host.Outcome.next (if_pos hst)

/-- A record of a stopped run that cannot cross the die link is stranded. -/
theorem recordWrite_stranded {k : Nat} (hw : s.waiting r = some w) (hst : (s.ring r).st = .enabled)
    (hh : w.half ≠ portHalf (s.ring r).port) (hl : s.linkUp = false) (hk : w.run = some k) (hs : (s.runOf k).stopped = true) :
    exec (.recordWrite r) s = .next ((s.strandRecord w.half r w.run w.bytes).taken r w) := by
  change execRecordWrite r s = _
  unfold execRecordWrite
  simp [hw, hst, hh, hl, hk, hs]

/-- With no record waiting, a finished skein goes out if its port answers. -/
theorem recordWrite_made {t : State} (hw : s.waiting r = none) (hst : (s.ring r).st = .enabled) (hm : (s.ring r).made ≠ [])
    (hon : s.portOn (s.ring r).port = true) (hz : s.paced (portHalf (s.ring r).port) 26 = false)
    (ht : s.putRecord r (match (s.ring r).shut with | some p => p.count | none => 0)
      (match (s.ring r).shut with | some p => p.runs | none => []) (s.ring r).made = some t) :
    exec (.recordWrite r) s = .next (t.madeWritten r) := by
  have hwrite : s.writeMade r = t.madeWritten r := by
    unfold State.writeMade
    cases hsh : (s.ring r).shut with
    | none =>
      simp only [hsh] at ht
      simp [hsh, ht]
    | some p =>
      simp only [hsh] at ht
      simp [hsh, ht]
  change execRecordWrite r s = _
  unfold execRecordWrite
  simp only [hw]
  exact congrArg Host.Outcome.next ((if_pos ⟨hst, by simp [hm], hon, congrArg not hz⟩).trans hwrite)

/-- Where a record of the far half lands: after the padding that its length asks for, behind no loss record. -/
def State.sendRecord (s t : State) (r : RingIx) (w : Waiting) : State :=
  let x := s.ring r
  let left := x.units_ - x.own.toNat % x.units_
  let pad := if left < w.bytes.length / 16 then left else 0
  (t.send w.half (.dma (.record x.port (x.base + x.at_ (x.own + BitVec.ofNat 32 pad)) r w))).taken r w

variable (hw : s.waiting r = some w) (hst : (s.ring r).st = .enabled) (hh : w.half = portHalf (s.ring r).port ∨ s.linkUp = true)
  (hon : s.portOn (s.ring r).port = true) (hz : s.paced (portHalf (s.ring r).port) 26 = false) (hx : s.recordCrosses r = false)
include hw hst hh hon hz hx

/-- What a record does that its ring can take: a finished skein goes first, then the open one, then the record itself. -/
theorem recordWrite_taken :
    exec (.recordWrite r) s =
      .next (if (s.ring r).skein = true ∧ (!(s.ring r).made.isEmpty) = true then s.writeMade r
        else if (s.ring r).skein = true ∧ (s.ring r).shut.isSome = true then s
        else if (s.ring r).skein = true ∧ (!(s.ring r).joins w) = true then (s.shutPack r).cmpPick (portHalf (s.ring r).port)
        else match s.storeRecord r w with
          | none => s
          | some t => if w.half = portHalf (s.ring r).port then t.taken r w else
            let gap := if (s.ring r).lost = 0 ∨ (s.ring r).skein = true then 0 else 1
            let left := (s.ring r).units_ - ((s.ring r).own.toNat + gap) % (s.ring r).units_
            let pad := if left < w.bytes.length / 16 then left else 0
            (s.send w.half (.dma (.record (s.ring r).port ((s.ring r).base + (s.ring r).at_ ((s.ring r).own + BitVec.ofNat 32 (gap + pad))) r w))).taken
              r w) := by
  change execRecordWrite r s = _
  unfold execRecordWrite
  have hup : ¬ (w.half ≠ portHalf (s.ring r).port ∧ (!s.linkUp) = true) := by
    rintro ⟨h1, h2⟩
    exact hh.elim h1 fun h3 => by simp [h3] at h2
  have hgo : ¬ ((!s.portOn (s.ring r).port) = true ∨ s.paced (portHalf (s.ring r).port) 26 = true ∨ s.recordCrosses r = true) := by
    simp [hon, hz, hx]
  simp only [hw, if_neg (not_not_intro hst), if_neg hup, if_neg hgo] <;>
    rfl

/-- A record that its ring stores, at the half of the ring's port, leaves its source. -/
theorem recordWrite_stored {t : State} (hs : (s.ring r).skein = false ∨
      ((s.ring r).made = [] ∧ (s.ring r).shut = none ∧ (s.ring r).joins w = true))
    (ht : s.storeRecord r w = some t) (hnear : w.half = portHalf (s.ring r).port) :
    exec (.recordWrite r) s = .next (t.taken r w) := by
  rw [recordWrite_taken hw hst hh hon hz hx]
  obtain hs | ⟨hm, hsh, hj⟩ := hs
  · simp [hs, ht, hnear]
  · simp [hm, hsh, hj, ht, hnear]

/-- A record that its ring stores, from the other half, crosses the die link if no loss goes before it. -/
theorem recordWrite_crosses {t : State} (hs : (s.ring r).skein = false ∧ (s.ring r).lost = 0 ∨
      ((s.ring r).skein = true ∧ (s.ring r).made = [] ∧ (s.ring r).shut = none ∧ (s.ring r).joins w = true))
    (ht : s.storeRecord r w = some t) (hfar : w.half ≠ portHalf (s.ring r).port) :
    exec (.recordWrite r) s = .next (s.sendRecord s r w) := by
  rw [recordWrite_taken hw hst hh hon hz hx]
  obtain ⟨hs, hl⟩ | ⟨hs, hm, hsh, hj⟩ := hs
  · simp [hs, hl, ht, hfar, State.sendRecord]
  · simp [hs, hm, hsh, hj, ht, hfar, State.sendRecord]

/-- A record of another kind shuts the open skein first. -/
theorem recordWrite_shuts (hs : (s.ring r).skein = true) (hm : (s.ring r).made = []) (hsh : (s.ring r).shut = none)
    (hj : (s.ring r).joins w = false) :
    exec (.recordWrite r) s = .next ((s.shutPack r).cmpPick (portHalf (s.ring r).port)) := by
  rw [recordWrite_taken hw hst hh hon hz hx]
  simp [hs, hm, hsh, hj]

/-- A finished skein is written before the record. -/
theorem recordWrite_after_made (hs : (s.ring r).skein = true) (hm : (s.ring r).made ≠ []) :
    exec (.recordWrite r) s = .next (s.writeMade r) := by
  rw [recordWrite_taken hw hst hh hon hz hx]
  simp [hs, hm]

/-- While a shut skein is with the engine, its ring's records wait. -/
theorem recordWrite_behind_shut (hs : (s.ring r).skein = true) (hm : (s.ring r).made = []) (hsh : (s.ring r).shut ≠ none) :
    exec (.recordWrite r) s = .next s := by
  rw [recordWrite_taken hw hst hh hon hz hx]
  simp [hs, hm, Option.isSome_iff_ne_none.2 hsh]
end

/-- A plain ring without a loss stores the record itself. -/
theorem storeRecord_of_plain {r : Nat} {w : Waiting} {s : State} (hs : (s.ring r).skein = false) (hl : (s.ring r).lost = 0) :
    s.storeRecord r w = s.putRecord r 1 w.run.toList w.bytes := by
  simp [State.storeRecord, hs, hl]

/-- A plain ring with a loss stores the loss record first. -/
theorem storeRecord_of_loss {r : Nat} {w : Waiting} {s u : State} (hs : (s.ring r).skein = false) (hl : (s.ring r).lost ≠ 0)
    (hu : s.putRecord r 0 [] (lossRecord (s.ring r)) = some u) :
    s.storeRecord r w = (u.modRing r fun x => { x with lost := 0, lostRun := none }).putRecord r 1 w.run.toList w.bytes := by
  simp [State.storeRecord, hs, hl, hu]

/-- A ring of skeins packs the record. -/
theorem storeRecord_of_skein {r : Nat} {w : Waiting} {s : State} (hs : (s.ring r).skein = true) :
    s.storeRecord r w = some (s.packRecord r w) := by
  simp [State.storeRecord, hs]

/-! ### Direct memory access -/

/-- The port grants the next access in turn, when it answers and has a read tag left. -/
theorem dmaGrant_granted {p : Port} {cls : Fin 4} {q : DmaReq} {s : State} (hq : s.nextGrant p = some q) (hon : s.portOn p = true)
    (hz : s.paced (portHalf p) 26 = false) (hc : q.cls = cls.val + 1)
    (hfull : (s.port p).reads.length < 768 ∨ (∀ a n, q.act ≠ .read a n)) :
    exec (.dmaGrant p cls) s =
      .next ((s.modPort p fun x =>
        { x with reqs := age q.cls [] (x.reqs.erase q), served := mset 0 x.served q.cls q.src }).granted p q) := by
  change execDmaGrant p cls s = _
  unfold execDmaGrant
  simp only [hq]
  refine congrArg Host.Outcome.next (if_pos ⟨hon, congrArg not hz, hc, ?_⟩)
  cases hact : q.act with
  | read a n =>
    have := hfull.resolve_right fun hno => hno a n hact
    simp [this]
  | write a bs => rfl
  | msix v => rfl

/-- During cast-on the data of a read is the loader's. -/
theorem dmaReadCompletion_boot {p : Port} {id : Nat} {data : HostRead} {s : State} (hb : s.boot.st = .verify) :
    exec (.dmaReadCompletion p id data) s = .next (s.bootRead p id data) :=
  congrArg Host.Outcome.next (if_pos hb)

/-- The data of a read that comes whole and in its source's order lands, at its half or over the die link. -/
theorem dmaReadCompletion_lands {p : Port} {id : Nat} {data : HostRead} {e : Nat × DmaReq} {addr : Nat} {s : State}
    (hb : s.boot.st ≠ .verify) (he : (s.port p).reads.find? (fun e => e.1 == id) = some e) (hact : e.2.act = .read addr data.length)
    (hfirst : e.2.why = .none ∨ (s.port p).reads.find? (fun f => f.2.src == e.2.src && f.2.why != .none) = some e) :
    exec (.dmaReadCompletion p id data) s =
      .next (let t := s.modPort p fun x => { x with reads := x.reads.erase e }
        if e.2.half = portHalf p then t.landed p e.2 data
        else if t.linkUp = true then t.send (portHalf p) (.dma (.response p e.2 data))
        else t.forwardLost (.response p e.2 data)) := by
  change execDmaReadCompletion p id data s = _
  unfold execDmaReadCompletion
  simp only [he, hact, if_neg hb]
  refine congrArg Host.Outcome.next (if_neg ?_)
  obtain h | h := hfirst
  · simp [h]
  · simp [h]

/-! ### The compression engine -/

/-- The state in which the engine has handed over its result, with a corrected error counted. -/
def State.handedOver (s : State) (h : Half) (e : Ecc) : State :=
  let t := (s.cmpPick h).modCmp h fun c => { c with cur := none }
  if e = .corrected then t.count .CMP_ECC_CORRECTED h 0 else t

section
variable {h : Half} {body : List Byte} {e : Ecc} {u : CmpUser} {s : State}
variable (hu : ((s.cmpPick h).cmpOf h).cur = some u) (hform : (s.cmpPick h).encodes h u = false ∨ encoderForm body = true)
include hu hform

/-- A result in the encoder's form, or of a user that takes any, goes to that user. -/
theorem skeinDone_taken :
    exec (.skeinDone h body e) s =
      .next (let t := s.handedOver h e
        let bad := e == .uncorrectable
        let names : Names := match u with
          | .stream q => { runs := t.runOfQueue q, parts := (t.ownQueue q).toList }
          | .pack r => { runs := (match (t.ring r).shut with | some p => p.runs | none => []), parts := (t.ringOwner r).toList }
          | .job tag => { parts := ((t.cmpOf h).jobs.filter fun (j : CmpJob) => j.tag == tag).map (·.part) }
        let w := if bad then t.occur h 0x152 names else t
        (match u with
          | .stream q => w.streamStep h q bad
          | .pack r => w.packStep h r body bad
          | .job tag =>
            match (w.cmpOf h).jobs.find? fun (j : CmpJob) => j.tag == tag with | some j => w.jobStep h j body bad | none => w).cmpPick h) := by
  have hok : ¬ ((s.cmpPick h).encodes h u = true ∧ (!encoderForm body) = true) := by
    rintro ⟨h1, h2⟩
    obtain h3 | h3 := hform
    · exact ne_true_of_eq_false h3 h1
    · simp [h3] at h2
  change execSkeinDone h body e s = _
  unfold execSkeinDone
  simp only [hu, if_neg hok]
  cases u <;> rfl
end

/-- An open skein past its flush time shuts. -/
theorem skeinFlushTimeout_due {r : RingIx} {s : State} (h0 : 0 < (s.ring r).pack.count) (hsh : (s.ring r).shut = none)
    (hdue : (s.ring r).pack.first + 20000 * max 1 (s.reg .SKEIN_FLUSH (portHalf (s.ring r).port)).toNat ≤
      s.now (portHalf (s.ring r).port)) :
    exec (.skeinFlushTimeout r) s = .next ((s.shutPack r).cmpPick (portHalf (s.ring r).port)) :=
  congrArg Host.Outcome.next (if_pos ⟨h0, hsh, hdue⟩)

/-- Settles O53: a record's cases are those of its ring (open, shut or finished skein, loss), and the engine's those of its user. -/
theorem completionsAndRecordsAct : Obligations.CompletionsAndRecordsAct := by
  unfold Obligations.CompletionsAndRecordsAct
  intro h p r tag s
  refine ⟨?completion, fun w hw hst => recordWrite_disabled hw hst, ?record,
    fun w k hw hst hh hl hk hs => recordWrite_stranded hw hst hh hl hk hs,
    fun t hw hst hm hon hz ht => recordWrite_made hw hst hm hon hz ht,
    fun q cls hq hon hz hc hfull => dmaGrant_granted hq hon hz hc hfull,
    fun id data hb => dmaReadCompletion_boot hb, ?read, ?skein,
    fun h0 hsh hdue => skeinFlushTimeout_due h0 hsh hdue⟩
  case completion =>
    intro c status result hc hp hd hr hz
    exact ⟨commandCompletion_lost hc hp hd hr hz, commandCompletion_silent hc hp hd hr hz,
      fun hf hn hst hroom hon hold => commandCompletion_written hc hp hd hr hz hf hn hst hroom hon hold⟩
  case record =>
    intro w t hw hst hh hon hz hx
    refine ⟨?plain, ?loss, ?packed, ?shuts, ?made, ?waits, ?packedFar, ?plainFar⟩
    case plain =>
      exact fun hs hl ht hnear => recordWrite_stored hw hst hh hon hz hx (.inl hs) ((storeRecord_of_plain hs hl).trans ht) hnear
    case loss =>
      exact fun u hs hl hu ht hnear =>
        recordWrite_stored hw hst hh hon hz hx (.inl hs) ((storeRecord_of_loss hs hl hu).trans ht) hnear
    case packed =>
      exact fun hs hm hsh hj hnear =>
        recordWrite_stored hw hst hh hon hz hx (.inr ⟨hm, hsh, hj⟩) (storeRecord_of_skein hs) hnear
    case shuts => exact fun hs hm hsh hj => recordWrite_shuts hw hst hh hon hz hx hs hm hsh hj
    case made => exact fun hs hm => recordWrite_after_made hw hst hh hon hz hx hs hm
    case waits => exact fun hs hm hsh => recordWrite_behind_shut hw hst hh hon hz hx hs hm hsh
    case packedFar =>
      exact fun hs hm hsh hj hfar =>
        recordWrite_crosses hw hst hh hon hz hx (.inr ⟨hs, hm, hsh, hj⟩) (storeRecord_of_skein hs) hfar
    case plainFar =>
      intro hs hl ht hfar
      obtain ⟨t, ht⟩ := Option.isSome_iff_exists.1 ht
      exact recordWrite_crosses hw hst hh hon hz hx (.inl ⟨hs, hl⟩) ((storeRecord_of_plain hs hl).trans ht) hfar
  case read =>
    intro id data e addr hb he hact hfirst
    have hland := dmaReadCompletion_lands hb he hact hfirst
    intro t
    refine ⟨fun hnear => ?_, fun hfar hup => ?_, fun hfar hdown => ?_⟩
    · refine (hland.trans (congrArg Host.Outcome.next (if_pos hnear))).trans ?_
      unfold State.landed
      cases e.2.why <;> rfl
    · exact hland.trans (congrArg Host.Outcome.next ((if_neg hfar).trans (if_pos hup)))
    · exact hland.trans (congrArg Host.Outcome.next ((if_neg hfar).trans (if_neg (ne_true_of_eq_false hdown))))
  case skein =>
    intro body e u hu hform
    have htaken := skeinDone_taken (e := e) hu hform
    refine ⟨fun q hq => ?_, fun r hr => ?_, ?_⟩
    · subst hq
      exact htaken
    · subst hr
      exact htaken
    · intro tag j hj l w hfind
      subst hj
      refine htaken.trans (congrArg (fun x => Host.Outcome.next (State.cmpPick x h)) ?_)
      change (match (w.cmpOf h).jobs.find? (fun j => j.tag == tag) with
        | some j => w.jobStep h j body (e == Ecc.uncorrectable)
        | none => w) = _
      rw [hfind]

end Sys2Proof.Machine
end

section
/-! ## The DOE mailbox: SPDM and IDE key management -/

namespace Sys2Proof.Machine

/-! ### What a request's answer rests on -/

/-- A request whose sender has reached the stage it asks for is answered. -/
theorem staged_of_le {x : Spdm} {n : Nat} {s : State} {k : Unit → State × List Byte} (h : n ≤ x.stage) : x.staged n s k = k () :=
  if_neg (Nat.not_lt.2 h)

/-- A request that is asked acts on the state in which it has been heard: its answer is what `f` says there. -/
theorem next_onRequest {s t : State} {p : Nat} {msg m rsp : List Byte} {y : Option Session} {ver code : Nat} {early : List Byte → Bool}
    {f : State → Option Session → List Byte → State × List Byte} (h : s.asked p msg m y ver code (early m))
    (hf : f (s.heard p y) y m = (t, rsp)) :
    Host.Outcome.next (s.onRequest p msg ver code early f) = (.next (t.respond p y rsp) : Res) := by
  rw [onRequest_of_asked f h, hf]

/-- A request of an earlier stage asks for the same answer, once its sender has reached that stage. -/
theorem next_staged {s t : State} {p n : Nat} {msg m rsp : List Byte} {y : Option Session} {ver code : Nat} {early : List Byte → Bool}
    {k : State → List Byte → Unit → State × List Byte} (h : s.asked p msg m y ver code (early m))
    (hn : n ≤ ((s.heard p y).spdmOf p).stage) (hk : k (s.heard p y) m () = (t, rsp)) :
    Host.Outcome.next (s.onRequest p msg ver code early fun s _ m => (s.spdmOf p).staged n s (k s m)) =
      (.next (t.respond p y rsp) : Res) :=
  next_onRequest h ((staged_of_le hn).trans hk)

/-- Hearing a request changes no more than a session's sequence numbers. -/
theorem heard_ready (s : State) (p : Nat) (y : Option Session) : (s.heard p y).ready = s.ready := by cases y <;> rfl

/-! ### SPDM -/

/-- A discovery request is answered with the entry that it asks for. -/
theorem doeDiscovery_answered {p : Port} {msg b : List Byte} {s : State} (hb : objectParts msg = some (0, b))
    (hr : s.responds p = true) :
    exec (.doeDiscovery p msg) s =
      .next (s.emit (.object p (objectOf 0 (if leField b 0 1 < 3 then leBytes 2 1 ++ leBytes 1 (leField b 0 1) ++ leBytes 1 ((leField b 0 1 + 1) % 3)
        else leBytes 2 0xFFFF ++ leBytes 2 0)))) := by
  change execDoeDiscovery p msg s = _
  unfold execDoeDiscovery
  simp only [hb]
  exact congrArg Host.Outcome.next (if_pos hr)

section
variable {p : Port} {msg m : List Byte} {y : Option Session} {s : State}

/-- One measurement, unsigned, is answered with its block. -/
theorem getMeasurements_one (h : s.asked p msg m y 0x12 0xE0 (leField m 3 1 == 1 || leField m 3 1 == 9))
    (hn : 3 ≤ ((s.heard p y).spdmOf p).stage) (hu : leField m 2 1 % 2 = 0) (hi : leField m 3 1 ∈ measurementIndices) :
    exec (.getMeasurements p msg) s =
      .next (let t := s.heard p y
        let b := t.block (leField m 3 1)
        let rsp := spdmMsg 0x12 0x60 0 0 (leBytes 1 1 ++ leBytes 3 b.length ++ b ++ leBytes 32 (t.free 256).1.toNat ++ leBytes 2 0)
        ((t.free 256).2.modSpdm p fun x => { x with meas := x.meas ++ m ++ rsp }).respond p y rsp) := by
  have h0 : leField m 3 1 ≠ 0 := fun h0 => by rw [h0] at hi; simp [measurementIndices] at hi
  have hff : leField m 3 1 ≠ 255 := fun hff => by rw [hff] at hi; simp [measurementIndices] at hi
  refine next_staged h hn ?_
  simp [h0, hff, hu, hi]

/-- A request of one version in one session, outside the subset, is answered with an error. -/
theorem unsupported_code (hq : s.requestIn p msg = some (m, y)) (hr : s.responds p = true) (hv : leField m 0 1 = 0x12)
    (hready : s.ready = true) (hc : leField m 1 1 ∉ spdmCodes) (hk : isIdeKm m = false) :
    exec (.unsupportedSpdmRequest p msg) s = .next ((s.heard p y).respond p y (spdmError 0x07 (leField m 1 1))) := by
  have h84 : leField m 1 1 ≠ 0x84 := fun h => hc (by rw [h]; decide)
  have hready' := (heard_ready s p y).trans hready
  change execUnsupportedSpdmRequest p msg s = _
  unfold execUnsupportedSpdmRequest
  rw [hq]
  cases y
  · simp_all [State.heard]
  · simp_all [State.heard]

/-- A request of another version is answered with an error. -/
theorem unsupported_version (hq : s.requestIn p msg = some (m, y)) (hr : s.responds p = true) (h84 : leField m 1 1 ≠ 0x84)
    (hv : leField m 0 1 ≠ 0x12) :
    exec (.unsupportedSpdmRequest p msg) s = .next ((s.heard p y).respond p y (spdmError 0x41 0)) := by
  change execUnsupportedSpdmRequest p msg s = _
  unfold execUnsupportedSpdmRequest
  rw [hq]
  cases y
  · simp [State.heard, hr, h84, hv]
  · simp [State.heard, hr, h84, hv]
end

/-- Settles O54: each request is answered by `onRequest_of_asked`, from the state in which it has been heard. -/
theorem spdmRequestsAct : Obligations.SpdmRequestsAct := by
  unfold Obligations.SpdmRequestsAct
  intro p msg m y s t x
  refine ⟨fun b hb hr => doeDiscovery_answered hb hr, fun h => next_onRequest h rfl, fun h hn => next_staged h hn rfl,
    fun h hn => next_staged h hn rfl, fun h hn => next_staged h hn rfl, ?certificate, ?challenge,
    fun h hn hu hi => getMeasurements_one h hn hu hi, ?exchange, ?finish, ?session,
    fun hq hr hv hready hc hk => unsupported_code hq hr hv hready hc hk, fun hq hr h84 hv => unsupported_version hq hr h84 hv⟩
  case certificate =>
    intro h hn h0 hoff
    exact next_staged h hn (if_neg (not_or.2 ⟨not_not_intro h0, Nat.not_le.2 hoff⟩))
  case challenge => exact fun h hn h0 => next_staged h hn (if_neg (not_not_intro h0))
  case exchange =>
    exact fun h hn h0 hfree => next_staged h hn ((if_neg (not_not_intro h0)).trans (if_neg (Nat.not_le.2 hfree)))
  case finish =>
    intro z hz h hdown
    subst hz
    have hnot : ¬ z.up = true := ne_true_of_eq_false hdown
    exact ⟨fun hsig => next_onRequest h ((if_neg hnot).trans (if_pos hsig)),
      fun hsig => next_onRequest h ((if_neg hnot).trans (if_neg hsig))⟩
  case session =>
    intro z hz hup
    subst hz
    refine ⟨fun h => next_onRequest h (if_pos hup), fun h h2 => next_onRequest h ?_, fun h h1 => next_onRequest h ?_,
      fun h => next_onRequest h rfl⟩
    · simp [inSession, hup, h2, t]
    · simp [inSession, hup, h1, t]

/-! ### IDE key management -/

/-- A request of key management over a session that is up acts on the state in which it has been heard. -/
theorem ideRequest_of_asked {p : Nat} {msg m rsp : List Byte} {z : Session} {code : Nat} {s t : State}
    {f : State → List Byte → State × List Byte} (h : s.asked p msg m (some z) 0x12 0xFE false) (hk : isIdeKm m = true)
    (hup : z.up = true) (hc : leField m 12 1 = code) (hf : f (s.heard p (some z)) (m.drop 12) = (t, rsp)) :
    Host.Outcome.next (s.ideRequest p msg code f) = (.next (t.respond p (some z) (ideRsp rsp)) : Res) := by
  unfold State.ideRequest
  rw [h.1]
  have hgo : ¬ ((!isIdeKm m) = true ∨ leField m 12 1 ≠ code) := by simp [hk, hc]
  simp only [if_neg hgo]
  refine next_onRequest h ?_
  simp [inSession, hup, hf]

/-- What the programming of a key leaves, and its answer, by whether the request is bad. -/
def State.programKey (t : State) (p place : Nat) (b : List Byte) (bad : Bool) : State × List Byte :=
  (if bad then t else t.modSpdm p fun x => { x with keys := mset [] x.keys place (slice b 8 40) }, ideAck 3 (if bad then 4 else 0) b)

/-- What the putting of a key in force leaves, and its answer, by whether the key is known. -/
def State.putInForce (t : State) (p stream place : Nat) (b : List Byte) (known : Bool) : State × List Byte :=
  let u := if known then t.modSpdm p fun x => { x with going := (x.going.filter fun n => n != place) ++ [place] } else t
  (if known ∧ (u.spdmOf p).inForce stream then u.modPort p fun x => { x with secure := setBit x.secure stream true } else u,
    ideAck 6 0 b)

/-- Settles O55: each request acts by `ideRequest_of_asked`, and the key it names decides what it changes. -/
theorem ideKeyRequestsAct : Obligations.IdeKeyRequestsAct := by
  unfold Obligations.IdeKeyRequestsAct
  intro p msg m z s t b stream place
  refine ⟨fun i => rfl, fun h hk hup => ⟨fun hc => ideRequest_of_asked h hk hup hc rfl, ?program, ?unknown, ?go, ?stop⟩⟩
  case program =>
    intro hc hs hp hg
    refine ideRequest_of_asked h hk hup hc ?_
    have hp' : (keySet stream 0 ++ keySet stream 1).contains place = true := List.contains_iff_mem.2 hp
    have hg' : (t.spdmOf p).going.contains place = false := by simpa using hg
    have hbad : (!(decide (stream < 2) && (keySet stream 0 ++ keySet stream 1).contains place) || (t.spdmOf p).going.contains place) =
        false := by
      rw [decide_eq_true hs, hp', hg']
      rfl
    exact congrArg (t.programKey p place b) hbad
  case unknown =>
    intro hc hs
    refine ideRequest_of_asked h hk hup hc ?_
    have hbad : (!(decide (stream < 2) && (keySet stream 0 ++ keySet stream 1).contains place) || (t.spdmOf p).going.contains place) =
        true := by
      simp [Nat.not_lt.2 hs]
    exact congrArg (t.programKey p place b) hbad
  case go =>
    intro hc hs hp
    refine ideRequest_of_asked h hk hup hc ?_
    have hknown : (decide (stream < 2) && mget [] (t.spdmOf p).keys place != []) = true := by simp [hs, hp]
    refine (congrArg (t.putInForce p stream place b) hknown).trans ?_
    simp [State.putInForce]
  case stop =>
    intro hc hs
    refine ideRequest_of_asked h hk hup hc (Prod.ext ?_ rfl)
    generalize hu : (t.modSpdm p fun x => { x with going := x.going.filter fun n => n != place, keys := mset [] x.keys place [] }) = u
    refine (congrArg (fun u : State => if stream < 2 ∧ (!(u.spdmOf p).inForce stream) = true then u.ideLeave p stream else u) hu).trans ?_
    cases (u.spdmOf p).inForce stream
    · simp [hs]
    · simp

end Sys2Proof.Machine
end

section
/-! ## The commands of the host's rings: their checks, and the reads of host memory -/

namespace Sys2Proof.Machine

/-! ### A command and its checks -/

/-- A command that a ring takes acts on the state in which it has been accepted. -/
theorem next_accept {r op : Nat} {d : BitVec 512} {f : State → HostCmd → Nat → State} {s t : State} (h : s.takes r op d)
    (ho : opcodes.contains op = true) (hf : f (s.accepted r d) (s.commandOf r d) s.lowestTag = t) :
    Host.Outcome.next (s.accept r op f) = (.next t : Res) :=
  congrArg Host.Outcome.next ((accept_of_takes f h ho).trans hf)

/-- A command whose checks pass does what it does behind them. -/
theorem next_passed {r op : Nat} {d : BitVec 512} {fail : Word64} {l : State → HostCmd → Checks}
    {k : State → HostCmd → Nat → State → State} {s t : State} (h : s.takes r op d) (ho : opcodes.contains op = true)
    (hl : firstStatus (l (s.accepted r d) (s.commandOf r d)) = none)
    (hk : k (s.accepted r d) (s.commandOf r d) s.lowestTag (s.accepted r d) = t) :
    Host.Outcome.next (s.accept r op fun s c tag => s.checked tag fail (l s c) (k s c tag)) = (.next t : Res) :=
  next_accept h ho ((checked_of_none _ hl).trans hk)

/-- The checks of a command that passes hold none that fails. -/
theorem firstStatus_of_passes {s : State} {r : RingIx} {d : BitVec 512} {de : Reads} {op : Nat} {i : Instr} {l : Checks} {fail : Word64}
    (h : s.passes r d de op) (hm : (op, i, l, fail) ∈ (s.accepted r d).hostCommands r (s.commandOf r d) de) : firstStatus l = none :=
  h.2 _ hm rfl

/-- An instruction that takes a command off a ring by opcode and ends it with the first of the checks l that fails. -/
def ChecksFirst (s : State) (r : RingIx) (d : BitVec 512) (x : Nat × Instr × Checks × Word64) : Prop :=
  opcodes.contains x.1 = true ∧ ∃ (f : State → HostCmd → Nat → State) (k : State → State),
    exec x.2.1 s = .next (s.accept r x.1 f) ∧
    f (s.accepted r d) (s.commandOf r d) s.lowestTag = (s.accepted r d).checked s.lowestTag x.2.2.2 x.2.2.1 k

/-- Every command of the rings but CAL_RUN makes its checks first. -/
theorem hostCommands_checksFirst (s : State) (r : RingIx) (d : BitVec 512) (de : Reads) :
    ∀ x ∈ (s.accepted r d).hostCommands r (s.commandOf r d) de, ChecksFirst s r d x := by
  simp only [State.hostCommands, List.forall_mem_cons]
  refine ⟨⟨rfl, _, _, rfl, rfl⟩, ⟨rfl, _, _, rfl, rfl⟩, ⟨rfl, _, _, rfl, rfl⟩, ⟨rfl, _, _, rfl, rfl⟩, ⟨rfl, _, _, rfl, rfl⟩,
    ⟨rfl, _, _, rfl, rfl⟩, ⟨rfl, _, _, rfl, rfl⟩, ⟨rfl, _, _, rfl, rfl⟩, ⟨rfl, _, _, rfl, rfl⟩, ⟨rfl, _, _, rfl, rfl⟩,
    ⟨rfl, _, _, rfl, rfl⟩, ⟨rfl, _, _, rfl, rfl⟩, ⟨rfl, _, _, rfl, rfl⟩, ⟨rfl, _, _, rfl, rfl⟩, ⟨rfl, _, _, rfl, rfl⟩,
    ⟨rfl, _, _, rfl, rfl⟩, ⟨rfl, _, _, rfl, rfl⟩, ⟨rfl, _, _, rfl, rfl⟩, ⟨rfl, _, _, rfl, rfl⟩, ⟨rfl, _, _, rfl, rfl⟩, ?_⟩
  simp

/-- A descriptor of an unknown opcode ends with BAD_DESCRIPTOR. -/
theorem accept_unknown {s : State} {r op : Nat} {d : BitVec 512} (f : State → HostCmd → Nat → State) (h : s.takes r (dField d 0 1) d)
    (ho : opcodes.contains (dField d 0 1) = false) : s.accept r op f = (s.accepted r d).finish s.lowestTag 0x06 0 := by
  obtain ⟨h1, h2, -⟩ := h
  obtain ⟨l, hl⟩ := List.head?_eq_some_iff.1 h1
  have hop : opcodes.contains (s.commandOf r d).op = false := ho
  unfold State.accept
  rw [hl]
  simp only [h2, hop, Bool.not_true, Bool.false_eq_true, false_and, or_self, if_false]

/-! ### CAL_RUN -/

/-- A command keeps its descriptor. -/
theorem commandOf_desc (s : State) (r : Nat) (d : BitVec 512) : (s.commandOf r d).desc = d := rfl

/-- The status with which a CAL_RUN ends before it joins a sequencer, if it does. -/
def State.calRunStatus (t : State) (c : HostCmd) : Option (BitVec 8) :=
  ((firstStatus (calRunChecks c.desc)).or (t.calCheck (dField c.desc 8 1) (dField c.desc 10 2) (some c.part))).or
    (if t.farDown c (calHalf (dField c.desc 8 1) (dField c.desc 10 2)) then some 0x14 else none)

section
variable {s : State} {r : RingIx} {d : BitVec 512} (h : s.takes r 0x30 d)
include h

/-- A CAL_RUN with a check that fails ends with its status. -/
theorem calRun_ends {st : BitVec 8} (ho : (s.accepted r d).calRunStatus (s.commandOf r d) = some st) :
    exec (.calRun r) s =
      .next ((s.accepted r d).calDone (calDoneHalf (s.commandOf r d) (dField d 8 1) (dField d 10 2)) s.lowestTag st) := by
  refine next_accept h rfl ?_
  unfold State.calRunStatus at ho
  simp only [ho]
  rfl

/-- A CAL_RUN whose checks pass joins the sequencer of its target's half. -/
theorem calRun_waits (ho : (s.accepted r d).calRunStatus (s.commandOf r d) = none) :
    exec (.calRun r) s =
      .next ((s.accepted r d).modCal (calHalf (dField d 8 1) (dField d 10 2)) fun x =>
        { x with waiting := x.waiting ++ [⟨s.lowestTag, dField d 8 1, dField d 10 2⟩] }) := by
  refine next_accept h rfl ?_
  unfold State.calRunStatus at ho
  simp only [ho]
  rfl

/-- A CAL_RUN of a malformed descriptor. -/
theorem calRun_malformed (hz : zeroBut d [(8, 1), (10, 2)] = false) :
    exec (.calRun r) s =
      .next ((s.accepted r d).calDone (calDoneHalf (s.commandOf r d) (dField d 8 1) (dField d 10 2)) s.lowestTag 0x06) :=
  calRun_ends h (by simp [State.calRunStatus, firstStatus, calRunChecks, commandOf_desc, hz])

variable (hz : zeroBut d [(8, 1), (10, 2)] = true)
include hz

/-- A well-formed CAL_RUN that a check of R394 refuses. -/
theorem calRun_refused {st : BitVec 8}
    (hc : (s.accepted r d).calCheck (dField d 8 1) (dField d 10 2) (some (s.commandOf r d).part) = some st) :
    exec (.calRun r) s =
      .next ((s.accepted r d).calDone (calDoneHalf (s.commandOf r d) (dField d 8 1) (dField d 10 2)) s.lowestTag st) :=
  calRun_ends h (by simp [State.calRunStatus, firstStatus, calRunChecks, commandOf_desc, hz, hc])

variable (hc : (s.accepted r d).calCheck (dField d 8 1) (dField d 10 2) (some (s.commandOf r d).part) = none)
include hc

/-- A CAL_RUN whose target is out of reach over the die link. -/
theorem calRun_unreachable (hf : (s.accepted r d).farDown (s.commandOf r d) (calHalf (dField d 8 1) (dField d 10 2)) = true) :
    exec (.calRun r) s =
      .next ((s.accepted r d).calDone (calDoneHalf (s.commandOf r d) (dField d 8 1) (dField d 10 2)) s.lowestTag 0x14) :=
  calRun_ends h (by simp [State.calRunStatus, firstStatus, calRunChecks, commandOf_desc, hz, hc, hf])

/-- A CAL_RUN that passes joins the sequencer of its target's half. -/
theorem calRun_joins (hf : (s.accepted r d).farDown (s.commandOf r d) (calHalf (dField d 8 1) (dField d 10 2)) = false) :
    exec (.calRun r) s =
      .next ((s.accepted r d).modCal (calHalf (dField d 8 1) (dField d 10 2)) fun x =>
        { x with waiting := x.waiting ++ [⟨s.lowestTag, dField d 8 1, dField d 10 2⟩] }) :=
  calRun_waits h (by simp [State.calRunStatus, firstStatus, calRunChecks, commandOf_desc, hz, hc, hf])
end

/-- Settles O56: every command but CAL_RUN makes its checks first (`hostCommands_checksFirst`), and CAL_RUN's cases are its checks'. -/
theorem commandsEndAtTheFirstFailedCheck : Obligations.CommandsEndAtTheFirstFailedCheck := by
  unfold Obligations.CommandsEndAtTheFirstFailedCheck
  intro r d de s t c g
  refine ⟨?checked, ?calibration, ?unknown⟩
  case checked =>
    intro op i l fail st hm ht hl
    obtain ⟨ho, f, k, hexec, hf⟩ := hostCommands_checksFirst s r d de _ hm
    exact hexec.trans (next_accept ht ho (hf.trans (checked_of_some k hl)))
  case calibration =>
    exact fun ht => ⟨fun hz => calRun_malformed ht hz, fun st hz hc => calRun_refused ht hz hc,
      fun hz hc hf => calRun_unreachable ht hz hc hf⟩
  case unknown =>
    intro i hi ht ho
    obtain rfl | ⟨x, hm, rfl⟩ := hi
    · exact congrArg Host.Outcome.next (accept_unknown _ ht ho)
    · obtain ⟨-, f, k, hexec, -⟩ := hostCommands_checksFirst s r d de x hm
      exact hexec.trans (congrArg Host.Outcome.next (accept_unknown f ht ho))

end Sys2Proof.Machine
end

section
/-! ## Loads and jobs of the rings -/

namespace Sys2Proof.Machine

/-! ### The reads of host memory (R458) -/

/-- A command whose source the region check lets it read in part asks for that part, and the denial is raised. -/
theorem source_of_partial {s : State} {c : HostCmd} {tag addr n h cls : Nat} {fail : Word64}
    (h0 : 0 < s.allowed c.port c.part addr n false) (hn : s.allowed c.port c.part addr n false < n) :
    s.source c tag addr n h cls fail =
      ((s.denied c.port c.part .none).modCmd tag fun x => { x with reading := true, short := true }).dmaRead c.port
        (cmdReq c.part tag h cls) addr (s.allowed c.port c.part addr n false) := by
  unfold State.source
  simp only [if_pos hn, if_neg (Nat.ne_of_gt h0), decide_eq_true hn]

/-- A command whose source is refused from its first byte ends. -/
theorem source_of_refused {s : State} {c : HostCmd} {tag addr n h cls : Nat} {fail : Word64} (hn : 0 < n)
    (h0 : s.allowed c.port c.part addr n false = 0) :
    s.source c tag addr n h cls fail = (s.denied c.port c.part .none).finish tag 0x07 fail := by
  unfold State.source
  simp only [h0, if_pos hn, if_true]

section
variable {s : State} {r : RingIx} {d : BitVec 512}

/-- The commands that read host memory, each with its length, the half and class of its requests and the result of its refusal. -/
def State.readers (s : State) (r : RingIx) (d : BitVec 512) : List (Nat × Instr × Nat × Nat × Nat × Word64) :=
  [(0x10, Instr.loadWave r, dField d 32 4, dField d 8 1, 4, (0 : Word64)), (0x11, .loadProg r, dField d 32 4, dField d 8 1, 4, 0),
    (0x12, .loadKernel r, dField d 32 4, dField d 8 1, 4, 0), (0x13, .loadTable r, 292, dField d 8 2 / 64, 4, 0),
    (0x14, .loadSegtab r, 16 * dField d 12 2, dField d 8 1, 4, 0),
    (0x20, .startRun r, dField d 24 4, portHalf (s.commandOf r d).port, 3, refusedResult),
    (0x32, .calWrite r, dField d 24 4, dField d 8 1, 4, 0), (0x38, .compress r, dField d 24 4, dField d 8 1, 4, 0),
    (0x39, .decompress r, dField d 24 4, dField d 8 1, 4, 0),
    (0x40, .cfgBatch r, 8 * dField d 24 4, portHalf (s.commandOf r d).port, 3, 0)]

/-- An instruction that reads its source once its checks have passed. -/
def ReadsSource (s : State) (r : RingIx) (d : BitVec 512) (x : Nat × Instr × Nat × Nat × Nat × Word64) : Prop :=
  s.passes r d {} x.1 → exec x.2.1 s =
    .next ((s.accepted r d).source (s.commandOf r d) s.lowestTag (dField d 16 8) x.2.2.1 x.2.2.2.1 x.2.2.2.2.1 x.2.2.2.2.2)

/-- Each of the commands that read host memory reads its source. -/
theorem readers_readSource : ∀ x ∈ s.readers r d, ReadsSource s r d x := by
  have passed {op : Nat} {i : Instr} {l : Checks} {fail : Word64} (h : s.passes r d {} op)
      (hm : (op, i, l, fail) ∈ (s.accepted r d).hostCommands r (s.commandOf r d) {}) : firstStatus l = none :=
    firstStatus_of_passes h hm
  simp only [State.readers, List.forall_mem_cons]
  refine ⟨fun h => ?_, fun h => ?_, fun h => ?_, fun h => ?_, fun h => ?_, fun h => ?_, fun h => ?_, fun h => ?_, fun h => ?_,
    fun h => ?_, by simp⟩
  · exact next_passed h.1 rfl (passed (i := .loadWave r) (fail := 0) h (by simp [State.hostCommands])) rfl
  · exact next_passed h.1 rfl (passed (i := .loadProg r) (fail := 0) h (by simp [State.hostCommands])) rfl
  · exact next_passed h.1 rfl (passed (i := .loadKernel r) (fail := 0) h (by simp [State.hostCommands])) rfl
  · exact next_passed h.1 rfl (passed (i := .loadTable r) (fail := 0) h (by simp [State.hostCommands])) rfl
  · exact next_passed h.1 rfl (passed (i := .loadSegtab r) (fail := 0) h (by simp [State.hostCommands])) rfl
  · exact next_passed h.1 rfl (passed (i := .startRun r) (fail := refusedResult) h (by simp [State.hostCommands])) rfl
  · exact next_passed h.1 rfl (passed (i := .calWrite r) (fail := 0) h (by simp [State.hostCommands])) rfl
  · exact next_passed h.1 rfl (passed (i := .compress r) (fail := 0) h (by simp [State.hostCommands])) rfl
  · exact next_passed h.1 rfl (passed (i := .decompress r) (fail := 0) h (by simp [State.hostCommands])) rfl
  · exact next_passed h.1 rfl (passed (i := .cfgBatch r) (fail := 0) h (by simp [State.hostCommands])) rfl
end

/-! ### The last of the data has come -/

section
variable {s : State} {g : Nat} {data : List Byte} {c : HostCmd} (h : s.comes g data c)
include h

/-- With the last of its data, a command goes on as it is, in the state in which the data has come. -/
theorem dataIn_of_comes :
    ∃ u : State, s.dataIn g data = u.resume g ∧ mget none u.cmds g = some c ∧
      u.modCmd g (fun x => { x with reading := false, data := [] }) = s.came g data := by
  obtain ⟨x, hx, hr, hw, rfl⟩ := h
  have hcmd : mget none (s.modCmd g fun c => if c.reading then { c with data := c.data ++ data } else c).cmds g =
      some { x with data := x.data ++ data } := by
    refine (mget_mset_self _ _ _ _).trans ?_
    rw [hx]
    simp [hr]
  refine ⟨_, ?_, hcmd, rfl⟩
  have hwait : (s.modCmd g fun c => if c.reading then { c with data := c.data ++ data } else c).accessWaits
      (fun q => q.why == .data g) = false := hw
  unfold State.dataIn
  simp only [hcmd, hr, hwait]
  rfl

/-- What each command does with its data. -/
theorem dataIn_load (ho : c.op ∈ [0x10, 0x11, 0x12]) : s.dataIn g data = (s.came g data).loaded c g := by
  obtain ⟨u, hu, hc, hcame⟩ := dataIn_of_comes h
  rw [hu, ← hcame]
  simp only [List.mem_cons, List.not_mem_nil, or_false] at ho
  unfold State.resume
  obtain ho | ho | ho := ho
  · simp only [hc, ho]
  · simp only [hc, ho]
  · simp only [hc, ho]

theorem dataIn_table (ho : c.op = 0x13) : s.dataIn g data = (s.came g data).tableLoaded c g := by
  obtain ⟨u, hu, hc, hcame⟩ := dataIn_of_comes h
  rw [hu, ← hcame]
  simp only [State.resume, hc, ho]

theorem dataIn_segtab (ho : c.op = 0x14) : s.dataIn g data = (s.came g data).segtabLoaded c g := by
  obtain ⟨u, hu, hc, hcame⟩ := dataIn_of_comes h
  rw [hu, ← hcame]
  simp only [State.resume, hc, ho]

theorem dataIn_run (ho : c.op = 0x20) : s.dataIn g data = (s.came g data).startLoaded c g := by
  obtain ⟨u, hu, hc, hcame⟩ := dataIn_of_comes h
  rw [hu, ← hcame]
  simp only [State.resume, hc, ho]

theorem dataIn_calibration (ho : c.op = 0x32) : s.dataIn g data = (s.came g data).calLoaded c g := by
  obtain ⟨u, hu, hc, hcame⟩ := dataIn_of_comes h
  rw [hu, ← hcame]
  simp only [State.resume, hc, ho]

theorem dataIn_job (ho : c.op = 0x38 ∨ c.op = 0x39) : s.dataIn g data = (s.came g data).cmpLoaded c g := by
  obtain ⟨u, hu, hc, hcame⟩ := dataIn_of_comes h
  rw [hu, ← hcame]
  obtain ho | ho := ho
  · simp only [State.resume, hc, ho]
  · simp only [State.resume, hc, ho]

theorem dataIn_batch (ho : c.op = 0x40) : s.dataIn g data = (s.came g data).batchLoaded c g := by
  obtain ⟨u, hu, hc, hcame⟩ := dataIn_of_comes h
  rw [hu, ← hcame]
  simp only [State.resume, hc, ho]
end

section
variable {t : State} {c : HostCmd} {g : Nat}

/-- The job of a COMPRESS, and of a DECOMPRESS, waits for its half's engine. -/
theorem cmpLoaded_compress (ho : c.op = 0x38) (hon : t.cmpOn (dField c.desc 8 1) = true) :
    t.cmpLoaded c g = ((t.jobIn (dField c.desc 8 1)
      { tag := g, part := c.part, port := c.port, kind := .compress (dField c.desc 10 1 == 1), data := c.data,
        left := dField c.desc 24 4, dst := dField c.desc 32 8, cap := dField c.desc 40 4 }).jobSettle (dField c.desc 8 1) g).cmpPick
          (dField c.desc 8 1) := by
  simp [State.cmpLoaded, ho, hon]

theorem cmpLoaded_decompress (ho : c.op = 0x39) (hon : t.cmpOn (dField c.desc 8 1) = true) :
    t.cmpLoaded c g = ((t.jobIn (dField c.desc 8 1)
      { tag := g, part := c.part, port := c.port, kind := .decompress, data := c.data,
        left := dField c.desc 24 4, dst := dField c.desc 32 8, cap := dField c.desc 40 4 }).jobSettle (dField c.desc 8 1) g).cmpPick
          (dField c.desc 8 1) := by
  simp [State.cmpLoaded, ho, hon]
end

/-- Settles O57: a command that reads host memory goes by what the region check lets it read, and its load by `dataIn_of_comes`. -/
theorem loadsAndJobsAct : Obligations.LoadsAndJobsAct := by
  unfold Obligations.LoadsAndJobsAct
  refine ⟨?issued, ?loaded⟩
  case issued =>
    intro r d s t c g
    refine ⟨fun h => ?nop, fun h => ?fence, ?source⟩
    case nop => exact next_passed h.1 rfl (firstStatus_of_passes h (i := .cmdNop r) (fail := 0) (by simp [State.hostCommands])) rfl
    case fence => exact next_passed h.1 rfl (firstStatus_of_passes h (i := .fence r) (fail := 0) (by simp [State.hostCommands])) rfl
    case source =>
      intro op i n h cls fail hm hp addr a q
      have hread := readers_readSource _ hm hp
      exact ⟨fun hn ha => hread.trans (congrArg Host.Outcome.next (source_of_allowed hn ha)),
        fun h0 hn => hread.trans (congrArg Host.Outcome.next (source_of_partial h0 hn)),
        fun hn h0 => hread.trans (congrArg Host.Outcome.next (source_of_refused hn h0))⟩
  case loaded =>
    intro s g data c hcome t d h lost
    refine ⟨?load, ?table, ?segments, ?jobs⟩
    case load =>
      intro ho m base
      exact ⟨fun hs => (dataIn_load hcome ho).trans (if_neg hs), fun hs => (dataIn_load hcome ho).trans (if_pos hs)⟩
    case table =>
      intro ho n ins l
      exact ⟨fun st hl => (dataIn_table hcome ho).trans (checked_of_some _ hl),
        fun hl => (dataIn_table hcome ho).trans (checked_of_none _ hl)⟩
    case segments =>
      intro ho k n l
      have hchecks : (s.came g data).segChecks c = l := rfl
      rw [dataIn_segtab hcome ho]
      unfold State.segtabLoaded
      rw [hchecks]
      exact ⟨fun st hl => checked_of_some _ hl, fun hl => checked_of_none _ hl⟩
    case jobs =>
      intro op kind hm ho
      simp only [List.mem_cons, Prod.mk.injEq, List.not_mem_nil, or_false] at hm
      refine ⟨fun hoff => ?_, fun hon => ?_⟩
      · have hop : c.op = 0x38 ∨ c.op = 0x39 := hm.elim (fun hm => .inl (ho.trans hm.1)) fun hm => .inr (ho.trans hm.1)
        exact (dataIn_job hcome hop).trans (if_pos (congrArg not hoff))
      · obtain ⟨rfl, rfl⟩ | ⟨rfl, rfl⟩ := hm
        · exact (dataIn_job hcome (.inl ho)).trans (cmpLoaded_compress ho hon)
        · exact (dataIn_job hcome (.inr ho)).trans (cmpLoaded_decompress ho hon)

end Sys2Proof.Machine
end

section
/-! ## The service commands of the rings -/

namespace Sys2Proof.Machine

/-! ### READ_STATE -/

/-- The corrected errors that a READ_STATE met are counted where its memory's block counts them. -/
theorem readCorrected_eq (s : State) (sel h n : Nat) :
    s.readCorrected sel h n =
      if sel = 2 then s.count .RDO_ECC_CORRECTED h 0 n else if sel = 3 then s.count .DSP_ECC_CORRECTED h 0 n else s := by
  unfold State.readCorrected
  split
  · rfl
  · rfl
  next h2 h3 => rw [if_neg h2, if_neg h3]

section
variable {s : State} {r : RingIx} {d : BitVec 512} {de : Reads} (h : s.passes r d de 0x41)
include h

/-- A READ_STATE of registers writes what the reads answer. -/
theorem readState_registers (hsel : dField d 9 1 = 4) :
    exec (.readState r de) s =
      .next ((((s.accepted r d).readBar (s.commandOf r d).port (dField d 32 4 / 4) (dField d 24 8)).2).cmdWrite (s.commandOf r d)
        s.lowestTag (dField d 16 8) (portHalf (s.commandOf r d).port)
        ((s.accepted r d).readBar (s.commandOf r d).port (dField d 32 4 / 4) (dField d 24 8)).1 0x00) :=
  next_passed h.1 rfl (firstStatus_of_passes h (i := .readState r de) (fail := 0) (by simp [State.hostCommands])) (if_pos hsel)

/-- The bytes of the memory that a READ_STATE names. -/
def stateBytes (t : State) (d : BitVec 512) : List Byte :=
  t.read (memOf (dField d 9 1)) (dField d 8 1) ((if dField d 9 1 = 3 then 262144 * dField d 10 1 else 0) + dField d 24 8) (dField d 32 4)

/-- A READ_STATE of a memory writes its bytes, up to the first word with an uncorrectable error. -/
theorem readState_memory (hsel : dField d 9 1 ≠ 4) :
    exec (.readState r de) s =
      .next (let u := (s.accepted r d).readCorrected (dField d 9 1) (dField d 8 1) de.corrected
        match de.bad with
        | some k => u.cmdWrite (s.commandOf r d) s.lowestTag (dField d 16 8) (dField d 8 1) ((stateBytes (s.accepted r d) d).take k)
            (if k < dField d 32 4 then 0x12 else 0x00)
        | none => u.cmdWrite (s.commandOf r d) s.lowestTag (dField d 16 8) (dField d 8 1) (stateBytes (s.accepted r d) d) 0x00) :=
  next_passed h.1 rfl (firstStatus_of_passes h (i := .readState r de) (fail := 0) (by simp [State.hostCommands])) (if_neg hsel)

/-- Of a memory without an uncorrectable error all bytes are written. -/
theorem readState_sound (hsel : dField d 9 1 ≠ 4) (hbad : de.bad = none) :
    exec (.readState r de) s =
      .next (((s.accepted r d).readCorrected (dField d 9 1) (dField d 8 1) de.corrected).cmdWrite (s.commandOf r d) s.lowestTag
        (dField d 16 8) (dField d 8 1) (stateBytes (s.accepted r d) d) 0x00) := by
  rw [readState_memory h hsel]
  simp only [hbad]

/-- Of a memory with an uncorrectable word the bytes before it are written. -/
theorem readState_broken {k : Nat} (hsel : dField d 9 1 ≠ 4) (hbad : de.bad = some k) :
    exec (.readState r de) s =
      .next (((s.accepted r d).readCorrected (dField d 9 1) (dField d 8 1) de.corrected).cmdWrite (s.commandOf r d) s.lowestTag
        (dField d 16 8) (dField d 8 1) ((stateBytes (s.accepted r d) d).take k) (if k < dField d 32 4 then 0x12 else 0x00)) := by
  rw [readState_memory h hsel]
  simp only [hbad]
end

/-! ### CAL_WRITE, once its blob has come -/

section
variable {t : State} {c : HostCmd} {g : Nat}

/-- A blob that came in part is refused. -/
theorem calLoaded_short (hs : c.short = true) : t.calLoaded c g = t.finish g 0x07 0 := if_pos hs

variable (hs : c.short = false)
include hs

/-- An implausible blob is counted and raises CAL_FAIL. -/
theorem calLoaded_implausible (hb : t.blobCheck (dField c.desc 8 1) c.part c.data = some 0x0B) :
    t.calLoaded c g = ((t.count .CAL_IMPLAUSIBLE_COUNT (dField c.desc 8 1) 0).occur (dField c.desc 8 1) 0x110
      { parts := [c.part] }).finish g 0x0B 0 := by
  unfold State.calLoaded
  simp only [hs, hb]
  rfl

/-- A blob that fails another check only ends the command. -/
theorem calLoaded_refused {st : BitVec 8} (hst : st ≠ 0x0B) (hb : t.blobCheck (dField c.desc 8 1) c.part c.data = some st) :
    t.calLoaded c g = t.finish g st 0 := by
  unfold State.calLoaded
  simp only [hs, hb, if_neg hst]
  rfl

/-- A sound blob is applied record by record, and its completion waits for the row boundary. -/
theorem calLoaded_applied (hb : t.blobCheck (dField c.desc 8 1) c.part c.data = none) :
    t.calLoaded c g = (t.forEach (blobRecords c.data (leField c.data 12 4)) fun t x => t.blobApply (dField c.desc 8 1) x).modCal
      (dField c.desc 8 1) fun x =>
        { x with posts := x.posts ++ [{ tag := g, run := false, result := BitVec.ofNat 64 (leField c.data 12 4) }] } := by
  unfold State.calLoaded
  simp only [hs, hb]
  rfl
end

/-- Settles O58: each command acts behind its checks (`next_passed`), CAL_WRITE and CFG_BATCH once their data has come. -/
theorem serviceCommandsAct : Obligations.ServiceCommandsAct := by
  unfold Obligations.ServiceCommandsAct
  refine ⟨?issued, ?loaded⟩
  case issued =>
    intro r d s t c g h
    refine ⟨fun ht hz hc hf => calRun_joins ht hz hc hf, fun hp => ?calRead, ?readState, fun hp => ?timeArm,
      fun hp => ?timeStep⟩
    case calRead =>
      exact next_passed hp.1 rfl (firstStatus_of_passes hp (i := .calRead r) (fail := 0) (by simp [State.hostCommands])) rfl
    case readState =>
      intro de hp sel base bytes u
      have hu : t.readCorrected sel h de.corrected = u := readCorrected_eq t sel h de.corrected
      exact ⟨fun hsel => readState_registers hp hsel, fun hsel hbad => hu ▸ readState_sound hp hsel hbad,
        fun k hsel hbad => hu ▸ readState_broken hp hsel hbad⟩
    case timeArm =>
      exact next_passed hp.1 rfl (firstStatus_of_passes hp (i := .timeArm r) (fail := 0) (by simp [State.hostCommands])) rfl
    case timeStep =>
      exact next_passed hp.1 rfl (firstStatus_of_passes hp (i := .timeStep r) (fail := 0) (by simp [State.hostCommands])) rfl
  case loaded =>
    intro s g data c hcome t h
    refine ⟨fun ho => ?calibration, fun ho => dataIn_batch hcome ho⟩
    have hdata := dataIn_calibration hcome ho
    exact ⟨fun hs => hdata.trans (calLoaded_short hs), fun hs hb => hdata.trans (calLoaded_implausible hs hb),
      fun st hs hst hb => hdata.trans (calLoaded_refused hs hst hb), fun hs hb => hdata.trans (calLoaded_applied hs hb)⟩

end Sys2Proof.Machine
end

section
/-! ## The run, stream and swatch commands of the rings -/

namespace Sys2Proof.Machine

/-! ### START_RUN, once its run descriptor has come -/

section
variable {t : State} {c : HostCmd} {g : Nat}

/-- A START_RUN with a check that fails is refused. -/
theorem startLoaded_refused {st : BitVec 8} (hl : firstStatus (t.runChecks c) = some st) :
    t.startLoaded c g = t.finish g st refusedResult := by
  unfold State.startLoaded
  exact checked_of_some _ hl

/-- The number of a run that is accepted, its lead, and the rows to its network time. -/
def State.newRun (t : State) : Nat := t.freeRunNo.getD 0
def State.runLead (t : State) (c : HostCmd) : Nat := t.startLead ((runDesc c.data).threads.map (·.thread))
def State.runRows (t : State) (c : HostCmd) : Nat := t.ntRows 0 (ntTime (dField c.desc 32 6) (dField c.desc 40 4) 0)

variable (hl : firstStatus (t.runChecks c) = none)
include hl

/-- An immediate run's T0 is fixed with its acceptance. -/
theorem startLoaded_immediate (hm : dField c.desc 8 1 = 0) :
    t.startLoaded c g =
      (t.setRun t.newRun c g (runDesc c.data) .immediate).fixT0 t.newRun (leadTime (t.now 0) (t.runLead c)) := by
  unfold State.startLoaded
  simp only [checked_of_none _ hl, hm]
  rfl

/-- A run at a network time makes the checks of that time first. -/
theorem startLoaded_timed (hm : dField c.desc 8 1 = 1) :
    t.startLoaded c g = t.checked g refusedResult (t.ntChecks (t.runRows c) (t.runLead c) 0x0F) fun s =>
      (s.setRun t.newRun c g (runDesc c.data) .networkTime).fixT0 t.newRun (32 * (s.row 0 + t.runRows c)) := by
  unfold State.startLoaded
  simp only [checked_of_none _ hl, hm]
  rfl

/-- A run on an event selects its channel. -/
theorem startLoaded_onEvent (hm : dField c.desc 8 1 = 2) :
    t.startLoaded c g = (t.setRun t.newRun c g (runDesc c.data) .onEvent).selectStart t.newRun (dField c.desc 10 2) := by
  unfold State.startLoaded
  simp only [checked_of_none _ hl, hm]
  rfl
end

/-! ### STOP_RUN, STRM_ATTACH, SWATCH_START and SWATCH_STOP, once their checks pass -/

section
variable {s : State} {r : RingIx} {d : BitVec 512}

/-- What STOP_RUN does, by the run that it names. -/
def State.runStopped (t : State) (g : Nat) : Option Nat → State
  | some u => if t.committed u then t.finish g 0x01 0 else (t.stopRun u 0x02 false).finish g 0 0
  | none => t.finish g 0x01 0

/-- STOP_RUN stops the run of its USER_ID, unless there is none or it has committed. -/
theorem stopRun_passed (h : s.passes r d {} 0x21) {o : Option Nat}
    (ho : (s.accepted r d).runByUser (s.commandOf r d).part (BitVec.ofNat 32 (dField d 8 4)) = o) :
    exec (.stopRun r) s = .next ((s.accepted r d).runStopped s.lowestTag o) := by
  refine next_passed h.1 rfl (firstStatus_of_passes h (i := .stopRun r) (fail := 0) (by simp [State.hostCommands])) ?_
  simp only [commandOf_desc, ho]
  cases o
  · rfl
  · rfl

/-- STRM_ATTACH drops the reads of the queue's stream, and detaches or attaches. -/
theorem strmAttach_passed (h : s.passes r d {} 0x22) :
    exec (.strmAttach r) s =
      .next (let u := (s.accepted r d).dropReads (attachQ d)
        if detaches d then (u.setStream (attachQ d) none).finish s.lowestTag 0 0
        else
          let v := u.setStream (attachQ d)
            (some { ring := dField d 20 4, stage := 4096 * dField d 16 2, size := 4096 * 2 ^ dField d 12 1, ready := true })
          if dField d 9 1 = 1 then v.modCmd s.lowestTag fun x => { x with prefill := some (attachQ d) }
          else v.finish s.lowestTag 0 0) :=
  next_passed h.1 rfl (firstStatus_of_passes h (i := .strmAttach r) (fail := 0) (by simp [State.hostCommands])) rfl

section
variable (h : s.passes r d {} 0x28)
include h

/-- An immediate SWATCH_START arms its engine with its lead. -/
theorem swatchStart_immediate (hm : dField d 9 1 = 0) :
    exec (.swatchStart r) s =
      .next ((s.accepted r d).swatchArm d s.lowestTag (some (leadTime ((s.accepted r d).now (dField d 8 1 / 2)) 64 / 32))) := by
  refine next_passed h.1 rfl (firstStatus_of_passes h (i := .swatchStart r) (fail := 0) (by simp [State.hostCommands])) ?_
  simp only [commandOf_desc, hm]

/-- A SWATCH_START at a network time makes the checks of that time first. -/
theorem swatchStart_timed (hm : dField d 9 1 = 1) :
    exec (.swatchStart r) s =
      .next (let t := s.accepted r d
        let rows := t.ntRows (dField d 8 1 / 2) (ntTime (dField d 16 6) (dField d 24 4) 0)
        t.checked s.lowestTag 0 (t.ntChecks rows 64 0x09) fun t =>
          t.swatchArm d s.lowestTag (some (t.row (dField d 8 1 / 2) + rows))) := by
  refine next_passed h.1 rfl (firstStatus_of_passes h (i := .swatchStart r) (fail := 0) (by simp [State.hostCommands])) ?_
  simp only [commandOf_desc, hm]

/-- A SWATCH_START on an event arms its engine without a row. -/
theorem swatchStart_onEvent (hm : dField d 9 1 = 2) :
    exec (.swatchStart r) s = .next ((s.accepted r d).swatchArm d s.lowestTag none) := by
  refine next_passed h.1 rfl (firstStatus_of_passes h (i := .swatchStart r) (fail := 0) (by simp [State.hostCommands])) ?_
  simp only [commandOf_desc, hm]
end

/-- What SWATCH_STOP does, by the state of its engine. -/
def State.swatchStopped (t : State) (e g : Nat) : CapSt → State
  | .free => t.finish g 0x01 0
  | .armed => t.swatchCancel e g
  | .opened => t.capStop e 0 (some g)
  | .closing => t.modCap e fun x => { x with stopTags := x.stopTags ++ [g] }

/-- SWATCH_STOP goes by the state of its engine. -/
theorem swatchStop_passed (h : s.passes r d {} 0x29) {x : CapSt} (hx : ((s.accepted r d).cap (dField d 8 1)).st = x) :
    exec (.swatchStop r) s = .next ((s.accepted r d).swatchStopped (dField d 8 1) s.lowestTag x) := by
  refine next_passed h.1 rfl (firstStatus_of_passes h (i := .swatchStop r) (fail := 0) (by simp [State.hostCommands])) ?_
  simp only [commandOf_desc, hx]
  cases x
  · rfl
  · rfl
  · rfl
  · rfl
end

/-- Settles O59: each command acts behind its checks, START_RUN once its run descriptor has come (`dataIn_run`). -/
theorem runAndStreamCommandsAct : Obligations.RunAndStreamCommandsAct := by
  unfold Obligations.RunAndStreamCommandsAct
  refine ⟨?loaded, ?issued⟩
  case loaded =>
    intro s g data c hcome ho t d x no lead rows l ch
    have hdata := dataIn_run hcome ho
    refine ⟨fun st hl => hdata.trans (startLoaded_refused hl), fun hl hm => hdata.trans (startLoaded_immediate hl hm),
      fun hl hm => ⟨fun st hn => ?_, fun hn => ?_⟩, fun hl hm => hdata.trans (startLoaded_onEvent hl hm)⟩
    · exact (hdata.trans (startLoaded_timed hl hm)).trans (checked_of_some _ hn)
    · exact (hdata.trans (startLoaded_timed hl hm)).trans (checked_of_none _ hn)
  case issued =>
    intro r d s t c g
    refine ⟨fun h => ⟨fun hu => stopRun_passed (o := none) h hu, fun u hu => stopRun_passed (o := some u) h hu⟩, fun h => ?attach, fun h => ?swatch, fun h =>
      ⟨fun hx => swatchStop_passed (x := .free) h hx, fun hx => swatchStop_passed (x := .armed) h hx,
        fun hx => swatchStop_passed (x := .opened) h hx, fun hx => swatchStop_passed (x := .closing) h hx⟩⟩
    case attach =>
      intro q u v
      have hattach := strmAttach_passed h
      refine ⟨fun hd => hattach.trans (congrArg Host.Outcome.next (if_pos hd)), fun hd hp => ?_, fun hd hp => ?_⟩
      · exact hattach.trans (congrArg Host.Outcome.next ((if_neg (ne_true_of_eq_false hd)).trans (if_neg hp)))
      · exact hattach.trans (congrArg Host.Outcome.next ((if_neg (ne_true_of_eq_false hd)).trans (if_pos hp)))
    case swatch =>
      intro h' rows
      exact ⟨fun hm => swatchStart_immediate h hm,
        fun hm hn => (swatchStart_timed h hm).trans (congrArg Host.Outcome.next (checked_of_none _ hn)),
        fun st hm hn => (swatchStart_timed h hm).trans (congrArg Host.Outcome.next (checked_of_some _ hn)),
        fun hm => swatchStart_onEvent h hm⟩

end Sys2Proof.Machine
end
